-- ==== Sys2Proof/Word.lean ====
section
/-! DEFINITION. Word types of the model: bytes, byte strings, sparse tables and the error-check outcome that the
environment attaches to a read. -/

namespace Sys2Proof

/-- One byte (R8: every multi-byte field is little-endian). -/
abbrev Byte := BitVec 8

/-- A byte string, lowest address first. -/
abbrev Bytes := List Byte

/-- A sparse table: keys strictly rising; an absent key reads as the table's default. -/
abbrev FMap (α : Type) := List (Nat × α)

/-- Outcome of a check code on one access, as the physical world gives it (R120, R190). -/
inductive Ecc where
  | good
  | corrected
  | uncorrectable
  deriving DecidableEq, Repr

/-- The variants of the family (R2). -/
inductive Variant where
  | zx960 | zx940 | zx920 | zx910
  deriving DecidableEq, Repr

end Sys2Proof
end

