-- ==== Sys2Proof/Syntax.lean ====
section
/-! DEFINITION. The commands of the block: one constructor for each row of spec/opcode_table.json, in its order. Bundle
operations carry the cycle they issue in; rows that are events carry what the physical world contributes. -/

namespace Sys2Proof

/-! ### Who sends a mailbox command, and its header (16 R430 to R434, R446) -/

/-- Where a mailbox command comes from: function `k` (0 physical, 1 to 16 virtual) of endpoint `h`, or a management
session. -/
inductive Route where
  | fn (h k : Nat)
  | session (n : Nat)
  deriving DecidableEq, Repr

/-- The header of a mailbox command as the requester wrote it (R431): `doorbell` is the value written to MBX_DOORBELL,
`rsvd` says that a reserved field of the header or of the payload is not 0, and `tee` that the write arrives as a TEE
request on the stream bound to the TDI (R399, R463). -/
structure Envelope where
  route    : Route
  seq      : BitVec 32
  doorbell : BitVec 32
  target   : BitVec 16
  length   : BitVec 16
  tag      : BitVec 64
  rsvd     : Bool
  tee      : Bool
  deriving DecidableEq, Repr

/-! ### Host accesses (17) -/

/-- Virtual function k of endpoint h, or the physical function for k = 0. -/
structure FnId where
  h : Nat
  k : Nat
  deriving DecidableEq, Repr

/-- A DMA descriptor as the host wrote it (R472). -/
structure Descriptor where
  host : BitVec 64
  part : BitVec 64
  length : BitVec 32
  direction : Byte
  phase : Bool
  interrupt : Bool
  /-- a reserved bit of flags or of bytes 22 and 23 is not 0. -/
  rsvd : Bool
  deriving DecidableEq, Repr

/-- How the host side of a descriptor's transfer ended (R473). -/
inductive HostEnd where
  | ok | error
  deriving DecidableEq, Repr

/-- An SPDM request over DOE (R405): the two parameter bytes, the session it travels in, and the bytes after the
header. `good` says that a secured request authenticates under its session's keys. -/
structure SpdmReq where
  h       : Nat
  version : Byte
  p1      : Byte
  p2      : Byte
  session : Option Nat
  good    : Bool
  body    : Bytes
  deriving DecidableEq, Repr

/-! ### Fabric and link operands (09 to 11) -/

/-- A received codeword of RS(544,514): the symbols, 0 to 543, that arrived in error, and whether it has been reported with
a unit before (R270). -/
structure Codeword where
  wrong : List Nat
  seen  : Bool
  deriving DecidableEq, Repr

/-- What comes beside a flow unit (R269, R270): the codewords that hold a bit of it; IDLE units that the elastic buffer has
added and deleted since the unit before. -/
structure UnitObs where
  words : List Codeword
  idleAdded : Nat
  idleDeleted : Nat
  deriving DecidableEq, Repr

/-- A TRAIN message (R295). -/
structure TrainMsg where
  fresh   : Bool
  leader  : Bool
  expect  : BitVec 16
  vcOffer : Nat
  laneMap : BitVec 9
  serial  : BitVec 64
  port    : Nat
  /-- scheduled pools by VC: headers and data units. -/
  sched   : List (Nat × Nat)
  /-- service pool: headers and data units. -/
  serv    : Nat × Nat
  deriving DecidableEq, Repr

/-- A Golre port or a bond link (R286). -/
inductive LinkId where
  | port (q : Nat)
  | bond (b : Nat)
  deriving DecidableEq, Repr

/-- The carried fields of a beacon (R316). -/
structure BeaconMsg where
  jobTag       : BitVec 16
  srcPart      : BitVec 12
  masterPart   : BitVec 12
  hops         : Byte
  locked       : Bool
  holdover     : Bool
  interim      : Bool
  launchValid  : Bool
  txStamp      : BitVec 32
  echoStamp    : BitVec 32
  echoRx       : BitVec 32
  masterOffset : BitVec 32
  frameCount   : BitVec 32
  grid         : BitVec 64
  launch       : BitVec 64
  rate         : BitVec 32
  deriving DecidableEq, Repr

/-! ### Physical observations -/

/-- Dies with temperature sensors (R393). -/
inductive DieKind where
  | compute | sram | stack | fabric
  deriving DecidableEq, Repr

/-- Switched power domains (R383). -/
inductive Domain where
  | host (h : Nat) | fabric (f : Nat) | stack (k : Nat) | sram (k : Nat) | region (r : Nat)
  deriving DecidableEq, Repr

/-- What the part finds at a Shutter that no earlier command fixed: the power average A_1 in W (R389), whether the two
digests of the Exposure before were late (R367), and whether the generators relock in time after a step change (R375). -/
structure ShutterObs where
  a1       : Nat
  lateIn   : Bool
  lateOut  : Bool
  relocked : Bool
  deriving DecidableEq, Repr

/-- What bring-up meets (R481): known-answer tests, signatures of the two firmware images, torn commit records, failing block
positions (region, position) and pseudo-channels (stack, channel), the read-back of a committed write, the MON_EN and FACT_N
straps (true for the level that enables), the step that misses its bound, if any, and whether 48 V stands in range. -/
structure BootObs where
  kat       : Bool
  imageOk   : Bool × Bool
  torn      : Nat
  failing   : List (Nat × Nat)
  channels  : List (Nat × Nat)
  nvm       : Bool
  monEn     : Bool
  factory   : Bool
  missed    : Option Nat
  supply48  : Bool
  deriving DecidableEq, Repr

/-- A line received by the Safelight monitor (R499): its length in characters and its numeric arguments. `fits` says of each
line of the answer whether the output buffer has room for it (R502); lines beyond its end have. -/
structure MonLine where
  len  : Nat
  args : List Nat
  fits : List Bool
  deriving DecidableEq, Repr

/-! ### Operands of the bundle operations (05, 06) -/

/-- What every bundle operation carries: the partition slot, the logical block within the partition, the region cycle
in which its bundle issues, the predicate selector of the header (R123), the check outcome of the bundle's fetch (R120),
and whether a reserved field of the slot's own word is non-zero (R124). -/
structure Issue where
  part  : Nat
  block : Nat
  cycle : Nat
  pred  : BitVec 3
  fetch : Ecc
  rsvd  : Bool
  deriving DecidableEq, Repr

/-- Fields of MMA (R138). -/
structure MmaF where
  cells : BitVec 4
  fmtA  : BitVec 4
  fmtB  : BitVec 4
  arA   : BitVec 4
  arB   : BitVec 4
  arSA  : BitVec 4
  arSB  : BitVec 4
  inc   : Bool
  dodge : Bool
  strip : Bool
  row   : BitVec 7
  arSt  : BitVec 4
  t2pos : BitVec 3
  t2size : BitVec 3
  deriving DecidableEq, Repr

/-- Fields of MMA.DODGE (R145). -/
structure DodgeF where
  cells : BitVec 4
  fmtW  : BitVec 4
  arA   : BitVec 4
  arW   : BitVec 4
  arS   : BitVec 4
  group : BitVec 3
  inc   : Bool
  deriving DecidableEq, Repr

/-- Fields of TANK.READ (R146). -/
structure TankReadF where
  cells : BitVec 4
  fmt   : BitVec 4
  raw   : Bool
  arD   : BitVec 4
  sigma : Bool
  arSigma : BitVec 4
  inc   : Bool
  deriving DecidableEq, Repr

/-- Fields of a V-slot operation (R153). -/
structure VecF where
  vd   : BitVec 6
  va   : BitVec 6
  vb   : BitVec 6
  vc   : BitVec 6
  type : BitVec 4
  km   : BitVec 3
  func : BitVec 8
  imm  : BitVec 16
  deriving DecidableEq, Repr

/-- Fields of LD and ST (R162). -/
structure LdStF where
  vd    : BitVec 6
  ar    : BitVec 4
  cells : BitVec 4
  off   : BitVec 12
  deriving DecidableEq, Repr

/-- Fields of COPY.RC and COPY.CR (R163). -/
structure CopyF where
  port : BitVec 2
  cell : BitVec 2
  arC  : BitVec 4
  arR  : BitVec 4
  n    : BitVec 13
  inc  : Bool
  deriving DecidableEq, Repr

/-- Fields of COPY.RR (R163, R167). -/
structure CopyRRF where
  port  : BitVec 2
  dest  : BitVec 3
  route : BitVec 2
  arS   : BitVec 4
  arD   : BitVec 4
  n     : BitVec 13
  inc   : Bool
  deriving DecidableEq, Repr

/-- Fields of STREAM.IN and STREAM.OUT (R166). -/
structure StreamF where
  pf    : BitVec 2
  entry : BitVec 10
  arH   : BitVec 4
  arR   : BitVec 4
  flag  : BitVec 4
  setFlag : Bool
  inc   : Bool
  deriving DecidableEq, Repr

/-- Fields of COMMIT (R172). -/
structure CommitF where
  port  : BitVec 2
  entry : BitVec 14
  space : Bool
  cell  : BitVec 2
  arSrc : BitVec 4
  inc   : Bool
  deriving DecidableEq, Repr

/-- Fields of CSFILL (R175). -/
structure CsfillF where
  sheet : BitVec 6
  cell  : BitVec 2
  rowSpace : Bool
  arList  : BitVec 4
  arRows  : BitVec 4
  arDin   : BitVec 4
  arDrows : BitVec 4
  arDout  : BitVec 4
  deriving DecidableEq, Repr

/-- What a read of HBM met, as the memory gives it (R166, R191, R202): every line good, some line corrected, a line uncorrectable or
poisoned, a Darkroom tag that does not match, or a line, named by its logical address, for which the stack gives other bytes and
another tag than were written. -/
inductive StreamEnd where
  | good | corrected | uncorrectable | badTag
  | altered (addr : Nat) (line tag : Bytes)
  deriving DecidableEq, Repr
/-- What a Darkslide met at a store or a Tank of its partition, by logical cell or region (04 R120). -/
inductive StoreMeet where
  | tank (cell : Nat)
  | cell (cell : Nat) (rd : Ecc)
  | region (region : Nat) (rd : Ecc)
  deriving DecidableEq, Repr

/-- An operand of a command, with what the reads of HBM that serve the command meet (R190, R191, R202). -/
structure Met (α : Type) where
  val : α
  rd  : StreamEnd
  deriving DecidableEq, Repr

/-- How a Darkslide write ends: whole or not, what its reads of HBM meet, and what it meets at the stores (R361). -/
structure SlideEnd where
  whole : Bool
  rd    : StreamEnd
  met   : List StoreMeet
  deriving DecidableEq, Repr

/-- How a remap ends at a port (R298): the lane-control word, and the flow-unit times a sender lost. -/
structure RemapEnd where
  word : BitVec 32
  lost : Nat
  deriving DecidableEq, Repr

/-- A command of the block. -/
inductive Instr where
  -- Mailbox and session commands (16)
  /-- IDENTIFY. -/
  | identify (e : Envelope)
  /-- PART.STATUS. -/
  | partStatus (e : Envelope)
  /-- LOG.READ: source, max_count, start. -/
  | logRead (e : Envelope) (source maxCount : Byte) (start : BitVec 64)
  /-- RESET of the target partition: kind. -/
  | reset (e : Envelope) (kind : Byte)
  /-- RESET kind 1. -/
  | resetWarm (e : Envelope)
  | own (e : Envelope)
  /-- HANDOVER: target session. -/
  | handover (e : Envelope) (target : BitVec 16)
  | release (e : Envelope)
  | heartbeat (e : Envelope)
  /-- CRED.ENROLL: role, kind, der_length, certificate; `nvm` is the read-back of the committed write (R451). -/
  | credEnroll (e : Envelope) (role kind : Byte) (derLength : BitVec 16) (cert : Bytes) (nvm : Bool)
  /-- CRED.REMOVE: slot. -/
  | credRemove (e : Envelope) (slot : Byte) (nvm : Bool)
  /-- PART.CREATE: tiles, host_die, function, flags. -/
  | partCreate (e : Envelope) (tiles : BitVec 16) (hostDie fn flags : Byte)
  | partDestroy (e : Envelope)
  | scrub (e : Envelope)
  /-- The scrub engine ends its passes; `fail` is the tile whose line failed the verify pass twice. -/
  | scrubPassComplete (part : Nat) (fail : Option Nat)
  /-- REMAP: region, block, direction. -/
  | remap (e : Envelope) (region block direction : Byte) (nvm : Bool)
  /-- DEVELOP: base, length, options. -/
  | develop (e : Envelope) (base : BitVec 64) (length : Met (BitVec 64)) (options : Byte)
  /-- EXPOSE: flags, frames, t_req, seed. -/
  | expose (e : Envelope) (flags : Byte) (frames tReq : BitVec 64) (seed : BitVec 128)
  | halt (e : Envelope)
  /-- EPOCH.STAGE: source, switch_shutter, image_base, image_length. -/
  | epochStage (e : Envelope) (source : Byte) (switch base : BitVec 64) (length : Met (BitVec 64))
  /-- DARKSLIDE: s_t and s_r. -/
  | darkslide (e : Envelope) (st sr : BitVec 64)
  /-- RESUME: form, base, length; `rd` is the outcome of the slices' reads. -/
  | resume (e : Envelope) (form : Byte) (base length : BitVec 64) (rd : StreamEnd)
  /-- EXPORT: the destination's Proof, chain_length and chain. -/
  | exportSlides (e : Envelope) (proof : Met Bytes) (chainLength : BitVec 16) (chain : Bytes)
  /-- PRINT: first and last index. -/
  | print (e : Envelope) (first last : BitVec 64)
  /-- PROOF: the nonce. -/
  | proof (e : Envelope) (nonce : Bytes)
  /-- TIME.SET: value and rate. -/
  | timeSet (e : Envelope) (value : BitVec 64) (rate : BitVec 32)
  /-- TIME.TRIM: signed offset and rate. -/
  | timeTrim (e : Envelope) (value : BitVec 64) (rate : BitVec 32)
  /-- POWER.CAP: class. -/
  | powerCap (e : Envelope) (cls : Byte)
  /-- CABLEPLAN: the 2112-byte plan. -/
  | cableplan (e : Envelope) (plan : Bytes) (nvm : Bool)
  /-- SETTINGS.READ: copy. -/
  | settingsRead (e : Envelope) (copy : Byte)
  /-- SETTINGS.WRITE: the packed entries. -/
  | settingsWrite (e : Envelope) (entries : Bytes)
  | store (e : Envelope) (nvm : Bool)
  /-- FW.STAGE BEGIN: offset, total, chunk_length. -/
  | fwStageBegin (e : Envelope) (offset total chunkLength : BitVec 32)
  /-- FW.STAGE DATA: offset, total, chunk_length, chunk. -/
  | fwStageData (e : Envelope) (offset total chunkLength : BitVec 32) (chunk : Bytes)
  /-- FW.STAGE END: offset, total, chunk_length. -/
  | fwStageEnd (e : Envelope) (offset total chunkLength : BitVec 32)
  | fwCommit (e : Envelope) (nvm : Bool)
  -- Management network (16)
  /-- A TLS connection: the client's certificate chain, leaf first, and whether its handshake succeeds. -/
  | sessionConnect (chain : List Bytes) (handshake : Bool)
  | sessionClose (n : Nat)
  | sessionIdleTimeout (n : Nat)
  | leaseExpiring
  | leaseExpired
  -- Host accesses (17)
  /-- Write to MBX_HALT. -/
  | mbxHalt (f : FnId) (value : BitVec 32)
  /-- Write to HIF_POST; `landed` says that every earlier host write into a posting buffer has landed (R465). -/
  | hifPost (f : FnId) (value : BitVec 32) (tee landed : Bool)
  /-- Write to HIF_CAUSE_MASK. -/
  | hifCauseMask (f : FnId) (value : BitVec 32)
  /-- Write of `size` bytes at a BAR0 offset. -/
  | registerWrite (f : FnId) (off : BitVec 16) (size : Nat) (value : BitVec 64) (tee : Bool)
  /-- Read of `n` bytes at a BAR2 offset; `line` is what the memory delivers. -/
  | bar2Read (f : FnId) (off : BitVec 34) (n : Nat) (tee : Bool) (line : StreamEnd)
  /-- Write at a BAR2 offset. -/
  | bar2Write (f : FnId) (off : BitVec 34) (data : Bytes) (tee : Met Bool)
  | queueEnable (f : FnId) (q : Nat)
  /-- Write of enable = 0: the transfer stops after `data`, the bytes moved so far (R474). -/
  | queueDisable (f : FnId) (q : Nat) (data : Bytes) (line : StreamEnd)
  /-- Doorbell; `d` is the descriptor that stands at head in the ring. -/
  | hifQdoorbell (f : FnId) (q : Nat) (d : Descriptor) (tee : Bool)
  /-- Write to HIF_QBASE_LO (0), HIF_QBASE_HI (1) or HIF_QSIZE (2). -/
  | queueConfigurationWrite (f : FnId) (q : Nat) (reg : Nat) (value : BitVec 32)
  /-- The transfer of the current descriptor ends: bytes read from host memory, how each side ended, and the
  descriptor then at head. -/
  | dmaDescriptorComplete (f : FnId) (q : Nat) (data : Bytes) (host : HostEnd) (line : StreamEnd) (d : Descriptor) (tee : Bool)
  | flrVf (f : FnId)
  /-- Configuration write to the physical function: VF Enable and NumVFs. -/
  | vfEnableClear (h : Nat) (enable : Bool) (numVfs : Nat)
  | flrPf (h : Nat)
  | hotReset (h : Nat)
  -- SPDM, IDE_KM and TDISP (15)
  | getVersion (r : SpdmReq)
  | getCapabilities (r : SpdmReq)
  | negotiateAlgorithms (r : SpdmReq)
  | getDigests (r : SpdmReq)
  | getCertificate (r : SpdmReq)
  | challenge (r : SpdmReq)
  | getMeasurements (r : SpdmReq)
  | keyExchange (r : SpdmReq)
  | finish (r : SpdmReq)
  | spdmHeartbeat (r : SpdmReq)
  | keyUpdate (r : SpdmReq)
  | endSession (r : SpdmReq)
  | chunkSend (r : SpdmReq)
  | chunkGet (r : SpdmReq)
  | spdmUnsupportedRequest (r : SpdmReq)
  /-- IDE_KM QUERY: port index. -/
  | query (r : SpdmReq)
  /-- KEY_PROG: stream, key set, direction and sub-stream, key, initial IV. -/
  | keyProg (r : SpdmReq) (stream : Nat) (set_ : Bool) (sub : Nat) (key : BitVec 256) (iv : BitVec 64)
  | kSetGo (r : SpdmReq) (stream : Nat) (set_ : Bool) (sub : Nat)
  | kSetStop (r : SpdmReq) (stream : Nat) (set_ : Bool) (sub : Nat)
  | getTdispVersion (r : SpdmReq) (fn : Nat)
  | getTdispCapabilities (r : SpdmReq) (fn : Nat)
  /-- LOCK_INTERFACE_REQUEST: the default IDE stream. -/
  | lockInterfaceRequest (r : SpdmReq) (fn : Nat) (stream : Nat)
  /-- GET_DEVICE_INTERFACE_REPORT: offset and length. -/
  | getDeviceInterfaceReport (r : SpdmReq) (fn : Nat) (offset length : Nat)
  | getDeviceInterfaceState (r : SpdmReq) (fn : Nat)
  /-- START_INTERFACE_REQUEST: the nonce of the lock. -/
  | startInterfaceRequest (r : SpdmReq) (fn : Nat) (nonce : Bytes)
  | stopInterfaceRequest (r : SpdmReq) (fn : Nat)
  /-- HELLO received for a developing partition (R412). -/
  | hello (part : Nat) (msg : Bytes)
  | key (part : Nat) (msg : Bytes)
  | reject (part : Nat) (msg : Bytes)
  | keyAgreementTimeout (part : Nat)
  -- Frames (02, 12, 13)
  | shutter (part : Nat) (obs : ShutterObs)
  | inputPostSample (part : Nat)
  /-- The Darkslide write ends, whole or not; what its reads of HBM and of the stores met. -/
  | darkslideWriteEnd (part : Nat) (fin : SlideEnd)
  /-- An in-place restore ends; what its reads of HBM met. -/
  | restoreComplete (part : Met Nat)
  | timedLaunchTakeup (part : Nat)
  -- C slot (05)
  /-- LOOP: end address and immediate count. -/
  | loop (i : Issue) (e : BitVec 13) (n : BitVec 11)
  /-- LOOP.AR: end address and the register that holds the count. -/
  | loopAr (i : Issue) (e : BitVec 13) (ar : BitVec 4)
  /-- WAITCY: cycles to wait. -/
  | waitcy (i : Issue) (n : BitVec 20)
  /-- The wait of a WAITCY of this block has run out in the named cycle. -/
  | waitcyExpiry (part block cycle : Nat)
  /-- WAITTICK. -/
  | waittick (i : Issue)
  /-- HALT: the 8-bit halt code. -/
  | bundleHalt (i : Issue) (code : BitVec 8)
  /-- TANK.BASE: cell mask and signed base exponent. -/
  | tankBase (i : Issue) (cells : BitVec 4) (base : BitVec 10)
  /-- CHKFLAG: flag mask and clear bit. -/
  | chkflag (i : Issue) (mask : BitVec 16) (clear : Bool)
  /-- SYNC.POST: target logical block and token number. -/
  | syncPost (i : Issue) (target : BitVec 10) (token : BitVec 4)
  /-- A posted token reaches its target block in the named cycle of the target's region. -/
  | syncTokenArrival (part block : Nat) (token : BitVec 4) (cycle : Nat)
  /-- SYNC.CHK: token mask and clear bit. -/
  | syncChk (i : Issue) (mask : BitVec 16) (clear : Bool)
  /-- PSET: destination predicate, function and the operand bits [31:14] of the slot. -/
  | pset (i : Issue) (d : BitVec 3) (fn : BitVec 3) (ops : BitVec 18)
  /-- AR.SETLO. -/
  | arSetlo (i : Issue) (d : BitVec 4) (imm : BitVec 16)
  /-- AR.SETHI. -/
  | arSethi (i : Issue) (d : BitVec 4) (imm : BitVec 16)
  /-- AR.ADDI. -/
  | arAddi (i : Issue) (d src : BitVec 4) (imm : BitVec 16)
  /-- AR.ADD. -/
  | arAdd (i : Issue) (d a b : BitVec 4)
  -- M slot (05); `rd` is the check outcome of the cell-store reads, `parity` a Tank parity failure
  | mma (i : Issue) (f : MmaF) (rd : Ecc)
  /-- The landing cycle of contributions on one cell position (0 to 3) of a block is reached. -/
  | tankLanding (part block : Nat) (cell : BitVec 2) (cycle : Nat)
  | mmaDodge (i : Issue) (f : DodgeF) (rd : Ecc)
  | tankRead (i : Issue) (f : TankReadF) (rd : Ecc) (parity : Bool)
  /-- TANK.MERGE: cell mask, register of the raw tile, post-increment. -/
  | tankMerge (i : Issue) (cells : BitVec 4) (ar : BitVec 4) (inc : Bool) (rd : Ecc) (parity : Bool)
  /-- DODGE.SET: cell mask, register of the dodge table, number of channels. -/
  | dodgeSet (i : Issue) (cells : BitVec 4) (ar : BitVec 4) (n : BitVec 9) (rd : Ecc)
  /-- STRIP.CHECK: cell mask, row, threshold entry. -/
  | stripCheck (i : Issue) (cells : BitVec 4) (row : BitVec 7) (entry : BitVec 8)
  -- V slot (06)
  | add (i : Issue) (f : VecF)
  | sub (i : Issue) (f : VecF)
  | mul (i : Issue) (f : VecF)
  | fma (i : Issue) (f : VecF)
  | min (i : Issue) (f : VecF)
  | max (i : Issue) (f : VecF)
  | abs (i : Issue) (f : VecF)
  | neg (i : Issue) (f : VecF)
  | adds (i : Issue) (f : VecF)
  | and (i : Issue) (f : VecF)
  | or (i : Issue) (f : VecF)
  | xor (i : Issue) (f : VecF)
  | shl (i : Issue) (f : VecF)
  | shr (i : Issue) (f : VecF)
  | cmp (i : Issue) (f : VecF)
  | sel (i : Issue) (f : VecF)
  | mov (i : Issue) (f : VecF)
  | movi (i : Issue) (f : VecF)
  | iota (i : Issue) (f : VecF)
  | perm (i : Issue) (f : VecF)
  | klogic (i : Issue) (f : VecF)
  | div (i : Issue) (f : VecF)
  | sqrt (i : Issue) (f : VecF)
  | exp (i : Issue) (f : VecF)
  | exp2 (i : Issue) (f : VecF)
  | log (i : Issue) (f : VecF)
  | log2 (i : Issue) (f : VecF)
  | rcp (i : Issue) (f : VecF)
  | rsqrt (i : Issue) (f : VecF)
  | sin (i : Issue) (f : VecF)
  | cos (i : Issue) (f : VecF)
  | tanh (i : Issue) (f : VecF)
  | sigmoid (i : Issue) (f : VecF)
  | erf (i : Issue) (f : VecF)
  | cvt (i : Issue) (f : VecF)
  | cvtSr (i : Issue) (f : VecF)
  | quant (i : Issue) (f : VecF)
  | deq (i : Issue) (f : VecF)
  | rsum (i : Issue) (f : VecF)
  | rmax (i : Issue) (f : VecF)
  | rmin (i : Issue) (f : VecF)
  | draw (i : Issue) (f : VecF)
  | ld (i : Issue) (f : LdStF) (rd : Ecc)
  | st (i : Issue) (f : LdStF)
  /-- The oldest write-buffer line of one bank of a cell is granted its bank in the named cycle. -/
  | writeBufferDrain (part block : Nat) (cell : BitVec 2) (bank : BitVec 4) (cycle : Nat)
  /-- The block arbiter wakes the gated owner of port F of one cell in the named cycle. -/
  | arbiterWake (part block : Nat) (cell : BitVec 2) (cycle : Nat)
  -- S slot (06)
  | copyRc (i : Issue) (f : CopyF) (rd : Ecc)
  | copyCr (i : Issue) (f : CopyF) (rd : Ecc)
  /-- COPY.RR; `late` says that the data misses the wall time of its stated completion (R167). -/
  | copyRr (i : Issue) (f : CopyRRF) (late : Bool) (rd : Ecc)
  | streamIn (i : Issue) (f : StreamF)
  | streamOut (i : Issue) (f : StreamF)
  /-- The oldest stream of one prefetcher of a block ends, in the named cycle. -/
  | streamComplete (part block : Nat) (pf : BitVec 2) (fin : StreamEnd) (cycle : Nat)
  -- X slot (06)
  | commit (i : Issue) (f : CommitF) (rd : Ecc)
  /-- CHKARR: counter, register of the expected count, clear bit. -/
  | chkarr (i : Issue) (counter : BitVec 4) (ar : BitVec 4) (clear : Bool)
  | csfill (i : Issue) (f : CsfillF) (rd : Ecc)
  -- Fabric (09)
  /-- Slot time `slot` of a port begins. -/
  | slotTime (port slot : Nat)
  /-- The oldest whole packet in a port's receive buffer is processed; `slot` is the slot time in which its last flow unit
  arrived. -/
  | packetArrival (port slot : Nat)
  /-- The oldest checked packet of a partition lands, in the named cycle of the destination region. -/
  | fabricLanding (part cycle : Nat)
  | epochRetire (part : Nat)
  -- Links (10)
  /-- The FEC sublayer delivers a 256-byte flow unit. -/
  | flowUnitReceive (port : Nat) (unit : Bytes) (obs : UnitObs)
  | nak (port : Nat) (e : Met (BitVec 16))
  | nakTimer (port : Nat)
  | replayTimeout (port : Met Nat)
  /-- RETRAIN_REQUEST received: sender's serial, port and reason. -/
  | retrainRequest (port : Nat) (serial : BitVec 64) (far reason : Nat)
  /-- The TRAIN exchange completes: what was received, the RTT in ns, and the lanes that this end receives without fault. -/
  | train (port : Nat) (msg : TrainMsg) (rtt : Nat) (lanes : Met (BitVec 9))
  | cableMismatch (port : Nat)
  | linkDown (port : Nat)
  | trainingAttempt (port : Nat)
  /-- A lane of the receiving direction of a link is declared failed. On a bond link, lanes 0 to 65 are those of one
  direction and 66 to 131 those of the other. -/
  | laneFailure (link : LinkId) (lane : Nat)
  /-- REMAP_REQUEST: the lane-control word that arrives (R271). -/
  | remapRequest (port : Nat) (word : BitVec 32)
  /-- REMAP_DONE: the lane-control word. At the receiver, the spare is then deskewed and the FEC locked. At the sender, whose
  remap is answered, `lost` is the flow-unit times from the first lost unit to the first resent one. -/
  | remapDone (port : Nat) (fin : RemapEnd)
  | creditTimeout (port vc : Nat)
  | serviceWindowLow (port : Nat)
  /-- A spill write has passed its D ungranted, for a number of flow-unit times. -/
  | spillStall (port stall : Nat)
  -- Fabric time (11)
  /-- A beacon received: its message and receive stamp. -/
  | beacon (port : Nat) (msg : BeaconMsg) (rx : BitVec 32)
  | interimBeacon (part : Nat)
  | tickHoldover (part : Nat)
  | masterListenEnd (part : Nat)
  -- Audit time (12)
  | timInc (value : BitVec 32)
  | timStep (value : BitVec 32)
  | extensionUpdate
  /-- A received Announce: identity, rank under the best master clock algorithm, domain, logSyncInterval, UTC offset. -/
  | ptpAnnounce (identity rank : Nat) (domain : Byte) (logSync : Int) (utcOffset : Byte) (utcValid : Bool)
  /-- A received Sync: sender, one-step origin time if it carries one. -/
  | ptpSync (identity : Nat) (t1 : Option (BitVec 64))
  /-- A received Follow_Up: sender and origin time. -/
  | ptpFollowUp (identity : Nat) (t1 : BitVec 64)
  | ptpDelayReqSent
  /-- A received Delay_Resp: sender and receive time. -/
  | ptpDelayResp (identity : Nat) (t4 : BitVec 64)
  | auditHoldover
  | slewEnd
  -- Power and clocks (14)
  /-- A_20 in W. -/
  | fastLimiter (a20 : Nat)
  /-- A_20 in W, and the ns for which the limiter has acted. -/
  | limiterStop (a20 ns : Nat)
  | reservationExpiry (part : Nat)
  /-- Temperatures in °C by die. -/
  | thermalSample (readings : List (DieKind × Nat × Int))
  /-- The lowest sense point of a region, in percent of the nominal rail below the threshold, for a number of periods;
  `low` says that a doubled period is not safe. -/
  | supplyDroop (region percent periods : Nat) (low : Bool)
  | domainFault (d : Domain)
  /-- 48 V input in mV and the duration in µs for which it has stood there. -/
  | inputSupplyFault (millivolts micros : Nat)
  | standbyLoss
  /-- A wake request; `started` says that the generator starts within 200 ns. -/
  | clockWake (region : Nat) (started : Bool)
  | clockGeneratorFault (region : Nat)
  | regionIdleStop (region : Nat)
  /-- Refresh of a stack at its temperature in °C. -/
  | hbmRefresh (stack : Nat) (celsius : Int)
  /-- Patrol read of the line at a part-local address. -/
  | patrolScrub (addr : Nat) (rd : Ecc)
  | hbmChannelFailed (stack channel : Nat)
  -- Reset and log (18)
  | powerOn (obs : BootObs)
  /-- 48 V has stood in range for 10 ms. -/
  | supply48vInRange (obs : BootObs)
  /-- WARM_RESET_N is sampled low (`pin`), or the 10 ms of a RESET kind 1 have passed; bring-up meets `obs`. -/
  | warmReset (pin : Bool) (obs : BootObs)
  /-- The sequencers of a partition have not all stopped; the logical block that did not. -/
  | computeReset (part block : Nat)
  | easelFault (core : Nat)
  | logCommit
  -- Safelight monitor and JTAG (19)
  | monitorHelp (l : MonLine)
  | monitorIdent (l : MonLine)
  | monitorStatus (l : MonLine)
  | monitorLog (l : MonLine)
  | monitorLink (l : MonLine)
  | monitorPorts (l : MonLine)
  | monitorTemp (l : MonLine)
  | monitorPower (l : MonLine)
  | monitorErrors (l : MonLine)
  | monitorPerf (l : MonLine)
  | monitorProf (l : MonLine)
  | monitorProfOff (l : MonLine)
  | monitorProfPrint (room : Bool)
  /-- JTAG_TRST_N low, or five JTAG_TCK cycles with JTAG_TMS high. An instruction that ends the reset of EXTEST, CLAMP or
  HIGHZ lets bring-up meet `obs` (R507). -/
  | tapReset (obs : BootObs)
  | extest
  | idcode (obs : BootObs)
  /-- SAMPLE/PRELOAD: the levels of the pins. -/
  | samplePreload (pins : BitVec 64) (obs : BootObs)
  | clamp
  | highz
  /-- DEBUG_SELECT: the 16-bit value shifted in. -/
  | debugSelect (value : BitVec 16) (obs : BootObs)
  | debugRead (obs : BootObs)
  /-- BYPASS, or a code that loads as BYPASS: the code. -/
  | bypass (code : Byte) (obs : BootObs)
  -- Pins and configuration (17, 18, 20)
  /-- WARM_RESET_N is released; the MON_EN strap and what bring-up meets. -/
  | warmResetNRelease (obs : BootObs)
  | perstNRelease (h : Nat)
  /-- Link of the management PHY. -/
  | mgmtPhyInt (up : Bool)
  /-- A function mask (none) or vector mask is cleared. -/
  | msixVectorUnmask (f : FnId) (vector : Option Nat)
  | tdispConfigurationChange (f : FnId)
  | helloResend (part : Nat)
  | retrainRequestRepeat (port : Nat)
  deriving DecidableEq, Repr

end Sys2Proof
end

