-- ==== Sys2Proof/WellFormed.lean ====
section
/-! DEFINITION. What a command must satisfy to be one that the outside world can send: indices that exist, lengths that agree. -/

namespace Sys2Proof

def endpointOk (h : Nat) : Bool := decide (h < 2)
/-- Functions 0 to 16 of an endpoint (17 R458). -/
def fnOk (f : FnId) : Bool := endpointOk f.h && decide (f.k ≤ 16)
/-- Session numbers (16 R444). -/
def sessionOk (n : Nat) : Bool := decide (1 ≤ n) && decide (n ≤ 8)
/-- The sender of a mailbox command. -/
def envOk (e : Envelope) : Bool :=
  match e.route with
  | .fn h k => fnOk ⟨h, k⟩
  | .session n => sessionOk n
/-- Partition indices are those of tiles (16 R434). -/
def partOk (p : Nat) : Bool := decide (p < 16)
/-- Logical blocks of a partition (01 R15). -/
def blockOk (b : Nat) : Bool := decide (b < 576)
def queueOk (q : Nat) : Bool := decide (q < 8)
def portOk (q : Nat) : Bool := decide (q < 64)
def regionOk (r : Nat) : Bool := decide (r < 96)
def issueOk (i : Issue) : Bool := partOk i.part && blockOk i.block
/-- Dies with sensors: 16 compute dies, 32 SRAM dies and stacks, 16 fabric dies (00 R2). -/
def dieOk (x : DieKind × Nat × Int) : Bool :=
  match x.1 with
  | .compute | .fabric => decide (x.2.1 < 16)
  | .sram | .stack => decide (x.2.1 < 32)
def domainOk : Domain → Bool
  | .host h => endpointOk h
  | .fabric f => decide (f < 16)
  | .stack k | .sram k => decide (k < 32)
  | .region r => regionOk r
/-- A monitor line holds at least its terminator's worth of characters for every argument (19 R499). -/
def lineOk (l : MonLine) : Bool := decide (l.args.length ≤ l.len)

/-- A command that can be sent. -/
def WellFormed (i : Instr) : Bool :=
  match i with
  | .identify e => envOk e
  | .partStatus e => envOk e
  | .logRead e _ _ _ => envOk e
  | .reset e _ => envOk e
  | .resetWarm e => envOk e
  | .own e => envOk e
  | .handover e _ => envOk e
  | .release e => envOk e
  | .heartbeat e => envOk e
  | .credEnroll e _ _ derLength cert _ => envOk e && decide (cert.length = derLength.toNat)
  | .credRemove e _ _ => envOk e
  | .partCreate e _ _ _ _ => envOk e
  | .partDestroy e => envOk e
  | .scrub e => envOk e
  | .scrubPassComplete part fail => partOk part && (match fail with | some d => partOk d | none => true)
  | .remap e _ _ _ _ => envOk e
  | .develop e _ _ _ => envOk e
  | .expose e _ _ _ _ => envOk e
  | .halt e => envOk e
  | .epochStage e _ _ _ _ => envOk e
  | .darkslide e _ _ => envOk e
  | .resume e _ _ _ _ => envOk e
  | .exportSlides e _ _ _ => envOk e
  | .print e _ _ => envOk e
  | .proof e nonce => envOk e && decide (nonce.length = 32)
  | .timeSet e _ _ => envOk e
  | .timeTrim e _ _ => envOk e
  | .powerCap e _ => envOk e
  | .cableplan e _ _ => envOk e
  | .settingsRead e _ => envOk e
  | .settingsWrite e _ => envOk e
  | .store e _ => envOk e
  | .fwStageBegin e _ _ _ => envOk e
  | .fwStageData e _ _ chunkLength chunk => envOk e && decide (chunk.length = chunkLength.toNat)
  | .fwStageEnd e _ _ _ => envOk e
  | .fwCommit e _ => envOk e
  | .sessionConnect _ _ => true
  | .sessionClose n => sessionOk n
  | .sessionIdleTimeout n => sessionOk n
  | .leaseExpiring => true
  | .leaseExpired => true
  | .mbxHalt f _ => fnOk f
  | .hifPost f _ _ _ => fnOk f
  | .hifCauseMask f _ => fnOk f
  | .registerWrite f _ size _ _ => fnOk f && (size == 4 || size == 8)
  | .bar2Read f _ n _ _ => fnOk f && decide (0 < n)
  | .bar2Write f _ data _ => fnOk f && !data.isEmpty
  | .queueEnable f q => fnOk f && queueOk q
  | .queueDisable f q _ _ => fnOk f && queueOk q
  | .hifQdoorbell f q _ _ => fnOk f && queueOk q
  | .queueConfigurationWrite f q reg _ => fnOk f && queueOk q && decide (reg < 3)
  | .dmaDescriptorComplete f q _ _ _ _ _ => fnOk f && queueOk q
  | .flrVf f => fnOk f
  | .vfEnableClear h _ _ => endpointOk h
  | .flrPf h => endpointOk h
  | .hotReset h => endpointOk h
  | .getVersion r => endpointOk r.h
  | .getCapabilities r => endpointOk r.h
  | .negotiateAlgorithms r => endpointOk r.h
  | .getDigests r => endpointOk r.h
  | .getCertificate r => endpointOk r.h
  | .challenge r => endpointOk r.h
  | .getMeasurements r => endpointOk r.h
  | .keyExchange r => endpointOk r.h
  | .finish r => endpointOk r.h
  | .spdmHeartbeat r => endpointOk r.h
  | .keyUpdate r => endpointOk r.h
  | .endSession r => endpointOk r.h
  | .chunkSend r => endpointOk r.h
  | .chunkGet r => endpointOk r.h
  | .spdmUnsupportedRequest r => endpointOk r.h
  | .query r => endpointOk r.h
  | .keyProg r stream _ _ _ _ => endpointOk r.h && decide (stream < 256)
  | .kSetGo r stream _ _ => endpointOk r.h && decide (stream < 256)
  | .kSetStop r stream _ _ => endpointOk r.h && decide (stream < 256)
  | .getTdispVersion r _ => endpointOk r.h
  | .getTdispCapabilities r _ => endpointOk r.h
  | .lockInterfaceRequest r _ stream => endpointOk r.h && decide (stream < 256)
  | .getDeviceInterfaceReport r _ _ _ => endpointOk r.h
  | .getDeviceInterfaceState r _ => endpointOk r.h
  | .startInterfaceRequest r _ nonce => endpointOk r.h && decide (nonce.length = 32)
  | .stopInterfaceRequest r _ => endpointOk r.h
  | .hello part _ => partOk part
  | .key part _ => partOk part
  | .reject part _ => partOk part
  | .keyAgreementTimeout part => partOk part
  | .shutter part _ => partOk part
  | .inputPostSample part => partOk part
  | .darkslideWriteEnd part _ => partOk part
  | .restoreComplete part => partOk part.val
  | .timedLaunchTakeup part => partOk part
  | .loop i _ _ => issueOk i
  | .loopAr i _ _ => issueOk i
  | .waitcy i _ => issueOk i
  | .waitcyExpiry part block _ => partOk part && blockOk block
  | .waittick i => issueOk i
  | .bundleHalt i _ => issueOk i
  | .tankBase i _ _ => issueOk i
  | .chkflag i _ _ => issueOk i
  | .syncPost i _ _ => issueOk i
  | .syncTokenArrival part block _ _ => partOk part && blockOk block
  | .syncChk i _ _ => issueOk i
  | .pset i _ _ _ => issueOk i
  | .arSetlo i _ _ => issueOk i
  | .arSethi i _ _ => issueOk i
  | .arAddi i _ _ _ => issueOk i
  | .arAdd i _ _ _ => issueOk i
  | .mma i _ _ => issueOk i
  | .tankLanding part block _ _ => partOk part && blockOk block
  | .mmaDodge i _ _ => issueOk i
  | .tankRead i _ _ _ => issueOk i
  | .tankMerge i _ _ _ _ _ => issueOk i
  | .dodgeSet i _ _ _ _ => issueOk i
  | .stripCheck i _ _ _ => issueOk i
  | .add i _ => issueOk i
  | .sub i _ => issueOk i
  | .mul i _ => issueOk i
  | .fma i _ => issueOk i
  | .min i _ => issueOk i
  | .max i _ => issueOk i
  | .abs i _ => issueOk i
  | .neg i _ => issueOk i
  | .adds i _ => issueOk i
  | .and i _ => issueOk i
  | .or i _ => issueOk i
  | .xor i _ => issueOk i
  | .shl i _ => issueOk i
  | .shr i _ => issueOk i
  | .cmp i _ => issueOk i
  | .sel i _ => issueOk i
  | .mov i _ => issueOk i
  | .movi i _ => issueOk i
  | .iota i _ => issueOk i
  | .perm i _ => issueOk i
  | .klogic i _ => issueOk i
  | .div i _ => issueOk i
  | .sqrt i _ => issueOk i
  | .exp i _ => issueOk i
  | .exp2 i _ => issueOk i
  | .log i _ => issueOk i
  | .log2 i _ => issueOk i
  | .rcp i _ => issueOk i
  | .rsqrt i _ => issueOk i
  | .sin i _ => issueOk i
  | .cos i _ => issueOk i
  | .tanh i _ => issueOk i
  | .sigmoid i _ => issueOk i
  | .erf i _ => issueOk i
  | .cvt i _ => issueOk i
  | .cvtSr i _ => issueOk i
  | .quant i _ => issueOk i
  | .deq i _ => issueOk i
  | .rsum i _ => issueOk i
  | .rmax i _ => issueOk i
  | .rmin i _ => issueOk i
  | .draw i _ => issueOk i
  | .ld i _ _ => issueOk i
  | .st i _ => issueOk i
  | .writeBufferDrain part block _ _ _ => partOk part && blockOk block
  | .arbiterWake part block _ _ => partOk part && blockOk block
  | .copyRc i _ _ => issueOk i
  | .copyCr i _ _ => issueOk i
  | .copyRr i _ _ _ => issueOk i
  | .streamIn i _ => issueOk i
  | .streamOut i _ => issueOk i
  | .streamComplete part block _ _ _ => partOk part && blockOk block
  | .commit i _ _ => issueOk i
  | .chkarr i _ _ _ => issueOk i
  | .csfill i _ _ => issueOk i
  | .slotTime port _ => portOk port
  | .packetArrival port _ => portOk port
  | .fabricLanding part _ => partOk part
  | .epochRetire part => partOk part
  | .flowUnitReceive port unit _ => portOk port && decide (unit.length = 256)
  | .nak port _ => portOk port
  | .nakTimer port => portOk port
  | .replayTimeout port => portOk port.val
  | .retrainRequest port _ far reason => portOk port && portOk far && decide (reason < 256)
  | .train port _ _ _ => portOk port
  | .cableMismatch port => portOk port
  | .linkDown port => portOk port
  | .trainingAttempt port => portOk port
  | .laneFailure link lane => (match link with | .port q => portOk q && decide (lane < 9) | .bond b => decide (b < 72) && decide (lane < 132))
  | .remapRequest port _ => portOk port
  | .remapDone port _ => portOk port
  | .creditTimeout port vc => portOk port && decide (vc < 8)
  | .serviceWindowLow port => portOk port
  | .spillStall port _ => portOk port
  | .beacon port _ _ => portOk port
  | .interimBeacon part => partOk part
  | .tickHoldover part => partOk part
  | .masterListenEnd part => partOk part
  | .timInc _ => true
  | .timStep _ => true
  | .extensionUpdate => true
  | .ptpAnnounce _ _ _ logSync _ _ => decide (-128 ≤ logSync) && decide (logSync ≤ 127)
  | .ptpSync _ _ => true
  | .ptpFollowUp _ _ => true
  | .ptpDelayReqSent => true
  | .ptpDelayResp _ _ => true
  | .auditHoldover => true
  | .slewEnd => true
  | .fastLimiter _ => true
  | .limiterStop _ _ => true
  | .reservationExpiry part => partOk part
  | .thermalSample readings => readings.all dieOk
  | .supplyDroop region _ _ _ => regionOk region
  | .domainFault d => domainOk d
  | .inputSupplyFault _ _ => true
  | .standbyLoss => true
  | .clockWake region _ => regionOk region
  | .clockGeneratorFault region => regionOk region
  | .regionIdleStop region => regionOk region
  | .hbmRefresh stack _ => decide (stack < 32)
  | .patrolScrub addr _ => decide (addr < 0x40000000000) && decide (addr % 64 = 0)
  | .hbmChannelFailed stack channel => decide (stack < 32) && decide (channel < 64)
  | .powerOn _ => true
  | .supply48vInRange _ => true
  | .warmReset _ _ => true
  | .computeReset part block => partOk part && blockOk block
  | .easelFault core => decide (core < 4)
  | .logCommit => true
  | .monitorHelp l => lineOk l
  | .monitorIdent l => lineOk l
  | .monitorStatus l => lineOk l
  | .monitorLog l => lineOk l
  | .monitorLink l => lineOk l
  | .monitorPorts l => lineOk l
  | .monitorTemp l => lineOk l
  | .monitorPower l => lineOk l
  | .monitorErrors l => lineOk l
  | .monitorPerf l => lineOk l
  | .monitorProf l => lineOk l
  | .monitorProfOff l => lineOk l
  | .monitorProfPrint _ => true
  | .tapReset _ => true
  | .extest => true
  | .idcode _ => true
  | .samplePreload _ _ => true
  | .clamp => true
  | .highz => true
  | .debugSelect _ _ => true
  | .debugRead _ => true
  | .bypass code _ => !(code == 0x01 || code == 0x02)
  | .warmResetNRelease _ => true
  | .perstNRelease h => endpointOk h
  | .mgmtPhyInt _ => true
  | .msixVectorUnmask f vector => fnOk f && (match vector with | some v => decide (v < 16) | none => true)
  | .tdispConfigurationChange f => fnOk f
  | .helloResend part => partOk part
  | .retrainRequestRepeat port => portOk port

end Sys2Proof
end

