-- ==== Sys2Proof/Decode.lean ====
section
/-! DEFINITION. The commands that a word spells by the bits of the opcode table: no row of the table gives bits. -/

namespace Sys2Proof

/-- The command that `nbits` bits spell. The table gives none of its rows a bit, so no word spells a command. -/
def decodeTableWord (_nbits _w : Nat) : Option Instr := none

end Sys2Proof
end

