-- ==== Sys2Proof/Config.lean ====
section
/-! DEFINITION. What an implementation fixes and the spec leaves open: opaque constants without a body. A claim about
the model holds for every value of each of them. -/

namespace Sys2Proof.Config

/-- A value the spec calls undefined or does not state, drawn afresh: the first argument is `State.free`, the second
tells apart several values drawn at one point. -/
opaque freeBits : Nat → Nat → Nat

/-- The result a stepping and firmware gives in the fast transcendental set, as a choice among the FP32 codes within
2 ulp of the exact value (R86): firmware key, function, input. -/
opaque fastPick : Nat → Nat → BitVec 32 → Nat

/-- Public key of a private scalar on P-384, 96 bytes X then Y. -/
opaque ecPublic : BitVec 384 → Bytes
/-- x-coordinate of the ECDH result of a private scalar and a public key of 96 bytes, 48 bytes. -/
opaque ecdh : BitVec 384 → Bytes → Bytes
/-- ECDSA P-384 signature over a digest, r then s, 96 bytes. -/
opaque ecdsaSign : BitVec 384 → Bytes → Nat → Bytes
/-- Whether a signature over a digest verifies under a public key. -/
opaque ecdsaVerify : Bytes → Bytes → Bytes → Bool
/-- Whether a certificate chain, root first, is valid up to the Kodrira root in the boot ROM. -/
opaque chainValid : Bytes → Bool
/-- Public key of the last certificate of a chain. -/
opaque leafKey : Bytes → Bytes
/-- Serial of the last certificate of a chain. -/
opaque leafSerial : Bytes → BitVec 64
/-- SubjectPublicKeyInfo of a certificate. -/
opaque spki : Bytes → Bytes
/-- Whether a byte string is an X.509 certificate in DER. -/
opaque isCertificate : Bytes → Bool
/-- Whether the chain that a client sends, leaf first, validates up to the given certificate. -/
opaque validatesTo : List Bytes → Bytes → Bool
/-- Whether the signature of a firmware image verifies under an authority key that chains to the Kodrira root. -/
opaque imageGenuine : Bytes → Bool

/-- Reference step in MHz of a DPI that the part did not report when it was made (R349). -/
opaque referenceStep : BitVec 32 → Nat
/-- Layout of a record of counts in LOG.READ, whose fields the spec places nowhere (R439): source, the counts, as a number
of 32 bytes, byte 0 lowest. -/
opaque countLayout : Nat → List Nat → Nat
/-- Input power averaged over the last second, in units of 50 W, at a time in ns since power-on (R395). -/
opaque secondAverage : Nat → Nat
/-- A byte of a mailbox page that the requester has written and no rule reads back: sequence of the command, offset (R431). -/
opaque pageByte : BitVec 32 → Nat → Nat


end Sys2Proof.Config
end

