-- ==== Sys2Proof/Machine/StCompute.lean ====
section
/-! DEFINITION. State of the compute units: cells, blocks and regions (03, 04, 05, 06). Each field's docstring gives
its width, the rule that names it, and its value after reset. Cycle numbers are region cycles of the running Exposure;
addresses are part-local byte addresses (R185). -/

namespace Sys2Proof.Machine

/-- Ports through which an M operation reads its cell store (R98, R140); `pair` reads unit 2v on port A and unit 2v + 1 on
port B (R144, R147). -/
inductive OpPort where
  | a | b | scale | pair
  deriving DecidableEq, Repr

/-- One slab that an M operation reads, unit by unit (R139, R140): unit `u` is read in cycle
`base + (u * mul + add) * occ / n`, at `addr + u * unit`. -/
structure Cap where
  /-- 48 bits; 05 R139; not in reset. -/
  addr : Nat
  /-- bytes of one unit. -/
  unit : Nat
  /-- number of units. -/
  count : Nat
  /-- cycle of unit 0 before the fraction is added; may be negative (R127). -/
  base : Int
  mul : Nat
  add : Nat
  occ : Nat
  n : Nat
  port : OpPort
  /-- bytes read so far, in order. -/
  got : Bytes := []
  deriving DecidableEq, Repr

/-- Kinds of M operation that are still in progress on a cell. -/
inductive MopKind where
  | mma | side | merge | dodgeSet | check
  deriving DecidableEq, Repr

/-- An M operation in progress on one cell (R141 to R148). -/
structure Mop where
  kind : MopKind
  issue : Nat
  /-- cycle in which it changes the Tanks, the list or the counters; none while a T2 group still lacks its last position. -/
  land : Option Nat
  /-- block bundle address of its bundle, for the hazard records (R182). -/
  writer : Nat := 0
  caps : List Cap := []
  fmtA : BitVec 4 := 0
  fmtB : BitVec 4 := 0
  dodge : Bool := false
  strip : Bool := false
  row : BitVec 7 := 0
  kblk : Nat := 0
  t2pos : Nat := 0
  t2size : Nat := 0
  /-- Tanks and poison bits sampled in the issue cycle (R73, R147, R148). -/
  sample : FMap (BitVec 96) := []
  samplePoison : BitVec 16384 := 0
  stripSample : FMap (BitVec 96) := []
  /-- dodge list, dodge latch and base exponent at issue, which the step works with (R79, R82, R144, R145). -/
  dlist : List (BitVec 32) := []
  latch : List Bytes := []
  base : BitVec 10 := 0
  /-- a read failed (R99, R100, R120): the operation delivers nothing. -/
  failed : Bool := false
  entry : BitVec 8 := 0
  group : Nat := 0
  n : Nat := 0
  deriving DecidableEq, Repr

/-- A T2 group in progress on a cell (R142). -/
structure T2Group where
  size : Nat
  next : Nat
  arA : BitVec 4
  arB : BitVec 4
  fmtA : BitVec 4
  fmtB : BitVec 4
  deriving DecidableEq, Repr

/-- What a write into a cell store replaced, kept for the reads that an M operation has made before its issue (R140): the
cycle in which it became readable, its stated completion, its offset and the bytes before it. -/
structure StoreHist where
  at_ : Nat
  stated : Nat
  off : Nat
  old : Bytes
  /-- block bundle address of the write, 0xFFFF for one that no bundle makes. -/
  writer : Nat := 0xFFFF
  deriving DecidableEq, Repr

/-- A fault found at issue that shows in a later cycle: two reads planned for one bank (R100). -/
structure LateFault where
  cycle : Nat
  cell : Nat
  deriving DecidableEq, Repr

/-- A line waiting in a cell's write buffer (R99): its line number, its D and the cycle it entered. -/
structure WbLine where
  line : Nat
  d : Nat
  enter : Nat
  deriving DecidableEq, Repr

/-- One cell: its matrix engine, Tanks, strip row, counters and write buffer. The store's bytes lie in `State.mem`. -/
structure Cell where
  /-- 16,384 values of 96 bits, element (i, j) at 128i + j; 03 R68; reset DESIGN CHOICE 0 (entry 4). -/
  tanks : FMap (BitVec 96) := []
  /-- 16,384 poison bits; 03 R68; reset DESIGN CHOICE 0 (entry 4). -/
  poison : BitVec 16384 := 0
  /-- 10 bits, signed base exponent; 03 R68; reset DESIGN CHOICE 0 (entry 4). -/
  base : BitVec 10 := 0
  /-- 25 bits, depth count; 03 R68 R71; reset DESIGN CHOICE 0 (entry 4). -/
  depth : BitVec 25 := 0
  /-- K cursor, blocks of K since TANK.BASE; 05 R141 R144; reset DESIGN CHOICE 0 (entry 4). -/
  kcur : Nat := 0
  /-- up to 256 channel indices of 32 bits, the dodge list; 05 R144; reset DESIGN CHOICE empty (entry 4). -/
  dodgeList : List (BitVec 32) := []
  /-- 128 scale bytes for each listed channel, the dodge latch; 05 R144; reset DESIGN CHOICE empty (entry 4). -/
  dodgeLatch : List Bytes := []
  /-- 128 accumulators of 96 bits; 03 R81; reset DESIGN CHOICE 0 (entry 4). -/
  strip : FMap (BitVec 96) := []
  /-- 96 bits, strip register; 03 R81 R82; reset DESIGN CHOICE 0 (entry 4). -/
  stripReg : BitVec 96 := 0
  /-- row the strip row belongs to, if any; 05 R143; reset none (entry 4). -/
  stripRow : Option (BitVec 7) := none
  /-- 32 bits; 03 R78; reset DESIGN CHOICE 0 (entry 4). -/
  clampCount : BitVec 32 := 0
  /-- 32 bits; 03 R78; reset DESIGN CHOICE 0 (entry 4). -/
  readClip : BitVec 32 := 0
  /-- 1 bit, sticky; 03 R78; reset DESIGN CHOICE 0 (entry 4). -/
  poisonFlag : Bool := false
  /-- 32 bits; 03 R78; reset DESIGN CHOICE 0 (entry 4). -/
  t2Invalid : BitVec 32 := 0
  /-- 32 bits; 03 R78; reset DESIGN CHOICE 0 (entry 4). -/
  precAlarm : BitVec 32 := 0
  /-- count of corrected store errors; 04 R120; reset 0. -/
  eccCount : Nat := 0
  /-- first cycle in which the engine is free; 05 R149; reset 0. -/
  engFree : Nat := 0
  /-- cycle in which the last contribution of the cell lands; 05 R134 R149; reset none. -/
  lastLand : Option Nat := none
  /-- M operations in progress; 05 R141; reset empty. -/
  mops : List Mop := []
  /-- T2 group in progress; 05 R142; reset none. -/
  t2 : Option T2Group := none
  /-- write buffer, oldest line first; 04 R99; reset empty. -/
  wb : List WbLine := []
  /-- lines that wait for an ECC write-back; 04 R107 R120; reset empty. -/
  wback : List Nat := []
  /-- operations that have landed but whose reads lie in the last cycles; 05 R140; reset empty. -/
  past : List Mop := []
  /-- writes of the last cycles, newest first; 05 R140; reset empty. -/
  hist : List StoreHist := []
  /-- cycle and bank of a write-buffer line written at its D or out of a full buffer; 04 R99 R120; reset empty. -/
  forced : List (Nat × Nat) := []
  deriving DecidableEq, Repr

/-- An open loop of a sequencer (R130). -/
structure Loop where
  /-- 13 bits, address of the first body bundle. -/
  start : Nat
  /-- 13 bits, end address. -/
  endA : Nat
  /-- 24 bits, iterations left, the current one included. -/
  left : Nat
  /-- 24 bits, loop index. -/
  idx : Nat
  deriving DecidableEq, Repr

/-- What a write to an address register does (R129, R133). -/
inductive ArEff where
  | setLo (d : BitVec 4) (imm : BitVec 16)
  | setHi (d : BitVec 4) (imm : BitVec 16)
  | addi (d src : BitVec 4) (imm : BitVec 16)
  | add (d a b : BitVec 4)
  | incr (d : BitVec 4) (by_ : BitVec 32)
  deriving DecidableEq, Repr

/-- An address-register operation of a recent bundle, done or suppressed, kept for the forecasts of R129. -/
structure ArEv where
  cycle : Nat
  pred : BitVec 3
  done : Bool
  eff : ArEff
  deriving DecidableEq, Repr

/-- A predicate write and the cycle from which it is seen (R133, R157). -/
structure PredEv where
  due : Nat
  issue : Nat
  pd : BitVec 3
  val : Bool
  /-- bundle address of the write, for the hazard records (R182). -/
  writer : Nat := 0xFFFF
  deriving DecidableEq, Repr

/-- A vector result on its way to its register (R156): `en` has one bit for each byte that it writes. -/
structure VPend where
  due : Nat
  issue : Nat
  reg : BitVec 6
  val : BitVec 8192
  en : BitVec 1024
  writer : Nat
  deriving DecidableEq, Repr

/-- A mask result on its way to its register (R157). -/
structure MPend where
  due : Nat
  issue : Nat
  kd : BitVec 3
  val : BitVec 512
  writer : Nat
  deriving DecidableEq, Repr

/-- A write of ST or TANK.READ into a cell store, line by line, with its stated completion (R99, R146, R162). -/
structure TimedWrite where
  due : Nat
  issue : Nat
  addr : Nat
  data : Bytes
  writer : Nat
  /-- lines of 128 bytes that have entered the write buffer. -/
  entered : Nat := 0
  deriving DecidableEq, Repr

/-- A unit that a port or a bank has served and that becomes readable in a later cycle (R111): cell stores enter their
write buffer then. -/
structure Entering where
  at_ : Nat
  addr : Nat
  data : Bytes
  stated : Nat
  /-- block whose operation wrote it, and that operation's issue cycle. -/
  block : Nat
  issue : Nat
  writer : Nat
  deriving DecidableEq, Repr

/-- What a port F request moves (R110). -/
inductive PfKind where
  | copyRc | copyCr | fill | landing | hostWrite | hostRead
  deriving DecidableEq, Repr

/-- A request at port F of one cell (R101 to R104, R110). -/
structure PfReq where
  kind : PfKind
  cell : BitVec 2
  /-- 32 bits, latest-service time. -/
  d : Nat
  rank : Nat
  /-- cycle in which unit 0 reaches the block; unit u is ready at `ready + u`. -/
  ready : Nat
  total : Nat
  /-- progress count. -/
  done : Nat
  /-- part-local source and destination of unit 0. -/
  src : Nat
  dst : Nat
  issue : Nat
  stated : Nat
  /-- 16 bits, turn estimate, saturating (R104). -/
  turn : BitVec 16
  owner : Bool
  writer : Nat
  /-- landing or descriptor that a request belongs to. -/
  tag : Nat
  /-- place among the requesters of its rank: stream port, or order of arrival (R107). -/
  idx : Nat := 0
  /-- units that have reached the block and wait for port F, each with its cycle (R111). -/
  arr : List (Nat × Bytes) := []
  /-- bytes that a landing writes, or that a fill has read. -/
  data : Bytes := []
  deriving DecidableEq, Repr

/-- A due access on port F (R102): cycle, cell, offset in the cell, and whether it is a read. -/
structure DueAcc where
  cycle : Nat
  cell : BitVec 2
  off : Nat
  read : Bool
  deriving DecidableEq, Repr

/-- A stream held by a prefetcher (R166). -/
structure StreamReq where
  pf : BitVec 2
  entry : Nat
  out_ : Bool
  /-- logical HBM address. -/
  lx : Nat
  /-- part-local HBM address of its first byte. -/
  hbm : Nat
  /-- part-local region-store address. -/
  reg : Nat
  len : Nat
  flag : BitVec 4
  setFlag : Bool
  issue : Nat
  /-- latest completion cycle. -/
  deadline : Nat
  /-- D of its arbiter requests (R114, R166, R203). -/
  d : Int
  /-- lines of 256 bytes that an HBM command slot has carried, and lines that the region store has served (R113, R115). -/
  slots : Nat := 0
  lines : Nat := 0
  /-- 16 bits, turn estimate for command slots (R104, R114). -/
  turn : BitVec 16 := 0
  deriving DecidableEq, Repr

/-- A copy from another region of the die under way to this one (R167): `due` is the cycle of this region in which its
last unit reaches the store, `stated` the first that surely lies after its stated completion (R169). -/
structure RrCopy where
  dst : Nat
  /-- units read from the source store so far. -/
  data : Bytes
  issue : Nat
  stated : Nat
  late : Bool
  writer : Nat
  /-- part-wide block that issued it. -/
  from_ : Nat
  due : Nat
  /-- units in all, and units that the destination has granted. -/
  total : Nat
  done : Nat
  deriving DecidableEq, Repr

/-- Who asks for the banks of a region store (R107). -/
inductive RsKind where
  | copyRead | copyWrite | rrRead | rrWrite | commit | fill | stream | landing | hostWrite | hostRead | writeBack
  deriving DecidableEq, Repr

/-- A request at the banks and the access budget of a region store (R101, R107, R113). -/
structure RsReq where
  kind : RsKind
  rank : Nat
  /-- place among the requesters of its rank. -/
  idx : Nat
  /-- 32 bits, latest-service time. -/
  d : Nat
  /-- first cycle in which unit 0 can be served; unit u can be in `first + u`. -/
  first : Nat
  total : Nat
  done : Nat
  /-- part-local address of unit 0. -/
  addr : Nat
  /-- part-wide block that it serves, and the issue cycle of its operation or the landing or descriptor it belongs to. -/
  block : Nat
  issue : Nat
  tag : Nat
  stated : Nat
  writer : Nat
  /-- units that wait to be written, each with the cycle from which it can be. -/
  data : List (Nat × Bytes) := []
  /-- 16 bits, turn estimate (R104). -/
  turn : BitVec 16 := 0
  deriving DecidableEq, Repr

/-- One region: what its arbiter and its store hold. -/
structure Region where
  /-- cycles below this one have been served; 04 R101; reset 0. -/
  served : Nat := 0
  /-- requests at the banks and the access budget; 04 R101 R113; reset empty. -/
  reqs : List RsReq := []
  /-- units served and not yet readable; 04 R111; reset empty. -/
  entering : List Entering := []
  /-- copies from other regions; 06 R167; reset empty. -/
  rr : List RrCopy := []
  deriving DecidableEq, Repr

/-- A Contact sheet fill in progress (R175 to R179): its operands as part-local addresses. -/
structure FillReq where
  sheet : Nat
  cell : BitVec 2
  list_ : Nat
  rows : Nat
  din : Nat
  drows : Nat
  dout : Nat
  issue : Nat
  stated : Nat
  /-- bytes of the deferral-out list. -/
  dlen : Nat := 0
  /-- once the lists have been read: the placed tokens (expert, token, row address) and the deferral-out list (R177). -/
  placed : Option (List (Nat × Nat × Nat) × Bytes) := none
  /-- experts whose packet was already committed in the frame (R172). -/
  skip : List Nat := []
  deriving DecidableEq, Repr

/-- A COMMIT in progress (R172): unit `u` is read in cycle `issue + u`. -/
structure CommitReq where
  port : Nat
  entry : Nat
  src : Nat
  cellSrc : Bool
  len : Nat
  done : Nat
  issue : Nat
  stated : Nat
  /-- a unit met a range that is not free, or the entry was already committed: nothing more is written. -/
  dead : Bool
  deriving DecidableEq, Repr

/-- A load from one cell in progress (R162): unit `u` is read in cycle `issue + u`. -/
structure LoadReq where
  reg : BitVec 6
  cellIx : Nat
  off : Nat
  issue : Nat
  got : Bytes
  writer : Nat
  failed : Bool := false
  deriving DecidableEq, Repr

/-- Words 1 to 13 of the counter record of a block, 64 bits each (R503). -/
structure Perf where
  issued : Nat := 0
  waited : Nat := 0
  tickCycle : Nat := 0
  mmaBusy : Nat := 0
  mOther : Nat := 0
  vIssued : Nat := 0
  special : Nat := 0
  portF : Nat := 0
  preempted : Nat := 0
  copies : Nat := 0
  streams : Nat := 0
  slackMin : Option Nat := none
  xIssued : Nat := 0
  deriving DecidableEq, Repr

/-- One logical block: sequencer, vector unit, stream ports, prefetchers and exchange unit. -/
structure Block where
  /-- cycle of the bundle that issues last or next; 05 R126; reset 0. -/
  cycle : Nat := 0
  /-- 13 bits, bundle address; 05 R127; reset 0. -/
  addr : Nat := 0
  /-- commands of the table have issued its bundles in this Exposure; the model's (entry 126); reset false. -/
  driven : Bool := false
  /-- open loops, innermost first, at most four; 05 R130; reset none. -/
  loops : List Loop := []
  /-- loop opened by the bundle at `addr`: end address and count; 05 R130; reset none. -/
  opening : Option (Nat × Nat) := none
  /-- 20 bits, wait asked by the bundle at `addr`; 05 R131; reset 0. -/
  wait : Nat := 0
  /-- waiting at WAITTICK; 05 R131; reset true (no Exposure runs). -/
  atTick : Bool := true
  /-- bundles of the block's stream, at most 8192 of 256 bits; 04 R109; reset DESIGN CHOICE one WAITTICK (entry 4). -/
  bundles : List (BitVec 256) := []
  /-- 16 registers of 32 bits; 05 R129; reset DESIGN CHOICE 0 (entry 4). Recent writes stand in `arLog`. -/
  arBase : FMap (BitVec 32) := []
  /-- recent address-register operations, oldest first; 05 R129; reset empty. -/
  arLog : List ArEv := []
  /-- p0 to p7 before the writes of `predLog`; 05 R128; reset p0 = 1, others 0. -/
  predBase : BitVec 8 := 1
  /-- recent predicate writes, in issue order; 05 R128; reset empty. -/
  predLog : List PredEv := []
  /-- 64 registers of 8192 bits; 04 R108; reset DESIGN CHOICE 0 (entry 4). -/
  vregs : FMap (BitVec 8192) := []
  /-- results not yet landed; 06 R156; reset empty. -/
  vpend : List VPend := []
  /-- 8 mask registers of 512 bits, k0 reads all ones; 06 R154; reset DESIGN CHOICE 0 (entry 4). -/
  masks : FMap (BitVec 512) := []
  /-- mask results not yet landed; 06 R157; reset empty. -/
  mpend : List MPend := []
  /-- first cycle in which the special unit is free; 06 R156; reset 0. -/
  specialFree : Nat := 0
  /-- first cycle in which the exchange unit is free; 06 R170; reset 0. -/
  xFree : Nat := 0
  /-- latest stated completion of an M, S or X operation issued in the Exposure; 05 R131; reset 0. -/
  lastDone : Nat := 0
  /-- 16 stream completion flags; 05 R135; reset 0. -/
  flags : BitVec 16 := 0
  /-- 16 sync tokens; 05 R136; reset 0. -/
  tokens : BitVec 16 := 0
  /-- tokens under way to this block, with the issue cycle of the post; 05 R136; reset empty. -/
  tokensDue : List (Nat × BitVec 4) := []
  /-- tokens posted from another region: first cycle that surely follows the arrival, token, bundle address of the post;
  06 R169; reset empty. -/
  crossTokens : List (Nat × BitVec 4 × Nat) := []
  /-- 16 arrival counters of 32 bits; 06 R174; reset 0. -/
  arrival : FMap (BitVec 32) := []
  /-- landing counters confirmed by a CHKARR in this Exposure, one bit each; 06 R181; reset 0. -/
  confirmed : BitVec 16 := 0
  /-- 40 bits, draw counter; 03 R93; reset 0. -/
  draw : BitVec 40 := 0
  /-- 32 bits, conversion clip count; 03 R78; reset DESIGN CHOICE 0 (entry 4). -/
  convClip : BitVec 32 := 0
  /-- first free cycle of stream ports 0 to 3; 06 R164; reset 0. -/
  portFree : FMap Nat := []
  /-- streams held by the four prefetchers, in issue order; 06 R166; reset empty. -/
  streams : List StreamReq := []
  /-- requests pending at port F of the four cells; 04 R101; reset empty. -/
  pf : List PfReq := []
  /-- due accesses on port F, past and claimed; 04 R102; reset empty. -/
  due : List DueAcc := []
  /-- store writes of ST and TANK.READ; 06 R162; reset empty. -/
  timed : List TimedWrite := []
  /-- units on their way from port F into a cell store; 04 R111; reset empty. -/
  entering : List Entering := []
  /-- bank conflicts that show in a later cycle; 04 R100; reset empty. -/
  faults : List LateFault := []
  /-- Contact sheet fills in progress; 06 R175; reset empty. -/
  fills : List FillReq := []
  /-- commits in progress; 06 R172; reset empty. -/
  commits : List CommitReq := []
  /-- loads from one cell in progress; 06 R162; reset empty. -/
  loads : List LoadReq := []
  /-- 8 bits, code of the first HALT of the Exposure; 05 R132; reset none. -/
  haltCode : Option (BitVec 8) := none
  /-- performance counters of the running Exposure; 19 R503; reset 0. -/
  perf : Perf := {}
  /-- 16 words of 64 bits, the record captured at the last ending Shutter; 19 R503; reset 0. -/
  perfSnap : List Nat := List.replicate 16 0
  deriving DecidableEq, Repr

/-- A block and its cells before the operations of one of its bundles (R125): an illegal bundle goes back to them. -/
structure BundleSave where
  cycle : Nat
  block : Block
  cells : List Cell
  halt : Bool
  haltLate : Bool
  /-- tokens that the bundle has posted to other blocks: block, cycle of arrival, token. -/
  posts : List (Nat × Nat × BitVec 4) := []
  /-- staging range that the bundle has begun to fill: port and entry. -/
  staged : Option (Nat × Nat) := none
  deriving DecidableEq, Repr

end Sys2Proof.Machine
end

