-- ==== Sys2Proof/Machine/StPart.lean ====
section
/-! DEFINITION. State of a partition: the Negative it holds (08), its frame (02) and its place on the part (01, 15). -/

namespace Sys2Proof.Machine

/-- States of a partition, in the order of their codes (R398). -/
inductive PartState where
  | empty | tainted | ready | developed | running | halted | faulted
  deriving DecidableEq, Repr

/-- An entry of the stream table (R165). -/
structure StreamEnt where
  hbm : Nat
  reg : Nat
  len : Nat
  deadline : Nat
  share : Nat
  deriving DecidableEq, Repr

/-- A landing window (R224): logical base and limit, logical block and counter. -/
structure Landing where
  base : Nat
  limit : Nat
  block : Nat
  counter : Nat
  deriving DecidableEq, Repr

/-- Kinds of slot table entry (R227). -/
inductive SlotKind where
  | packet | sheet | reserved
  deriving DecidableEq, Repr

/-- A slot table entry (R227). -/
structure SlotEnt where
  slot : Nat
  kind : SlotKind
  vc : Nat := 0
  destPart : BitVec 12 := 0
  destAddr : BitVec 48 := 0
  len : Nat := 0
  keyIndex : Byte := 0
  last : Bool := false
  sheet : Nat := 0
  expert : Nat := 0
  deriving DecidableEq, Repr

/-- A hop table entry (R229): output port (0xFE own part, 0xFF none) and virtual channel. -/
structure HopEnt where
  out_ : Byte
  vc : Byte
  deriving DecidableEq, Repr

/-- A Contact sheet geometry (R231); `map` gives port and entry of each expert. -/
structure Sheet where
  experts : Nat
  capacity : Nat
  defer : Bool
  rowSize : Nat
  routeLen : Nat
  deferLen : Nat
  rowsMax : Nat
  map : List (Nat × Nat)
  deriving DecidableEq, Repr

/-- A double-buffered window (R221): number, logical base, buffers, length. -/
structure Window where
  num : Nat
  base : Nat
  buf0 : Nat
  buf1 : Nat
  len : Nat
  deriving DecidableEq, Repr

/-- A weight image (R223). -/
structure Weight where
  base : Nat
  len : Nat
  digest : Bytes
  deriving DecidableEq, Repr

/-- What a Negative declares, as installed by DEVELOP (08). -/
structure Neg where
  /-- 48 bytes, Negative digest; 08 R213. -/
  digest : Bytes := []
  /-- 1 bit; 08 R210. -/
  fixed : Bool := false
  /-- 1 bit, reference transcendental set; 08 R210. -/
  refSet : Bool := false
  /-- 1 bit, Darkroom required; 08 R210. -/
  darkReq : Bool := false
  tileCount : Nat := 0
  jobId : BitVec 64 := 0
  rank : BitVec 16 := 0
  jobParts : Nat := 1
  /-- frame period in 10 ns units; 02 R32. -/
  frameCount : Nat := 0
  /-- C, region cycles; 02 R37. -/
  schedLen : Nat := 0
  /-- MHz; 08 R215. -/
  fSched : Nat := 0
  fFloor : Nat := 0
  fMax : Nat := 0
  /-- hundredths of a percent; 02 R40. -/
  stretch : Nat := 0
  memVar : Nat := 0
  tickSkew : Nat := 0
  retryLag : Nat := 0
  attempts : Nat := 0
  rejoinLog2 : Nat := 0
  arrivalTotal : BitVec 64 := 0
  /-- A of each logical port; 02 R40. -/
  allowance : List Nat := []
  /-- seal: DPI, step in MHz, cap class; 08 R216. -/
  sealRec : Option (Nat × Nat × Nat) := none
  /-- Grain policy 1: seed with EXPOSE; 08 R217. -/
  seedAtExpose : Bool := false
  seed : BitVec 128 := 0
  jobTag : BitVec 16 := 0
  /-- part identifier and tile count of each rank; 08 R218. -/
  members : List (Nat × Nat) := []
  /-- bundle streams by logical block; 08 R219. -/
  bundles : FMap (List (BitVec 256)) := []
  /-- address registers by logical block; 08 R219. -/
  aregs : FMap (List (BitVec 32)) := []
  inputs : List Window := []
  outputs : List Window := []
  /-- logical address of the commit record; 02 R58. -/
  commitAddr : Nat := 0
  /-- spill area of each logical port: logical base and bytes; 07 R205. -/
  spills : FMap (Nat × Nat) := []
  /-- checkpoint area: logical base and bytes, if declared; 13 R357. -/
  checkpoint : Option (Nat × Nat) := none
  /-- DATA ranges in HBM: logical base and bytes; 08 R221. -/
  data : List (Nat × Nat) := []
  weights : List Weight := []
  streams : List StreamEnt := []
  landing : List Landing := []
  /-- FP32 thresholds and exposure flags; 03 R82. -/
  thresh : List (BitVec 32 × Bool) := []
  /-- sheets of each logical tile; 08 R231. -/
  sheets : FMap (List Sheet) := []
  /-- slot tables of bank 0 and bank 1 by logical port; 08 R227. -/
  slots0 : FMap (List SlotEnt) := []
  slots1 : FMap (List SlotEnt) := []
  hops0 : FMap (List HopEnt) := []
  hops1 : FMap (List HopEnt) := []
  /-- patches: pairs of logical ports; 08 R230. -/
  patches : List (Nat × Nat) := []
  /-- 48 bytes, SHA-384 of the JOB section; 15 R418. -/
  jobDigest : Bytes := []
  deriving DecidableEq, Repr

/-- A fault that ended or will end an Exposure (R52, R489). -/
structure FatalRec where
  code : BitVec 16
  time : Nat
  deriving DecidableEq, Repr

/-- Progress of an automatic rollback (R54). -/
inductive Rollback where
  | idle | restoring | waiting
  deriving DecidableEq, Repr

/-- The frame of a partition: Shutters, Exposures, budgets and commit (02). -/
structure Frame where
  /-- 64 bits; 02 R33; reset 0. -/
  shutter : BitVec 64 := 0
  /-- 64 bits; 02 R34; reset 0. -/
  exposure : BitVec 64 := 0
  /-- 32 bits; 02 R58; reset 0. -/
  commits : BitVec 32 := 0
  /-- 1 bit, committed buffer of every output window; 02 R56; reset DESIGN CHOICE 0 (entry 5). -/
  outBuf : Bool := false
  /-- 1 bit, posting buffer of every input window; 02 R57; reset DESIGN CHOICE 1 (entry 5). -/
  inBuf : Bool := true
  /-- a post was sampled for the coming Shutter; 02 R57; reset false. -/
  sampled : Bool := false
  /-- the sampling point 1 µs before the coming Shutter has passed; 02 R55 R57; reset false. -/
  late : Bool := false
  /-- the running Exposure repeats its inputs; 02 R58; reset false. -/
  repeated : Bool := false
  /-- first Exposure-fatal fault of the running Exposure; 02 R52, 18 R489; reset none. -/
  fatal : Option FatalRec := none
  /-- part-wide blocks whose requests leave the arbiters, since a fault of the Exposure names them; 04 R105; reset empty. -/
  failing : List Nat := []
  /-- commit flags [1] to [4] gathered so far; 02 R58; reset 0. -/
  retryOver : Bool := false
  stretchOver : Bool := false
  tickOver : Bool := false
  afterRollback : Bool := false
  /-- stretch counters by logical region, ns; 02 R45; reset 0. -/
  stretchNs : FMap Nat := []
  /-- the model's: key of the free starts of the regions, 200 ns to 250 ns after the Shutter; 02 R36; reset 0 (entry 127). -/
  starts : Nat := 0
  /-- the regions changed step at the Shutter that started the running Exposure; 06 R169; reset false. -/
  stepped : Bool := false
  /-- the fast limiter has stretched the partition in this Exposure; 14 R391; reset false. -/
  limited : Bool := false
  /-- smallest stream slack, ns; 02 R58; reset none. -/
  slackMin : Option Nat := none
  /-- largest tick offset, ns; 02 R58; reset 0. -/
  tickMax : Nat := 0
  /-- tokens dropped and deferred; 06 R177; reset 0. -/
  dropped : BitVec 32 := 0
  deferred : BitVec 32 := 0
  /-- scheduled-class payload bytes arrived in the frame; 02 R51; reset 0. -/
  arrived : Nat := 0
  /-- discarded input writes; 02 R60; reset 0. -/
  inputDiscards : Nat := 0
  /-- 1 bit, sticky for each Exposure; 03 R78; reset 0. -/
  precision : Bool := false
  /-- rollback attempts left; 02 R54; reset 0. -/
  attempts : Nat := 0
  /-- consecutive commits since the last overrun; 02 R54; reset 0. -/
  goodRun : Nat := 0
  rollback : Rollback := .idle
  /-- a bundle HALT waits for step 5 of the next Shutter; 02 R55, 05 R132; reset false. -/
  haltReq : Bool := false
  /-- HALT or MBX_HALT waits for step 5: one that came in time, and one that came in the last µs; 02 R55; reset false. -/
  haltCmd : Bool := false
  haltLate : Bool := false
  /-- a bundle HALT, and the HALT of a TDI, that came in the last µs and wait for the Shutter after it; 02 R55; reset false. -/
  reqLate : Bool := false
  tdiLate : Bool := false
  /-- commands of the last µs that wait for the Shutter after it; 02 R55; reset empty. -/
  lateRoutes : List Route := []
  /-- code and block of a bundle HALT of the last µs of the Exposure before; 02 R55, 05 R132; reset none. -/
  heldCode : Option (Byte × BitVec 16) := none
  /-- the HALT that a TDI in ERROR applies waits for step 5; 15 R408; reset false. -/
  tdiHalt : Bool := false
  /-- mailbox commands that complete when the partition is HALTED; 16 R437; reset empty. -/
  haltRoutes : List Route := []
  /-- Exposure index at which a count-limited EXPOSE halts; 16 R441; reset none. -/
  stopAt : Option Nat := none
  /-- within an EXPOSE: Shutters are numbered; 02 R33; reset false. -/
  inExpose : Bool := false
  /-- within a Shutter: step 7 starts an Exposure at this clock step, after a stop of the generators in ns, which relock; 02 R35;
  reset none. -/
  starting : Option (Nat × Nat × Bool) := none
  /-- the Exposure now running was started at the last Shutter; 02 R35; reset false. -/
  started : Bool := false
  /-- audit time and its state at the start of the running Exposure; 13 R370; reset 0. -/
  startTime : BitVec 64 := 0
  startState : BitVec 3 := 0
  /-- largest debt added on any port in the frame, slot times; 02 R58; reset 0. -/
  retryMax : Nat := 0
  /-- READOUT_POISONED was raised in the running Exposure; 13 R370; reset false. -/
  poisoned : Bool := false
  /-- partition-wide sums of the counters of 03 R78 at the last commit; 13 R370; reset 0. -/
  countBase : List Nat := [0, 0, 0, 0, 0]
  /-- the performance counters of this Exposure stand still, from a debug lockout; 19 R504; reset false. -/
  perfOff : Bool := false
  /-- the state is that of a discarded Exposure; 02 R53; reset false. -/
  partialState : Bool := false
  /-- fabric time of the last Shutter, ns; 02 R33; reset 0. -/
  shutterTime : Nat := 0
  deriving DecidableEq, Repr

/-- One record of the hazard detector, 32 bytes (R182). -/
structure HazRec where
  kind : Nat
  slot : Nat
  block : Nat
  cycle : Nat
  reader : Nat
  writer : Nat
  target : Nat
  earlyBy : Nat
  exposure : BitVec 64
  deriving DecidableEq, Repr

/-- The hazard detector of a partition (R180 to R182). -/
structure Hazard where
  on : Bool := false
  stop : Bool := false
  ring : List HazRec := []
  lost : Nat := 0
  untracked : Nat := 0
  /-- hazards of the running Exposure. -/
  seen : Nat := 0
  /-- outstanding writes that a full tracker has dropped: destination and issue cycle; 06 R182. -/
  drops : List (Nat × Nat) := []
  deriving DecidableEq, Repr

/-- States of a partition's fabric time (R320). -/
inductive FState where
  | acquiring | locked | holdover
  deriving DecidableEq, Repr

/-- Fabric time of a partition (11 R313 to R325). -/
structure FTime where
  /-- 64 bits, ns; 11 R313; set at DEVELOP. -/
  time : Nat := 0
  state : FState := .acquiring
  /-- the master's listening time of 2 ms runs; 11 R321. -/
  listening : Bool := false
  /-- what the listening master has heard: the lowest sender and the own offset from its master's time; 11 R321. -/
  heard : Option (Nat × Int) := none
  /-- ppb, own fabric clock rate minus the master's, signed; 11 R316. -/
  rate : Int := 0
  /-- ns, last measured offset from the master; 11 R324. -/
  theta : Int := 0
  /-- an offset has been measured in this frame; 11 R324. -/
  measured : Bool := false
  /-- ns still to be slewed, signed; 11 R320. -/
  slew : Int := 0
  /-- ns since the last ns of slew; 11 R320. -/
  slewClock : Nat := 0
  /-- 8 bits, 0xFF while not LOCKED; 11 R316. -/
  hops : Nat := 0xFF
  /-- parent port; 11 R319. -/
  parent : Option Nat := none
  /-- successive offsets within ±5 ns; 11 R320. -/
  good : Nat := 0
  /-- successive refused offsets; 11 R320. -/
  bad : Nat := 0
  /-- the first offset has been applied; 11 R320. -/
  stepped : Bool := false
  /-- refused offsets counted; 11 R322. -/
  refused : Nat := 0
  /-- 64 bits, latest grid Shutter; 11 R314. -/
  grid : Nat := 0
  /-- audit time captured at the latest grid Shutter and its state; 12 R341. -/
  capture : BitVec 64 := 0
  capState : BitVec 3 := 0
  /-- g_L, decided or copied from the parent; 11 R325. -/
  launch : Option Nat := none
  /-- ns of fabric time since the last beacon sent; 11 R315. -/
  sinceBeacon : Nat := 0
  deriving DecidableEq, Repr

/-- An entry of the Print ring (R368), with what R370 sums over a range. -/
structure PrintEnt where
  index : Nat
  cdIn : Bytes
  cdOut : Bytes
  missed : Bool
  diverged : Bool
  inputChanged : Bool
  /-- committed reruns of this index. -/
  reruns : Nat
  startTime : BitVec 64
  startState : BitVec 3
  endTime : BitVec 64
  endState : BitVec 3
  /-- increase of the five partition-wide sums of R78 over the Exposure. -/
  counts : List Nat
  poisoned : Bool
  precision : Bool
  dropped : Nat
  deferred : Nat
  repeated : Bool
  seed : BitVec 128
  /-- number of the origin under which the index was first committed. -/
  origin : Nat
  deriving DecidableEq, Repr

/-- An origin of Print records (R369): kind 0 DEVELOP or 1 RESUME, index and Darkslide digest. -/
structure Origin where
  kind : Nat
  index : Nat
  digest : Bytes
  deriving DecidableEq, Repr

/-- A pending EXPOSE (R325, R342, R441). -/
structure ExposeReq where
  route : Route
  /-- 0 for no limit. -/
  frames : Nat
  seed : BitVec 128
  /-- requested audit time of a timed EXPOSE. -/
  tReq : Option Nat
  /-- a timed EXPOSE has been taken up (R342). -/
  taken : Bool
  /-- accepted before the sampling point of the coming Shutter. -/
  late : Bool
  deriving DecidableEq, Repr

/-- Steps of a DARKSLIDE (R361). -/
inductive SlidePhase where
  | pending | writing | held | lateEnd
  deriving DecidableEq, Repr

/-- A DARKSLIDE in progress (R361). -/
structure SlideOp where
  route : Route
  st : Nat
  sr : Nat
  phase : SlidePhase
  /-- a halt that ends the hold: its source, code and block as PART.STATUS shows them. -/
  halt : Option (Nat × Byte × BitVec 16)
  /-- the frame of the Shutter at which it was taken: Shutter number, audit time. -/
  shutter : Nat
  time : BitVec 64
  deriving DecidableEq, Repr

/-- The agreement of job keys at check 15 (R410). -/
structure Agree where
  leader : Bool
  /-- 384 bits, ephemeral private key. -/
  priv : BitVec 384
  /-- members heard, with public key and the reason of a failed check. -/
  hellos : List (Nat × Bytes × Option Nat)
  /-- the leader's HELLO as a member received it. -/
  lead : Option (Bytes × Option Nat)
  deriving DecidableEq, Repr

/-- A lifecycle operation that holds a partition until a later event (R437). -/
inductive Busy where
  /-- SCRUB; a tile that failed counts at the end. -/
  | scrub (route : Option Route)
  /-- DEVELOP, or RESUME with a Negative, in its key agreement. -/
  | agree (route : Route) (neg : Neg) (resume : Option (Nat × Nat × StreamEnd)) (a : Agree)
  /-- RESUME in place. -/
  | restore (route : Option Route) (rd : StreamEnd)
  deriving DecidableEq, Repr

/-- State of the inactive bank (R258). -/
inductive BankState where
  | empty | staged | retiring
  deriving DecidableEq, Repr

/-- A packet that has passed the arrival checks and lies in a landing path (R249). -/
structure Landed where
  /-- destination, part-local pieces. -/
  pieces : List (Nat × Nat)
  data : Bytes
  /-- part-wide block and counter that the first byte's landing window feeds, in the frame of its arrival. -/
  window : Option (Nat × Nat)
  validCount : Nat
  epoch : Bool
  /-- number of the landing in its partition, by which its requests are known. -/
  id : Nat := 0
  deriving DecidableEq, Repr

/-- A partition (R20, R397, R398). -/
structure Partition where
  /-- tiles in ascending order; 01 R20; set by PART.CREATE. -/
  tiles : List Nat := []
  /-- 1 bit, host die; 01 R20; set by PART.CREATE. -/
  hostDie : Nat := 0
  /-- 1 to 16, virtual function; 01 R20; set by PART.CREATE. -/
  fn : Nat := 1
  /-- 1 bit, Darkroom mode; 15 R397; set by PART.CREATE. -/
  dark : Bool := false
  /-- state code 0 to 6; 15 R398; set by PART.CREATE. -/
  state : PartState := .tainted
  /-- 32 bits, key generation; 15 R403. -/
  gen : BitVec 32 := 0
  /-- memory keys of this generation are loaded; 15 R404. -/
  keys : Bool := false
  /-- 256 bits, job group secret G, if job keys are held; 15 R402. -/
  jobSecret : Option (BitVec 256) := none
  /-- the installed Negative; 08 R236; none. -/
  neg : Option Neg := none
  /-- what the fabric dies keep of a Negative, partition reset included; 09 R253; none. -/
  fab : Option Neg := none
  frame : Frame := {}
  hazard : Hazard := {}
  /-- MHz, the step the regions run at; 14 R374; reference step. -/
  step : Nat := 1500
  /-- 128 bits, Grain seed in force; 03 R90, 08 R217; 0. -/
  seed : BitVec 128 := 0
  /-- fabric time; 11 R313; none before DEVELOP. -/
  ftime : Option FTime := none
  /-- 32 bits, epoch number; 09 R256; 0. -/
  epoch : BitVec 32 := 0
  /-- inactive bank; 09 R258. -/
  bank : BankState := .empty
  /-- staged contents of the inactive bank name this switch Shutter; 09 R257. -/
  switchAt : Option Nat := none
  /-- EPOCH.STAGE completed in the last µs before a Shutter; 09 R258. -/
  switchLate : Bool := false
  /-- fabric time of the last switch; 09 R258. -/
  switchedAt : Nat := 0
  /-- SHA-384 of the last staged image; 09 R257, 15 R420. -/
  imageDigest : Bytes := []
  /-- pending EXPOSE; 16 R437. -/
  expose : Option ExposeReq := none
  /-- DARKSLIDE in progress; 13 R361. -/
  slide : Option SlideOp := none
  /-- other lifecycle operation in progress; 16 R437. -/
  busy : Option Busy := none
  /-- a valid Darkslide lies in the checkpoint areas; 13 R361. -/
  slideValid : Bool := false
  /-- halt_source code of PART.STATUS; 16 R439. -/
  haltSource : Nat := 0
  /-- 8 bits; 16 R439. -/
  haltCode : Byte := 0
  /-- 16 bits; 16 R439. -/
  haltBlock : BitVec 16 := 0xFFFF
  /-- 16 bits, most recent fault of severity 1 or above; 16 R439. -/
  lastFault : BitVec 16 := 0
  /-- Print ring of 16,384 entries, oldest first; 13 R368. -/
  ring : List PrintEnt := []
  /-- origins since the ring was cleared, oldest first; 13 R369. -/
  origins : List Origin := []
  /-- epoch switches: Exposure index and epoch number; 13 R370. -/
  switches : List (Nat × Nat) := []
  /-- packets checked and not yet landed, oldest first; 09 R249. -/
  landing : List Landed := []
  /-- landings of the partition so far, which numbers them. -/
  landings : Nat := 0
  /-- tokens received by valid_count in the Exposure; 09 R267. -/
  tokens : Nat := 0
  /-- packets with the last flag by index of landing window; 09 R263. -/
  flagged : FMap Nat := []
  /-- log index of the partition's PART.CREATE; 18 R494. -/
  created : Nat := 0
  /-- packets refused at arrival check 5 while not RUNNING; 09 R248. -/
  discarded : Nat := 0
  deriving DecidableEq, Repr

end Sys2Proof.Machine
end

