-- ==== Sys2Proof/Machine/StFabric.lean ====
section
/-! DEFINITION. State of the fabric dies and Golre ports (09, 10, 11). -/

namespace Sys2Proof.Machine

/-! ### Packets and the schedule side of a port (09) -/

/-- A packet as it travels: its 32-byte header (R241), its payload or ciphertext, and its tag in Darkroom mode. -/
structure Packet where
  head : Bytes
  body : Bytes
  tag : Bytes
  deriving DecidableEq, Repr

/-- Contents of a staging range (R171): what has been committed for one slot table entry in this frame. -/
structure Staged where
  /-- logical block that commits, part-wide. -/
  block : Nat
  data : Bytes
  /-- region cycle of the stated completion, once every unit is written. -/
  ready : Option Nat
  validCount : Nat
  deriving DecidableEq, Repr

/-- A packet in a transit buffer: its virtual channel and the slot time in which its last flow unit arrived, negative for one of
an earlier frame (R251). -/
structure Transit where
  pkt : Packet
  vc : Nat
  arrived : Int
  deriving DecidableEq, Repr

/-- The schedule side of a port: slot tables, epoch bank and staging ring. -/
structure PortTx where
  /-- up to 16,384 entries of 32 bytes, bank 0; 09 R256; reset empty. -/
  bank0 : List SlotEnt := []
  /-- bank 1; 09 R256; reset empty. -/
  bank1 : List SlotEnt := []
  /-- active bank; 09 R256; reset 0. -/
  bank : Bool := false
  /-- index of the next entry to depart in this frame; 06 R171; reset 0. -/
  depIdx : Nat := 0
  /-- staging ring of 4 MiB by entry; 06 R171; reset empty. -/
  staging : FMap Staged := []
  /-- transit buffer of 8 packets, oldest first; 09 R251; reset empty. -/
  transit : List Transit := []
  /-- service packets of Critra firmware that wait to depart; 09 R246; reset empty. -/
  service : List Packet := []
  /-- 58 bits, packet sequence for the job key; 09 R265; reset DESIGN CHOICE 0 (entry 7). -/
  seq : Nat := 0
  /-- retry debt in flow-unit times; 02 R43; reset 0. -/
  debt : Nat := 0
  /-- debt added in this frame; 02 R44; reset 0. -/
  debtAdded : Nat := 0
  /-- the event 0x0202 of this frame is recorded; 02 R44; reset false. -/
  exceeded : Bool := false
  /-- slot times of this port passed in the frame; 02 R38; reset 0. -/
  slotNow : Nat := 0
  /-- next slot table position that the port reaches; 02 R43, 09 R244; reset 0. -/
  pos : Nat := 0
  /-- flow-unit times from the Shutter before which the port starts no packet; 10 R273; reset 0. -/
  wireFree : Nat := 0
  /-- a transit packet waits at the RESERVED position `pos` for credit or replay buffer; 10 R285 R290; reset false. -/
  held : Bool := false
  deriving DecidableEq, Repr

/-- The tables of one fabric die. -/
structure Die where
  /-- partition whose Negative is installed; 09 R240; reset none. -/
  owner : Option Nat := none
  /-- 16 bits, job tag; 09 R240; reset none. -/
  jobTag : Option (BitVec 16) := none
  /-- hop table of bank 0; 09 R256; reset empty. -/
  hop0 : List HopEnt := []
  /-- hop table of bank 1; 09 R256; reset empty. -/
  hop1 : List HopEnt := []
  /-- active bank; 09 R256; reset 0. -/
  bank : Bool := false
  /-- the agreement of job keys that a DEVELOP without its tables runs: job tag, own part_id, hop table of bank 0 by part-local
  port; 15 R410; reset none. -/
  agree : Option (Nat × Nat × List HopEnt) := none
  deriving DecidableEq, Repr

/-! ### The link side of a port (10) -/

/-- States of a port, in the order of their codes (R294, R312). -/
inductive LinkState where
  | off | training | up | remapping | retraining | degraded | down
  deriving DecidableEq, Repr

/-- A packet flow unit held for replay (R282): what a rewind sends unchanged. -/
structure TxUnit where
  sop : Bool
  vc : Nat
  service : Bool
  /-- the units field: u on a sop unit, else 0. -/
  units : Nat
  /-- 240 carried bytes. -/
  carried : Bytes
  deriving DecidableEq, Repr

/-- A credit pool at the sender (R289). -/
structure CreditPool where
  advertised : Nat := 0
  consumed : BitVec 16 := 0
  returned : BitVec 16 := 0
  deriving DecidableEq, Repr

/-- A credit pool at the receiver (R288, R289). -/
structure RxPool where
  size : Nat := 0
  used : Nat := 0
  freed : BitVec 16 := 0
  deriving DecidableEq, Repr

/-- A packet in assembly at a receiver. -/
structure Assembly where
  vc : Nat
  service : Bool
  units : Nat
  got : Bytes
  deriving DecidableEq, Repr

/-- Counters of a port (R303). -/
structure PortCounters where
  fecCorrected : FMap Nat := []
  uncorrectable : Nat := 0
  invalid : Nat := 0
  naksSent : Nat := 0
  naksReceived : Nat := 0
  rewinds : Nat := 0
  resent : Nat := 0
  spilled : Nat := 0
  spillReads : Nat := 0
  maxOutstanding : Nat := 0
  creditWait : FMap Nat := []
  idleAdded : Nat := 0
  idleDeleted : Nat := 0
  retrains : FMap Nat := []
  remaps : Nat := 0
  reservedTypes : Nat := 0
  droppedDegraded : Nat := 0
  /-- packets that arrived while the die held no Negative (09 R240). -/
  droppedBare : Nat := 0
  beaconsIgnored : Nat := 0
  delaysDiscarded : Nat := 0
  deriving DecidableEq, Repr

/-- What a port has measured of the sender at its far end (R318). -/
structure Heard where
  msg : BeaconMsg
  /-- receive stamp. -/
  rx : BitVec 32
  /-- own time minus sender's time, ns, once a beacon has been echoed. -/
  theta : Option Int
  /-- own fabric time at arrival, ns. -/
  at_ : Nat
  deriving DecidableEq, Repr

/-- Verdicts of the identity check, in the order of their codes (R310). -/
inductive Verdict where
  | none_ | match_ | matchFar | unplanned | mismatch | swapped | loopback
  deriving DecidableEq, Repr

/-- One Golre port. -/
structure Port where
  /-- link state; 10 R294; reset TRAINING on a fitted die (entry 1). -/
  state : LinkState := .training
  /-- 16 bits; 10 R279; reset 0. -/
  nextSeq : BitVec 16 := 0
  /-- 16 bits; 10 R279; reset 0. -/
  ackBase : BitVec 16 := 0
  /-- units from ack_base to next_seq − 1, oldest first; 10 R279 R284; reset empty. -/
  replay : List TxUnit := []
  /-- units of `replay`, from the oldest, that lie in the spill queue or ring; 10 R284; reset 0. -/
  spilled : Nat := 0
  /-- part-local addresses of those that lie in the ring, oldest first; 10 R284; reset empty. -/
  ringAt : List Nat := []
  /-- spill queue, oldest first: ring address, and D of its write in ns of `now`; 10 R284, 07 R195; reset empty. -/
  queued : List (Nat × Nat) := []
  /-- units of packets that have begun to depart and wait for the replay buffer; 10 R285; reset empty. -/
  toSend : List TxUnit := []
  /-- entries of the spill ring reserved so far; 10 R284; reset 0. -/
  ringNext : Nat := 0
  /-- ns of `now` at the rewinds of the last 100 µs; 10 R296; reset empty. -/
  rewinds : List Nat := []
  /-- 16 bits, E of the receiver; 10 R277; reset 0. -/
  expect : BitVec 16 := 0
  /-- 1 bit; 10 R277; reset 0. -/
  nakState : Bool := false
  /-- packet in assembly; 10 R302; reset none. -/
  asm : Option Assembly := none
  /-- whole packets in the receive buffer with virtual channel and units, oldest first; 10 R288; reset empty. -/
  rx : List (Packet × Nat × Nat) := []
  /-- credit pools at the sender, key 16·type + 8·class + vc, type 0 headers and 1 data; 10 R289; reset empty. -/
  credits : FMap CreditPool := []
  /-- credit pools at the receiver, same keys; 10 R288; reset empty. -/
  pools : FMap RxPool := []
  /-- pool whose count the next unit carries; 10 R289; reset 0. -/
  rotate : Nat := 0
  /-- virtual channels in use; 10 R287; reset 0. -/
  vcs : Nat := 0
  /-- RTT of the last training, ns; 10 R295; reset 0. -/
  rtt : Nat := 0
  /-- link state was lost: the next training is fresh; 10 R295; reset true. -/
  fresh : Bool := true
  /-- reason of the retrain in progress; 10 R296; reset none. -/
  reason : Option Nat := none
  /-- this end leads the training; 10 R297; reset true. -/
  leader : Bool := true
  /-- lanes declared failed in the receiving direction; 10 R272; reset empty. -/
  failedRx : List Nat := []
  /-- data lane being remapped, receiving direction; 10 R298; reset none. -/
  remapRx : Option Nat := none
  /-- a remap of the sending direction awaits the far end's NAK; 10 R298; reset false. -/
  remapTx : Bool := false
  /-- firmware is to retrain the port once its die holds no Negative; 10 R293 R299; reset false. -/
  wantRetrain : Bool := false
  /-- the port has lost its second lane; 10 R299; reset false. -/
  halved : Bool := false
  /-- data lane that the spare carries, receiving direction; 10 R298; reset none. -/
  spareRx : Option Nat := none
  /-- data lane that the spare carries, sending direction; 10 R298; reset none. -/
  spareTx : Option Nat := none
  /-- the unused spare has failed, receiving direction; 10 R272; reset false. -/
  spareBad : Bool := false
  /-- spill area in flow units; 10 R284; reset 0. -/
  spillUnits : Nat := 0
  /-- verdict; 11 R310; reset NONE. -/
  verdict : Verdict := .none_
  /-- swapped partner; 11 R311; reset none. -/
  partner : Option Nat := none
  /-- generation of the plan used for the verdict; 11 R312; reset 0. -/
  planGen : BitVec 32 := 0
  /-- 64 bits; 11 R312; reset 0. -/
  seenSerial : BitVec 64 := 0
  /-- 8 bits; 11 R312; reset 0. -/
  seenPort : Nat := 0
  /-- a training has completed since power-on; 11 R312; reset false. -/
  trained : Bool := false
  /-- 64 bits, audit time of the last training; 11 R312; reset 0. -/
  trainedAt : BitVec 64 := 0
  /-- crosspoint partner; 09 R254; reset none. -/
  patch : Option Nat := none
  /-- latest beacon used on this port; 11 R316 R318; reset none. -/
  heard : Option Heard := none
  /-- last 16 path delays; 11 R318; reset empty. -/
  delays : List Int := []
  /-- flagged packets and counters; 10 R303; reset 0. -/
  cnt : PortCounters := {}
  deriving DecidableEq, Repr

/-- One direction of a bond link (R286): the sequence and replay state of its sender and receiver, and the credits of its one
virtual channel, by class: headers and data units in use. -/
structure BondDir where
  /-- 16 bits; 10 R279 R286; reset 0. -/
  nextSeq : BitVec 16 := 0
  /-- 16 bits; 10 R279 R286; reset 0. -/
  ackBase : BitVec 16 := 0
  /-- 16 bits, E of the receiver; 10 R277 R286; reset 0. -/
  expect : BitVec 16 := 0
  /-- up to 256 units kept for replay, oldest first; 10 R286; reset empty. -/
  replay : List TxUnit := []
  /-- headers and data units in use, scheduled class; 10 R286; reset 0. -/
  sched : Nat × Nat := (0, 0)
  /-- headers and data units in use, service class; 10 R286; reset 0. -/
  serv : Nat × Nat := (0, 0)
  deriving DecidableEq, Repr

/-- One bond link (R286): lanes 0 to 65 of one direction and 66 to 131 of the other, spares last. -/
structure Bond where
  /-- failed lanes; 10 R286; reset empty. -/
  failed : List Nat := []
  /-- the direction from the first of its dies; 10 R286; reset at its reset values. -/
  forth : BondDir := {}
  /-- the direction to it; 10 R286; reset at its reset values. -/
  back : BondDir := {}
  deriving DecidableEq, Repr

end Sys2Proof.Machine
end

