-- ==== Sys2Proof/Machine/StHost.lean ====
section
/-! DEFINITION. State of the host endpoints: mailboxes, registers, queues, interrupts, TDIs, SPDM sessions and IDE streams
(15 R405 to R408, 16 R430 to R435, 17). -/

namespace Sys2Proof.Machine

/-- States of a mailbox (R431). -/
inductive MboxState where
  | idle | running | done
  deriving DecidableEq, Repr

/-- A mailbox page (R431, R432). -/
structure Mbox where
  /-- 32 bits, sequence of the last accepted command; 16 R432; reset none. -/
  lastSeq : Option (BitVec 32) := none
  /-- 8 bits; 16 R431; reset IDLE. -/
  state : MboxState := .idle
  /-- 16 bits, command code; 16 R431; reset 0. -/
  command : BitVec 16 := 0
  /-- 16 bits; 16 R431; reset 0. -/
  target : BitVec 16 := 0
  /-- 16 bits, request payload bytes; 16 R431; reset 0. -/
  length : BitVec 16 := 0
  /-- 64 bits; 16 R431; reset 0. -/
  tag : BitVec 64 := 0
  /-- 8 bits; 16 R431; reset 0. -/
  status : Byte := 0
  /-- response payload, resp_length being its length; 16 R431; reset empty. -/
  resp : Bytes := []
  /-- 16 bits, fault of the first log entry that the command raised; 16 R431; reset 0. -/
  fault : BitVec 16 := 0
  /-- 32 bits, its index; 16 R431; reset 0. -/
  logIndex : BitVec 32 := 0
  /-- 32 bits, doorbell writes ignored; 16 R432; reset 0. -/
  ignored : Nat := 0
  deriving DecidableEq, Repr

/-- States of a TDI, in the order of their codes (R408, R418). -/
inductive TdiState where
  | unlocked | locked | run | error
  deriving DecidableEq, Repr

/-- A DMA queue (R471, R474). -/
structure Queue where
  /-- 64 bits, ring address, low 12 bits 0; 17 R471; reset 0. -/
  base : BitVec 64 := 0
  /-- 4 bits; 17 R471; reset 0. -/
  size : BitVec 4 := 0
  /-- 1 bit; 17 R471; reset 0. -/
  enable : Bool := false
  /-- 1 bit, expected phase; 17 R471; reset 0. -/
  phase : Bool := false
  /-- 12 bits; 17 R471; reset 0. -/
  head : BitVec 12 := 0
  /-- 32 bits, HIF_QDONE; 17 R471; reset 0. -/
  done : BitVec 32 := 0
  /-- descriptor in execution, busy reads 1 while there is one; 17 R474; reset none. -/
  cur : Option Descriptor := none
  /-- status that the checks before the transfer gave the descriptor in execution; 17 R473; reset 0. -/
  verdict : Byte := 0
  /-- part-local address in a store of a running partition that the descriptor in execution is writing, with the bytes that
  free values stand in for meanwhile; 04 R112; reset none. -/
  underway : Option (Nat × Bytes) := none
  /-- a doorbell came while the queue executed; 17 R474; reset false. -/
  again : Bool := false
  deriving DecidableEq, Repr

/-- One PCIe function and the registers of its BAR0. -/
structure Func where
  mbox : Mbox := {}
  /-- 32 bits, HIF_CAUSE; 17 R468; reset 0. -/
  cause : BitVec 32 := 0
  /-- 32 bits, HIF_CAUSE_MASK; 17 R468; reset 0. -/
  mask : BitVec 32 := 0
  /-- 32 bits, HIF_ERR; 17 R469; reset 0. -/
  err : BitVec 32 := 0
  /-- 32 bits, HIF_ERR_COUNT; 17 R469; reset 0. -/
  errCount : BitVec 32 := 0
  /-- 12 bits, HIF_WINDOW.base; 17 R466; reset DESIGN CHOICE 0 (entry 6). -/
  window : BitVec 12 := 0
  /-- 1 bit, HIF_POST.post; 17 R465; reset 0. -/
  post : Bool := false
  /-- host writes into posting buffers that had reached the host die at the post and have not landed; 17 R465; reset 0. -/
  postWaits : Nat := 0
  /-- 16 bits, HIF_POST.taken; 17 R465; reset 0. -/
  taken : BitVec 16 := 0
  /-- 32 bits, HIF_COMMIT; 17 R470; reset 0. -/
  commit : BitVec 32 := 0
  /-- eight queues; 17 R471; reset each at its reset values. -/
  queues : FMap Queue := []
  /-- 1 bit, MSI-X function mask; 17 R468; reset 0. -/
  msixMask : Bool := false
  /-- 16 bits, MSI-X per-vector masks; 17 R468; reset PRESUMED all ones, as PCIe gives (entry 6). -/
  vecMask : BitVec 16 := 0xFFFF
  /-- 16 bits, MSI-X pending bit array; 17 R468; reset 0. -/
  pba : BitVec 16 := 0
  /-- 32 bits each, MSI-X table entries: address and data; 17 R462; reset 0. -/
  msixAddr : FMap (BitVec 64) := []
  msixData : FMap (BitVec 32) := []
  /-- 16 bits, ERR_PART_LAST; 17 R476; reset 0. -/
  partLast : BitVec 16 := 0
  /-- 32 bits, ERR_PART_COUNT; 17 R476; reset 0. -/
  partCount : BitVec 32 := 0
  /-- 4 bits, PWR_EVENTS; 14 R395; reset 0. -/
  pwrEvents : BitVec 4 := 0
  /-- TDI state; 15 R408; reset CONFIG_UNLOCKED. -/
  tdi : TdiState := .unlocked
  /-- selective IDE stream bound to the TDI; 15 R408; reset none. -/
  stream : Option Nat := none
  /-- start interface nonce of the lock, 32 bytes; 15 R408; reset empty. -/
  nonce : Bytes := []
  deriving DecidableEq, Repr

/-- A key set of an IDE stream and sub-stream direction (R407). -/
structure IdeKey where
  stream : Nat
  set_ : Bool
  /-- direction and sub-stream, as IDE_KM numbers them. -/
  sub : Nat
  key : BitVec 256
  iv : BitVec 64
  active : Bool
  deriving DecidableEq, Repr

/-- An SPDM secured session (R405). -/
structure SpdmSession where
  id : Nat
  /-- FINISH has been received. -/
  open_ : Bool
  /-- handshake and traffic secret, opaque to everything outside. -/
  secret : BitVec 384
  /-- key updates so far. -/
  updates : Nat
  deriving DecidableEq, Repr

/-- Progress of the SPDM connection of an endpoint (R405). -/
inductive SpdmConn where
  | start | version | capabilities | negotiated
  deriving DecidableEq, Repr

/-- One host die and its PCIe endpoint. -/
structure Endpoint where
  /-- 1 bit, enabled in the settings at the last warm reset; 16 R452, 17 R458; reset 1. -/
  enabled : Bool := true
  /-- 1 bit, link up; 17 R458; reset PRESUMED 1: the state after bring-up (entry 1). -/
  linkUp : Bool := true
  /-- 1 bit, level of HOSTn_PERST_N, true while released; 20 R516; reset 1 (entry 1). -/
  perstReleased : Bool := true
  /-- 16 bits, NumVFs; 17 R458 R459; reset PRESUMED 0, as PCIe gives (entry 6). -/
  numVfs : Nat := 0
  /-- 1 bit, VF Enable; 17 R459; reset 0. -/
  vfEnable : Bool := false
  /-- functions 0 to 16; 17 R459; reset each at its reset values. -/
  funcs : FMap Func := []
  /-- SPDM connection state; 15 R405; reset start. -/
  spdm : SpdmConn := .start
  /-- up to four sessions; 15 R405; reset empty. -/
  sessions : List SpdmSession := []
  /-- secured sessions opened so far, for session numbers; 15 R405; reset 0. -/
  opened : Nat := 0
  /-- bytes of one message that the requester accepts, 0 before it has said so; 15 R405; reset 0. -/
  dataSize : Nat := 0
  /-- handle and sequence number of the chunked transfer in progress; 15 R405; reset 0. -/
  chunkHandle : Nat := 0
  chunkSeq : Nat := 0
  /-- large request received in chunks so far; 15 R405; reset empty. -/
  chunkIn : Bytes := []
  /-- a large response waiting to be read in chunks; 15 R405; reset empty. -/
  chunkOut : Bytes := []
  /-- IDE stream keys; 15 R407; reset empty. -/
  ide : List IdeKey := []
  /-- IDE streams in the secure state; 15 R407; reset empty. -/
  secure : List Nat := []
  deriving DecidableEq, Repr

end Sys2Proof.Machine
end

