-- ==== Sys2Proof/Machine/StLog.lean ====
section
/-! DEFINITION. State of the part log (18 R491, R492). -/

namespace Sys2Proof.Machine

/-- A log entry: base entry and its continuations (R492). -/
structure LogEntry where
  /-- 64 bits. -/
  index : Nat
  /-- 64 bits. -/
  time : BitVec 64
  code : BitVec 16
  /-- partition index, 0xFF for a part-wide entry. -/
  part : Byte
  /-- audit time state, flags [4:2]. -/
  tstate : BitVec 3
  physValid : Bool
  /-- unit kind [15:12] and physical index [11:0]. -/
  phys : BitVec 16
  logical : BitVec 16
  detail : BitVec 32
  count : BitVec 32
  /-- 24 bytes each. -/
  conts : List Bytes
  deriving DecidableEq, Repr

/-- The part log. -/
structure Log where
  /-- 64 bits, next log index; 18 R491; reset 1: index 0 holds the RESET_RECORD of the power-on. -/
  next : Nat := 1
  /-- up to 131,072 entries of 32 bytes in NVM; 18 R491; reset the RESET_RECORD of the power-on. -/
  ring : List LogEntry := []
  /-- up to 4,096 entries of 32 bytes not yet committed; 18 R491; reset empty. -/
  buf : List LogEntry := []
  /-- entries lost to a full buffer; 18 R491; reset 0. -/
  lost : Nat := 0
  /-- occurrences counted since the previous entry, by code and unit; 18 R492; reset empty. -/
  occ : FMap Nat := []
  /-- uncorrectable errors by physical block position, 7·region + position; 04 R121; reset empty. -/
  blockErrs : FMap Nat := []
  /-- once-per-Exposure events already logged, as partition, code and unit; 02 R60; reset empty. -/
  once : List (Nat × Nat × Nat) := []
  /-- hourly events: time of the last entry in seconds, by partition, code; 17 R467; reset empty. -/
  hour : FMap Nat := []
  deriving DecidableEq, Repr

end Sys2Proof.Machine
end

