-- ==== Sys2Proof/Machine/StMgmt.lean ====
section
/-! DEFINITION. State of management: sessions, ownership, credentials, settings, firmware images and NVM (16). -/

namespace Sys2Proof.Machine

/-- Roles of a session (R445, R448). -/
inductive Role where
  | operator | observer
  deriving DecidableEq, Repr

/-- A management session (R444, R446). -/
structure Session where
  role : Role
  /-- credential slot that authenticated it. -/
  slot : Nat
  mbox : Mbox := {}
  deriving DecidableEq, Repr

/-- A credential slot (R448). -/
structure Credential where
  role : Role
  /-- 0 pinned leaf, 1 issuing authority. -/
  authority : Bool
  cert : Bytes
  deriving DecidableEq, Repr

/-- The persistent settings (R452). -/
structure Settings where
  /-- 1 byte, id 0x01; 16 R452; reset 0. -/
  capClass : Byte := 0
  /-- 4 bytes, id 0x02; 16 R452; reset 1,000,000. -/
  jump : BitVec 32 := 1000000
  /-- 1 byte, id 0x03; 16 R452; reset 0. -/
  ptpEnable : Byte := 0
  /-- 1 byte, id 0x04; 16 R452; reset 0. -/
  ptpTransport : Byte := 0
  /-- 1 byte, id 0x05; 16 R452; reset 0. -/
  ptpDomain : Byte := 0
  /-- 1 byte, id 0x06; 16 R452; reset 0. -/
  iface : Byte := 0
  /-- 12 bytes, id 0x07; 16 R452; reset 0. -/
  ipv4 : Bytes := List.replicate 12 0
  /-- 36 bytes, id 0x08; 16 R452; reset 0. -/
  ipv6 : Bytes := List.replicate 36 0
  /-- 1 byte, id 0x09; 16 R452; reset 0x03. -/
  endpoints : Byte := 3
  deriving DecidableEq, Repr

/-- A Critra firmware image in a slot, with what the checks read of it (R453). -/
structure FwImage where
  /-- 32 bits. -/
  version : BitVec 32
  svn : BitVec 32
  /-- 48 bytes, SHA-384 of the whole image. -/
  digest : Bytes
  /-- DPIs listed for each stepping. -/
  dpis : FMap (List (BitVec 32))
  /-- the signature verifies under the Kodrira root. -/
  genuine : Bool
  deriving DecidableEq, Repr

/-- An open firmware staging (R454). -/
structure Staging where
  session : Nat
  total : Nat
  got : Bytes
  deriving DecidableEq, Repr

/-- Record of a partition kept in NVM (R480), by its index. -/
structure PartRecord where
  tiles : List Nat
  hostDie : Nat
  fn : Nat
  dark : Bool
  faulted : Bool
  scrubbing : Bool
  /-- log index of its PART.CREATE, which LOG.READ needs after a reset (R494). -/
  created : Nat
  deriving DecidableEq, Repr

/-- A port entry of the cable plan (R308): a far end only where one is named. -/
structure PlanPort where
  linked : Bool
  vc : Nat
  nbPart : BitVec 12
  nbPort : Nat
  nbSerial : BitVec 64
  far : Option (BitVec 12 × Nat × BitVec 64)
  asym : Int
  deriving DecidableEq, Repr

/-- A cable plan (R307). -/
structure Plan where
  partId : BitVec 12
  pod : BitVec 16
  generation : BitVec 32
  jump : Nat
  ports : List PlanPort
  deriving DecidableEq, Repr

/-- The non-volatile memory of the control die (R450). -/
structure Nvm where
  /-- 8 MiB, firmware image A; 16 R450; reset DESIGN CHOICE one genuine image of version 1 (entry 2). -/
  imageA : Option FwImage := none
  /-- 8 MiB, firmware image B; 16 R450; reset DESIGN CHOICE none (entry 2). -/
  imageB : Option FwImage := none
  /-- slot selected for the next boot, false A; 16 R451 R455; reset DESIGN CHOICE A (entry 2). -/
  selectB : Bool := false
  /-- stored settings; 16 R452; reset the defaults. -/
  settings : Settings := {}
  /-- spare remap table: the logical block that the spare of a region carries; 04 R118; reset DESIGN CHOICE empty (entry 2). -/
  remap : FMap Nat := []
  /-- cable plan; 11 R309, 16 R450; reset DESIGN CHOICE none (entry 2). -/
  plan : Option Plan := none
  /-- 32 credential slots; 16 R448; reset DESIGN CHOICE empty (entry 2). -/
  creds : FMap Credential := []
  /-- 32 bits, generation counter; 15 R403; reset DESIGN CHOICE 0 (entry 2). -/
  generation : BitVec 32 := 0
  /-- partition records; 18 R480; reset DESIGN CHOICE empty (entry 2). -/
  records : FMap PartRecord := []
  /-- 64 bits, sequence of the last commit record; 16 R451; reset DESIGN CHOICE 0 (entry 2). -/
  sequence : Nat := 0
  /-- commit records in the ring of 1024; 16 R451; reset DESIGN CHOICE 0 (entry 2). -/
  ringUsed : Nat := 0
  /-- a part-fatal EASEL_FAULT kept for the next bring-up; 18 R488; reset none. -/
  easelFault : Bool := false
  deriving DecidableEq, Repr

/-- What manufacture fixes (R3, R349, R400, R406, R438, R506). -/
structure Identity where
  /-- 64 bits, part serial; 16 R438; reset DESIGN CHOICE 1 (entry 2). -/
  serial : BitVec 64 := 1
  /-- 8 bits, stepping; 16 R438; reset DESIGN CHOICE 1 (entry 2). -/
  stepping : Byte := 1
  /-- 1 bit, active control die, false A; 16 R438; reset DESIGN CHOICE A (entry 2). -/
  dieB : Bool := false
  /-- the first DPIs reported, 1 to 16, with their reference steps in MHz; 13 R349; reset DESIGN CHOICE one, 1 at 1500 (entry 2). -/
  dpis : List (BitVec 32 × Nat) := [(1, 1500)]
  /-- 24 bytes, ordering code in ASCII, padded with spaces; 20 R518 R523; reset DESIGN CHOICE ZX960-B1-S (entry 2). -/
  ordering : Bytes := [0x5A, 0x58, 0x39, 0x36, 0x30, 0x2D, 0x42, 0x31, 0x2D, 0x53] ++ List.replicate 14 0x20
  /-- 32 bits, day of manufacture since 1970-01-01; 20 R518; reset DESIGN CHOICE 0 (entry 2). -/
  manufactured : BitVec 32 := 0
  /-- 11 bits, JEP106 identity of Kodrira Microsystems; 19 R506; reset DESIGN CHOICE 0 (entry 2). -/
  jep106 : BitVec 11 := 0
  /-- 48 bytes, SHA-384 of the boot ROM; 15 R418; reset DESIGN CHOICE zeros (entry 2). -/
  romDigest : Bytes := List.replicate 48 0
  /-- 256 bits, root secret RS; 15 R400; reset DESIGN CHOICE 0 (entry 2). -/
  rootSecret : BitVec 256 := 0
  /-- 384 bits, identity private key; 15 R400; reset DESIGN CHOICE 1 (entry 2). -/
  idKey : BitVec 384 := 1
  /-- slot 0 chain in DER: root, authority, device; 15 R406; reset DESIGN CHOICE empty (entry 2). -/
  chain : Bytes := []
  deriving DecidableEq, Repr

end Sys2Proof.Machine
end

