-- ==== Sys2Proof/Machine/StPower.lean ====
section
/-! DEFINITION. State of clocks, power, temperature, bring-up, the monitor and the JTAG port (14, 18, 19, 20). -/

namespace Sys2Proof.Machine

/-- A reservation of the governor (R390). -/
structure Reservation where
  part : Nat
  watts : Nat
  deriving DecidableEq, Repr

/-- Ranks of the part-level arbiter, in order (07 R195). -/
inductive PartRank where
  | spill | checkpoint | service | host | scrub | patrol
  deriving DecidableEq, Repr

/-- A request of the part-level arbiter that waits for command slots of a stack (07 R195, R196): lines not yet granted. -/
structure PartReq where
  rank : PartRank
  /-- D in ns of `now`, none where the requester has none. -/
  d : Option Nat
  stack : Nat
  lines : Nat
  /-- Golre port of a spill write. -/
  port : Option Nat
  deriving DecidableEq, Repr

/-- Clocks, power and temperature. -/
structure Power where
  /-- 2 bits, current power-cap class; 14 R387 R388; reset 0, the stored setting. -/
  cls : Nat := 0
  /-- W, the power average A_1 last measured; 14 R389; reset 0. -/
  a1 : Nat := 0
  /-- W, A_20 last measured; 14 R389; reset 0. -/
  a20 : Nat := 0
  /-- mV, input voltage; 14 R395; reset PRESUMED 48000 (entry 1). -/
  millivolts : Nat := 48000
  /-- reservation list; 14 R390; reset empty. -/
  reservations : List Reservation := []
  /-- the fast limiter acts, on these regions; 14 R392; reset none. -/
  limiter : Option (List Nat) := none
  /-- °C by die, key 64·kind + index; 14 R393; reset none read. -/
  temps : FMap Int := []
  /-- dies at or above their warning threshold; 14 R393; reset empty. -/
  warn : List Nat := []
  /-- dies at or above their limiter threshold; 14 R393; reset empty. -/
  limit : List Nat := []
  /-- stacks with doubled refresh; 07 R192; reset empty. -/
  doubled : List Nat := []
  /-- stacks whose last reading lies above 85 °C; 07 R192; reset empty. -/
  hot : List Nat := []
  /-- tiles reported as degraded; 14 R386, 07 R194, 04 R119; reset empty. -/
  degraded : List Nat := []
  /-- pseudo-channels marked failed, 64·stack + channel; 07 R194; reset empty. -/
  failedChannels : List Nat := []
  /-- domains switched off that the bring-up switches on: host, fabric, stack; 14 R383; reset empty. -/
  off : List Domain := []
  /-- tiles whose SRAM and region domains are on; 14 R383; reset empty. -/
  tilesOn : List Nat := []
  /-- stopped region generators of powered tiles that have been woken; 14 R379; reset empty. -/
  awake : List Nat := []
  /-- regions whose clock is gated by SUPPLY_LOW until the next Shutter; 14 R378; reset empty. -/
  gated : List Nat := []
  /-- lines granted to part-level traffic on a stack in the current 10 µs window; 07 R196; reset empty. -/
  lines : FMap Nat := []
  /-- part-level requests that wait for a grant, oldest first; 07 R195 R196; reset empty. -/
  waiting : List PartReq := []
  deriving DecidableEq, Repr

/-- Progress of bring-up and of resets (R478 to R485, R487, R488). -/
structure Boot where
  /-- step of R481 last completed, 9 when READY; 18 R481; reset 9 (entry 1). -/
  step : Nat := 9
  /-- part-fatal fault in force; 18 R488; reset none. -/
  fatal : Option (BitVec 16) := none
  /-- the Easel cores have stopped answering; 18 R488; reset false. -/
  easelDead : Bool := false
  /-- block positions that failed self-test: region and position; 04 R119; reset DESIGN CHOICE none (entry 2). -/
  failing : List (Nat × Nat) := []
  /-- a RESET kind 1 waits for its 10 ms; 16 R439; reset none. -/
  warmPending : Bool := false
  /-- WARM_RESET_N is held low; 18 R482; reset false. -/
  held : Bool := false
  /-- 48 V stands in range; 18 R481; reset true (entry 1). -/
  supply48 : Bool := true
  /-- standby stands in range; 18 R481; reset true (entry 1). -/
  standby : Bool := true
  deriving DecidableEq, Repr

/-- The Safelight monitor. -/
structure Monitor where
  /-- 1 bit, MON_EN was low at the last release of reset; 19 R497; reset DESIGN CHOICE enabled (entry 1). -/
  enabled : Bool := true
  /-- a prof stream: part-wide block, k and ending Shutters left to the next print; 19 R500; reset none. -/
  prof : Option (Nat × Nat × Nat) := none
  /-- lines dropped since the last DROPPED line; 19 R502; reset 0. -/
  dropped : Nat := 0
  deriving DecidableEq, Repr

/-- The JTAG port. -/
structure Jtag where
  /-- 8 bits, instruction register; 19 R505; reset 0x01, IDCODE. -/
  ir : Byte := 1
  /-- logical block chosen by DEBUG_SELECT; 19 R506; reset DESIGN CHOICE none (entry 1). -/
  select : Option Nat := none
  /-- data register last captured; 19 R506; reset DESIGN CHOICE 0 (entry 1). -/
  dr : BitVec 1024 := 0
  deriving DecidableEq, Repr

end Sys2Proof.Machine
end

