-- ==== Sys2Proof/Machine/StTime.lean ====
section
/-! DEFINITION. State of the time unit and of the PTP servo (12). -/

namespace Sys2Proof.Machine

/-- A PTP exchange: the measured round trip and offset, ns (R340). -/
structure Exchange where
  roundTrip : Int
  offset : Int
  deriving DecidableEq, Repr

/-- What an Announce message says of a master (R339). -/
structure Master where
  /-- 64 bits, clock identity. -/
  identity : Nat
  /-- rank under the best master clock algorithm, lower is better. -/
  rank : Nat
  /-- logSyncInterval. -/
  logSync : Int
  utcOffset : Byte
  utcValid : Bool
  deriving DecidableEq, Repr

/-- The time unit on the control die. -/
structure TimeUnit where
  /-- 56 bits, accumulator: [55:24] whole ns, [23:0] fraction; 12 R328; reset 0. -/
  acc : BitVec 56 := 0
  /-- 32 bits, TIM_INC; 12 R330; reset 0x0A000000. -/
  inc : BitVec 32 := 0x0A000000
  /-- 32 bits, rate that the discipline asks for while no slew runs; 12 R332 R337; reset 0x0A000000. -/
  disciplined : BitVec 32 := 0x0A000000
  /-- 3 bits, TIM_STATUS.state: 0 FREE, 1 SET, 2 ACQUIRING, 3 TRACKING, 4 HOLDOVER; 12 R332 R336; reset 0. -/
  state : BitVec 3 := 0
  /-- 1 bit, TIM_STATUS.slewing; 12 R332; reset 0. -/
  slewing : Bool := false
  /-- ns still to absorb by a running slew; 12 R337; reset 0. -/
  slewLeft : Nat := 0
  /-- 1 bit, TIM_STATUS.jump_refused; 12 R332; reset 0. -/
  jumpRefused : Bool := false
  /-- 1 bit, TIM_STATUS.utc_valid; 12 R332; reset 0. -/
  utcValid : Bool := false
  /-- 8 bits, TIM_STATUS.utc_offset; 12 R332; reset 0. -/
  utcOffset : Byte := 0
  /-- 32 bits, TIM_EXT_SEQ; 12 R333; reset 0. -/
  extSeq : BitVec 32 := 0
  /-- 32 bits, TIM_EXT_LO; 12 R333; reset 0. -/
  extLo : BitVec 32 := 0
  /-- 32 bits, TIM_EXT_HI; 12 R333; reset 0. -/
  extHi : BitVec 32 := 0
  /-- refused corrections; 12 R337; reset 0. -/
  refused : Nat := 0
  /-- ns, jump threshold in force; 12 R337, 16 R452; reset 1,000,000. -/
  jump : Nat := 1000000
  /-- no correction has been applied since the last FREE; 12 R336; reset true. -/
  unset : Bool := true
  /-- masters heard and eligible, in order of arrival; 12 R339; reset empty. -/
  masters : List Master := []
  /-- identity of the chosen master; 12 R339; reset none. -/
  master : Option Nat := none
  /-- t2 of the exchange in progress; 12 R340; reset none. -/
  t2 : Option Nat := none
  /-- t1 of the exchange in progress; 12 R340; reset none. -/
  t1 : Option Nat := none
  /-- t3 of the exchange in progress; 12 R340; reset none. -/
  t3 : Option Nat := none
  /-- the last 16 exchanges, oldest first; 12 R340; reset empty. -/
  window : List Exchange := []
  /-- successive offsets within the limit of the next state; 12 R336; reset 0. -/
  good : Nat := 0
  /-- successive refused offsets; 12 R336; reset 0. -/
  bad : Nat := 0
  deriving DecidableEq, Repr

end Sys2Proof.Machine
end

