-- ==== Sys2Proof/Machine/State.lean ====
section
/-! DEFINITION. The state of the part, its reset value, and the ways in which a step can stop. -/

namespace Sys2Proof.Machine

/-- Ways in which a step ends without a next state. -/
inductive Fault where
  /-- Raised by INPUT_SUPPLY_FAULT on an input above 72 V, where the spec promises nothing of the part any more (20 R511).
  Safe: the model stops where the hardware does something unknown. -/
  | inputAbove72V
  deriving DecidableEq, Repr

/-- Why a command is turned away by the model. -/
inductive Refusal where
  /-- Raised by the dispatch for a row without a meaning. Safe: the model stops. -/
  | notModelled (mnemonic : String)
  deriving DecidableEq, Repr

/-- What the part does to the outside world. -/
inductive OutEv where
  /-- an MSI-X message of a vector of function k of endpoint h (17 R468). -/
  | msix (h k vector : Nat)
  /-- an AER uncorrectable internal error of an endpoint (18 R488). -/
  | aer (h : Nat)
  /-- a frame sent to a management session (16 R446, R447). -/
  | frame (session : Nat) (data : Bytes)
  /-- a management connection closed by the part (16 R444). -/
  | closed (session : Nat)
  /-- a connection refused before it has a session number (16 R444). -/
  | refusedConnection
  /-- an SPDM response on the DOE mailbox of an endpoint (15 R405). -/
  | spdm (h : Nat) (data : Bytes)
  /-- completion data of a host read, and whether it is marked poisoned (17 R467). -/
  | readData (h k : Nat) (data : Bytes) (poisoned : Bool)
  /-- a DMA write into host memory (17 R473). -/
  | hostWrite (h : Nat) (addr : Nat) (data : Bytes)
  /-- a flow unit sent by a port (10 R275). -/
  | flowUnit (port : Nat) (data : Bytes)
  /-- a LINK unit sent by a port: its type and its 256 bytes (10 R274, R278). -/
  | link (port : Nat) (type : Nat) (data : Bytes)
  /-- a lane-control word sent on the lanes of a port (10 R271). -/
  | laneControl (port : Nat) (word : BitVec 32)
  /-- what reached the other port of a crosspoint patch leaves by this one, as it came (09 R254, R255). -/
  | passed (port : Nat) (what : Instr)
  /-- a message of the agreement of job keys that firmware hands to the fabric dies: destination and message (15 R410). -/
  | agreement (dest : Nat) (msg : Bytes)
  /-- a line printed by the Safelight monitor: its keyword and the numbers on it (19 R500). -/
  | line (word : String) (nums : List Int)
  /-- a PTP Delay_Req (12 R340). -/
  | delayReq
  /-- bits shifted out of the JTAG port (19 R506). -/
  | tdo (data : Nat)
  deriving DecidableEq, Repr

/-- Levels of the status outputs, true for the asserted state (20 R517). -/
structure Pins where
  /-- PWR_OK; 20 R517; reset true (entry 1). -/
  pwrOk : Bool := true
  /-- FAULT_N asserted; 20 R517; reset false. -/
  fault : Bool := false
  /-- THERM_N asserted; 20 R517; reset false. -/
  therm : Bool := false
  /-- MGMT_PHY_RESET_N held low; 20 R516; reset false. -/
  phyReset : Bool := false
  /-- link of the management PHY as MGMT_PHY_INT_N last reported it; 20 R516; reset PRESUMED true (entry 1). -/
  phyLink : Bool := true
  deriving DecidableEq, Repr

/-- The whole part, and the commands that wait. -/
structure State where
  /-- variant; 01 R2; reset DESIGN CHOICE ZX-960 (entry 1). -/
  model : Variant := .zx960
  /-- what manufacture fixes; 16 R438; reset DESIGN CHOICE (entry 2). -/
  id : Identity := {}
  /-- non-volatile memory; 16 R450; reset DESIGN CHOICE (entry 2). -/
  nvm : Nvm := {}
  /-- partitions by index, the lowest tile; 01 R20, 16 R434; reset empty. -/
  parts : FMap Partition := []
  /-- blocks by part-wide logical index; 04 R97; reset each at its reset values. -/
  blocks : FMap Block := []
  /-- cells by part-wide logical index; 04 R97; reset each at its reset values. -/
  cells : FMap Cell := []
  /-- regions by part-wide logical index; 04 R101 R113; reset each at its reset values. -/
  regions : FMap Region := []
  /-- the model's: blocks before the operations of the bundle that they issue (R125); reset empty (entry 20). -/
  saves : FMap BundleSave := []
  /-- schedule side of the Golre ports 0 to 63; 09 R243; reset each at its reset values. -/
  tx : FMap PortTx := []
  /-- link side of the Golre ports; 10 R294; reset each at its reset values. -/
  ports : FMap Port := []
  /-- fabric dies 0 to 15; 09 R240; reset each at its reset values. -/
  dies : FMap Die := []
  /-- firmware buffers of the control die: service packets that no core has read, oldest first; 09 R246; reset empty. -/
  service : List Packet := []
  /-- bond links 0 to 71; 10 R286; reset each at its reset values. -/
  bonds : FMap Bond := []
  /-- endpoints 0 and 1; 17 R458; reset each at its reset values. -/
  eps : FMap Endpoint := []
  /-- management sessions; 16 R444; reset empty. -/
  sessions : FMap Session := []
  /-- session number given last; 16 R444; reset DESIGN CHOICE 0 (entry 2). -/
  lastSession : Nat := 0
  /-- owner session; 16 R449; reset none. -/
  owner : Option Nat := none
  /-- ns of `now` at the last frame of the owner, from which the lease of 10 s runs; 16 R449; reset 0. -/
  leaseAt : Nat := 0
  /-- current settings; 16 R452; reset the stored settings. -/
  settings : Settings := {}
  /-- open firmware staging; 16 R454; reset none. -/
  staging : Option Staging := none
  /-- staged firmware image and whether it lies in slot B; 16 R454; reset none. -/
  staged : Option (Bool × FwImage) := none
  /-- running firmware image; 16 R455; reset image A (entry 2). -/
  active : FwImage := ⟨1, 1, List.replicate 48 0, [], true⟩
  /-- slot of the running image, true for B; 16 R455; reset DESIGN CHOICE A (entry 2). -/
  activeB : Bool := false
  /-- time unit; 12 R328; reset FREE, 0. -/
  time : TimeUnit := {}
  power : Power := {}
  boot : Boot := {}
  mon : Monitor := {}
  jtag : Jtag := {}
  pins : Pins := {}
  /-- every byte of HBM, region stores and cell stores by part-local address; 07 R185; reset nothing listed (entry 3). -/
  mem : List Host.Cell := []
  /-- 64-byte HBM lines that carry a poison mark, by address / 64; 07 R191; reset empty. -/
  poison : List Nat := []
  /-- the part log; 18 R491. -/
  log : Log := {}
  /-- the model's: ns since power-on, for the hourly limits; reset DESIGN CHOICE 0 (entry 8). -/
  now : Nat := 0
  /-- the model's: what the part has done to the outside, newest first; reset DESIGN CHOICE empty (entry 9). -/
  out : List OutEv := []
  /-- the model's: key of the fast transcendentals of this stepping and firmware; reset DESIGN CHOICE 0 (entry 10). -/
  firmware : Nat := 0
  /-- the model's: number of free values drawn; reset DESIGN CHOICE 0 (entry 10). -/
  free : Nat := 0
  /-- commands that wait, first in first out; reset empty. -/
  pending : List Instr := []
  deriving DecidableEq, Repr

/-- The RESET_RECORD of the power-on (18 R481, R493). -/
def bootRecord : LogEntry :=
  { index := 0, time := 0, code := 0x000C, part := 0xFF, tstate := 0, physValid := false, phys := 0, logical := 0xFFFF,
    detail := 0, count := 1, conts := [] }

/-- The firmware image that manufacture puts into slot A (entry 2). -/
def factoryImage : FwImage := ⟨1, 1, List.replicate 48 0, [(1, [1])], true⟩

/-- The part right after reset: power-on has reached step 9 of R481 (entry 1). -/
def State.reset : State :=
  { nvm := { imageA := some factoryImage }
    active := factoryImage
    log := { next := 1, ring := [bootRecord] } }

end Sys2Proof.Machine
end

