-- ==== Sys2Proof/Machine/Ops.lean ====
section
/-! DEFINITION. Named operations over sparse tables, memory, registers of the state and the part log. -/

namespace Sys2Proof.Machine

/-! ### Sparse tables -/

/-- Look up a key. -/
def fmGet {α : Type} (m : FMap α) (k : Nat) : Option α :=
  match m with
  | [] => none
  | (j, v) :: rest => if k < j then none else if k = j then some v else fmGet rest k

/-- Look up a key, with a default for an absent one. -/
def fmGetD {α : Type} (m : FMap α) (k : Nat) (d : α) : α := (fmGet m k).getD d

/-- Set a key. -/
def fmSet {α : Type} (m : FMap α) (k : Nat) (v : α) : FMap α :=
  match m with
  | [] => [(k, v)]
  | (j, w) :: rest => if k < j then (k, v) :: (j, w) :: rest
    else if k = j then (k, v) :: rest else (j, w) :: fmSet rest k v

/-- Remove a key. -/
def fmErase {α : Type} (m : FMap α) (k : Nat) : FMap α := m.filter (fun p => p.1 != k)

/-- Change the value at a key, starting from a default. -/
def fmUpd {α : Type} (m : FMap α) (k : Nat) (d : α) (f : α → α) : FMap α := fmSet m k (f (fmGetD m k d))

/-- Apply a function to every value. -/
def fmMap {α β : Type} (f : Nat → α → β) (m : FMap α) : FMap β := m.map fun p => (p.1, f p.1 p.2)

/-! ### Memory: the part-local space of R185 -/

/-- The byte at a part-local address; one that nothing has written reads 0 (entry 3). -/
def memGet (m : List Host.Cell) (a : Nat) : Byte :=
  match m with
  | [] => 0
  | (j, v) :: rest => if a < j then 0 else if a = j then v else memGet rest a

/-- Read on through a list whose first entry is at or above the address. -/
def memReadGo : List Host.Cell → Nat → Nat → Bytes
  | _, _, 0 => []
  | [], _, n + 1 => List.replicate (n + 1) 0
  | (j, v) :: rest, a, n + 1 =>
    if j = a then v :: memReadGo rest (a + 1) n
    else (0 : Byte) :: memReadGo ((j, v) :: rest) (a + 1) n

/-- `n` bytes from a part-local address. -/
def memRead (m : List Host.Cell) (a n : Nat) : Bytes := memReadGo (m.dropWhile (fun p => p.1 < a)) a n

/-- The cells of a byte string at an address, without zero bytes. -/
def memCells : Nat → Bytes → List Host.Cell
  | _, [] => []
  | a, b :: rest => if b = 0 then memCells (a + 1) rest else (a, b) :: memCells (a + 1) rest

/-- Write bytes at a part-local address, keeping the canonical form. -/
def memWrite (m : List Host.Cell) (a : Nat) (bs : Bytes) : List Host.Cell :=
  m.takeWhile (fun p => p.1 < a) ++ memCells a bs ++ m.dropWhile (fun p => p.1 < a + bs.length)

/-- Clear a range. -/
def memClear (m : List Host.Cell) (a n : Nat) : List Host.Cell :=
  m.takeWhile (fun p => p.1 < a) ++ m.dropWhile (fun p => p.1 < a + n)

/-- Addresses strictly rise from `lo` and no byte is 0. -/
def memWfFrom : Nat → List Host.Cell → Bool
  | _, [] => true
  | lo, (a, v) :: rest => decide (lo ≤ a) && v != 0 && memWfFrom (a + 1) rest

/-- The canonical form of memory. -/
def memWf (m : List Host.Cell) : Bool := memWfFrom 0 m

/-- Little-endian number of a byte string (R8). -/
def leNat : Bytes → Nat
  | [] => 0
  | b :: rest => b.toNat + 256 * leNat rest

/-- `n` bytes of a number, little-endian (R8). -/
def leBytes : Nat → Nat → Bytes
  | 0, _ => []
  | n + 1, x => BitVec.ofNat 8 x :: leBytes n (x / 256)

/-- Bits [hi:lo] of a number. -/
def bits (x hi lo : Nat) : Nat := x / 2 ^ lo % 2 ^ (hi + 1 - lo)

/-- Bit n of a number. -/
def bit (x n : Nat) : Bool := x.testBit n

/-- Round up to a multiple. -/
def alignUp (x k : Nat) : Nat := (x + k - 1) / k * k

/-- Quotient rounded up. -/
def cdiv (x k : Nat) : Nat := (x + k - 1) / k

/-- Saturating increment of a counter (R78). -/
def satAdd {w : Nat} (x : BitVec w) (n : Nat) : BitVec w :=
  if x.toNat + n < 2 ^ w then x + BitVec.ofNat w n else BitVec.allOnes w

def boolNat (b : Bool) : Nat := if b then 1 else 0

/-- Base of the region stores and of the cell stores in the part-local map (R185). -/
def regionBase (region : Nat) : Nat := 0x800000000000 + region * 0x20000000
def cellBase (cell : Nat) : Nat := 0x900000000000 + cell * 0x100000

/-! ### Accessors of the state -/

def State.part (s : State) (p : Nat) : Option Partition := fmGet s.parts p
def State.setPart (s : State) (p : Nat) (x : Partition) : State := { s with parts := fmSet s.parts p x }
def State.updPart (s : State) (p : Nat) (f : Partition → Partition) : State :=
  match fmGet s.parts p with
  | some x => s.setPart p (f x)
  | none => s
def State.block (s : State) (b : Nat) : Block := fmGetD s.blocks b {}
def State.setBlock (s : State) (b : Nat) (x : Block) : State := { s with blocks := fmSet s.blocks b x }
def State.updBlock (s : State) (b : Nat) (f : Block → Block) : State := s.setBlock b (f (s.block b))
def State.cell (s : State) (c : Nat) : Cell := fmGetD s.cells c {}
def State.setCell (s : State) (c : Nat) (x : Cell) : State := { s with cells := fmSet s.cells c x }
def State.updCell (s : State) (c : Nat) (f : Cell → Cell) : State := s.setCell c (f (s.cell c))
def State.region (s : State) (r : Nat) : Region := fmGetD s.regions r {}
def State.setRegion (s : State) (r : Nat) (x : Region) : State := { s with regions := fmSet s.regions r x }
def State.updRegion (s : State) (r : Nat) (f : Region → Region) : State := s.setRegion r (f (s.region r))
def State.updFrame (s : State) (p : Nat) (f : Frame → Frame) : State :=
  s.updPart p fun x => { x with frame := f x.frame }
def State.write (s : State) (a : Nat) (bs : Bytes) : State := { s with mem := memWrite s.mem a bs }
def State.readMem (s : State) (a n : Nat) : Bytes := memRead s.mem a n

/-- Draw a value that the spec leaves open, `w` bits wide, and advance the counter. -/
def State.draw (s : State) (w k : Nat) : Nat × State :=
  (Config.freeBits s.free k % 2 ^ w, { s with free := s.free + 1 })

/-- The installed Negative of a partition, or an empty one. -/
def Partition.negative (p : Partition) : Neg := p.neg.getD {}

/-- Part-wide logical region of a logical region of the partition (R187). -/
def Partition.region (p : Partition) (r : Nat) : Nat := 6 * p.tiles.getD (r / 6) 0 + r % 6

/-- Part-wide logical block of a logical block of the partition (R15, R187). -/
def Partition.blockIx (p : Partition) (b : Nat) : Nat := 6 * p.region (b / 6) + b % 6

/-- Part-wide logical blocks of a partition. -/
def Partition.blockList (p : Partition) : List Nat :=
  p.tiles.flatMap fun d => (List.range 36).map (36 * d + ·)

/-- The partition that owns a tile. -/
def State.ownerOf (s : State) (tile : Nat) : Option Nat :=
  (s.parts.find? fun q => q.2.tiles.contains tile).map (·.1)

def State.endpoint (s : State) (h : Nat) : Endpoint := fmGetD s.eps h {}
def State.updEp (s : State) (h : Nat) (f : Endpoint → Endpoint) : State := { s with eps := fmSet s.eps h (f (s.endpoint h)) }
def State.func (s : State) (h k : Nat) : Func := fmGetD (s.endpoint h).funcs k {}
def State.updFunc (s : State) (h k : Nat) (f : Func → Func) : State :=
  s.updEp h fun e => { e with funcs := fmSet e.funcs k (f (fmGetD e.funcs k {})) }
def State.port (s : State) (q : Nat) : Port := fmGetD s.ports q {}
def State.updPort (s : State) (q : Nat) (f : Port → Port) : State := { s with ports := fmSet s.ports q (f (s.port q)) }
def State.txOf (s : State) (q : Nat) : PortTx := fmGetD s.tx q {}
def State.updTx (s : State) (q : Nat) (f : PortTx → PortTx) : State := { s with tx := fmSet s.tx q (f (s.txOf q)) }
def State.die (s : State) (f : Nat) : Die := fmGetD s.dies f {}
def State.updDie (s : State) (f : Nat) (g : Die → Die) : State := { s with dies := fmSet s.dies f (g (s.die f)) }

/-- Something leaves the part. -/
def State.emit (s : State) (o : OutEv) : State := { s with out := o :: s.out }

/-- The partition bound to function k of endpoint h (R459). -/
def State.boundTo (s : State) (h k : Nat) : Option Nat :=
  if k = 0 then none else (s.parts.find? fun q => q.2.hostDie == h && q.2.fn == k).map (·.1)

/-- Whether function k of endpoint h exists on the link (R459). -/
def State.fnEnabled (s : State) (h k : Nat) : Bool :=
  let e := s.endpoint h
  decide (h < 2) && e.enabled && e.linkUp && (k == 0 || (e.vfEnable && decide (k ≤ e.numVfs) && decide (k ≤ 16)))

/-! ### Interrupts (R468) -/

/-- Vector of a cause bit: of the physical function, or of a virtual one. -/
def causeVector (k bitNo : Nat) : Nat :=
  if bitNo = 0 then 0
  else if k = 0 then 1
  else if bitNo = 1 ∨ bitNo = 4 then 1
  else if bitNo = 2 ∨ bitNo = 3 then 2
  else 3 + (bitNo - 8)

/-- Send an MSI-X message, or leave it pending where its vector is masked. -/
def State.sendVector (s : State) (h k v : Nat) : State :=
  let f := s.func h k
  if f.msixMask || f.vecMask.getLsbD v then s.updFunc h k fun f => { f with pba := f.pba ||| (1#16 <<< v) }
  else s.emit (.msix h k v)

/-- An event sets its cause bit, and sends its message when the bit was 0 and is not masked. -/
def State.setCause (s : State) (h k bitNo : Nat) : State :=
  if !s.fnEnabled h k then s
  else
    let f := s.func h k
    let t := s.updFunc h k fun f => { f with cause := f.cause ||| (1#32 <<< bitNo) }
    if f.cause.getLsbD bitNo || f.mask.getLsbD bitNo then t else t.sendVector h k (causeVector k bitNo)

/-- Raise a cause on the function bound to a partition. -/
def State.partCause (s : State) (pid bitNo : Nat) : State :=
  match s.part pid with
  | some p => s.setCause p.hostDie p.fn bitNo
  | none => s

/-! ### Units in log entries (R492) -/

/-- Physical position of a logical block in its region: 6 where the spare carries it (R16, R118). -/
def State.position (s : State) (block : Nat) : Nat :=
  if fmGet s.nvm.remap (block / 6) = some (block % 6) then 6 else block % 6

/-- A unit named in a log entry: kind and physical index, and its logical index in the partition. -/
structure LogUnit where
  kind : Nat
  phys : Nat
  logical : Nat
  deriving DecidableEq, Repr

def noUnit : LogUnit := ⟨0, 0, 0xFFFF⟩

def State.blockUnit (s : State) (blk logical : Nat) : LogUnit :=
  ⟨2, 7 * (blk / 6) + s.position blk, logical⟩

def State.cellUnit (s : State) (cell logical : Nat) : LogUnit :=
  ⟨1, 4 * (7 * (cell / 4 / 6) + s.position (cell / 4)) + cell % 4, logical⟩

def regionUnit (region logical : Nat) : LogUnit := ⟨3, region, logical⟩

/-! ### The part log (R491, R492) -/

/-- TIM_NS (R328). -/
def State.timNs (s : State) : Nat := s.time.acc.toNat / 2 ^ 24

/-- ext_stale: 1 s or more has passed since the last sample (R332, R333), as far as TIM_NS shows it. -/
def extendTime (hi lo n : Nat) : Nat := hi * 2 ^ 32 + lo + (n + 2 ^ 32 - lo) % 2 ^ 32

/-- Audit time of now, 64 bits, and its state (R333, R336). -/
def State.auditNow (s : State) : BitVec 64 × BitVec 3 :=
  (BitVec.ofNat 64 (extendTime s.time.extHi.toNat s.time.extLo.toNat s.timNs), s.time.state)

/-- What a new entry does beside the log: the most recent fault, the error cause, and the part's event on the physical
functions (R468, R476). -/
def State.noteEntry (s : State) (code part entries : Nat) : State :=
  let sev := code / 4096
  let s := match fmGet s.parts part with
    | none => s
    | some p =>
      let s := if sev = 0 then s else s.updPart part fun p => { p with lastFault := BitVec.ofNat 16 code }
      let s := s.updFunc p.hostDie p.fn fun f => { f with
        partCount := f.partCount + BitVec.ofNat 32 entries
        partLast := if sev = 0 then f.partLast else BitVec.ofNat 16 code }
      if sev = 0 then s else s.setCause p.hostDie p.fn 2
  if sev = 2 ∨ sev = 3 then (s.setCause 0 0 6).setCause 1 0 6 else s

/-- Key of the occurrence counter of a code on a unit. -/
def occKey (code : Nat) (u : LogUnit) : Nat := code * 65536 + (u.kind * 4096 + u.phys)

/-- Count one occurrence without an entry (R492). -/
def State.countEv (s : State) (code : Nat) (u : LogUnit) : State :=
  { s with log := { s.log with occ := fmUpd s.log.occ (occKey code u) 0 (· + 1) } }

/-- 32-byte entries that an event takes: its base entry and its continuations. -/
def LogEntry.size (e : LogEntry) : Nat := 1 + e.conts.length

/-- 32-byte entries in the buffer (R491). -/
def Log.used (l : Log) : Nat := (l.buf.map LogEntry.size).sum

/-- Write one entry into the log buffer; a full buffer counts it as lost (R491). -/
def State.logEv (s : State) (code part : Nat) (u : LogUnit) (detail : Nat) (conts : List Bytes := []) : State :=
  let l := s.log
  if 4096 < l.used + 1 + conts.length then { s with log := { l with lost := l.lost + 1 + conts.length } }.noteEntry code part 0
  else
    let key := occKey code u
    let n := fmGetD l.occ key 0 + 1
    let e : LogEntry := {
      index := l.next, time := (s.auditNow).1, code := BitVec.ofNat 16 code, part := BitVec.ofNat 8 part,
      tstate := (s.auditNow).2, physValid := u.kind != 0, phys := BitVec.ofNat 16 (u.kind * 4096 + u.phys),
      logical := BitVec.ofNat 16 u.logical, detail := BitVec.ofNat 32 detail,
      count := if n < 2 ^ 32 then BitVec.ofNat 32 n else BitVec.allOnes 32, conts := conts }
    { s with log := { l with next := l.next + 1 + conts.length, buf := l.buf ++ [e], occ := fmErase l.occ key } }.noteEntry
      code part (1 + conts.length)

/-- Log an event once per Exposure and unit, and count it otherwise (R60, R95, R208). -/
def State.logOnce (s : State) (code part unitKey : Nat) (u : LogUnit) (detail : Nat) : State :=
  if s.log.once.contains (part, code, unitKey) then s.countEv code u
  else
    let t := s.logEv code part u detail
    { t with log := { t.log with once := (part, code, unitKey) :: t.log.once } }

/-- Log an event at its first occurrence in each hour of a function or partition, and count it otherwise (R399, R467). -/
def State.logHourly (s : State) (code part key : Nat) (u : LogUnit) (detail : Nat) : State :=
  let k := code * 4096 + key
  match fmGet s.log.hour k with
  | some t0 =>
    if s.now < t0 + 3600000000000 then s.countEv code u
    else
      let t := s.logEv code part u detail
      { t with log := { t.log with hour := fmSet t.log.hour k s.now } }
  | none =>
    let t := s.logEv code part u detail
    { t with log := { t.log with hour := fmSet t.log.hour k s.now } }

def dieUnit (h : Nat) : LogUnit := ⟨9, h, 0xFFFF⟩
def tileUnit (d : Nat) : LogUnit := ⟨4, d, 0xFFFF⟩
def fabricUnit (f : Nat) : LogUnit := ⟨6, f, 0xFFFF⟩
def portUnit (q : Nat) : LogUnit := ⟨7, q, 0xFFFF⟩
def controlUnit : LogUnit := ⟨10, 0, 0xFFFF⟩

/-! ### Completion of mailbox commands (R431, R432, R446) -/

/-- The fault fields of a completion: code and index of the first entry from log index `mark` on. -/
def State.firstEntry (s : State) (mark : Nat) : BitVec 16 × BitVec 32 :=
  match s.log.buf.find? fun e => decide (mark ≤ e.index) with
  | some e => (e.code, BitVec.ofNat 32 e.index)
  | none => (0, 0)

/-- The header of an answer frame, 32 bytes (R431). -/
def answerHeader (m : Mbox) (seq : BitVec 32) : Bytes :=
  leBytes 4 seq.toNat ++ leBytes 2 m.command.toNat ++ leBytes 2 0 ++ [m.status, 2] ++ leBytes 2 m.target.toNat ++
    leBytes 2 m.resp.length ++ leBytes 2 0 ++ leBytes 8 m.tag.toNat ++ leBytes 4 m.fault.toNat ++ leBytes 4 m.logIndex.toNat

/-- A command completes: its page is written and the function's cause raised, or its answer frame is sent. -/
def State.complete (s : State) (r : Route) (mark : Nat) (status : Byte) (resp : Bytes) : State :=
  let fe := s.firstEntry mark
  match r with
  | .fn h k =>
    (s.updFunc h k fun f => { f with mbox := { f.mbox with
      state := .done, status := status, resp := resp, fault := fe.1, logIndex := fe.2 } }).setCause h k 0
  | .session n =>
    match fmGet s.sessions n with
    | none => s
    | some x =>
      let m := { x.mbox with state := .done, status := status, resp := resp, fault := fe.1, logIndex := fe.2 }
      ({ s with sessions := fmSet s.sessions n { x with mbox := m } }).emit
        (.frame n (answerHeader m (m.lastSeq.getD 0) ++ resp))

/-- Status codes (R433). -/
def stOk : Byte := 0
def stBusy : Byte := 1
def stDenied : Byte := 2
def stBadArg : Byte := 3
def stWrongState : Byte := 4
def stMismatch : Byte := 5
def stNoResource : Byte := 6
def stIntegrity : Byte := 7
def stUnsupported : Byte := 8
def stAborted : Byte := 9

/-- Send a NOTICE frame to a session (R447). -/
def State.notice (s : State) (n kind owner fault : Nat) : State :=
  s.emit (.frame n (leBytes 4 0 ++ leBytes 2 0x0F01 ++ leBytes 2 16 ++ [0, 2] ++ leBytes 2 0xFFFF ++ leBytes 2 0 ++ leBytes 2 0 ++
    leBytes 8 0 ++ leBytes 4 0 ++ leBytes 4 0 ++
    (leBytes 2 kind ++ leBytes 2 owner ++ leBytes 4 fault ++ leBytes 8 (s.auditNow.1).toNat)))

/-! ### Severities (R52, R487) -/

/-- Cancel the outstanding HBM streams of a partition's blocks (R52). -/
def State.cancelStreams (s : State) (p : Partition) : State :=
  { s with
    blocks := s.blocks.map fun q => if p.blockList.contains q.1 then (q.1, { q.2 with streams := [] }) else q
    regions := s.regions.map fun q => if p.tiles.contains (q.1 / 6) then (q.1, { q.2 with
      reqs := q.2.reqs.filter fun r => decide (r.kind ≠ .stream) }) else q }

/-- Requests at the arbiters that belong to the bundle operations of a block, not to landings or the host. -/
def PfReq.own (q : PfReq) : Bool := match q.kind with
  | .copyRc | .copyCr | .fill => true
  | _ => false
def RsReq.own (q : RsReq) : Bool := match q.kind with
  | .landing | .hostWrite | .hostRead | .writeBack => false
  | _ => true

/-- A block without its requests: the handler of a faulting or reset unit drops them with their progress (R24, R105). -/
def Block.dropRequests (b : Block) : Block :=
  { b with pf := b.pf.filter (!·.own), commits := [], fills := [], loads := [], streams := [] }

/-- Drop every request of a block from the arbiters of its cells, its block and its region (R24, R105). -/
def State.dropUnit (s : State) (bix : Nat) : State :=
  (s.updBlock bix Block.dropRequests).updRegion (bix / 6) fun g => { g with
    reqs := g.reqs.filter fun q => !(q.own && q.block == bix), rr := g.rr.filter fun q => !(q.from_ == bix) }

/-- Landings and host transfers of a partition leave the arbiters of its stores (R405, R483). -/
def State.dropTraffic (s : State) (pid : Nat) : State :=
  match s.part pid with
  | none => s
  | some p => { s with
      blocks := s.blocks.map fun q => if p.tiles.contains (q.1 / 36) then (q.1, { q.2 with pf := q.2.pf.filter (·.own) }) else q
      regions := s.regions.map fun q => if p.tiles.contains (q.1 / 6) then (q.1, { q.2 with reqs := q.2.reqs.filter (·.own) }) else q }

/-- An operation issued on a block states its completion (R131). -/
def Block.until (b : Block) (t : Nat) : Block := { b with lastDone := Nat.max b.lastDone t }

/-- Part-wide logical block at a physical position 7·region + position (R16, R118). -/
def State.blockAt (s : State) (phys : Nat) : Nat :=
  let r := phys / 7
  6 * r + (if phys % 7 = 6 then (fmGet s.nvm.remap r).getD 0 else phys % 7)

/-- Blocks of the unit that a fault names, where it is a cell, a block or a region (R24). -/
def State.failingBlocks (s : State) (u : LogUnit) : List Nat :=
  match u.kind with
  | 1 => [s.blockAt (u.phys / 4)]
  | 2 => [s.blockAt u.phys]
  | 3 => (List.range 6).map (6 * u.phys + ·)
  | _ => []

/-- Count an uncorrectable error at a physical block position (R121). -/
def State.countBlockErr (s : State) (code : Nat) (u : LogUnit) : State :=
  if code = 0x1402 then { s with log := { s.log with blockErrs := fmUpd s.log.blockErrs (u.phys / 4) 0 (· + 1) } }
  else if code = 0x1405 then { s with log := { s.log with blockErrs := fmUpd s.log.blockErrs u.phys 0 (· + 1) } }
  else s

/-- The failing units of a partition lose their requests (R24, R105). -/
def State.dropFailing (s : State) (pid : Nat) : State :=
  match s.part pid with
  | none => s
  | some p => (p.frame.failing.foldl (fun (s : State) b => s.dropUnit b) s).updFrame pid fun f => { f with failing := [] }

/-- The latest cycle that a block of the partition has reached. -/
def State.presentCycle (s : State) (pid : Nat) : Nat :=
  match s.part pid with
  | none => 0
  | some p => s.blocks.foldl (fun acc q => if p.blockList.contains q.1 then Nat.max acc q.2.cycle else acc) 0

/-- Raise an Exposure-fatal fault against a partition (R52, R487, R489): it is logged; in a RUNNING partition the first
in time, the lower code at a tie, is kept as the cause, the sequencers stop, the streams are cancelled and the failing
unit is named, whose requests leave the arbiters before they serve another one (R105). -/
def State.raiseFatal (s : State) (pid code : Nat) (u : LogUnit) (detail time : Nat) : State :=
  let t := (s.logEv code pid u detail).countBlockErr code u
  match t.part pid with
  | none => t
  | some p =>
    if p.state = .running then
      let r : FatalRec := ⟨BitVec.ofNat 16 code, time⟩
      let keep := match p.frame.fatal with
        | none => r
        | some o => if time < o.time ∨ (time = o.time ∧ code < o.code.toNat) then r else o
      (t.updFrame pid fun f => { f with fatal := some keep, failing := s.failingBlocks u ++ f.failing }).cancelStreams p
    else t

/-- Routes of the commands that wait on a partition. -/
def Partition.waiting (p : Partition) : List Route :=
  (match p.expose with | some e => [e.route] | none => []) ++
  (match p.slide with | some o => [o.route] | none => []) ++
  (match p.busy with
   | some (.scrub (some r)) => [r]
   | some (.agree r _ _ _) => [r]
   | some (.restore (some r) _) => [r]
   | _ => []) ++ p.frame.haltRoutes ++ p.frame.lateRoutes

/-- Frame period of a partition, ns (02 R32). -/
def Partition.periodNs (p : Partition) : Nat := 10 * p.negative.frameCount

/-- Cycle that a logical region has reached at a time after the Shutter, in tenths of ns: it started between 200 ns and 250 ns
after the Shutter and has been stretched (02 R36, R45). -/
def Partition.cycleAt (p : Partition) (lregion wall : Nat) : Nat :=
  (wall - 10 * (200 + Config.freeBits p.frame.starts lregion % 51 + fmGetD p.frame.stretchNs lregion 0)) * p.step / 10000

/-- Cycle that a logical region has reached at the Shutter that ends its Exposure. -/
def Partition.lastCycle (p : Partition) (lregion : Nat) : Nat := p.cycleAt lregion (10 * p.periodNs)

/-- A cycle of a logical region lies in the last µs before the Shutter that ends its Exposure (02 R55). -/
def Partition.lastMicro (p : Partition) (lregion t : Nat) : Bool := decide (p.cycleAt lregion (10 * (p.periodNs - 1000)) < t)

/-- No halt waits for a Shutter. -/
def Frame.noHalts (f : Frame) : Frame :=
  { f with
    haltRoutes := [], haltCmd := false, haltReq := false, tdiHalt := false
    lateRoutes := [], haltLate := false, reqLate := false, tdiLate := false, heldCode := none }

/-- Every command that waits on a partition completes (R437). -/
def State.abortWaiting (s : State) (pid mark : Nat) (status : Byte) : State :=
  match s.part pid with
  | none => s
  | some p =>
    (p.waiting.foldl (fun s r => s.complete r mark status []) s).updPart pid fun p => { p with
      expose := none, slide := none, busy := none
      frame := p.frame.noHalts }

/-- Sequencers stop and streams are cancelled; outbound entries that have not departed send nothing (R483 step 2). -/
def State.stopUnits (s : State) (pid : Nat) : State :=
  match s.part pid with
  | none => s
  | some p => { s with
      blocks := s.blocks.map fun q => if p.blockList.contains q.1 then (q.1, { q.2 with
        atTick := true, streams := [], pf := q.2.pf.filter (!·.own), commits := [], fills := [], timed := [], entering := []
        faults := [], loads := [], vpend := [], mpend := [], tokensDue := [] }) else q
      regions := s.regions.map fun q => if p.tiles.contains (q.1 / 6) then (q.1, { q.2 with
        reqs := q.2.reqs.filter (!·.own), rr := [] }) else q }

/-- Destruction of a partition's keys (R404). -/
def State.destroyKeys (s : State) (pid : Nat) : State := s.updPart pid fun p => { p with keys := false, jobSecret := none }

/-- The NVM record of a partition follows its state (R480). -/
def State.recordPart (s : State) (pid : Nat) : State :=
  match s.part pid with
  | none => { s with nvm := { s.nvm with records := fmErase s.nvm.records pid } }
  | some p =>
    let scrubbing := match p.busy with | some (.scrub _) => true | _ => false
    let r : PartRecord := ⟨p.tiles, p.hostDie, p.fn, p.dark, p.state == .faulted, scrubbing, p.created⟩
    { s with nvm := { s.nvm with records := fmSet s.nvm.records pid r } }

/-- The consequences of a partition-fatal fault (R487). -/
def State.faultPart (s : State) (pid mark : Nat) : State :=
  match s.part pid with
  | none => s
  | some p =>
    let s := (s.abortWaiting pid mark stAborted).destroyKeys pid
    let s := (s.stopUnits pid).updPart pid fun p => { p with state := .faulted }
    (s.recordPart pid).setCause p.hostDie p.fn 2

/-- Raise a partition-fatal fault (R487): the partition becomes FAULTED. -/
def State.partitionFatal (s : State) (pid code : Nat) (u : LogUnit) (detail : Nat) (conts : List Bytes) : State :=
  let mark := s.log.next
  (s.logEv code pid u detail conts).faultPart pid mark

/-- What follows a part-fatal fault (R488): every partition becomes FAULTED, relaying and patching stop, the switched
domains but the host dies switch off, the sessions are told and each endpoint with a link reports an internal error. -/
def State.partDown (s : State) (code mark : Nat) : State :=
  let s := s.parts.foldl (fun (s : State) q => s.faultPart q.1 mark) s
  let s := { s with
    boot := { s.boot with fatal := some (BitVec.ofNat 16 code) }
    pins := { s.pins with pwrOk := false, fault := true }
    power := { s.power with tilesOn := [], awake := [] }
    dies := [], tx := []
    ports := (List.range 64).map fun q => (q, { s.port q with state := .off }) }
  let s := s.sessions.foldl (fun (s : State) q => s.notice q.1 4 (s.owner.getD 0) code) s
  [0, 1].foldl (fun (s : State) h => if (s.endpoint h).linkUp then s.emit (.aer h) else s) s

/-- Raise a part-fatal fault: it is logged, and R488 follows. -/
def State.partFatal (s : State) (code part : Nat) (u : LogUnit) (detail : Nat) : State :=
  (s.logEv code part u detail).partDown code s.log.next

/-- A read of the region store meets an error (R120): a corrected one is counted, an uncorrectable one is
Exposure-fatal. -/
def State.regionEcc (s : State) (pid region lregion : Nat) (rd : Ecc) (time : Nat) : State :=
  match rd with
  | .good => s
  | .corrected => s.logOnce 0x0501 pid region (regionUnit region lregion) 0
  | .uncorrectable => s.raiseFatal pid 0x1502 (regionUnit region lregion) 0 time

end Sys2Proof.Machine
end

