-- ==== Sys2Proof/Machine/Grain.lean ====
section
/-! DEFINITION. Grain, the counter-based random number generator (03 R90 to R93). -/

namespace Sys2Proof.Machine

/-- Rotate left. -/
def rotl32 (x : BitVec 32) (n : Nat) : BitVec 32 := x.rotateLeft n

/-- One round of R92 on (x0, x1, x2, x3) with key word k and round r. -/
def grainRound (k : BitVec 32) (r : Nat) (x : BitVec 32 × BitVec 32 × BitVec 32 × BitVec 32) :
    BitVec 32 × BitVec 32 × BitVec 32 × BitVec 32 :=
  let x0 := x.1 + (k ^^^ 0x6D2B79F5)
  let x3 := x.2.2.2 ^^^ BitVec.ofNat 32 r
  let x1 := x.2.1 ^^^ (x0 * 0xE3000007)
  let x2 := x.2.2.1 + rotl32 x1 12
  let x3 := x3 ^^^ (x2 * 0x5D00000B)
  let x0 := x0 + rotl32 x3 20
  (x1, x2, x3, x0)

/-- Word `i` of a 128-bit value. -/
def word32 (x : BitVec 128) (i : Nat) : BitVec 32 := x.extractLsb' (32 * i) 32

/-- The four output words of Grain for a key and a counter (R92). -/
def grain (k c : BitVec 128) : List (BitVec 32) :=
  let x := (List.range 10).foldl (fun x r => grainRound (word32 k (r % 4)) r x)
    (word32 c 0, word32 c 1, word32 c 2, word32 c 3)
  [x.1 ^^^ word32 k 0, x.2.1 ^^^ word32 k 1, x.2.2.1 ^^^ word32 k 2, x.2.2.2 ^^^ word32 k 3]

/-- The Grain key of a seed and a job identifier (R90). -/
def grainKey (seed : BitVec 128) (job : BitVec 64) : BitVec 128 := seed ^^^ job.setWidth 128

/-- The Grain counter (R91): element, block in its region, logical region in the job, Exposure index. -/
def grainCounter (e : Nat) (blockInRegion region rank exposure : Nat) : BitVec 128 :=
  BitVec.ofNat 128 (e % 2 ^ 40 + blockInRegion * 2 ^ 40 + ((rank * 96 + region) % 2 ^ 24) * 2 ^ 48
    + (exposure % 2 ^ 56) * 2 ^ 72)

/-- Output word w for element e drawn by a logical block of a partition (R91 to R93). -/
def grainWord (p : Partition) (lg e w : Nat) : BitVec 32 :=
  let n := p.negative
  ((grain (grainKey p.seed n.jobId) (grainCounter e (lg % 6) (lg / 6) n.rank.toNat p.frame.exposure.toNat)).getD w 0)

/-- The uniform value of a word as an FP32 code (R93). -/
def uniformOf (w : BitVec 32) : Nat :=
  encVal32 (w.toNat / 256)
where
  /-- k × 2^−24 as FP32, exact for k below 2^24. -/
  encVal32 (k : Nat) : Nat :=
    if k = 0 then 0
    else
      let l := k.log2
      (l + 127 - 24) * 2 ^ 23 + (k * 2 ^ (23 - l) - 2 ^ 23)

end Sys2Proof.Machine
end

