-- ==== Sys2Proof/Machine/Crypto.lean ====
section
/-! DEFINITION. The cryptographic functions that the spec names by their standards: SHA-384, HMAC and the KDF (15 R401),
AES-256 with CTR and GCM (09 R264, 15 R414), the CRC-64 of a flow unit (10 R276). Functions of P-384 keys and of X.509
certificates are opaque constants of Config: nothing in the model rests on what they compute (entry 11). -/

namespace Sys2Proof.Machine

/-! ### SHA-384 (FIPS 180-4) -/

/-- Round constants. -/
def shaK : List (BitVec 64) :=
  [0x428a2f98d728ae22, 0x7137449123ef65cd, 0xb5c0fbcfec4d3b2f, 0xe9b5dba58189dbbc] ++
  [0x3956c25bf348b538, 0x59f111f1b605d019, 0x923f82a4af194f9b, 0xab1c5ed5da6d8118] ++
  [0xd807aa98a3030242, 0x12835b0145706fbe, 0x243185be4ee4b28c, 0x550c7dc3d5ffb4e2] ++
  [0x72be5d74f27b896f, 0x80deb1fe3b1696b1, 0x9bdc06a725c71235, 0xc19bf174cf692694] ++
  [0xe49b69c19ef14ad2, 0xefbe4786384f25e3, 0x0fc19dc68b8cd5b5, 0x240ca1cc77ac9c65] ++
  [0x2de92c6f592b0275, 0x4a7484aa6ea6e483, 0x5cb0a9dcbd41fbd4, 0x76f988da831153b5] ++
  [0x983e5152ee66dfab, 0xa831c66d2db43210, 0xb00327c898fb213f, 0xbf597fc7beef0ee4] ++
  [0xc6e00bf33da88fc2, 0xd5a79147930aa725, 0x06ca6351e003826f, 0x142929670a0e6e70] ++
  [0x27b70a8546d22ffc, 0x2e1b21385c26c926, 0x4d2c6dfc5ac42aed, 0x53380d139d95b3df] ++
  [0x650a73548baf63de, 0x766a0abb3c77b2a8, 0x81c2c92e47edaee6, 0x92722c851482353b] ++
  [0xa2bfe8a14cf10364, 0xa81a664bbc423001, 0xc24b8b70d0f89791, 0xc76c51a30654be30] ++
  [0xd192e819d6ef5218, 0xd69906245565a910, 0xf40e35855771202a, 0x106aa07032bbd1b8] ++
  [0x19a4c116b8d2d0c8, 0x1e376c085141ab53, 0x2748774cdf8eeb99, 0x34b0bcb5e19b48a8] ++
  [0x391c0cb3c5c95a63, 0x4ed8aa4ae3418acb, 0x5b9cca4f7763e373, 0x682e6ff3d6b2b8a3] ++
  [0x748f82ee5defb2fc, 0x78a5636f43172f60, 0x84c87814a1f0ab72, 0x8cc702081a6439ec] ++
  [0x90befffa23631e28, 0xa4506cebde82bde9, 0xbef9a3f7b2c67915, 0xc67178f2e372532b] ++
  [0xca273eceea26619c, 0xd186b8c721c0c207, 0xeada7dd6cde0eb1e, 0xf57d4f7fee6ed178] ++
  [0x06f067aa72176fba, 0x0a637dc5a2c898a6, 0x113f9804bef90dae, 0x1b710b35131c471b] ++
  [0x28db77f523047d84, 0x32caab7b40c72493, 0x3c9ebe0a15c9bebc, 0x431d67c49c100d4c] ++
  [0x4cc5d4becb3e42b6, 0x597f299cfc657e2a, 0x5fcb6fab3ad6faec, 0x6c44198c4a475817]

/-- Initial value of SHA-384. -/
def shaIv : List (BitVec 64) :=
  [0xcbbb9d5dc1059ed8, 0x629a292a367cd507, 0x9159015a3070dd17, 0x152fecd8f70e5939] ++
  [0x67332667ffc00b31, 0x8eb44a8768581511, 0xdb0c2e0d64f98fa7, 0x47b5481dbefa4fa4]

/-- Big-endian number of a byte string. -/
def beNat (b : Bytes) : Nat := b.foldl (fun acc x => acc * 256 + x.toNat) 0

/-- `n` bytes of a number, big-endian. -/
def beBytes (n x : Nat) : Bytes := (leBytes n x).reverse

/-- Cut a list into pieces of `n`. -/
def cutPieces {α : Type} (n : Nat) : Nat → List α → List (List α)
  | 0, _ => []
  | fuel + 1, l => if l.isEmpty then [] else l.take n :: cutPieces n fuel (l.drop n)

/-- Pieces of `n` of a whole list. -/
def pieces {α : Type} (n : Nat) (l : List α) : List (List α) := cutPieces n (l.length / n + 1) l

/-- The message schedule, newest word first. -/
def shaExpand : Nat → List (BitVec 64) → List (BitVec 64)
  | 0, w => w
  | n + 1, w =>
    let a := w.getD 1 0
    let b := w.getD 14 0
    let s1 := a.rotateRight 19 ^^^ a.rotateRight 61 ^^^ (a >>> 6)
    let s0 := b.rotateRight 1 ^^^ b.rotateRight 8 ^^^ (b >>> 7)
    shaExpand n ((s1 + w.getD 6 0 + s0 + w.getD 15 0) :: w)

/-- The eight working variables of SHA-512. -/
structure ShaSt where
  a : BitVec 64
  b : BitVec 64
  c : BitVec 64
  d : BitVec 64
  e : BitVec 64
  f : BitVec 64
  g : BitVec 64
  h : BitVec 64

/-- One round. -/
def shaRound (s : ShaSt) (kw : BitVec 64 × BitVec 64) : ShaSt :=
  let t1 := s.h + (s.e.rotateRight 14 ^^^ s.e.rotateRight 18 ^^^ s.e.rotateRight 41) + ((s.e &&& s.f) ^^^ (~~~s.e &&& s.g)) +
    kw.1 + kw.2
  let t2 := (s.a.rotateRight 28 ^^^ s.a.rotateRight 34 ^^^ s.a.rotateRight 39) +
    ((s.a &&& s.b) ^^^ (s.a &&& s.c) ^^^ (s.b &&& s.c))
  ⟨t1 + t2, s.a, s.b, s.c, s.d + t1, s.e, s.f, s.g⟩

/-- Compression of one 128-byte piece. -/
def shaBlock (s : ShaSt) (p : Bytes) : ShaSt :=
  let w := shaExpand 64 ((pieces 8 p).map fun b => BitVec.ofNat 64 (beNat b)).reverse
  let r := (shaK.zip w.reverse).foldl shaRound s
  ⟨s.a + r.a, s.b + r.b, s.c + r.c, s.d + r.d, s.e + r.e, s.f + r.f, s.g + r.g, s.h + r.h⟩

/-- SHA-384 of a byte string, 48 bytes. -/
def sha384 (m : Bytes) : Bytes :=
  let pad := (239 - m.length % 128) % 128
  let full := m ++ [0x80] ++ List.replicate pad 0 ++ beBytes 16 (8 * m.length)
  let iv : ShaSt := ⟨shaIv.getD 0 0, shaIv.getD 1 0, shaIv.getD 2 0, shaIv.getD 3 0, shaIv.getD 4 0, shaIv.getD 5 0,
    shaIv.getD 6 0, shaIv.getD 7 0⟩
  let r := (pieces 128 full).foldl shaBlock iv
  [r.a, r.b, r.c, r.d, r.e, r.f].flatMap fun x => beBytes 8 x.toNat

/-! ### HMAC and the KDF (R401) -/

/-- HMAC-SHA-384. -/
def hmac384 (key m : Bytes) : Bytes :=
  let k0 := if 128 < key.length then sha384 key else key
  let k := k0 ++ List.replicate (128 - k0.length) 0
  sha384 (k.map (· ^^^ 0x5C) ++ sha384 (k.map (· ^^^ 0x36) ++ m))

/-- Bytes of an ASCII string. -/
def asciiBytes (t : String) : Bytes := t.toList.map fun c => BitVec.ofNat 8 c.toNat

/-- KDF(K, label, context, L) of R401, L in bits, a multiple of 8. -/
def kdf (key : Bytes) (label : String) (context : Bytes) (bitsL : Nat) : Bytes :=
  ((List.range (cdiv bitsL 384)).flatMap fun i =>
    hmac384 key (beBytes 4 (i + 1) ++ asciiBytes label ++ [0] ++ context ++ beBytes 4 bitsL)).take (bitsL / 8)

/-! ### AES-256 (FIPS 197) -/

/-- Substitution box. -/
def aesBox : List Byte :=
  [99, 124, 119, 123, 242, 107, 111, 197, 48, 1, 103, 43, 254, 215, 171, 118] ++
  [202, 130, 201, 125, 250, 89, 71, 240, 173, 212, 162, 175, 156, 164, 114, 192] ++
  [183, 253, 147, 38, 54, 63, 247, 204, 52, 165, 229, 241, 113, 216, 49, 21] ++
  [4, 199, 35, 195, 24, 150, 5, 154, 7, 18, 128, 226, 235, 39, 178, 117] ++
  [9, 131, 44, 26, 27, 110, 90, 160, 82, 59, 214, 179, 41, 227, 47, 132] ++
  [83, 209, 0, 237, 32, 252, 177, 91, 106, 203, 190, 57, 74, 76, 88, 207] ++
  [208, 239, 170, 251, 67, 77, 51, 133, 69, 249, 2, 127, 80, 60, 159, 168] ++
  [81, 163, 64, 143, 146, 157, 56, 245, 188, 182, 218, 33, 16, 255, 243, 210] ++
  [205, 12, 19, 236, 95, 151, 68, 23, 196, 167, 126, 61, 100, 93, 25, 115] ++
  [96, 129, 79, 220, 34, 42, 144, 136, 70, 238, 184, 20, 222, 94, 11, 219] ++
  [224, 50, 58, 10, 73, 6, 36, 92, 194, 211, 172, 98, 145, 149, 228, 121] ++
  [231, 200, 55, 109, 141, 213, 78, 169, 108, 86, 244, 234, 101, 122, 174, 8] ++
  [186, 120, 37, 46, 28, 166, 180, 198, 232, 221, 116, 31, 75, 189, 139, 138] ++
  [112, 62, 181, 102, 72, 3, 246, 14, 97, 53, 87, 185, 134, 193, 29, 158] ++
  [225, 248, 152, 17, 105, 217, 142, 148, 155, 30, 135, 233, 206, 85, 40, 223] ++
  [140, 161, 137, 13, 191, 230, 66, 104, 65, 153, 45, 15, 176, 84, 187, 22]

def subByte (b : Byte) : Byte := aesBox.getD b.toNat 0

/-- Multiplication by x in the field of AES. -/
def xtime (b : Byte) : Byte := (b <<< 1) ^^^ (if b.getLsbD 7 then 0x1B else 0)

/-- Bytewise exclusive or. -/
def xorBytes (a b : Bytes) : Bytes := List.zipWith (· ^^^ ·) a b

/-- Words of the key schedule, newest first; the first argument counts the words still to make. -/
def aesExpand : Nat → Nat → Byte → List Bytes → List Bytes
  | 0, _, _, w => w
  | n + 1, i, rc, w =>
    let t := w.headD []
    let t' := if i % 8 = 0 then
        (match (t.drop 1 ++ t.take 1).map subByte with
         | b :: rest => (b ^^^ rc) :: rest
         | [] => [])
      else if i % 8 = 4 then t.map subByte else t
    aesExpand n (i + 1) (if i % 8 = 0 then xtime rc else rc) (xorBytes (w.getD 7 []) t' :: w)

/-- The 15 round keys of a 32-byte key. -/
def aesKeys (key : Bytes) : List Bytes := (pieces 4 (aesExpand 52 8 1 (pieces 4 key).reverse).reverse).map List.flatten

/-- ShiftRows on a column-major state. -/
def shiftRows (s : Bytes) : Bytes := (List.range 16).map fun i => s.getD ((i / 4 + i % 4) % 4 * 4 + i % 4) 0

/-- MixColumns of one column. -/
def mixColumn (c : Bytes) : Bytes :=
  let a := c.getD 0 0
  let b := c.getD 1 0
  let d := c.getD 2 0
  let e := c.getD 3 0
  [xtime a ^^^ (xtime b ^^^ b) ^^^ d ^^^ e, a ^^^ xtime b ^^^ (xtime d ^^^ d) ^^^ e,
   a ^^^ b ^^^ xtime d ^^^ (xtime e ^^^ e), (xtime a ^^^ a) ^^^ b ^^^ d ^^^ xtime e]

/-- Rounds after the first key. -/
def aesRounds : List Bytes → Bytes → Bytes
  | [], s => s
  | [k], s => xorBytes (shiftRows (s.map subByte)) k
  | k :: rest, s => aesRounds rest (xorBytes ((pieces 4 (shiftRows (s.map subByte))).flatMap mixColumn) k)

/-- AES-256 of one block. -/
def aesBlock (keys : List Bytes) (p : Bytes) : Bytes := aesRounds (keys.drop 1) (xorBytes p (keys.headD []))

/-- CTR over a byte string, the counter block of block j given by a function. -/
def ctrMode (key : Bytes) (block : Nat → Bytes) (m : Bytes) : Bytes :=
  let ks := aesKeys key
  (pieces 16 m).zipIdx.flatMap fun p => xorBytes p.1 (aesBlock ks (block p.2))

/-! ### GCM (SP 800-38D) -/

/-- Product in the field of GHASH, both big-endian 128-bit numbers. -/
def ghashMul (x h : BitVec 128) : BitVec 128 :=
  ((List.range 128).foldl (fun (zv : BitVec 128 × BitVec 128) i =>
    (if x.getMsbD i then zv.1 ^^^ zv.2 else zv.1,
     if zv.2.getLsbD 0 then (zv.2 >>> 1) ^^^ 0xE1000000000000000000000000000000#128 else zv.2 >>> 1)) (0, h)).1

/-- A byte string padded with zeros to whole blocks. -/
def pad16 (b : Bytes) : Bytes := b ++ List.replicate ((16 - b.length % 16) % 16) 0

/-- GHASH of padded data. -/
def ghash (h : BitVec 128) (m : Bytes) : BitVec 128 :=
  (pieces 16 m).foldl (fun y b => ghashMul (y ^^^ BitVec.ofNat 128 (beNat b)) h) 0

/-- The tag over additional data and ciphertext. -/
def gcmTag (key nonce aad ct : Bytes) : Bytes :=
  let ks := aesKeys key
  let h := BitVec.ofNat 128 (beNat (aesBlock ks (List.replicate 16 0)))
  let s := ghash h (pad16 aad ++ pad16 ct ++ beBytes 8 (8 * aad.length) ++ beBytes 8 (8 * ct.length))
  xorBytes (beBytes 16 s.toNat) (aesBlock ks (nonce ++ beBytes 4 1))

/-- AES-256-GCM encryption or decryption of a text, without its tag. -/
def gcmCrypt (key nonce m : Bytes) : Bytes := ctrMode key (fun j => nonce ++ beBytes 4 (j + 2)) m

/-! ### CRC-64 of a flow unit (R276) -/

/-- One bit of the register. -/
def crcStep : Nat → BitVec 64 → BitVec 64
  | 0, r => r
  | n + 1, r => crcStep n (if r.getLsbD 63 then (r <<< 1) ^^^ 0x42F0E1EBA9EA3693#64 else r <<< 1)

/-- CRC-64 over bytes, most significant bit first. -/
def crc64 (b : Bytes) : BitVec 64 :=
  (b.foldl (fun r x => crcStep 8 (r ^^^ ((x.setWidth 64 : BitVec 64) <<< (56 : Nat)))) (BitVec.allOnes 64)) ^^^ BitVec.allOnes 64

/-! ### CRC-32 of the identification memory and CRC-16 of a lane-control word (20 R518, 10 R271) -/

/-- One bit of the reflected register. -/
def crc32Step : Nat → BitVec 32 → BitVec 32
  | 0, r => r
  | n + 1, r => crc32Step n (if r.getLsbD 0 then (r >>> 1) ^^^ 0xEDB88320#32 else r >>> 1)

/-- CRC-32 of IEEE 802.3 over bytes, least significant bit first, from all ones and inverted at the end. -/
def crc32 (b : Bytes) : BitVec 32 :=
  (b.foldl (fun r x => crc32Step 8 (r ^^^ (x.setWidth 32 : BitVec 32))) (BitVec.allOnes 32)) ^^^ BitVec.allOnes 32

/-- The crc field of a flow unit under an implicit value. -/
def unitCrc (implicit : Nat) (body : Bytes) : BitVec 64 := crc64 (leBytes 2 implicit ++ body)

end Sys2Proof.Machine
end

