-- ==== Sys2Proof/Machine/Window.lean ====
section
/-! DEFINITION. Logical addresses of a partition (07 R186 to R188), the buffers behind its windows (02 R56, R57), and what
the host may write (13 R350). -/

namespace Sys2Proof.Machine

/-- Logical HBM capacity of a tile (R186). -/
def tileCap (v : Variant) (dark : Bool) : Nat :=
  let stack := if dark then 0x1C00000000 else 0x2000000000
  match v with
  | .zx960 | .zx940 => 2 * stack
  | _ => stack

/-- A whole range lies inside [lo, lo + n). -/
def inside (x len lo n : Nat) : Bool := decide (lo ≤ x) && decide (x + len ≤ lo + n)

/-- Part-local address of a logical range that lies inside one window and one store (R187, R188). -/
def Partition.toLocal (p : Partition) (v : Variant) (x len : Nat) : Option Nat :=
  let n := p.tiles.length
  if 0x900000000000 ≤ x then
    let k := (x - 0x900000000000) / 0x100000
    let o := x % 0x100000
    if k < 144 * n ∧ o + len ≤ 0x100000 then
      some (cellBase (144 * p.tiles.getD (k / 144) 0 + k % 144) + o)
    else none
  else if 0x800000000000 ≤ x then
    let r := (x - 0x800000000000) / 0x20000000
    let o := x % 0x20000000
    if r < 6 * n ∧ o + len ≤ 0x20000000 then some (regionBase (p.region r) + o) else none
  else
    let c := tileCap v p.dark
    let t := x / c
    if t < n ∧ x % c + len ≤ c then some (p.tiles.getD t 0 * 0x4000000000 + x % c) else none

/-- A logical address lies in HBM. -/
def isHbm (x : Nat) : Bool := decide (x < 0x800000000000)

/-- The buffer behind a window: the working buffer of an output window, the one in use of an input window (R56, R57). -/
def Partition.behind (p : Partition) (output : Bool) (w : Window) : Nat :=
  if output then (if p.frame.outBuf then w.buf0 else w.buf1) else (if p.frame.inBuf then w.buf0 else w.buf1)

/-- Windows as the Exposure sees them: base, length and buffer. -/
def Partition.views (p : Partition) : List (Nat × Nat × Nat) :=
  p.negative.inputs.map (fun w => (w.base, w.len, p.behind false w)) ++
    p.negative.outputs.map (fun w => (w.base, w.len, p.behind true w))

/-- Cut a logical range at the edges of the windows and put each piece in its buffer. -/
def viewPieces (vs : List (Nat × Nat × Nat)) : Nat → Nat → Nat → List (Nat × Nat)
  | 0, x, n => if n = 0 then [] else [(x, n)]
  | fuel + 1, x, n =>
    if n = 0 then []
    else
      match vs.find? fun w => decide (w.1 ≤ x) && decide (x < w.1 + w.2.1) with
      | some w =>
        let k := Nat.min n (w.1 + w.2.1 - x)
        (w.2.2 + (x - w.1), k) :: viewPieces vs fuel (x + k) (n - k)
      | none =>
        let next := vs.foldl (fun acc w => if x < w.1 ∧ w.2.1 ≠ 0 ∧ w.1 < acc then w.1 else acc) (x + n)
        (x, next - x) :: viewPieces vs fuel next (n - (next - x))

/-- Pieces of a logical HBM range as the Exposure sees it. -/
def Partition.pieces (p : Partition) (x n : Nat) : List (Nat × Nat) := viewPieces p.views (2 * p.views.length + 1) x n

/-- Part-local pieces of a logical HBM range. -/
def Partition.localPieces (p : Partition) (v : Variant) (x n : Nat) : List (Nat × Nat) :=
  (p.pieces x n).map fun q => ((p.toLocal v q.1 q.2).getD 0, q.2)

/-- Read a logical range of the partition directly. -/
def State.readLogical (s : State) (p : Partition) (x n : Nat) : Bytes :=
  match p.toLocal s.model x n with
  | some a => s.readMem a n
  | none => []

/-- A 64-byte line of a range carries a poison mark (R191). -/
def State.poisoned (s : State) (a n : Nat) : Bool := s.poison.any fun l => decide (a < 64 * l + 64) && decide (64 * l < a + n)

/-- Write HBM: whole lines lose their poison mark (R191). -/
def State.hbmWrite (s : State) (a : Nat) (bs : Bytes) : State :=
  { s.write a bs with poison := s.poison.filter fun l => !(decide (a ≤ 64 * l) && decide (64 * l + 64 ≤ a + bs.length)) }

/-- Write a logical range of the partition directly. -/
def State.writeLogical (s : State) (p : Partition) (x : Nat) (bs : Bytes) : State :=
  match p.toLocal s.model x bs.length with
  | some a => if isHbm x then s.hbmWrite a bs else s.write a bs
  | none => s

/-! ### Host accesses (13 R350, 02 R57) -/

/-- Two logical ranges meet. -/
def meets (a n b m : Nat) : Bool := decide (a < b + m) && decide (b < a + n) && decide (0 < n) && decide (0 < m)

/-- A write meets an input buffer in use (R57). -/
def Partition.hitsInUse (p : Partition) (x n : Nat) : Bool :=
  p.negative.inputs.any fun w => meets x n (p.behind false w) w.len

/-- The range lies inside one posting buffer (R57). -/
def Partition.inPosting (p : Partition) (x n : Nat) : Bool :=
  p.negative.inputs.any fun w => inside x n (if p.frame.inBuf then w.buf1 else w.buf0) w.len

/-- Checkpoint areas of the partition, one for each logical tile (13 R357). -/
def Partition.checkpoints (p : Partition) (v : Variant) : List (Nat × Nat) :=
  match p.negative.checkpoint with
  | some (b, n) => if n = 0 then [] else (List.range p.tiles.length).map fun t => (t * tileCap v p.dark + b, n)
  | none => []

/-- A host write that R350 refuses while a Negative is developed. -/
def Partition.sealedWrite (p : Partition) (v : Variant) (x n : Nat) : Bool :=
  p.neg.isSome &&
    ((p.checkpoints v).any (fun c => meets x n c.1 c.2) || (p.negative.fixed && decide (0 < n) && !p.inPosting x n && !p.hitsInUse x n))

/-! ### Stacks (R189, R196) -/

/-- Stack and pseudo-channel of a part-local HBM address (R189). -/
def hbmChannel (v : Variant) (a : Nat) : Nat × Nat :=
  let d := a / 0x4000000000
  let x := a % 0x4000000000
  match v with
  | .zx960 | .zx940 =>
    let q := bits x 14 8 ^^^ bits x 21 15 ^^^ bits x 28 22 ^^^ bits x 35 29 ^^^ bits x 37 36
    (2 * d + q / 64, q % 64)
  | _ =>
    let q := bits x 13 8 ^^^ bits x 19 14 ^^^ bits x 25 20 ^^^ bits x 31 26 ^^^ bits x 36 32
    (2 * d, q)

/-- Line index in the pseudo-channel (R189). -/
def hbmIndex (v : Variant) (a : Nat) : Nat :=
  match v with
  | .zx960 | .zx940 => bits a 37 15
  | _ => bits a 36 14

/-- The pseudo-channel as a unit of the log (18 R492). -/
def channelUnit (v : Variant) (a : Nat) : LogUnit :=
  let q := hbmChannel v a
  ⟨5, 64 * q.1 + q.2, 0xFFFF⟩

/-- MEMORY_INTEGRITY (R202): how the detail word carries the logical address is left open. -/
def State.memoryIntegrity (s : State) (pid : Nat) (u : LogUnit) : State :=
  let fr := s.draw 32 7
  fr.2.partitionFatal pid 0x2306 u fr.1 []

/-! ### The part-level arbiter (R195, R196) -/

/-- Place of a rank in the order of R195. -/
def PartRank.no : PartRank → Nat
  | .spill => 0
  | .checkpoint => 1
  | .service => 2
  | .host => 3
  | .scrub => 4
  | .patrol => 5

/-- A request is granted before another: the smaller D, one without a D last, then the lower rank (R101, R195). -/
def PartReq.before (x y : PartReq) : Bool :=
  match x.d, y.d with
  | some a, some b => decide (a < b) || (a == b && decide (x.rank.no < y.rank.no))
  | some _, none => true
  | none, some _ => false
  | none, none => decide (x.rank.no < y.rank.no)

/-- Count n lines from a line number on, by stack. -/
def tallyLines (v : Variant) (first n : Nat) (m : FMap Nat) : FMap Nat :=
  (List.range n).foldl (fun m k => fmUpd m (hbmChannel v (256 * (first + k))).1 0 (· + 1)) m

/-- Lines of 256 bytes of a part-local HBM range, by stack: an aligned run of 128 lines has as many on each stack (R189). -/
def stackLines (v : Variant) (a n : Nat) : FMap Nat :=
  let f := a / 256
  let e := (a + n + 255) / 256
  if n = 0 then []
  else if e - f ≤ 512 then tallyLines v f (e - f) []
  else
    let g := (f + 127) / 128 * 128
    let h := e / 128 * 128
    let d := a / 0x4000000000
    let m := tallyLines v h (e - h) (tallyLines v f (g - f) [])
    match v with
    | .zx960 | .zx940 => fmUpd (fmUpd m (2 * d) 0 (· + (h - g) / 2)) (2 * d + 1) 0 (· + (h - g) / 2)
    | _ => fmUpd m (2 * d) 0 (· + (h - g))

/-- Window of 10 µs from the last Shutter. -/
def Partition.trafficWindow (p : Partition) : Nat :=
  match p.ftime with | some f => (f.time - p.frame.shutterTime) / 10000 | none => 0

/-- The limit of R196 holds on a partition's stacks: it runs, and is not in the hold of a Darkslide (13 R361). -/
def Partition.limited (p : Partition) : Bool :=
  p.state == .running && (match p.slide with | some o => o.phase == .pending | none => true)

/-- Lines that the arbiter may still grant on a stack in a window; without limit where the partition does not run (R196). -/
def State.stackRoom (s : State) (p : Partition) (stack n : Nat) : Nat :=
  let old := fmGetD s.power.lines stack 0
  if !p.limited then n else Nat.min n (4000 - (if old / 65536 = p.trafficWindow then old % 65536 else 0))

/-- Grant lines on a stack. -/
def State.takeLines (s : State) (p : Partition) (stack n : Nat) : State :=
  let old := fmGetD s.power.lines stack 0
  let c := if old / 65536 = p.trafficWindow then old % 65536 else 0
  if !p.limited ∨ n = 0 then s
  else { s with power := { s.power with lines := fmSet s.power.lines stack (p.trafficWindow * 65536 + (c + n)) } }

/-- A request waits (R196): PART_HOLD_REACHED once per stack and Exposure. The log has no unit kind for a stack; the entry names
its tile (entry 136: DESIGN CHOICE). -/
def State.partWaits (s : State) (pid : Nat) (r : PartReq) : State :=
  ({ s with power := { s.power with waiting := s.power.waiting ++ [r] } }).logOnce 0x0308 pid r.stack (tileUnit (r.stack / 2)) 0

/-- A request reaches the arbiter: it takes what the window still allows, unless one that goes before it waits, and waits for the
rest. -/
def State.partFile (s : State) (pid : Nat) (p : Partition) (r : PartReq) : State :=
  let ahead := s.power.waiting.any fun w => w.stack == r.stack && !r.before w
  let g := if ahead then 0 else s.stackRoom p r.stack r.lines
  let s := s.takeLines p r.stack g
  if g = r.lines then s else s.partWaits pid { r with lines := r.lines - g }

/-- Part-level traffic of a requester on a range of HBM (R195, R196). -/
def State.partTraffic (s : State) (pid : Nat) (rank : PartRank) (d : Option Nat) (a n : Nat) : State :=
  match s.part pid with
  | none => s
  | some p =>
    if p.state ≠ .running ∨ 0x40000000000 ≤ a then s
    else (stackLines s.model a n).foldl (fun (s : State) q => s.partFile pid p ⟨rank, d, q.1, q.2, none⟩) s

/-- The request that goes first of a list. -/
def firstReq : List PartReq → Option PartReq
  | [] => none
  | r :: rest => match firstReq rest with
    | some w => some (if w.before r then w else r)
    | none => some r

/-- The arbiter grants what waits on a partition's stacks, as far as the window allows; the Golre ports whose spill writes it
has granted, in order. -/
def State.partGrants (pid : Nat) : Nat → State × List Nat → State × List Nat
  | 0, x => x
  | fuel + 1, (s, ports) =>
    match s.part pid with
    | none => (s, ports)
    | some p =>
      match firstReq (s.power.waiting.filter fun w => p.tiles.contains (w.stack / 2) && decide (0 < s.stackRoom p w.stack w.lines)) with
      | none => (s, ports)
      | some w =>
        let g := s.stackRoom p w.stack w.lines
        let s := s.takeLines p w.stack g
        let left := if g = w.lines then s.power.waiting.erase w
          else s.power.waiting.map fun x => if x = w then { w with lines := w.lines - g } else x
        let s := { s with power := { s.power with waiting := left } }
        partGrants pid fuel (s, if g = w.lines then ports ++ w.port.toList else ports)

/-! ### Corrected lines (R190) -/

/-- Some line of a range: which line of it met a corrected or failing check is a free choice (entry 128). -/
def State.someLine (s : State) (a n : Nat) : Nat × State :=
  let d := s.draw 32 14
  (a / 64 * 64 + 64 * (d.1 % Nat.max 1 ((a % 64 + n + 63) / 64)), d.2)

/-- HBM_CORRECTED of the pseudo-channel of a line (R190, R208): once per Exposure of a RUNNING partition, else once per hour;
the corrected line is written back at part-level rank 5. -/
def State.hbmCorrected (s : State) (pid a : Nat) : State :=
  let u := channelUnit s.model a
  let s := s.partTraffic pid .patrol none a 64
  match s.part pid with
  | some p => if p.state = .running then s.logOnce 0x0301 pid u.phys u 0 else s.logHourly 0x0301 pid u.phys u 0
  | none => s.logHourly 0x0301 0xFF u.phys u 0

end Sys2Proof.Machine
end

