-- ==== Sys2Proof/Machine/Lines.lean ====
section
/-! DEFINITION. The 64-byte lines of HBM: their stored form in Darkroom mode (07 R200 to R202), and what a read of lines meets
(07 R190, R191). `State.mem` holds the plaintext of every line; what a stack holds of it is a function of the plaintext, the
line's logical address and the partition's generation (entry 36). -/

namespace Sys2Proof.Machine

/-! ### AES-256 backwards (FIPS 197), XTS (IEEE 1619), CMAC (SP 800-38B) -/

def invSubByte (b : Byte) : Byte := BitVec.ofNat 8 (aesBox.findIdx (· == b))

/-- InvShiftRows on a column-major state. -/
def invShiftRows (s : Bytes) : Bytes := (List.range 16).map fun i => s.getD ((i / 4 + 4 - i % 4) % 4 * 4 + i % 4) 0

/-- InvMixColumns of one column: MixColumns after a correction of each pair. -/
def invMixColumn (c : Bytes) : Bytes :=
  let u := xtime (xtime (c.getD 0 0 ^^^ c.getD 2 0))
  let v := xtime (xtime (c.getD 1 0 ^^^ c.getD 3 0))
  mixColumn (xorBytes c [u, v, u, v])

/-- Rounds from the last key but one down to the first. -/
def aesUnrounds : List Bytes → Bytes → Bytes
  | [], s => s
  | [k], s => xorBytes ((invShiftRows s).map invSubByte) k
  | k :: rest, s => aesUnrounds rest ((pieces 4 (xorBytes ((invShiftRows s).map invSubByte) k)).flatMap invMixColumn)

/-- AES-256 decryption of one block. -/
def aesUnblock (keys : List Bytes) (c : Bytes) : Bytes := aesUnrounds (keys.reverse.drop 1) (xorBytes c (keys.reverse.headD []))

/-- Multiplication of a tweak by the primitive element. -/
def tweakNext (t : Bytes) : Bytes :=
  let x := leNat t
  leBytes 16 ((2 * x % 2 ^ 128) ^^^ (if 2 ^ 127 ≤ x then 0x87 else 0))

/-- Blocks of a data unit under their tweaks. -/
def xtsBlocks (f : Bytes → Bytes) : Bytes → List Bytes → Bytes
  | _, [] => []
  | t, b :: rest => xorBytes (f (xorBytes b t)) t ++ xtsBlocks f (tweakNext t) rest

/-- AES-256-XTS of whole blocks: data key, tweak key, data-unit number. -/
def xtsEncrypt (key tweak : Bytes) (unit : Nat) (m : Bytes) : Bytes :=
  xtsBlocks (aesBlock (aesKeys key)) (aesBlock (aesKeys tweak) (leBytes 16 unit)) (pieces 16 m)

def xtsDecrypt (key tweak : Bytes) (unit : Nat) (c : Bytes) : Bytes :=
  xtsBlocks (aesUnblock (aesKeys key)) (aesBlock (aesKeys tweak) (leBytes 16 unit)) (pieces 16 c)

/-- Subkey step of CMAC. -/
def cmacDouble (b : Bytes) : Bytes :=
  let x := beNat b
  beBytes 16 ((2 * x % 2 ^ 128) ^^^ (if 2 ^ 127 ≤ x then 0x87 else 0))

/-- The last block of a CMAC message with its subkey. -/
def cmacLast (k1 b : Bytes) : Bytes :=
  if b.length = 16 then xorBytes b k1
  else xorBytes (b ++ [0x80] ++ List.replicate (15 - b.length) 0) (cmacDouble k1)

/-- AES-256-CMAC. -/
def cmac (key m : Bytes) : Bytes :=
  let ks := aesKeys key
  let k1 := cmacDouble (aesBlock ks (List.replicate 16 0))
  let bs := pieces 16 m
  let x := (bs.take (bs.length - 1)).foldl (fun acc b => aesBlock ks (xorBytes acc b)) (List.replicate 16 0)
  aesBlock ks (xorBytes x (cmacLast k1 (bs.getLast?.getD [])))

/-! ### Memory keys (15 R402) and the stored form (R200, R201) -/

/-- Root secret of the part, as bytes. -/
def State.rootBytes (s : State) : Bytes := leBytes 32 s.id.rootSecret.toNat

/-- A memory key of a partition: "ZX.MEM.DATA", "ZX.MEM.TWEAK" or "ZX.MEM.TAG", under its generation. -/
def State.memKey (s : State) (p : Partition) (label : String) : Bytes := kdf s.rootBytes label (leBytes 4 p.gen.toNat) 256

/-- Ciphertext of the line at a logical address (R200). -/
def State.lineCipher (s : State) (p : Partition) (x : Nat) (m : Bytes) : Bytes :=
  xtsEncrypt (s.memKey p "ZX.MEM.DATA") (s.memKey p "ZX.MEM.TWEAK") (x / 64) m

/-- Plaintext of a ciphertext that lies at a logical address. -/
def State.linePlain (s : State) (p : Partition) (x : Nat) (c : Bytes) : Bytes :=
  xtsDecrypt (s.memKey p "ZX.MEM.DATA") (s.memKey p "ZX.MEM.TWEAK") (x / 64) c

/-- Integrity tag T of a ciphertext at a logical address: 64 bits of the CMAC of a 76-byte message (R201). -/
def State.lineTag (s : State) (p : Partition) (x : Nat) (c : Bytes) : Bytes :=
  (cmac (s.memKey p "ZX.MEM.TAG") (c ++ leBytes 8 (x / 64 * 64) ++ leBytes 4 p.gen.toNat)).take 8

/-- What a stack holds of the line at a logical address of a partition: data and, in Darkroom mode, tag (R200 to R202). A line
that SCRUB has cleared holds zeros, and so stands in the stack as encrypted zeros with their tag. -/
def State.stored (s : State) (p : Partition) (x : Nat) : Bytes × Option Bytes :=
  let m := s.readLogical p (x / 64 * 64) 64
  if p.dark then (s.lineCipher p x m, some (s.lineTag p x (s.lineCipher p x m))) else (m, none)

/-- Where the tag of a line lies: stack, pseudo-channel, line of the pseudo-channel, first byte (R201). -/
def tagPlace (v : Variant) (a : Nat) : Nat × Nat × Nat × Nat :=
  let i := hbmIndex v a
  ((hbmChannel v a).1, (hbmChannel v a).2, 0x700000 + i / 8, 32 * (i % 8) + 8 * (a / 64 % 4))

/-- The three parts of an HBM write: up to a line's edge, whole 64-byte lines, and the rest. -/
def lineParts (a : Nat) (bs : Bytes) : List (Nat × Bytes) :=
  let head := (64 - a % 64) % 64
  let n := bs.length
  let h := Nat.min head n
  let body := (n - h) / 64 * 64
  [(a, bs.take h), (a + h, (bs.drop h).take body), (a + h + body, bs.drop (h + body))].filter fun p => !p.2.isEmpty

/-! ### What a read meets (R190, R191, R202) -/

/-- A stack gives bytes and a tag for a line that are not what was written there. In Darkroom mode they are taken only if the tag
is theirs, which then decides what the line holds; else the read meets a wrong tag (R202). In Open mode nothing but the check
code protects a line. -/
def State.resolve (s : State) (p : Partition) (fin : StreamEnd) : State × StreamEnd :=
  match fin with
  | .altered x c t =>
    let at_ := x / 64 * 64
    if p.dark then
      (if t = s.lineTag p x c then (s.writeLogical p at_ (s.linePlain p x c), .good) else (s, .badTag))
    else (s.writeLogical p at_ (c.take 64), .good)
  | other => (s, other)

/-- First byte of an HBM range that lies on a poisoned line. -/
def State.firstPoison (s : State) (a n : Nat) : Nat :=
  s.poison.foldl (fun acc l =>
    if a < 64 * l + 64 ∧ 64 * l < a + n then Nat.min acc (if a < 64 * l then 64 * l - a else 0) else acc) n

/-- What a read of HBM meets: the memory may add its own outcome to the marks that the part holds. -/
def State.readEnd (s : State) (a n : Nat) (line : StreamEnd) : StreamEnd :=
  if decide (0 < n) && s.poisoned a n then .uncorrectable else line

/-- The same over several ranges. -/
def State.readEnds (s : State) (rs : List (Nat × Nat)) (line : StreamEnd) : StreamEnd :=
  if rs.any fun r => decide (0 < r.2) && s.poisoned r.1 r.2 then .uncorrectable else line

/-- No data come from a line of the range. -/
def readFails (f : StreamEnd) : Bool := f == .uncorrectable || f == .badTag

/-- A fabric landing writes HBM: a partial write reads its line first, and where that line is poisoned it is not performed and is
Exposure-fatal to the partition (R191). -/
def State.landHbm (s : State) (pid a : Nat) (bs : Bytes) (cyc : Nat) : State :=
  (lineParts a bs).foldl (fun (s : State) p =>
    if p.2.length < 64 && s.poisoned p.1 p.2.length then s.raiseFatal pid 0x1302 (channelUnit s.model p.1) 0 cyc
    else s.hbmWrite p.1 p.2) s

/-- Events of a read of an HBM range by the host, by firmware or by the spill path (R190, R191, R202, R208). -/
def State.readEvents (s : State) (pid a n : Nat) (fin : StreamEnd) : State :=
  let l := if s.poisoned a n then (a + s.firstPoison a n, s) else s.someLine a n
  let u := channelUnit s.model l.1
  match fin with
  | .corrected => l.2.hbmCorrected pid l.1
  | .uncorrectable => l.2.logEv 0x1302 pid u 0
  | .badTag => match s.part pid with
    | some p => if p.dark then l.2.memoryIntegrity pid u else s
    | none => s
  | _ => s

/-- The same over several ranges: what they met is charged to the one with a poisoned line, else to the first. -/
def State.rangesEvents (s : State) (pid : Nat) (rs : List (Nat × Nat)) (fin : StreamEnd) : State :=
  match (rs.find? fun r => s.poisoned r.1 r.2).or rs.head? with
  | some r => s.readEvents pid r.1 r.2 fin
  | none => s

/-- Part-local ranges of logical ones. -/
def State.localRanges (s : State) (p : Partition) (rs : List (Nat × Nat)) : List (Nat × Nat) :=
  rs.filterMap fun r => (p.toLocal s.model r.1 r.2).map fun a => (a, r.2)

/-- Checkpoint streams, at the D that firmware sets for the command: a free time from now (R195). -/
def State.checkpointTraffic (s : State) (pid : Nat) (rs : List (Nat × Nat)) : State :=
  let d := s.draw 32 15
  rs.foldl (fun (s : State) r => s.partTraffic pid .checkpoint (some (s.now + d.1)) r.1 r.2) d.2

end Sys2Proof.Machine
end

