-- ==== Sys2Proof/Machine/Numerics.lean ====
section
/-! DEFINITION. Number formats, exact values, rounding and saturation (03 R61 to R66, R75 to R77, R84, R85, R88, R524).
Every value is an exact dyadic rational until an operation rounds it. -/

namespace Sys2Proof.Machine

/-- An encoded element as an exact value (R62): `fin neg m e` is (−1)^neg × m × 2^e, zero keeping its sign. -/
inductive Val where
  | nan
  | inf (neg : Bool)
  | fin (neg : Bool) (m : Nat) (e : Int)
  deriving DecidableEq, Repr

/-- A binary floating format: mantissa bits, bias, the code of its largest finite value, the code of +∞ if it has one,
and its canonical NaN (R62, R77). -/
structure FloatFmt where
  width : Nat
  mb : Nat
  bias : Nat
  maxCode : Nat
  infCode : Option Nat
  nanCode : Nat
  deriving DecidableEq, Repr

def fmtFP32 : FloatFmt := ⟨32, 23, 127, 0x7F7FFFFF, some 0x7F800000, 0x7FC00000⟩
def fmtBF16 : FloatFmt := ⟨16, 7, 127, 0x7F7F, some 0x7F80, 0x7FC0⟩
def fmtFP16 : FloatFmt := ⟨16, 10, 15, 0x7BFF, some 0x7C00, 0x7E00⟩
def fmtF8E4 : FloatFmt := ⟨8, 3, 7, 0x7E, none, 0x7F⟩
def fmtF8E5 : FloatFmt := ⟨8, 2, 15, 0x7B, some 0x7C, 0x7E⟩
def fmtF4 : FloatFmt := ⟨4, 1, 1, 0x7, none, 0⟩

/-- The float layout of a format code, where it is one (R61). -/
def floatFmt (code : BitVec 4) : Option FloatFmt :=
  match code.toNat with
  | 1 => some fmtF4
  | 5 => some fmtF8E4
  | 6 => some fmtF8E5
  | 7 => some fmtBF16
  | 8 => some fmtFP16
  | 9 => some fmtFP32
  | _ => none

/-- 2^k for an integer k ≥ 0, and 1 below. -/
def pow2 (k : Int) : Nat := 2 ^ k.toNat

/-- Smallest exponent of a format: the weight of its last subnormal bit. -/
def FloatFmt.qmin (f : FloatFmt) : Int := 1 - (f.bias : Int) - (f.mb : Int)

/-- Decode a float element (R62). -/
def decodeFloat (f : FloatFmt) (x : Nat) : Val :=
  let neg := x.testBit (f.width - 1)
  let body := x % 2 ^ (f.width - 1)
  let e := body / 2 ^ f.mb
  let m := body % 2 ^ f.mb
  if body > f.maxCode then
    if f.infCode = some body then .inf neg else .nan
  else if e = 0 then .fin neg m f.qmin
  else .fin neg (2 ^ f.mb + m) (f.qmin + (e : Int) - 1)

/-- Two's complement value of the low `w` bits of `x`. -/
def signedOf (w x : Nat) : Int :=
  let y := x % 2 ^ w
  if y < 2 ^ (w - 1) then (y : Int) else (y : Int) - (2 ^ w : Nat)

/-- An integer as an exact value; zero is +0. -/
def valOfInt (i : Int) : Val := .fin (decide (i < 0)) i.natAbs 0

/-- Decode one element of any format code; T2 takes a digit (R61, R62). -/
def decodeElem (code : BitVec 4) (x : Nat) : Val :=
  match code.toNat with
  | 0 => valOfInt (signedOf 4 x)
  | 2 => valOfInt (signedOf 3 x)
  | 3 => valOfInt ((x : Int) - 1)
  | 4 => valOfInt (signedOf 8 x)
  | 10 => valOfInt (signedOf 32 x)
  | _ => match floatFmt code with
    | some f => decodeFloat f x
    | none => .nan

/-- How a rounding operation rounds (R85, R93). -/
inductive Rnd where
  | near
  | zero
  | stoch (w : BitVec 32)
  deriving DecidableEq, Repr

/-- Whether the magnitude M + rem/2^s is rounded up to M + 1; `sticky` marks a further non-zero tail below. -/
def roundUp (r : Rnd) (big rem s : Nat) (sticky : Bool) : Bool :=
  match r with
  | .zero => false
  | .near =>
    let half := 2 ^ (s - 1)
    if s = 0 then false
    else if rem > half then true
    else if rem = half then sticky || big % 2 == 1
    else false
  | .stoch w => decide (rem * 65536 / 2 ^ s + w.toNat % 65536 ≥ 65536)

/-- Bits of the magnitude of an integer. -/
def bitLen (n : Nat) : Nat := if n = 0 then 0 else n.log2 + 1

/-- Round the magnitude m × 2^e (plus a tail if `sticky`) to a format, giving the code without sign; the code may lie
beyond `maxCode`, which is an overflow (R84, R85). -/
def roundMag (f : FloatFmt) (r : Rnd) (m : Nat) (e : Int) (sticky : Bool) : Nat :=
  if m = 0 then (if sticky then (if roundUp r 0 0 1 true then 1 else 0) else 0)
  else
    let q0 : Int := e + (bitLen m : Int) - (f.mb + 1 : Int)
    let q := if q0 < f.qmin then f.qmin else q0
    let body :=
      if q ≤ e then m * pow2 (e - q)
      else
        let s := (q - e).toNat
        let big := m / 2 ^ s
        let rem := m % 2 ^ s
        if roundUp r big rem s sticky then big + 1 else big
    (q - f.qmin).toNat * 2 ^ f.mb + body

/-- Put the sign bit on a code. -/
def withSign (f : FloatFmt) (neg : Bool) (code : Nat) : Nat := if neg then code + 2 ^ (f.width - 1) else code

/-- Exact comparison m1 × 2^e1 > m2 × 2^e2. -/
def magGt (m1 : Nat) (e1 : Int) (m2 : Nat) (e2 : Int) : Bool :=
  if e1 ≤ e2 then decide (m1 > m2 * pow2 (e2 - e1)) else decide (m1 * pow2 (e1 - e2) > m2)

/-- Exact comparison of magnitudes, greater or equal. -/
def magGe (m1 : Nat) (e1 : Int) (m2 : Nat) (e2 : Int) : Bool := !(magGt m2 e2 m1 e1)

/-- The largest finite magnitude of a format as mantissa and exponent. -/
def maxMag (f : FloatFmt) : Nat × Int :=
  match decodeFloat f f.maxCode with
  | .fin _ m e => (m, e)
  | _ => (0, 0)

/-- IEEE 754 result of rounding an exact magnitude: an overflow gives an infinity (R84). -/
def encodeIeee (f : FloatFmt) (r : Rnd) (neg : Bool) (m : Nat) (e : Int) (sticky : Bool) : Nat :=
  let c := roundMag f r m e sticky
  withSign f neg (if c > f.maxCode then f.infCode.getD f.maxCode else c)

/-- Saturating conversion of an exact value: the code and whether it was clipped (R85, R524). The test is made on the
exact value, before rounding. A negative value, or −0, that rounds to zero keeps its sign, in an F4 element of R66 as in the
other formats: the rules do not say so (DEDUCED, entry 130). -/
def encodeSat (f : FloatFmt) (r : Rnd) (v : Val) : Nat × Bool :=
  match v with
  | .nan => (f.nanCode, false)
  | .inf neg => (withSign f neg f.maxCode, true)
  | .fin neg m e =>
    let mx := maxMag f
    if magGt m e mx.1 mx.2 then (withSign f neg f.maxCode, true)
    else (withSign f neg (roundMag f r m e false), false)

/-- Round an exact value to an integer magnitude. -/
def roundInt (r : Rnd) (m : Nat) (e : Int) : Nat :=
  if 0 ≤ e then m * pow2 e
  else
    let s := (-e).toNat
    let big := m / 2 ^ s
    let rem := m % 2 ^ s
    if roundUp r big rem s false then big + 1 else big

/-- Saturating conversion to a two's-complement field of `w` bits with limits −lo and hi: the field and whether it was
clipped (R66, R76, R85, R524). -/
def encodeInt (w lo hi : Nat) (r : Rnd) (v : Val) : Nat × Bool :=
  match v with
  | .nan => (0, true)
  | .inf neg => (if neg then 2 ^ w - lo else hi, true)
  | .fin neg m e =>
    let lim := if neg then lo else hi
    if magGt m e lim 0 then (if neg then 2 ^ w - lo else hi, true)
    else
      let k := roundInt r m e
      (if neg && k != 0 then 2 ^ w - k else k, false)

/-- Signed mantissa over a common exponent. -/
def sInt (neg : Bool) (m : Nat) : Int := if neg then -(m : Int) else (m : Int)

/-- Exact sum of two finite values; an exact zero is −0 only when both are −0 (R84). -/
def addExact (n1 : Bool) (m1 : Nat) (e1 : Int) (n2 : Bool) (m2 : Nat) (e2 : Int) : Val :=
  let e := if e1 ≤ e2 then e1 else e2
  let s := sInt n1 (m1 * pow2 (e1 - e)) + sInt n2 (m2 * pow2 (e2 - e))
  if s = 0 then .fin (n1 && n2) 0 e else .fin (decide (s < 0)) s.natAbs e

/-- Sum of two values with infinities and NaN (R84). -/
def addVal (a b : Val) : Val :=
  match a, b with
  | .nan, _ => .nan
  | _, .nan => .nan
  | .inf x, .inf y => if x = y then .inf x else .nan
  | .inf x, _ => .inf x
  | _, .inf y => .inf y
  | .fin n1 m1 e1, .fin n2 m2 e2 => addExact n1 m1 e1 n2 m2 e2

/-- Product of two values (R84). -/
def mulVal (a b : Val) : Val :=
  match a, b with
  | .nan, _ => .nan
  | _, .nan => .nan
  | .inf x, .inf y => .inf (x != y)
  | .inf x, .fin y m _ => if m = 0 then .nan else .inf (x != y)
  | .fin y m _, .inf x => if m = 0 then .nan else .inf (x != y)
  | .fin n1 m1 e1, .fin n2 m2 e2 => .fin (n1 != n2) (m1 * m2) (e1 + e2)

/-- The value with its sign changed. -/
def negVal : Val → Val
  | .nan => .nan
  | .inf n => .inf (!n)
  | .fin n m e => .fin (!n) m e

/-- Encode with IEEE rules, rounding once to nearest even (R84). -/
def encVal (f : FloatFmt) (v : Val) : Nat :=
  match v with
  | .nan => f.nanCode
  | .inf neg => withSign f neg (f.infCode.getD f.maxCode)
  | .fin neg m e => encodeIeee f .near neg m e false

/-- Correctly rounded quotient (R84, R155). -/
def divFloat (f : FloatFmt) (a b : Val) : Nat :=
  match a, b with
  | .nan, _ => f.nanCode
  | _, .nan => f.nanCode
  | .inf _, .inf _ => f.nanCode
  | .inf x, .fin y _ _ => withSign f (x != y) (f.infCode.getD f.maxCode)
  | .fin x _ _, .inf y => withSign f (x != y) 0
  | .fin n1 m1 e1, .fin n2 m2 e2 =>
    if m2 = 0 then (if m1 = 0 then f.nanCode else withSign f (n1 != n2) (f.infCode.getD f.maxCode))
    else if m1 = 0 then withSign f (n1 != n2) 0
    else
      let k := 2 * f.width + bitLen m2
      let q := m1 * 2 ^ k / m2
      let r := m1 * 2 ^ k % m2
      encodeIeee f .near (n1 != n2) q (e1 - e2 - k) (r != 0)

/-- Integer square root, one bit at a time from bit `k` down. -/
def isqrtGo (n : Nat) : Nat → Nat → Nat
  | 0, r => r
  | k + 1, r =>
    let c := r + 2 ^ k
    isqrtGo n k (if c * c ≤ n then c else r)

/-- Integer square root, rounded down. -/
def isqrt (n : Nat) : Nat := isqrtGo n (bitLen n / 2 + 1) 0

/-- Square root of m × 2^e to well beyond a format's precision: root, exponent and whether a tail remains. -/
def sqrtMag (m : Nat) (e : Int) (prec : Nat) : Nat × Int × Bool :=
  let odd := e % 2 != 0
  let m1 := if odd then 2 * m else m
  let e1 := if odd then e - 1 else e
  let n := m1 * 2 ^ (2 * prec)
  let r := isqrt n
  (r, e1 / 2 - (prec : Int), r * r != n)

/-- Correctly rounded square root (R84, R155). -/
def sqrtFloat (f : FloatFmt) (a : Val) : Nat :=
  match a with
  | .nan => f.nanCode
  | .inf neg => if neg then f.nanCode else f.infCode.getD f.maxCode
  | .fin neg m e =>
    if m = 0 then withSign f neg 0
    else if neg then f.nanCode
    else
      let r := sqrtMag m e (2 * f.width)
      encodeIeee f .near false r.1 r.2.1 r.2.2

/-- Order of two values that are not NaN: less. Zeros of both signs are equal (R157). -/
def ltVal (a b : Val) : Bool :=
  match a, b with
  | .nan, _ => false
  | _, .nan => false
  | .inf x, .inf y => x && !y
  | .inf x, .fin _ _ _ => x
  | .fin _ _ _, .inf y => !y
  | .fin n1 m1 e1, .fin n2 m2 e2 =>
    let e := if e1 ≤ e2 then e1 else e2
    decide (sInt n1 (m1 * pow2 (e1 - e)) < sInt n2 (m2 * pow2 (e2 - e)))

/-- Equality of two values that are not NaN (R157). -/
def eqVal (a b : Val) : Bool :=
  match a, b with
  | .nan, _ => false
  | _, .nan => false
  | _, _ => !(ltVal a b) && !(ltVal b a)

def isNanVal : Val → Bool
  | .nan => true
  | _ => false

/-- Sign bit of a value. -/
def signVal : Val → Bool
  | .nan => false
  | .inf n => n
  | .fin n _ _ => n

/-- IEEE 754-2019 minimum: a NaN propagates and −0 is less than +0 (R84). -/
def minVal (a b : Val) : Val :=
  if isNanVal a || isNanVal b then .nan
  else if ltVal a b then a
  else if ltVal b a then b
  else if signVal a then a else b

/-- IEEE 754-2019 maximum (R84). -/
def maxVal (a b : Val) : Val :=
  if isNanVal a || isNanVal b then .nan
  else if ltVal a b then b
  else if ltVal b a then a
  else if signVal a then b else a

/-- The value of a block scale byte other than 0xFF, as an exponent (R65). -/
def scaleExp (e : Byte) : Int := (e.toNat : Int) - 127

/-- Value times 2^k. -/
def scaleVal (v : Val) (k : Int) : Val :=
  match v with
  | .fin n m e => .fin n m (e + k)
  | w => w

/-- Readout of v = T × 2^B × σ into a readout format: code, clipped, poisoned (R75 to R77). -/
def readoutElem (fmt : BitVec 4) (t : Int) (b : Int) (poison : Bool) (sigma : Option Val) : Nat × Bool × Bool :=
  let bad := poison || (match sigma with | some .nan => true | some (.inf _) => true | _ => false)
  if fmt = 10 then
    if bad then (0x80000000, false, true)
    else
      let v := match sigma with
        | some w => mulVal (.fin (decide (t < 0)) t.natAbs b) w
        | none => .fin (decide (t < 0)) t.natAbs b
      let r := encodeInt 32 (2 ^ 31 - 1) (2 ^ 31 - 1) .near v
      (r.1, r.2, false)
  else
    match floatFmt fmt with
    | none => (0, false, false)
    | some f =>
      if bad then (f.nanCode, false, true)
      else
        let v := match sigma with
          | some w => if t = 0 then .fin false 0 0 else mulVal (.fin (decide (t < 0)) t.natAbs b) w
          | none => .fin (decide (t < 0)) t.natAbs b
        let r := encodeSat f .near v
        (r.1, r.2, false)

/-- The quantisation limit P of R66 as mantissa and exponent. -/
def quantLimit (fmt : BitVec 4) : Nat :=
  match fmt.toNat with
  | 0 => 7 | 1 => 6 | 2 => 3 | 3 => 1 | 4 => 127 | 5 => 448 | 6 => 57344 | _ => 1

/-- Smallest integer t with a × 2^−t ≤ P, for a = m × 2^e > 0 (R66 step 4). -/
def quantShift (m : Nat) (e : Int) (p : Nat) : Int :=
  let t0 : Int := e + (bitLen m : Int) - (bitLen p : Int)
  if magGt m (e - t0) p 0 then t0 + 1
  else if magGt m (e - t0 + 1) p 0 then t0 else t0 - 1

/-- One quantised element: its field (a digit for T2) and whether it was clipped (R66 step 5, R524). -/
def quantElem (fmt : BitVec 4) (r : Rnd) (v : Val) : Nat × Bool :=
  match fmt.toNat with
  | 0 => encodeInt 4 8 7 r v
  | 2 => encodeInt 3 4 3 r v
  | 3 =>
    let x := encodeInt 2 1 1 r v
    (if x.1 = 3 then 0 else x.1 + 1, x.2)
  | 4 => encodeInt 8 128 127 r v
  | _ => match floatFmt fmt with
    | some f => encodeSat f r v
    | none => (0, false)

/-- Largest of the magnitudes of a block, as mantissa and exponent; none when some value is a NaN or an infinity. -/
def blockMax : List Val → Option (Nat × Int)
  | [] => some (0, 0)
  | .nan :: _ => none
  | .inf _ :: _ => none
  | .fin _ m e :: rest =>
    match blockMax rest with
    | none => none
    | some b => some (if magGt m e b.1 b.2 then (m, e) else b)

/-- Quantise one block of FP32 values with the random word of each element (R66): scale byte, element fields, clip count. -/
def quantBlock (fmt : BitVec 4) (xs : List Val) (rs : List Rnd) : Byte × List Nat × Nat :=
  let none_ := if fmt = 3 then 1 else 0
  match blockMax xs with
  | none => (0xFF, xs.map fun _ => none_, 0)
  | some (m, e) =>
    if m = 0 then (0x7F, xs.map fun _ => none_, 0)
    else
      let t := quantShift m e (quantLimit fmt)
      let sc : Int := if t + 127 < 0 then 0 else if t + 127 > 254 then 254 else t + 127
      let ys := (xs.zip rs).map fun p => quantElem fmt p.2 (scaleVal p.1 (127 - sc))
      (BitVec.ofNat 8 sc.toNat, ys.map (·.1), (ys.filter (·.2)).length)

/-- One level of the pairwise tree of R88. -/
def reduceLevel {α : Type} (op : α → α → α) : List (Option α) → List (Option α)
  | some a :: some b :: rest => some (op a b) :: reduceLevel op rest
  | some a :: none :: rest => some a :: reduceLevel op rest
  | none :: b :: rest => b :: reduceLevel op rest
  | [a] => [a]
  | [] => []

/-- The pairwise tree over 2^k lanes (R88); an absent lane is none. -/
def laneReduce {α : Type} (op : α → α → α) : Nat → List (Option α) → Option α
  | 0, xs => xs.headD none
  | k + 1, xs => laneReduce op k (reduceLevel op xs)

/-- Digit n mod 5 of a T2 byte (R64). -/
def t2Digit (b : Byte) (n : Nat) : Nat := b.toNat / 3 ^ (n % 5) % 3

/-- A T2 byte above 242 (R64). -/
def t2Bad (b : Byte) : Bool := decide (b.toNat > 242)

/-- Rows of a T2 group of g blocks take this many bytes (R64). -/
def t2Bytes (g : Nat) : Nat := (32 * g + 4) / 5

/-- Bytes of one row of an element slab of one block (R139). -/
def rowBytes (fmt : BitVec 4) (g : Nat) : Nat :=
  match fmt.toNat with
  | 0 => 16 | 1 => 16 | 2 => 12 | 3 => t2Bytes g | 4 => 32 | 5 => 32 | 6 => 32 | 7 => 64 | _ => 0

/-- The field of element n of a packed row of one block (R63); for T2, block j of the row's group (R64). -/
def rowElem (fmt : BitVec 4) (row : List Byte) (j n : Nat) : Nat :=
  let at_ (k : Nat) : Nat := (row.getD k 0).toNat
  match fmt.toNat with
  | 0 => at_ (n / 2) / 16 ^ (n % 2) % 16
  | 1 => at_ (n / 2) / 16 ^ (n % 2) % 16
  | 2 =>
    let bit := 3 * n
    (at_ (bit / 8) + 256 * at_ (bit / 8 + 1)) / 2 ^ (bit % 8) % 8
  | 3 => t2Digit (row.getD ((32 * j + n) / 5) 0) (32 * j + n)
  | 7 => at_ (2 * n) + 256 * at_ (2 * n + 1)
  | _ => at_ n

/-- Bytes of a group row that hold an element of block j (R64). -/
def t2BlockBytes (row : List Byte) (j : Nat) : List Byte :=
  (row.take ((32 * j + 31) / 5 + 1)).drop (32 * j / 5)

end Sys2Proof.Machine
end

