-- ==== Sys2Proof/Machine/Operands.lean ====
section
/-! DEFINITION. Operand forms of the bundle operations: address registers and their forecasts (05 R129), predicates
(R128), vector registers and masks (06 R154, R156), and store offsets. -/

namespace Sys2Proof.Machine

/-- Value of one register in a table; ar0 reads 0 (R129). -/
def arOf (r : FMap (BitVec 32)) (k : BitVec 4) : BitVec 32 := if k = 0 then 0 else fmGetD r k.toNat 0

/-- Write one register; a write to ar0 is ignored (R129). -/
def arPut (r : FMap (BitVec 32)) (k : BitVec 4) (v : BitVec 32) : FMap (BitVec 32) :=
  if k = 0 then r else fmSet r k.toNat v

/-- Destination of a register effect and its value from the registers at the start of the cycle (R133). -/
def arEffValue (r : FMap (BitVec 32)) : ArEff → BitVec 4 × BitVec 32
  | .setLo d imm => (d, (arOf r d) &&& 0xFFFF0000#32 ||| imm.setWidth 32)
  | .setHi d imm => (d, (imm.setWidth 32) <<< 16 ||| (arOf r d) &&& 0x0000FFFF#32)
  | .addi d src imm => (d, arOf r src + imm.signExtend 32)
  | .add d a b => (d, arOf r a + arOf r b)
  | .incr d k => (d, arOf r d + k)

/-- Replay of register operations cycle by cycle: registers at the start of the current cycle, registers so far, and
the registers that the C slot has written in this cycle (R129). -/
structure ArReplay where
  cyc : Nat
  start : FMap (BitVec 32)
  cur : FMap (BitVec 32)
  byC : List (BitVec 4)

/-- One register operation of the replay; a C-slot write wins over a post-increment of its bundle (R129). -/
def arReplay1 (st : ArReplay) (e : ArEv) : ArReplay :=
  let st := if e.cycle = st.cyc then st else ⟨e.cycle, st.cur, st.cur, []⟩
  match e.eff with
  | .incr d k =>
    if st.byC.contains d then st else { st with cur := arPut st.cur d (arOf st.cur d + k) }
  | eff =>
    let dv := arEffValue st.start eff
    { st with cur := arPut st.cur dv.1 dv.2, byC := dv.1 :: st.byC }

/-- Registers at the start of cycle `t`, replaying the operations that `use` selects (R129). -/
def arAt (b : Block) (use : ArEv → Bool) (t : Nat) : FMap (BitVec 32) :=
  (((b.arLog.filter fun e => decide (e.cycle < t) && use e).foldl arReplay1 ⟨0, b.arBase, b.arBase, []⟩)).cur

/-- Value of a predicate in a cycle (R128): the write seen latest, the later issue at a tie. -/
def predAt (b : Block) (t : Nat) (p : BitVec 3) : Bool :=
  if p = 0 then true
  else
    ((b.predLog.foldl (fun (acc : Nat × Bool) e =>
      if e.pd = p ∧ e.due ≤ t ∧ acc.1 ≤ e.due then (e.due, e.val) else acc)
      (0, b.predBase.getLsbD p.toNat))).2

/-- Address registers as they stand at the start of cycle `t`. -/
def arNow (b : Block) (t : Nat) : FMap (BitVec 32) := arAt b (fun e => e.done) t

/-- Address registers forecast in cycle `fc` for issue cycle `t` (R129). -/
def arForecast (b : Block) (fc t : Nat) : FMap (BitVec 32) :=
  arAt b (fun e => if e.cycle < fc then e.done else predAt b fc e.pred) t

/-- Record a register operation of a bundle, done or suppressed. -/
def Block.putAr (b : Block) (t : Nat) (pred : BitVec 3) (done : Bool) (eff : ArEff) : Block :=
  { b with arLog := b.arLog ++ [⟨t, pred, done, eff⟩] }

/-- Record post-increments: named registers are incremented once, by the sum (R129). -/
def Block.postInc (b : Block) (t : Nat) (pred : BitVec 3) (done : Bool) (incs : List (BitVec 4 × Nat)) : Block :=
  incs.foldl (fun b q => b.putAr t pred done (.incr q.1 (BitVec.ofNat 32 q.2))) b

/-- Record a predicate write (R128, R137, R157). -/
def Block.putPred (b : Block) (due issue : Nat) (pd : BitVec 3) (v : Bool) (writer : Nat := 0xFFFF) : Block :=
  if pd = 0 then b else { b with predLog := b.predLog ++ [⟨due, issue, pd, v, writer⟩] }

/-- Fold register and predicate history older than 64 cycles into the bases. -/
def Block.prune (b : Block) (t : Nat) : Block :=
  let old := b.arLog.filter fun e => decide (e.cycle + 64 < t)
  let oldP := b.predLog.filter fun e => decide (e.due + 64 < t)
  { b with
    arBase := ((old.filter (·.done)).foldl arReplay1 ⟨0, b.arBase, b.arBase, []⟩).cur
    arLog := b.arLog.filter fun e => decide (t ≤ e.cycle + 64)
    predBase := oldP.foldl (fun acc e =>
      if predAt { b with predLog := oldP } t e.pd then acc ||| (1#8 <<< e.pd.toNat)
      else acc &&& ~~~(1#8 <<< e.pd.toNat)) b.predBase
    predLog := b.predLog.filter fun e => decide (t ≤ e.due + 64) }

/-! ### Vector registers and masks -/

/-- Lanes of a register for a format code: 512 for BF16 and FP16, else 256 (R154). -/
def laneCount (type : BitVec 4) : Nat := if type = 7 ∨ type = 8 then 512 else 256

/-- Bits of one lane. -/
def laneBits (type : BitVec 4) : Nat := if type = 7 ∨ type = 8 then 16 else 32

/-- Field k of width w of a register held as a number. -/
def field (w x k : Nat) : Nat := x / 2 ^ (w * k) % 2 ^ w

/-- A register from its fields of width w, field 0 first. -/
def packFields (w : Nat) : List Nat → Nat
  | [] => 0
  | x :: rest => x % 2 ^ w + 2 ^ w * packFields w rest

/-- Merge new bytes under a byte-enable mask. -/
def mergeBytes (old new : BitVec 8192) (en : BitVec 1024) : BitVec 8192 :=
  if en = BitVec.allOnes 1024 then new
  else
    let m := BitVec.ofNat 8192 (packFields 8 ((List.range 1024).map fun k => if en.getLsbD k then 255 else 0))
    (old &&& ~~~m) ||| (new &&& m)

/-- Land one vector result on the registers (R156). -/
def landV (r : FMap (BitVec 8192)) (v : VPend) : FMap (BitVec 8192) :=
  fmSet r v.reg.toNat (mergeBytes (fmGetD r v.reg.toNat 0) v.val v.en)

/-- Insert in rising order of a key; equal keys keep their order. -/
def insertBy {α : Type} (key : α → Nat) (x : α) : List α → List α
  | [] => [x]
  | y :: rest => if key x < key y then x :: y :: rest else y :: insertBy key x rest

/-- Stable insertion sort by a key. -/
def sortBy {α : Type} (key : α → Nat) (xs : List α) : List α := xs.foldl (fun acc x => insertBy key x acc) []

/-- Results due by cycle `t`, in landing order, the later issue last in a cycle (R156). -/
def landVecs (b : Block) (t : Nat) : Block :=
  let now := b.vpend.filter fun v => decide (v.due ≤ t)
  let sorted := sortBy (·.due) (sortBy (·.issue) now)
  let mnow := b.mpend.filter fun v => decide (v.due ≤ t)
  let msorted := sortBy (·.due) (sortBy (·.issue) mnow)
  { b with
    vregs := sorted.foldl landV b.vregs
    vpend := b.vpend.filter fun v => decide (t < v.due)
    masks := msorted.foldl (fun m v => fmSet m v.kd.toNat v.val) b.masks
    mpend := b.mpend.filter fun v => decide (t < v.due) }

/-- Vector register value (the results due have landed). -/
def Block.vreg (b : Block) (r : BitVec 6) : BitVec 8192 := fmGetD b.vregs r.toNat 0

/-- Mask register value; k0 reads all ones (R154). -/
def Block.mask (b : Block) (k : BitVec 3) : BitVec 512 :=
  if k = 0 then BitVec.allOnes 512 else fmGetD b.masks k.toNat 0

/-- Signed value of the 10-bit base exponent. -/
def baseExp (b : BitVec 10) : Int := b.toInt

end Sys2Proof.Machine
end

