-- ==== Sys2Proof/Machine/Sequencer.lean ====
section
/-! DEFINITION. The block sequencer and the passage of region cycles (04 R97 to R111, 05 R124 to R131, 06 R156). A
bundle operation names the cycle it issues in; the block, and the other blocks of its region, are first brought up to
that cycle: loops close, results land, port F serves its requests, operand units are read, contributions reach the
Tanks. -/

namespace Sys2Proof.Machine

/-! ### Loops (R130) -/

/-- Address after the bundle at `a`, closing every loop that ends there (R130). -/
def closeLoops : List Loop → Nat → List Loop × Nat
  | [], a => ([], a + 1)
  | l :: rest, a =>
    if l.endA = a then
      if 1 < l.left then ({ l with left := l.left - 1, idx := l.idx + 1 } :: rest, l.start)
      else closeLoops rest a
    else (l :: rest, a + 1)

/-- The bundle after the current one: its address, its cycle and the loops then open (R130, R131). -/
def seqNext (b : Block) : Block :=
  let r := match b.opening with
    | some (e, n) =>
      if n = 0 then closeLoops b.loops e else (⟨b.addr + 1, e, n, 0⟩ :: b.loops, b.addr + 1)
    | none => closeLoops b.loops b.addr
  { b with
    loops := r.1, addr := r.2, cycle := b.cycle + 1 + b.wait, opening := none, wait := 0
    perf := { b.perf with issued := b.perf.issued + 1, waited := b.perf.waited + b.wait } }

/-- Bundles in the block's stream; a block without one holds a single WAITTICK (R109). -/
def Block.streamLen (b : Block) : Nat := if b.bundles.length = 0 then 1 else b.bundles.length

/-- Run the sequencer up to cycle `t`: the block, and the cause of a sequencer fault it meets (R126, R130, R151). -/
def seqTo : Nat → Block → Nat → Block × Option Nat
  | 0, b, _ => (b, none)
  | fuel + 1, b, t =>
    if b.atTick || decide (t ≤ b.cycle) then (b, none)
    else
      let n := seqNext b
      if 8191 < n.addr then (b, some 0x0B)
      else if b.streamLen ≤ n.addr ∧ n.cycle ≤ t then (n, some 0x12)
      else seqTo fuel n t

/-! ### Stores -/

/-- Whether two ranges meet. -/
def overlaps (a1 n1 a2 n2 : Nat) : Bool := decide (a1 < a2 + n2) && decide (a2 < a1 + n1)

/-- The write buffer holds 64 lines (R99). -/
def wbRoom : Nat := 64

/-- Put the lines of a write into the write buffer of a cell: a line already there takes the new data (R99). -/
def enterWb (c : Cell) (off len d cyc : Nat) : Cell :=
  let first := off / 128
  let lines := (List.range (cdiv (off % 128 + len) 128)).map fun k => (⟨first + k, d, cyc⟩ : WbLine)
  { c with wb := (c.wb.filter fun w => !(lines.any fun l => l.line == w.line)) ++ lines }

/-- A range of a cell store before one of the writes of its history (R140). -/
def undoWrite (off : Nat) (bs : Bytes) (h : StoreHist) : Bytes :=
  if overlaps off bs.length h.off h.old.length then
    bs.zipIdx.map fun p =>
      let a := off + p.2
      if h.off ≤ a ∧ a < h.off + h.old.length then h.old.getD (a - h.off) p.1 else p.1
  else bs

/-- Bytes of a cell store as they could be read in a cycle: a line is readable from the cycle in which it enters the write
buffer (R99). -/
def Cell.readAt (c : Cell) (mem : List Host.Cell) (base off n : Nat) (cyc : Int) : Bytes :=
  (c.hist.filter fun h => decide (cyc < (h.at_ : Int))).foldl (undoWrite off) (memRead mem (base + off) n)

def State.cellReadAt (s : State) (cellIx off n : Nat) (cyc : Int) : Bytes :=
  (s.cell cellIx).readAt s.mem (cellBase cellIx) off n cyc

/-- Bytes that a port F request still has to write into a cell store under a stated completion: destination and length
(R99, R110). A fill writes its deferral-out list, of `tag` bytes, last. -/
def PfReq.pendingWrite (r : PfReq) : Nat × Nat :=
  match r.kind with
  | .copyRc => (r.dst + 256 * r.done, 256 * (r.total - r.done))
  | .fill =>
    let d := r.done - (r.total - cdiv r.tag 256)
    (r.dst + 256 * d, r.tag - 256 * d)
  | _ => (0, 0)

/-- A read of a cell store in a cycle finds a write whose data has not arrived although its stated completion has passed
(R99). -/
def lateWrite (b : Block) (c : Cell) (a off n : Nat) (cyc : Int) : Bool :=
  (b.pf.any fun r => decide ((r.stated : Int) ≤ cyc) && overlaps a n r.pendingWrite.1 r.pendingWrite.2) ||
  (b.entering.any fun e => decide ((e.stated : Int) ≤ cyc) && decide (cyc < (e.at_ : Int)) && overlaps a n e.addr e.data.length) ||
  (c.hist.any fun h => decide ((h.stated : Int) ≤ cyc) && decide (cyc < (h.at_ : Int)) && overlaps off n h.off h.old.length)

/-! ### Operand reads of M operations (R140) -/

/-- Cycle in which unit `u` of a slab is read. -/
def Cap.cycleOf (c : Cap) (u : Nat) : Int := c.base + (((u * c.mul + c.add) * c.occ / c.n : Nat) : Int)

/-- Port through which unit `u` of a slab is read (R140, R144, R147). -/
def Cap.portOf (c : Cap) (u : Nat) : OpPort := if c.port = .pair then (if u % 2 = 0 then .a else .b) else c.port

/-- Units of a slab that are read in a cycle. -/
def Cap.unitsAt (c : Cap) (cyc : Int) : List Nat :=
  if cyc < c.base then []
  else
    let lo := (cdiv ((cyc - c.base).toNat * c.n) c.occ - c.add) / c.mul
    ((List.range (c.n / (c.occ * c.mul) + 3)).map (lo + ·)).filter fun u => decide (u < c.count) && c.cycleOf u == cyc

/-- Bank of an address within a cell store (R97). -/
def bankOf (a : Nat) : Nat := a / 128 % 16

/-- Banks of a cell that operand and scale reads claim in a cycle (R100). -/
def operandBanks (c : Cell) (base : Nat) (cyc : Int) : List Nat :=
  c.mops.flatMap fun m => m.caps.flatMap fun k => (k.unitsAt cyc).map fun u => bankOf (k.addr + u * k.unit - base)

/-- Read the units of a slab that fall before cycle `upto`, each as the store stood in its cycle, and give the cycle of the
first that found no data (R99, R140). -/
def capRun (b : Block) (c : Cell) (mem : List Host.Cell) (base : Nat) (upto : Int) : Nat → Cap → Option Int → Cap × Option Int
  | 0, k, late => (k, late)
  | fuel + 1, k, late =>
    let u := k.got.length / k.unit
    let cyc := k.cycleOf u
    if u < k.count ∧ cyc < upto then
      let a := k.addr + u * k.unit
      let late := if late.isNone && lateWrite b c a (a - base) k.unit cyc then some cyc else late
      capRun b c mem base upto fuel { k with got := k.got ++ c.readAt mem base (a - base) k.unit cyc } late
    else (k, late)

/-- Bring the operand reads of one M operation up to a cycle, not including it. -/
def Mop.capture (m : Mop) (b : Block) (c : Cell) (mem : List Host.Cell) (base : Nat) (upto : Int) : Mop × Option Int :=
  let r := m.caps.foldl (fun (acc : List Cap × Option Int) k =>
    let q := capRun b c mem base upto (k.count + 1) k acc.2
    (acc.1 ++ [q.1], q.2)) ([], none)
  ({ m with caps := r.1, failed := m.failed || r.2.isSome }, r.2)

/-- Position of a part-wide block in its partition. -/
def Partition.logicalOf (p : Partition) (bix : Nat) : Nat := p.blockList.findIdx (· == bix)

/-- Raise an Exposure-fatal fault of a block. -/
def State.blockFatal (s : State) (pid bix code detail time : Nat) : State :=
  let lg := match s.part pid with | some p => p.logicalOf bix | none => 0xFFFF
  s.raiseFatal pid code (s.blockUnit bix lg) detail time

/-- Raise an Exposure-fatal fault of a cell. -/
def State.cellFatal (s : State) (pid cellIx code detail time : Nat) : State :=
  let lg := match s.part pid with | some p => 4 * p.logicalOf (cellIx / 4) + cellIx % 4 | none => 0xFFFF
  s.raiseFatal pid code (s.cellUnit cellIx lg) detail time

/-- Bring the operand reads of a cell's M operations up to a cycle, not including it; a read that finds no data is
LATE_OPERAND, and its operation delivers nothing (R99). -/
def State.captureReads (s : State) (cellIx : Nat) (upto : Int) : State :=
  let c := s.cell cellIx
  if c.mops.isEmpty then s
  else
    let rs := c.mops.map fun m => m.capture (s.block (cellIx / 4)) c s.mem (cellBase cellIx) upto
    let s := s.setCell cellIx { c with mops := rs.map (·.1) }
    match rs.findSome? (·.2) with
    | some cyc => s.blockFatal ((s.ownerOf (cellIx / 144)).getD 0xFF) (cellIx / 4) 0x1407 0 cyc.toNat
    | none => s

/-- A write enters a cell store: operands due before the cycle are read first, the bytes it replaces are kept for the reads
that an M operation makes before its issue, and its lines enter the write buffer with their D (R99, R140). -/
def State.cellWrite (s : State) (cellIx off : Nat) (bs : Bytes) (cyc d stated : Nat) (writer : Nat := 0xFFFF) : State :=
  let s := s.captureReads cellIx (cyc : Int)
  let old := s.readMem (cellBase cellIx + off) bs.length
  let s := s.updCell cellIx fun c => { enterWb c off bs.length d cyc with
    hist := ⟨cyc, stated, off, old, writer⟩ :: c.hist.filter fun h => decide (cyc ≤ h.at_ + 24) }
  s.write (cellBase cellIx + off) bs

/-- Write at any part-local store address, taking cell stores through their write buffer. -/
def State.storeWrite (s : State) (a : Nat) (bs : Bytes) (cyc d stated : Nat) (writer : Nat := 0xFFFF) : State :=
  if 0x900000000000 ≤ a then
    s.cellWrite ((a - 0x900000000000) / 0x100000) ((a - 0x900000000000) % 0x100000) bs cyc d stated writer
  else s.write a bs

/-! ### Port F (R101 to R104, R110) -/

/-- A due access claims port F of a cell in a cycle (R102). -/
def dueAt (b : Block) (ci : BitVec 2) (cyc : Nat) : Bool :=
  b.due.any fun x => x.cell == ci && x.cycle == cyc

/-- Two requests are the same one. -/
def PfReq.same (x y : PfReq) : Bool :=
  x.issue == y.issue && decide (x.kind = y.kind) && x.cell == y.cell && x.dst == y.dst && x.tag == y.tag

/-- Order of two requests under R102, R103 and R107: nearer D, then the owner, then rank, then the place in the rank, then
age. -/
def pfBefore (x y : PfReq) : Bool :=
  decide (x.d < y.d) || (x.d == y.d &&
    (decide (boolNat (!x.owner) < boolNat (!y.owner)) || (x.owner == y.owner &&
      (decide (x.rank < y.rank) || (x.rank == y.rank &&
        (decide (x.idx < y.idx) || (x.idx == y.idx && decide (x.issue ≤ y.issue))))))))

/-- The first request under an order. -/
def pfBest : List PfReq → Option PfReq
  | [] => none
  | x :: rest => match pfBest rest with
    | none => some x
    | some y => if pfBefore x y then some x else some y

/-- Whether a request competes in a cycle: it has reached the arbiter and units remain. -/
def PfReq.live (r : PfReq) (cyc : Nat) : Bool := decide (r.done < r.total) && decide (r.ready < cyc)

/-- Whether a request has its next unit ready in a cycle: a unit from the region store must have reached the block, one of
another bundle operation follows the one before by a cycle (R111). -/
def PfReq.unitReady (r : PfReq) (cyc : Nat) : Bool :=
  r.live cyc && match r.kind with
    | .copyRc => (match r.arr with | u :: _ => decide (u.1 < cyc) | [] => false)
    | .landing | .hostWrite => true
    | _ => decide (r.ready + r.done < cyc)

/-- Part-local address that the next unit of a request reads, none where it writes; a fill lists the units that it still
reads in `arr` (R110, R179). -/
def PfReq.readAddr (r : PfReq) : Option Nat :=
  match r.kind with
  | .copyCr | .hostRead => some (r.src + 256 * r.done)
  | .fill => r.arr.head?.map (·.1)
  | _ => none

/-- Whether a read of port F that is not due finds its two banks free in a cycle: no due read claims them, and no line of
the write buffer with a nearer D (R100, R102, R107). -/
def banksFree (c : Cell) (base cyc : Nat) (r : PfReq) : Bool :=
  match r.readAddr with
  | none => true
  | some a =>
    let banks := [bankOf (a - base), bankOf (a - base + 128)]
    !((operandBanks c base cyc).any banks.contains) &&
      !(c.wb.any fun w => banks.contains (w.line % 16) && decide (w.enter < cyc) && decide (w.d < r.d))

/-- A turn estimate: it saturates at 65,535 (R104). -/
def turnOf (n : Nat) : BitVec 16 := if n < 65536 then BitVec.ofNat 16 n else 0xFFFF

/-- Turn estimates after a change of owner, `own` units of which remain beside those of the requests ahead (R104). -/
def pfEstimate (rs : List PfReq) (ci : BitVec 2) (cyc own : Nat) : List PfReq :=
  let live := rs.filter fun r => r.cell == ci && r.live cyc
  rs.map fun r =>
    if r.cell == ci && r.live cyc && !r.owner then
      { r with turn := turnOf (live.foldl (fun acc q =>
          if q.owner || (q != r && pfBefore q r) then acc + (q.total - q.done) else acc) own) }
    else r

/-- One cycle of port F of one cell: the owner is chosen under R102 and R103, and the request that is served moves one
unit. `free` says whether the banks of a unit that reads are free. Returns the block and the request served. -/
def pfServe (b : Block) (free : PfReq → Bool) (ci : BitVec 2) (cyc : Nat) : Block × Option PfReq :=
  let live := b.pf.filter fun r => r.cell == ci && r.live cyc
  if dueAt b ci cyc then
    -- the port passes to the due access; a displaced owner becomes pending again
    ({ b with
        pf := pfEstimate (b.pf.map fun r => if r.cell == ci then { r with owner := false } else r) ci cyc 1
        perf := { b.perf with preempted := b.perf.preempted + boolNat (live.any (·.owner)) } }, none)
  else
    match pfBest live with
    | none => (b, none)
    | some o =>
      let rs := b.pf.map fun r => if r.cell == ci then { r with owner := r.same o } else r
      let rs := if o.owner then rs else pfEstimate rs ci cyc 0
      let b := { b with perf := { b.perf with preempted := b.perf.preempted + boolNat (!o.owner && live.any (·.owner)) } }
      match pfBest (live.filter fun r => r.unitReady cyc && free r) with
      | none => ({ b with pf := rs }, none)
      | some w =>
        let pick := if o.unitReady cyc && free o then o else w
        ({ b with
            pf := rs.map fun r => if r.same pick then { r with done := r.done + 1, arr := r.arr.tail } else r
            perf := { b.perf with portF := b.perf.portF + 1 } }, some pick)

/-! ### Banks of a cell (R97, R99, R100, R107, R120) -/

/-- A due read of port F that falls on a bank in a cycle. -/
def dueReadOn (b : Block) (ci : BitVec 2) (bank cyc : Nat) : Bool :=
  b.due.any fun x => x.read && x.cell == ci && x.cycle == cyc && (bankOf x.off == bank || bankOf (x.off + 128) == bank)

/-- What one cycle of the banks of a cell leaves: the lines that stay in the write buffer, the banks taken, and those on
which a line displaced a due read. -/
structure BankCycle where
  stay : List WbLine := []
  taken : List Nat := []
  forced : List Nat := []
  deriving DecidableEq, Repr

/-- A write-buffer line meets its bank in a cycle: it waits while a due read claims the bank, unless it is at its D or the
buffer is full (R99, R107, R120). -/
def bankLine (b : Block) (ci : BitVec 2) (reads : List Nat) (full : Bool) (cyc : Nat) (acc : BankCycle) (w : WbLine) : BankCycle :=
  let bank := w.line % 16
  if decide (cyc ≤ w.enter) || acc.taken.contains bank then { acc with stay := acc.stay ++ [w] }
  else if reads.contains bank || dueReadOn b ci bank cyc then
    if decide (w.d ≤ cyc) || full then { acc with taken := bank :: acc.taken, forced := bank :: acc.forced }
    else { acc with taken := bank :: acc.taken, stay := acc.stay ++ [w] }
  else { acc with taken := bank :: acc.taken }

/-- The banks of a cell in one cycle: `pf` lists those that a read of port F took; lines go by D, then age; lines that wait
for an ECC write-back come last. -/
def bankCycle (b : Block) (c : Cell) (ci : BitVec 2) (base cyc : Nat) (pf : List Nat) : Cell × List Nat :=
  if c.wb.isEmpty && c.wback.isEmpty then (c, [])
  else
    let reads := operandBanks c base cyc
    let full := decide (wbRoom ≤ c.wb.length)
    let r := (sortBy (·.d) c.wb).foldl (bankLine b ci reads full cyc) { taken := pf }
    let back := c.wback.foldl (fun (acc : List Nat × List Nat) l =>
      if acc.2.contains (l % 16) || reads.contains (l % 16) || dueReadOn b ci (l % 16) cyc then (acc.1 ++ [l], acc.2)
      else (acc.1, l % 16 :: acc.2)) ([], r.taken)
    let keep := c.forced.filter fun f => decide (cyc ≤ f.1 + 24)
    ({ c with wb := c.wb.filter r.stay.contains, wback := back.1, forced := r.forced.map (fun k => (cyc, k)) ++ keep }, r.forced)

/-- A line of the write buffer has displaced the reads that are due on a bank: they fail (R99, R120). -/
def failReads (s : State) (pid cellIx bank cyc : Nat) : State :=
  let base := cellBase cellIx
  let s := s.updCell cellIx fun c => { c with mops := c.mops.map fun m =>
    let hit : Bool := m.caps.any fun k => (k.unitsAt cyc).any fun u => bankOf (k.addr + u * k.unit - base) == bank
    { m with failed := m.failed || hit } }
  let s := s.updBlock (cellIx / 4) fun b =>
    if dueReadOn b (BitVec.ofNat 2 cellIx) bank cyc then { b with
      loads := b.loads.map fun q => if q.cellIx = cellIx then { q with failed := true } else q
      commits := b.commits.map fun q => if q.cellSrc && q.src / 0x100000 == base / 0x100000 then { q with dead := true } else q }
    else b
  s.cellFatal pid cellIx 0x1409 0 cyc

/-- One cycle of the write buffers and banks of a block's cells; `pf` gives the banks that port F reads take. -/
def drainBlock (s : State) (pid bix cyc : Nat) (pf : Nat → List Nat) : State :=
  [0, 1, 2, 3].foldl (fun s c =>
    let ix := 4 * bix + c
    let r := bankCycle (s.block bix) (s.cell ix) (BitVec.ofNat 2 c) (cellBase ix) cyc (pf c)
    r.2.foldl (fun s bank => failReads s pid ix bank cyc) (s.setCell ix r.1)) s

/-! ### Lines on their way into the stores (R98, R99, R111, R146, R162) -/

/-- Cycle in which line k of an ST or a TANK.READ reaches its cell: the lines of an ST five cycles after their port F unit,
those of a TANK.READ spread over its occupancy. -/
def TimedWrite.enterAt (w : TimedWrite) (k : Nat) : Nat :=
  let lines := cdiv w.data.length 128
  if lines ≤ 8 then w.issue + 5 + k / 2 else w.issue + 6 + k * (w.due - w.issue - 6) / lines

/-- Lines of a store write that have reached the cell by a cycle. -/
def TimedWrite.arrived (w : TimedWrite) (cyc : Nat) : Nat :=
  ((List.range (cdiv w.data.length 128)).filter fun k => decide (w.enterAt k ≤ cyc)).length

/-- The lines of one store write that reach the cell by a cycle enter it. -/
def enterTimed (s : State) (w : TimedWrite) (cyc : Nat) : State :=
  let n := if w.due ≤ cyc then cdiv w.data.length 128 else w.arrived cyc
  ((List.range n).drop w.entered).foldl (fun s k =>
    s.storeWrite (w.addr + 128 * k) ((w.data.drop (128 * k)).take 128) (Nat.min (w.enterAt k) w.due) w.due w.due w.writer) s

/-- Everything that reaches the cells of a block by a cycle enters them. -/
def enterBlock (s : State) (bix cyc : Nat) : State :=
  let b := s.block bix
  if b.timed.isEmpty && b.entering.isEmpty then s
  else
    let s := b.timed.foldl (fun s w => enterTimed s w cyc) s
    let s := (b.entering.filter fun e => decide (e.at_ ≤ cyc)).foldl (fun s e => s.storeWrite e.addr e.data e.at_ e.stated e.stated e.writer) s
    s.updBlock bix fun b => { b with
      timed := (b.timed.filter fun w => decide (cyc < w.due)).map fun w => { w with entered := w.arrived cyc }
      entering := b.entering.filter fun e => decide (cyc < e.at_) }

end Sys2Proof.Machine
end

