-- ==== Sys2Proof/Machine/Matrix.lean ====
section
/-! DEFINITION. The matrix engine: contributions, Tanks, dodge channels, the test strip, readout and merge
(03 R67 to R83, 05 R138 to R149). -/

namespace Sys2Proof.Machine

/-- Split a byte string into pieces of `n`. -/
def chunks (n : Nat) : Nat → Bytes → List Bytes
  | 0, _ => []
  | k + 1, bs => bs.take n :: chunks n k (bs.drop n)

/-- Exponent of the integer scale used for a matrix format: every element is an integer times 2^q. -/
def elemQ (fmt : BitVec 4) : Int :=
  match fmt.toNat with
  | 1 => -1 | 5 => -9 | 6 => -16 | 7 => -133 | _ => 0

/-- An element as an integer at its format's scale; none for a NaN or an infinity, which poison the block (R65). -/
def elemInt (fmt : BitVec 4) (x : Nat) : Option Int :=
  match decodeElem fmt x with
  | .fin n m e => some (sInt n (m * pow2 (e - elemQ fmt)))
  | _ => none

/-- One row of an operand block: its 32 integers, its scale exponent and whether the block is poisoned. -/
structure OpRow where
  xs : List Int
  ex : Int
  bad : Bool
  deriving DecidableEq, Repr

/-- Whether a row can contribute a non-zero value. -/
def OpRow.live (r : OpRow) : Bool := r.xs.any (· != 0)

/-- Decode one row of a slab (R62 to R65); `zeroCh` lists elements taken as 0 (R79). -/
def decodeRow (fmt : BitVec 4) (j : Nat) (row : Bytes) (scale : Byte) (scaled : Bool) (zeroCh : List Nat) : OpRow :=
  let es := (List.range 32).map fun n =>
    if zeroCh.contains n then some 0 else elemInt fmt (rowElem fmt row j n)
  { xs := es.map (·.getD 0)
    ex := if scaled then scaleExp scale else 0
    bad := (scaled && scale == 0xFF) || es.any (·.isNone) || (fmt == 3 && (t2BlockBytes row j).any t2Bad) }

/-- Decode the 128 rows of a slab. -/
def decodeSlab (fmt : BitVec 4) (g j : Nat) (slab scales : Bytes) (zeroCh : List Nat) : List OpRow :=
  let scaled := fmt != 7
  ((chunks (rowBytes fmt g) 128 slab).zip (if scaled then scales ++ List.replicate 128 0 else List.replicate 128 0)).map
    fun p => decodeRow fmt j p.1 p.2 scaled zeroCh

/-- Exact sum of products. -/
def dot : List Int → List Int → Int
  | x :: xs, y :: ys => x * y + dot xs ys
  | _, _ => 0

/-- Largest contribution in units of 2^B (R70). -/
def tankMax : Int := 2 ^ 71 - 1

/-- Truncate v × 2^k toward zero and clamp it: the integer c of R70 and whether it was clamped. -/
def tankContribution (v : Int) (k : Int) : Int × Bool :=
  let m := if 0 ≤ k then v.natAbs * pow2 k else v.natAbs / pow2 (-k)
  if (m : Int) > tankMax then (if v < 0 then -tankMax else tankMax, true)
  else (if v < 0 then -(m : Int) else (m : Int), false)

/-- Contributions of a step: sparse values by element, poison bits to set, number of clamps (R69, R70). -/
structure Contrib where
  vals : List (Nat × Int)
  poison : BitVec 16384
  clamps : Nat
  deriving DecidableEq, Repr

/-- Poison bits for the rows i and columns j that are poisoned. -/
def poisonBits (rows cols : List Nat) : BitVec 16384 :=
  let colMask := cols.foldl (fun (acc : Nat) j => acc ||| 2 ^ j) 0
  let allRows := (List.range 128).foldl (fun (acc : Nat) i => acc ||| 2 ^ (128 * i)) 0
  let r := rows.foldl (fun (acc : Nat) i => acc ||| (2 ^ 128 - 1) * 2 ^ (128 * i)) 0
  BitVec.ofNat 16384 (r ||| (if colMask = 0 then 0 else colMask * allRows))

/-- Indices of the rows that satisfy a test. -/
def rowsWhere (f : OpRow → Bool) (rs : List OpRow) : List (Nat × OpRow) :=
  (rs.zipIdx.filter fun p => f p.1).map fun p => (p.2, p.1)

/-- Contributions of all element pairs (R69, R70): q is the sum of the formats' exponents. -/
def contribute (as bs : List OpRow) (q : Int) (base : Int) : Contrib :=
  let la := rowsWhere (fun r => r.live && !r.bad) as
  let lb := rowsWhere (fun r => r.live && !r.bad) bs
  let all := la.flatMap fun a => lb.map fun b =>
    let c := tankContribution (dot a.2.xs b.2.xs) (q + a.2.ex + b.2.ex - base)
    (128 * a.1 + b.1, c)
  { vals := (all.filter fun x => x.2.1 != 0).map fun x => (x.1, x.2.1)
    poison := poisonBits ((rowsWhere (·.bad) as).map (·.1)) ((rowsWhere (·.bad) bs).map (·.1))
    clamps := (all.filter fun x => x.2.2).length }

/-- Add sparse integers, in rising order of key, to a table of 96-bit accumulators; zero entries are dropped. -/
def tankAdd : Nat → FMap (BitVec 96) → List (Nat × Int) → FMap (BitVec 96)
  | 0, t, _ => t
  | _, t, [] => t
  | _, [], vs => (vs.map fun v => (v.1, BitVec.ofInt 96 v.2)).filter fun p => p.2 != 0
  | fuel + 1, (k, x) :: t, (j, c) :: vs =>
    if k < j then (k, x) :: tankAdd fuel t ((j, c) :: vs)
    else if j < k then (j, BitVec.ofInt 96 c) :: tankAdd fuel ((k, x) :: t) vs
    else
      let y := x + BitVec.ofInt 96 c
      if y = 0 then tankAdd fuel t vs else (k, y) :: tankAdd fuel t vs

/-- Add contributions to a cell's Tanks (R70, R73). -/
def Cell.addContrib (c : Cell) (k : Contrib) : Cell :=
  { c with
    tanks := tankAdd (c.tanks.length + k.vals.length + 1) c.tanks k.vals
    poison := c.poison ||| k.poison
    clampCount := satAdd c.clampCount k.clamps }

/-- Bytes of a slab of an operation. -/
def Mop.cap (m : Mop) (k : Nat) : Bytes := match m.caps[k]? with | some c => c.got | none => []

/-- T2 bytes above 242 that an operation read from its T2 slabs (R78). -/
def Mop.badT2 (m : Mop) : Nat :=
  (if m.fmtA = 3 then ((m.cap 0).filter t2Bad).length else 0) +
  (if m.fmtB = 3 then ((m.cap 1).filter t2Bad).length else 0)

/-- Channels of a cell's dodge list that fall in block `kblk` of K, as positions in the block (R144). -/
def dodgeInBlock (list_ : List (BitVec 32)) (kblk : Nat) : List Nat :=
  (list_.filter fun c => c.toNat / 32 == kblk).map fun c => c.toNat % 32

/-- Contribution of one MMA step, given the bytes of its element slabs (R69, R79, R142): the dodge list and the base are
those of its issue. -/
def mmaContrib (m : Mop) (slabA slabB : Bytes) : Contrib × List OpRow :=
  let gA := m.t2size
  let zeroCh := if m.dodge then dodgeInBlock m.dlist m.kblk else []
  let as := decodeSlab m.fmtA gA m.t2pos slabA (m.cap 2) zeroCh
  let bs := decodeSlab m.fmtB gA m.t2pos slabB (m.cap 3) []
  (contribute as bs (elemQ m.fmtA + elemQ m.fmtB) (baseExp m.base), bs)

/-- Strip contributions of a step (R81, R143): the 32 F8E4 activations of one row against every column. -/
def stripContrib (m : Mop) (bs : List OpRow) : Contrib :=
  let row := decodeRow 5 0 (m.cap 4) ((m.cap 5).headD 0) true []
  contribute [row] bs (elemQ 5 + elemQ m.fmtB) (baseExp m.base)

/-- Contribution of a side-pass group (R79, R145): activations, gathered weights and their original scales. -/
def sideContrib (m : Mop) : Contrib :=
  let chans := (m.dlist.drop (32 * m.group)).take 32
  let pad := (List.range 32).filter fun k => decide (chans.length ≤ k)
  let as := decodeSlab 5 0 0 (m.cap 0) ((m.cap 2).take 128) pad
  let latch := (m.latch.drop (32 * m.group)).take 32
  let ws := decodeSlab m.fmtB 1 0 (m.cap 1) (List.replicate 128 127) []
  let bs := ws.zipIdx.map fun p =>
    let sc : List Byte := latch.map fun bytes => bytes.getD p.2 0
    { xs := (p.1.xs.zip (sc ++ List.replicate 32 (0 : Byte))).map fun q => q.1 * (pow2 (q.2.toNat : Nat) : Nat)
      ex := -127
      bad := p.1.bad || sc.any (· == 0xFF) : OpRow }
  contribute as bs (elemQ 5 + elemQ m.fmtB) (baseExp m.base)

/-- Indices that the scale slab of a side pass must hold (R145). -/
def dodgeIndices (list_ : List (BitVec 32)) (g : Nat) : List Nat :=
  (List.range 32).map fun k => match list_[32 * g + k]? with
    | some x => x.toNat
    | none => 0xFFFFFFFF

/-- Whether a side pass finds the indices of its group (R145). -/
def dodgeMatches (m : Mop) : Bool :=
  (chunks 4 32 ((m.cap 2).drop 128)).map leNat == dodgeIndices m.dlist m.group

/-- Entries of a raw tile: Tank values and poison bits (R74). -/
def rawTile (bs : Bytes) : FMap (BitVec 96) × BitVec 16384 :=
  let es := (chunks 16 16384 bs).zipIdx
  (((es.map fun p => (p.2, BitVec.ofNat 96 (leNat (p.1.take 12)))).filter fun q => q.2 != 0),
   BitVec.ofNat 16384 (es.foldl (fun (acc : Nat) p => if bit (leNat (p.1.drop 12)) 31 then acc ||| 2 ^ p.2 else acc) 0))

/-- The cell after a merge lands (R74, R147). -/
def mergeLand (c : Cell) (m : Mop) : Cell :=
  let t := rawTile (m.cap 0)
  { c with
    tanks := tankAdd (m.sample.length + t.1.length + 1) m.sample (t.1.map fun p => (p.1, p.2.toInt))
    poison := m.samplePoison ||| t.2 }

/-- Sum of the differences of a strip check (R82). -/
def stripSum (m : Mop) : Nat :=
  (List.range 128).foldl (fun acc j =>
    acc + ((fmGetD m.stripSample j 0).toInt - (fmGetD m.sample (128 * m.row.toNat + j) 0).toInt).natAbs) 0

/-- The strip register after the sum of the differences is added, saturating at 2^96 − 1 (R82). -/
def stripAfter (c : Cell) (m : Mop) : Nat := Nat.min (c.stripReg.toNat + stripSum m) (2 ^ 96 - 1)

/-- Whether a strip check exceeds its threshold exactly, in units of the base at its sample (R82, R148). -/
def stripExceeds (c : Cell) (m : Mop) (tau : BitVec 32) : Bool :=
  match decodeFloat fmtFP32 tau.toNat with
  | .fin _ t e => magGt (stripAfter c m) (baseExp m.base) t e
  | _ => false

/-- Land one M operation of a cell (R73, R141 to R148). -/
def landMop (s : State) (pid cellIx : Nat) (m : Mop) (group : List Mop) : State :=
  let c := s.cell cellIx
  let lg := match s.part pid with
    | some p => p.logicalOf (cellIx / 4) * 4 + cellIx % 4
    | none => 0xFFFF
  let u := s.cellUnit cellIx lg
  match m.kind with
  | .mma =>
    let slabA := if m.fmtA = 3 then group.flatMap (·.cap 0) else m.cap 0
    let slabB := if m.fmtB = 3 then group.flatMap (·.cap 1) else m.cap 1
    let k := mmaContrib m slabA slabB
    let sk := if m.strip then stripContrib m k.2 else ⟨[], 0, 0⟩
    let c1 := c.addContrib k.1
    let c2 := { c1 with
      strip := tankAdd (c1.strip.length + sk.vals.length + 1) c1.strip sk.vals
      clampCount := satAdd c1.clampCount sk.clamps
      t2Invalid := satAdd c1.t2Invalid m.badT2 }
    let s := s.setCell cellIx c2
    let s := if k.1.clamps + sk.clamps = 0 then s else s.logOnce 0x0421 pid 0 u 0
    if m.badT2 = 0 then s else s.logOnce 0x0425 pid 0 u 0
  | .side =>
    if dodgeMatches m then
      let k := sideContrib m
      let c1 := c.addContrib k
      let s := s.setCell cellIx { c1 with t2Invalid := satAdd c1.t2Invalid m.badT2 }
      let s := if k.clamps = 0 then s else s.logOnce 0x0421 pid 0 u 0
      if m.badT2 = 0 then s else s.logOnce 0x0425 pid 0 u 0
    else s.raiseFatal pid 0x140A u 0 m.issue
  | .merge => s.setCell cellIx (mergeLand c m)
  | .dodgeSet =>
    let len := alignUp (4 * m.n) 128
    s.setCell cellIx { c with
      dodgeList := (chunks 4 m.n (m.cap 0)).map fun b => BitVec.ofNat 32 (leNat b)
      dodgeLatch := chunks 128 m.n ((m.cap 0).drop len) }
  | .check =>
    let th := match s.part pid with
      | some p => p.negative.thresh.getD m.entry.toNat (0, false)
      | none => (0, false)
    let exceeded := stripExceeds c m th.1
    let s := s.setCell cellIx { c with
      strip := [], stripReg := 0, precAlarm := if exceeded then satAdd c.precAlarm 1 else c.precAlarm }
    if exceeded && th.2 then
      (s.updFrame pid fun f => { f with precision := true }).logOnce 0x0424 pid 0 u 0
    else s

/-- What the port checks of later operations need of one that has landed (R140). -/
def Mop.spent (m : Mop) : Mop := { m with
  caps := m.caps.map (fun k => { k with got := [] })
  sample := [], samplePoison := 0, stripSample := [], dlist := [], latch := [] }

/-- Take landed operations out of a cell, and keep their reads of the last cycles (R140). -/
def Cell.retire (c : Cell) (gone : Mop → Bool) (cyc : Nat) : Cell := { c with
  mops := c.mops.filter fun x => !gone x
  past := (c.mops.filter gone).map Mop.spent ++ c.past.filter fun x => decide (cyc ≤ x.land.getD 0 + 24) }

/-- Land every M operation of a cell whose cycle is reached, in issue order; one with a read that failed adds nothing. The
strip contribution of a position of a T2 group lands with the group: whether it lands in its own cycle t + 44 instead the
rules do not say (R142, R143; DESIGN CHOICE, entry 133). -/
def landCell (s : State) (pid cellIx cyc : Nat) : State :=
  let now := sortBy (fun m => m.land.getD 0)
    ((s.cell cellIx).mops.filter fun m => match m.land with | some l => decide (l ≤ cyc) | none => false)
  now.foldl (fun s m =>
    let l := m.land.getD 0
    -- the operand reads that fall before the landing are made on the store as it stands
    let s := s.captureReads cellIx (l : Int)
    let all := (s.cell cellIx).mops
    let grp := all.filter fun x => x.land == m.land && decide (x.kind = .mma) && decide (0 < x.t2size)
    let m' := (all.find? fun x => x.issue == m.issue && decide (x.kind = m.kind)).getD m
    let s := if m'.failed || (decide (0 < m.t2size) && grp.any (·.failed)) then s else landMop s pid cellIx m' grp
    if m.t2size = 0 then s.updCell cellIx fun c => c.retire (fun x => x.issue == m.issue && decide (x.kind = m.kind)) cyc
    else if m.t2pos + 1 = m.t2size then s.updCell cellIx fun c => c.retire (fun x => x.land == m.land && decide (0 < x.t2size)) cyc
    else s) s

/-! ### Slabs of an operation (R139, R140) -/

/-- Cap of one port: `n` units over `occ` cycles, the first `count` of which belong to this slab. -/
def mkCap (t occ n addr unit count mul add : Nat) (port : OpPort) : Cap :=
  let occ' := Nat.max occ n
  { addr, unit, count, base := (t : Int) - 3 - ((occ' - occ : Nat) : Int), mul, add, occ := occ', n := Nat.max n 1, port }

/-- Element slab bytes of a format, for a T2 group of g blocks (R139). -/
def slabBytes (fmt : BitVec 4) (g : Nat) : Nat := 128 * rowBytes fmt g

/-- First and number of units that position j of a T2 group reads (R142). -/
def t2Units (g j : Nat) : Nat × Nat :=
  let n := slabBytes 3 g / 64
  (n * j / g, n * (j + 1) / g - n * j / g)

/-- Element cap of one operand of an MMA step. -/
def elemCap (t occ base off : Nat) (fmt : BitVec 4) (g j : Nat) (port : OpPort) : Cap :=
  if fmt = 3 then
    let u := t2Units g j
    mkCap t occ u.2 (base + off + 64 * u.1) 64 u.2 1 0 port
  else
    let n := slabBytes fmt 1 / 64
    mkCap t occ n (base + off) 64 n 1 0 port

/-- Scale caps of A and B: their 16-byte units alternate on the scale port (R140). -/
def scaleCap (t occ base off add : Nat) (present : Bool) : Cap :=
  { mkCap t occ 16 (base + off) 16 (if present then 8 else 0) 2 add .scale with }

/-- Occupancy of an MMA pair, none where the pair is not allowed (R67). -/
def pairOcc (a b : BitVec 4) : Option Nat :=
  let narrow (x : BitVec 4) : Bool := x == 0 || x == 1 || x == 2
  let eight (x : BitVec 4) : Bool := x == 4 || x == 5 || x == 6
  if narrow a && narrow b then some 32
  else if (a == 3 && (b == 3 || narrow b)) || (b == 3 && narrow a) then some 16
  else if (eight a && (eight b || narrow b || b == 3)) || (eight b && (narrow a || a == 3)) then some 128
  else if a == 7 && b == 7 then some 512
  else none

/-- First read cycle of a set of slabs, or t − 3 where nothing is read (R140). -/
def firstRead (t : Nat) (caps : List Cap) : Int :=
  (caps.filter fun c => c.count != 0).foldl (fun acc c => if c.cycleOf 0 < acc then c.cycleOf 0 else acc) ((t : Int) - 3)

/-- Two slabs read on one port in one cycle (R140). -/
def portClash (x y : Cap) : Bool :=
  (List.range x.count).any fun u => (y.unitsAt (x.cycleOf u)).any fun v => decide (x.portOf u = y.portOf v)

/-- Cycles in which two slabs are read from one bank (R100). -/
def bankClash (base : Nat) (x y : Cap) : List Int :=
  ((List.range x.count).map x.cycleOf).zip (List.range x.count) |>.filterMap fun p =>
    if (y.unitsAt p.1).any fun v => bankOf (x.addr + p.2 * x.unit - base) == bankOf (y.addr + v * y.unit - base) then some p.1 else none

/-- The selected cell positions of a mask. -/
def maskCells (m : BitVec 4) : List Nat := (List.range 4).filter fun c => m.getLsbD c

end Sys2Proof.Machine
end

