-- ==== Sys2Proof/Machine/Move.lean ====
section
/-! DEFINITION. What a unit that port F of a cell serves does: copies (04 R110, R111), commits into staging ranges (06 R171,
R172), loads (06 R162), Contact sheet fills (06 R175 to R179) and landings. -/

namespace Sys2Proof.Machine

/-- The fabric die that serves a tile on a variant (R2, R3). -/
def fabricDie (v : Variant) (tile : Nat) : Nat :=
  match v with
  | .zx940 => tile / 2 * 2
  | .zx910 => tile / 4 * 4
  | _ => tile

/-- Compute-mesh hops from a tile to its serving fabric die along row, then column (R172, R21). -/
def meshHops (v : Variant) (tile : Nat) : Nat :=
  let f := fabricDie v tile
  (tile / 4 - f / 4) + (tile % 4 - f % 4)

/-- Active slot table of a port. -/
def PortTx.table (x : PortTx) : List SlotEnt := if x.bank then x.bank1 else x.bank0

/-- Bytes that an entry takes in its staging ring (R171). -/
def SlotEnt.room (e : SlotEnt) : Nat := if e.kind = .reserved then 0 else alignUp e.len 256

/-- Start of an entry's range, counted without the wrap (R171). -/
def stagingStart (tbl : List SlotEnt) (k : Nat) : Nat := (tbl.take k).foldl (fun acc e => acc + e.room) 0

/-- Whether two ranges of a ring of 4 MiB meet. -/
def ringMeet (a la b lb : Nat) : Bool :=
  let r := 0x400000
  (la != 0 && lb != 0) && (decide ((b + r - a % r) % r < la) || decide ((a + r - b % r) % r < lb))

/-- Whether byte range [o, o + n) of entry k's staging range is free: every earlier entry that shares bytes with it has
departed (R171). -/
def stagingFree (x : PortTx) (k o n : Nat) : Bool :=
  let tbl := x.table
  let a := stagingStart tbl k + o
  !((tbl.zipIdx.drop x.depIdx).any fun p =>
    decide (p.2 < k) && ringMeet (stagingStart tbl p.2) p.1.room a n)

/-- Write one unit of a packet's payload into its staging range, or raise STAGING_OVERRUN (R171). A unit after one that was
not written is not written either. Returns whether the unit was written. -/
def stageUnit (s : State) (pid port entry bix off cyc : Nat) (bs : Bytes) : State × Bool :=
  let x := fmGetD s.tx port {}
  let st := fmGetD x.staging entry ⟨bix, [], none, 0⟩
  if st.data.length ≠ off then (s, false)
  else if stagingFree x entry off bs.length then
    ({ s with tx := fmSet s.tx port { x with staging := fmSet x.staging entry { st with data := st.data ++ bs } } }, true)
  else
    (s.raiseFatal pid 0x1434 ⟨6, port / 4, 0xFFFF⟩ 0 cyc, false)

/-- Mark a packet's commit as complete at a region cycle (R172, R173). -/
def stageDone (s : State) (port entry bix stated valid : Nat) : State :=
  let x := fmGetD s.tx port {}
  let st := fmGetD x.staging entry ⟨bix, [], none, 0⟩
  { s with tx := fmSet s.tx port { x with
      staging := fmSet x.staging entry { st with ready := some stated, validCount := valid } } }

/-! ### Reads of port F (R99, R100, R102) -/

/-- Why a due read of port F fails in a cycle, if it does: its data has not arrived, or an operand read holds one of its
banks (R99, R100). -/
inductive ReadFail where
  | late | conflict
  deriving DecidableEq, Repr

def dueReadFails (s : State) (bix : Nat) (cell : BitVec 2) (off cyc : Nat) : Option ReadFail :=
  let ix := 4 * bix + cell.toNat
  let base := cellBase ix
  if (operandBanks (s.cell ix) base cyc).any [bankOf off, bankOf (off + 128)].contains then some .conflict
  else if lateWrite (s.block bix) (s.cell ix) (base + off) off 256 cyc then some .late
  else none

/-- Raise the fault of a read that fails. -/
def raiseReadFail (s : State) (pid bix : Nat) (cell : BitVec 2) (cyc : Nat) : ReadFail → State
  | .late => s.blockFatal pid bix 0x1407 0 cyc
  | .conflict => s.cellFatal pid (4 * bix + cell.toNat) 0x1408 0 cyc

/-- The unit that a COMMIT reads from its cell store in a cycle: it reaches the staging range in that cycle (R171, R172). -/
def commitStep (s : State) (pid bix : Nat) (q : CommitReq) (cyc : Nat) (bs : Bytes) : State :=
  let n := cdiv q.len 256
  let r := stageUnit s pid q.port q.entry bix (256 * q.done) cyc (bs.take (q.len - 256 * q.done))
  let keep (dead : Bool) (s : State) : State := s.updBlock bix fun b => { b with commits := b.commits.map fun x =>
    if x.issue = q.issue then { x with done := x.done + 1, dead := x.dead || dead } else x }
  if r.2 && decide (q.done + 1 = n) then
    (stageDone r.1 q.port q.entry bix q.stated 0).updBlock bix fun b => { b with commits := b.commits.filter fun x => x.issue != q.issue }
  else keep (!r.2) r.1

def commitUnit (s : State) (pid bix cyc : Nat) : State :=
  (s.block bix).commits.foldl (fun s q =>
    if !q.cellSrc ∨ cyc < q.issue + q.done ∨ cdiv q.len 256 ≤ q.done then s
    else
      let ix := (q.src - 0x900000000000) / 0x100000
      let ci := BitVec.ofNat 2 ix
      let off := (q.src - 0x900000000000) % 0x100000 + 256 * q.done
      let skip (s : State) : State := s.updBlock bix fun b => { b with commits := b.commits.map fun x =>
        if x.issue = q.issue then { x with done := x.done + 1, dead := true } else x }
      if q.dead then skip s
      else match dueReadFails s bix ci off cyc with
        | some k => skip (raiseReadFail s pid bix ci cyc k)
        | none => commitStep s pid bix q cyc (s.readMem (cellBase ix + off) 256)) s

/-- The unit of each one-cell load that is read in a cycle; after the fourth the result is on its way, unless a read has
failed (R162). -/
def loadUnit (s : State) (pid bix cyc : Nat) : State :=
  (s.block bix).loads.foldl (fun s q =>
    let u := q.got.length / 256
    if cyc < q.issue + u then s
    else
      let ci := BitVec.ofNat 2 q.cellIx
      let off := q.off + 256 * u
      let fail := if q.failed then none else dueReadFails s bix ci off cyc
      let s := match fail with
        | some k => raiseReadFail s pid bix ci cyc k
        | none => s
      let q' := { q with got := q.got ++ s.readMem (cellBase q.cellIx + off) 256, failed := q.failed || fail.isSome }
      s.updBlock bix fun b =>
        if u = 3 then { b with
          loads := b.loads.filter fun x => !(x.issue == q.issue)
          vpend := if q'.failed then b.vpend
            else b.vpend ++ [⟨q.issue + 9, q.issue, q.reg, BitVec.ofNat 8192 (leNat q'.got), BitVec.allOnes 1024, q.writer⟩] }
        else { b with loads := b.loads.map fun x => if x.issue = q.issue then q' else x }) s

/-- The due reads of port F in a cycle: commits and loads. -/
def portReads (s : State) (pid bix cyc : Nat) : State := loadUnit (commitUnit s pid bix cyc) pid bix cyc

/-! ### Contact sheet fills -/

/-- A route entry (R176). -/
structure RouteEnt where
  token : Nat
  expert : Nat
  row : Nat
  raw : Bytes
  deriving DecidableEq, Repr

/-- The used entries of a list of n route entries (R176). -/
def routes (bs : Bytes) (n : Nat) : List RouteEnt :=
  ((chunks 8 n bs).map fun c =>
    (⟨leNat (c.take 4), leNat ((c.drop 4).take 2), leNat (c.drop 6), c⟩ : RouteEnt)).filter fun r => r.expert != 0xFFFF

/-- First failing test of a list: each entry for range, then for order against the one before (R176). -/
def routeFault (experts rowsMax : Nat) : Option Nat → List RouteEnt → Option Nat
  | _, [] => none
  | prev, r :: rest =>
    let key := r.token * 65536 + r.expert
    if experts ≤ r.expert ∨ rowsMax ≤ r.row then some 0x1437
    else match prev with
      | some k => if key ≤ k then some 0x1436 else routeFault experts rowsMax (some key) rest
      | none => routeFault experts rowsMax (some key) rest

/-- Progress of the placement rule: placed tokens with their row address (expert, token, address), deferral-out
entries, counts dropped and deferred (R177). -/
structure Placement where
  slots : List (Nat × Nat × Nat)
  out_ : List Bytes
  dropped : Nat
  deferred : Nat
  deriving DecidableEq, Repr

/-- Tokens already placed for an expert. -/
def Placement.used (p : Placement) (k : Nat) : Nat := (p.slots.filter fun x => x.1 == k).length

/-- Place one entry of the deferral-in list (R177). -/
def placeDeferred (g : Sheet) (rows : Nat) (p : Placement) (r : RouteEnt) : Placement :=
  if p.used r.expert < g.capacity then
    { p with slots := p.slots ++ [(r.expert, r.token, rows + r.row * g.rowSize)] }
  else { p with dropped := p.dropped + 1 }

/-- Place one entry of the route list (R177). -/
def placeRoute (g : Sheet) (rows : Nat) (p : Placement) (r : RouteEnt) : Placement :=
  if p.used r.expert < g.capacity then
    { p with slots := p.slots ++ [(r.expert, r.token, rows + r.row * g.rowSize)] }
  else if g.defer && decide (p.deferred < g.deferLen) then
    { p with out_ := p.out_ ++ [r.raw], deferred := p.deferred + 1 }
  else { p with dropped := p.dropped + 1 }

/-- Length of a Contact sheet packet (R178). -/
def Sheet.packetLen (g : Sheet) : Nat := 256 * cdiv (4 * g.capacity) 256 + g.capacity * g.rowSize

/-- The sheets of the tile of a block. -/
def sheetsOf (p : Partition) (lg : Nat) : List Sheet := fmGetD p.negative.sheets (lg / 36) []

/-- Units that a fill reads for its lists (R176, R179). -/
def Sheet.listUnits (g : Sheet) : Nat := cdiv (8 * g.routeLen) 256 + cdiv (8 * g.deferLen) 256

/-- Units of 256 bytes in the rows of one packet of a sheet (R178). -/
def Sheet.packetRows (g : Sheet) : Nat := g.capacity * (g.rowSize / 256)

/-- Index part of a Contact sheet packet, padded to units of 256 bytes (R178). -/
def sheetIndex (g : Sheet) (slots : List (Nat × Nat × Nat)) (k : Nat) : Bytes :=
  let mine := slots.filter fun x => x.1 == k
  let idx := (List.range g.capacity).flatMap fun i => match mine[i]? with
    | some x => leBytes 4 x.2.1
    | none => List.replicate 4 0xFF
  idx ++ List.replicate (alignUp idx.length 256 - idx.length) 0

/-- Part-local address of row unit j of a fill: of the slot's token, or the first row where the slot is unused (R178, R179). -/
def rowUnitAddr (g : Sheet) (rows : Nat) (slots : List (Nat × Nat × Nat)) (j : Nat) : Nat :=
  let per := g.rowSize / 256
  let w := j % g.packetRows
  match (slots.filter fun x => x.1 == j / g.packetRows)[w / per]? with
  | some x => x.2.2 + 256 * (w % per)
  | none => rows

/-- The sheet of a fill. -/
def fillGeometry (s : State) (pid bix : Nat) (q : FillReq) : Option Sheet :=
  match s.part pid with
  | some p => (sheetsOf p (p.logicalOf bix))[q.sheet]?
  | none => none

/-- A fill ends: nothing of it waits any more. -/
def State.endFill (s : State) (bix issue : Nat) : State :=
  (s.updBlock bix fun b => { b with
    fills := b.fills.filter fun x => x.issue != issue
    pf := b.pf.filter fun x => !(decide (x.kind = .fill) && x.issue == issue) }).updRegion (bix / 6) fun g => { g with
      reqs := g.reqs.filter fun x => !(decide (x.kind = .fill) && x.block == bix && x.issue == issue) }

/-- A fill has read its lists: they are tested, the tokens placed and the row reads filed (R176, R177, R179). -/
def placeFill (s : State) (pid bix cyc : Nat) (q : FillReq) (g : Sheet) (lists : Bytes) : State :=
  let rl := routes (lists.take (8 * g.routeLen)) g.routeLen
  let din := routes ((lists.drop (alignUp (8 * g.routeLen) 256)).take (8 * g.deferLen)) g.deferLen
  match (routeFault g.experts g.rowsMax none din).or (routeFault g.experts g.rowsMax none rl) with
  | some code => (s.blockFatal pid bix code 0 cyc).endFill bix q.issue
  | none =>
    let pl := rl.foldl (placeRoute g q.rows) (din.foldl (placeDeferred g q.drows) ⟨[], [], 0, 0⟩)
    let fr := s.draw 64 0
    let unused := (leBytes 8 fr.1).take 4 ++ [0xFF, 0xFF] ++ (leBytes 8 fr.1).drop 6
    let out_ := pl.out_.flatMap id ++ (List.replicate (g.deferLen - pl.deferred) unused).flatMap id
    let addrs := (List.range (g.experts * g.packetRows)).map fun j => (rowUnitAddr g q.rows pl.slots j, ([] : Bytes))
    let s := (fr.2.updFrame pid fun fr => { fr with
      dropped := satAdd fr.dropped pl.dropped, deferred := satAdd fr.deferred pl.deferred }).updBlock bix fun b => { b with
        fills := b.fills.map fun x => if x.issue = q.issue then { x with placed := some (pl.slots, out_) } else x
        pf := if q.rows < 0x900000000000 then b.pf
          else b.pf.map fun x => if x.kind = .fill ∧ x.issue = q.issue then { x with arr := addrs } else x }
    if q.rows < 0x900000000000 then
      s.updRegion (bix / 6) fun r => { r with reqs := r.reqs.map fun x =>
        if x.kind = .fill ∧ x.block = bix ∧ x.issue = q.issue then { x with first := cyc + 1, total := addrs.length, data := addrs } else x }
    else s

/-- One row unit of a fill has been read: the packet's index units come before its first row unit, and it is complete with
its last (R171, R178, R179). A packet whose entry was already committed in the frame keeps its first contents (R172). -/
def fillRow (s : State) (pid bix cyc : Nat) (q : FillReq) (g : Sheet) (j : Nat) (bs : Bytes) : State :=
  match q.placed, s.part pid with
  | some pl, some p =>
    let k := j / g.packetRows
    let w := j % g.packetRows
    let m := g.map.getD k (0, 0)
    let port := 4 * fabricDie s.model (p.tiles.getD (p.logicalOf bix / 36) 0) + m.1
    let mine := (pl.1.filter fun x => x.1 == k).length
    let repeated := decide (w = 0) && (fmGet (fmGetD s.tx port {}).staging m.2).isSome
    let s := if repeated then (s.blockFatal pid bix 0x1435 0 cyc).updBlock bix fun b => { b with
        fills := b.fills.map fun x => if x.issue = q.issue then { x with skip := k :: x.skip } else x } else s
    if repeated || q.skip.contains k then s
    else
      let idx := sheetIndex g pl.1 k
      let s := if w = 0 then (chunks 256 (idx.length / 256) idx).zipIdx.foldl
          (fun (s : State) u => (stageUnit s pid port m.2 bix (256 * u.2) cyc u.1).1) s else s
      let r := stageUnit s pid port m.2 bix (idx.length + 256 * w) cyc
        (if w / (g.rowSize / 256) < mine then bs else List.replicate 256 0)
      if r.2 && decide (w + 1 = g.packetRows) then stageDone r.1 port m.2 bix (Nat.max q.stated (cyc + 1)) mine else r.1
  | _, _ => s

/-- A unit of a fill at port F: a unit of the lists, a row unit in the cell, or a unit of the deferral-out list (R179). -/
def fillUnit (s : State) (pid bix cyc : Nat) (r : PfReq) (q : FillReq) (g : Sheet) : State :=
  let last (s : State) : State :=
    if r.done + 1 = r.total ∧ (s.region (bix / 6)).reqs.all (fun x => !(decide (x.kind = .fill) && x.block == bix && x.issue == q.issue)) then
      s.endFill bix q.issue else s
  match r.arr with
  | u :: _ =>
    let ix := 4 * bix + r.cell.toNat
    if lateWrite (s.block bix) (s.cell ix) u.1 (u.1 - cellBase ix) 256 cyc then (s.blockFatal pid bix 0x1407 0 cyc).endFill bix q.issue
    else
      let bs := s.readMem u.1 256
      if r.done < g.listUnits then
        let got := r.data ++ bs
        let s := s.updBlock bix fun b => { b with pf := b.pf.map fun x => if x.same r then { x with data := got } else x }
        if r.done + 1 = g.listUnits then last (placeFill s pid bix cyc q g got) else s
      else last (fillRow s pid bix cyc q g (r.done - g.listUnits) bs)
  | [] =>
    let d := r.done - (r.total - cdiv q.dlen 256)
    let out_ := match q.placed with | some pl => pl.2 | none => []
    last (s.updBlock bix fun b => { b with entering := b.entering ++
      [⟨cyc + 5, q.dout + 256 * d, (out_.drop (256 * d)).take 256, q.stated, bix, q.issue, r.writer⟩] })

/-! ### Port F has served a unit (R110, R111) -/

/-- The unit of a request that port F serves moves: into its cell it needs four cycles more for the check code and the write
buffer, and on its way to the region store seven (R111, entry 127). -/
def unitDone (pid : Nat) (s : State) (bix cyc : Nat) (r : PfReq) : State :=
  match r.kind with
  | .copyRc => match r.arr with
    | u :: _ => s.updBlock bix fun b => { b with entering := b.entering ++
        [⟨cyc + 5, r.dst + 256 * r.done, u.2, r.stated, bix, r.issue, r.writer⟩] }
    | [] => s
  | .copyCr =>
    let a := r.src + 256 * r.done
    let ix := 4 * bix + r.cell.toNat
    if lateWrite (s.block bix) (s.cell ix) a (a - cellBase ix) 256 cyc then s.blockFatal pid bix 0x1407 0 cyc
    else
      let bs := s.readMem a 256
      s.updRegion (bix / 6) fun g => { g with reqs := g.reqs.map fun q =>
        if q.kind = .copyWrite ∧ q.block = bix ∧ q.issue = r.issue then { q with data := q.data ++ [(cyc + 7, bs)] } else q }
  | .fill => match (s.block bix).fills.find? fun q => q.issue == r.issue with
    | some q => match fillGeometry s pid bix q with
      | some g => fillUnit s pid bix cyc r q g
      | none => s
    | none => s
  | .landing => s.storeWrite (r.dst + 256 * r.done) ((r.data.drop (256 * r.done)).take 256) cyc r.d 0xFFFFFFFF
  | .hostWrite | .hostRead => s

/-- One cycle of port F of every cell of a block; gives the banks that its reads take. -/
def portCycle (s : State) (pid bix cyc : Nat) : State × (Nat → List Nat) :=
  let b := s.block bix
  if b.pf.isEmpty then (s, fun _ => [])
  else
    [0, 1, 2, 3].foldl (fun (acc : State × (Nat → List Nat)) k =>
      let s := acc.1
      let ix := 4 * bix + k
      let r := pfServe (s.block bix) (banksFree (s.cell ix) (cellBase ix) cyc) (BitVec.ofNat 2 k) cyc
      let s := s.setBlock bix r.1
      match r.2 with
      | none => (s, acc.2)
      | some q =>
        let banks := match q.readAddr with
          | some a => [bankOf (a - cellBase ix), bankOf (a - cellBase ix + 128)]
          | none => []
        (unitDone pid s bix cyc q, fun x => if x = k then banks else acc.2 x)) (s, fun _ => [])

end Sys2Proof.Machine
end

