-- ==== Sys2Proof/Machine/Arbiter.lean ====
section
/-! DEFINITION. The region arbiter and the passage of region cycles: banks and access budget of a region store (04 R107,
R113), command slots of HBM and the streams that use them (04 R114, R115, 06 R166), copies from other regions (06 R167
to R169), and the advance of a region to a cycle. -/

namespace Sys2Proof.Machine

/-! ### Late reads of a region store (R99, R110, R167) -/

/-- A copy into a region store that is late at a read. -/
def regionLate (g : Region) (a n cyc : Nat) : Bool :=
  (g.reqs.any fun q => decide (q.kind = .copyWrite) && decide (q.stated ≤ cyc) &&
    overlaps a n (q.addr + 256 * q.done) (256 * (q.total - q.done))) ||
  (g.entering.any fun e => decide (e.stated ≤ cyc) && decide (cyc < e.at_) && overlaps a n e.addr e.data.length)

/-- A copy from another region has units that are not yet in the store. -/
def RrCopy.missing (q : RrCopy) (g : Region) : Bool :=
  decide (q.done < q.total) || g.entering.any fun e => e.block == q.from_ && e.issue == q.issue

/-- Data of a copy from another region missing at a read (R167). -/
def crossingMissing (g : Region) (a n cyc : Nat) : Bool :=
  g.rr.any fun q => decide (q.stated ≤ cyc) && overlaps a n q.dst (256 * q.total) && q.missing g

/-- Logical region of a block within its partition. -/
def lregion (s : State) (pid bix : Nat) : Nat :=
  match s.part pid with | some p => p.logicalOf bix / 6 | none => 0xFFFF

/-- Raise the fault of a read of a region store, if it fails, and say whether it delivers data (R99, R120, R167). -/
def regionReadCheck (s : State) (pid bix a n cyc : Nat) : State × Bool :=
  let r := bix / 6
  if crossingMissing (s.region r) a n cyc then (s.raiseFatal pid 0x1504 (regionUnit r (lregion s pid bix)) 0 cyc, false)
  else if regionLate (s.region r) a n cyc then (s.blockFatal pid bix 0x1407 0 cyc, false)
  else (s, true)

/-! ### Cycles of different regions (R168, R169), times in ps after the Shutter -/

/-- Latest begin of a cycle of a region (R169). -/
def Partition.latestPs (p : Partition) (c : Nat) : Nat :=
  (if p.frame.stepped then 3250000 else 250000) + cdiv (c * (10000 + p.negative.stretch) * 100) p.step

/-- Earliest begin of a cycle of a region (R169). -/
def Partition.earliestPs (p : Partition) (c : Nat) : Nat := 200000 + c * 1000000 / p.step

/-- First cycle of a region that surely begins at or after a time (R169). -/
def Partition.safeCycle (p : Partition) (w : Nat) : Nat := cdiv ((w - 200000) * p.step) 1000000

/-- Cycle that a region has surely begun by a time (R169). -/
def Partition.slowCycle (p : Partition) (w : Nat) : Nat :=
  (w - (if p.frame.stepped then 3250000 else 250000)) * p.step / ((10000 + p.negative.stretch) * 100)

/-- Time that h crossings with the switches between them take at most, 4 ÷ f_floor and 2 cycles each (R116, R168). -/
def crossingPs (h floor : Nat) : Nat := cdiv ((4 * h + 2 * (h - 1)) * 1000000) floor

/-- Columns between two positions of a die (R116). -/
def colDist (a b : Nat) : Nat := (a % 3 - b % 3) + (b % 3 - a % 3)

/-- Crossings on the path of a COPY.RR, or of a token, which takes route 0 (R116, R136, R167). -/
def rrHops (r r' route : Nat) : Nat :=
  if route = 2 then colDist r 1 + 1 + colDist 1 r' else colDist r r' + (if r / 3 = r' / 3 then 0 else 1)

/-- A cycle of another region that the bounds leave open, between two (R169): a free value. -/
def State.openCycle (s : State) (lo hi k : Nat) : Nat × State :=
  let d := s.draw 32 k
  (lo + d.1 % (hi - lo + 1), d.2)

/-! ### Requests at a region store (R101, R102, R107, R113) -/

/-- Line accesses of a region's store in a cycle (R113). -/
def accessBudget (cyc : Nat) : Nat := if cyc % 3 = 2 then 41 else 42

/-- Bank of a region-store address (R113). -/
def regionBank (a : Nat) : Nat := a / 256 % 64

/-- Two requests are the same one. -/
def RsReq.same (x y : RsReq) : Bool := decide (x.kind = y.kind) && x.block == y.block && x.issue == y.issue && x.tag == y.tag

/-- Address of the next unit; a fill lists its row units (R179). -/
def RsReq.nextAddr (q : RsReq) : Nat := if q.kind = .fill then (q.data.headD (0, [])).1 else q.addr + 256 * q.done

/-- Stream that a block holds under an issue cycle. -/
def Block.stream? (b : Block) (issue : Nat) : Option StreamReq := b.streams.find? fun q => q.issue == issue

/-- A stream that its prefetcher runs: the oldest it holds (R166). -/
def Block.runs (b : Block) (q : StreamReq) : Bool :=
  match b.streams.find? fun x => x.pf == q.pf with
  | some x => x.issue == q.issue
  | none => false

/-- Whether the next unit of a request writes the store. -/
def rsWrites (s : State) (q : RsReq) : Bool :=
  match q.kind with
  | .copyWrite | .rrWrite | .landing => true
  | .stream => match (s.block q.block).stream? q.issue with
    | some x => !x.out_
    | none => true
  | _ => false

/-- Whether a request has its next unit ready in a cycle. -/
def rsReady (s : State) (q : RsReq) (cyc : Nat) : Bool :=
  decide (q.done < q.total) && decide (q.first + q.done ≤ cyc) && decide (0x800000000000 ≤ q.addr) &&
    (if rsWrites s q then (match q.data with | u :: _ => decide (u.1 ≤ cyc) | [] => false) else true) &&
    (if q.kind = .stream then
      match (s.block q.block).stream? q.issue with
      | some x => (s.block q.block).runs x
      | none => false
    else true)

/-- Order of the requests of a region: D, rank, place in the rank, age (R102, R107). -/
def RsReq.key (q : RsReq) : Nat := ((q.d * 8 + q.rank) * 2048 + q.idx) * 2 ^ 40 + q.issue

/-- The next unit of a copy from another region, as a request of crossing traffic (R107, R116, R167): unit u can enter from
the cycle that brings the last one in at `due`. -/
def RrCopy.request (q : RrCopy) (cyc : Nat) : RsReq :=
  { kind := .rrWrite, rank := 3, idx := q.from_ % 36, d := q.stated, first := 0, total := q.total, done := q.done, addr := q.dst,
    block := q.from_, issue := q.issue, tag := 0, stated := q.stated, writer := q.writer,
    data := if !q.late && decide (256 * q.done < q.data.length) && decide (q.due ≤ cyc + 3 + (q.total - q.done)) then
      [(0, (q.data.drop (256 * q.done)).take 256)] else [] }

/-- Grants of one cycle: banks still free and accesses left in the budget, the nearest D first (R102, R113). -/
def rsGrants : List RsReq → List Nat → Nat → List RsReq
  | [], _, _ => []
  | q :: rest, taken, left =>
    if left = 0 then []
    else if taken.contains (regionBank q.nextAddr) then rsGrants rest taken left
    else q :: rsGrants rest (regionBank q.nextAddr :: taken) (left - 1)

/-- Turn estimate of a request that waits: units that stand ahead of it on the bank it wants (R104). -/
def rsTurn (order : List RsReq) (q : RsReq) : BitVec 16 :=
  turnOf ((order.takeWhile fun x => !x.same q).foldl (fun acc x =>
    acc + ((List.range (Nat.min 65536 (x.total - x.done))).filter fun k =>
      regionBank (x.nextAddr + 256 * k) == regionBank q.nextAddr).length) 0)

/-- Stages of a copy after its grant at the region store: six cycles of the bank and four of transport (R111). -/
def bankStages : Nat := 10

/-- The region arbiter has granted one unit: it moves (R111, R167, R171, R172, R179). -/
def rsUnit (s : State) (pid r cyc : Nat) (q : RsReq) : State :=
  let a := q.nextAddr
  let into (stated : Nat) : State := match q.data with
    | u :: _ => s.updRegion r fun g => { g with entering := g.entering ++
        [⟨cyc + bankStages, a, u.2, stated, q.block, q.issue, q.writer⟩] }
    | [] => s
  match q.kind with
  | .copyRead =>
    let c := regionReadCheck s pid q.block a 256 cyc
    if c.2 then
      let bs := s.readMem a 256
      c.1.updBlock q.block fun b => { b with pf := b.pf.map fun x =>
        if x.kind = .copyRc ∧ x.issue = q.issue then { x with arr := x.arr ++ [(cyc + bankStages, bs)] } else x }
    else c.1
  | .copyWrite => into q.stated
  | .rrRead =>
    let c := regionReadCheck s pid q.block a 256 cyc
    if c.2 then
      let bs := s.readMem a 256
      c.1.updRegion q.tag fun g => { g with rr := g.rr.map fun x =>
        if x.from_ = q.block ∧ x.issue = q.issue then { x with data := x.data ++ bs } else x }
    else c.1
  | .rrWrite => match q.data with
    | u :: _ => s.updRegion r fun g => { g with
        entering := g.entering ++ [⟨cyc + 4, a, u.2, 0xFFFFFFFF, q.block, q.issue, q.writer⟩]
        rr := g.rr.map fun x => if x.from_ = q.block ∧ x.issue = q.issue then { x with done := x.done + 1 } else x }
    | [] => s
  | .commit =>
    match (s.block q.block).commits.find? fun x => x.issue == q.issue with
    | none => s
    | some x =>
      let c := regionReadCheck s pid q.block a 256 cyc
      if c.2 && !x.dead then commitStep c.1 pid q.block x cyc (s.readMem a 256)
      else c.1.updBlock q.block fun b => { b with commits := b.commits.map fun y =>
        if y.issue = q.issue then { y with done := y.done + 1, dead := true } else y }
  | .fill =>
    match (s.block q.block).fills.find? fun x => x.issue == q.issue with
    | none => s
    | some x => match fillGeometry s pid q.block x with
      | none => s
      | some g =>
        let c := regionReadCheck s pid q.block a 256 cyc
        let s1 := if c.2 then fillRow c.1 pid q.block cyc x g q.done (s.readMem a 256) else c.1
        if q.done + 1 = q.total ∧ (s1.block q.block).pf.all (fun y => !(decide (y.kind = .fill) && y.issue == q.issue && decide (y.done < y.total))) then
          s1.endFill q.block q.issue else s1
  | .stream =>
    match (s.block q.block).stream? q.issue with
    | none => s
    | some x =>
      let s := s.updBlock q.block fun b => { b with streams := b.streams.map fun y =>
        if y.issue = q.issue then { y with lines := y.lines + 1 } else y }
      if x.out_ then
        let c := regionReadCheck s pid q.block a 256 cyc
        let bs := s.readMem a 256
        if c.2 then c.1.updRegion r fun g => { g with
          reqs := g.reqs.map fun y => if y.same q then { y with data := y.data ++ [(cyc + bankStages, bs)] } else y }
        else c.1
      else match q.data with
        | u :: _ => s.updRegion r fun g => { g with entering := g.entering ++
            [⟨cyc + bankStages, a, u.2, 0xFFFFFFFF, q.block, q.issue, q.writer⟩] }
        | [] => s
  | .landing => match q.data with
    | u :: _ => s.write a u.2
    | [] => s
  | .hostWrite | .hostRead | .writeBack => s

/-- One cycle of the region arbiter: grants go out, and the requests that wait learn their turn. -/
def regionArbiter (s : State) (pid r cyc : Nat) : State :=
  let g := s.region r
  if g.reqs.isEmpty && g.rr.isEmpty then s
  else
    let order := sortBy RsReq.key ((g.reqs ++ g.rr.map (·.request cyc)).filter fun q => rsReady s q cyc)
    let won := rsGrants order [] (accessBudget cyc)
    let s1 := s.updRegion r fun g => { g with
      reqs := g.reqs.map fun q =>
        if won.any (·.same q) then { q with
          done := q.done + 1
          data := if rsWrites s q || decide (q.kind = .fill) then q.data.tail else q.data }
        else if order.any (·.same q) then { q with turn := rsTurn order q } else q }
    (won.foldl (fun (s : State) q => rsUnit s pid r cyc q) s1).updRegion r fun g => { g with
      reqs := g.reqs.filter fun q => decide (q.done < q.total) || decide (q.kind = .stream) }

/-! ### Streams (R114, R115, R166, R197) -/

/-- Set a stream completion flag (R135). -/
def Block.setFlag (b : Block) (set_ : Bool) (flag : BitVec 4) : Block :=
  if set_ then { b with flags := b.flags ||| (1#16 <<< flag.toNat) } else b

/-- Keep the smallest slack, in ns, between the completion of a stream and its deadline (R42, R58). -/
def State.noteSlack (s : State) (pid bix slack : Nat) : State :=
  let least (m : Option Nat) : Option Nat := match m with
    | some m => some (if slack < m then slack else m)
    | none => some slack
  (s.updBlock bix fun b => { b with perf := { b.perf with slackMin := least b.perf.slackMin } }).updFrame pid fun f =>
    { f with slackMin := least f.slackMin }

/-- Schedule step and floor step of a partition, in MHz. -/
def stepFloor (s : State) (pid : Nat) : Nat × Nat :=
  match s.part pid with
  | some p => (p.step, if p.negative.fFloor = 0 then p.step else p.negative.fFloor)
  | none => (1, 1)

/-- A stream is no longer held. -/
def State.dropStream (s : State) (bix : Nat) (q : StreamReq) : State :=
  (s.updBlock bix fun b => { b with streams := b.streams.erase q }).updRegion (bix / 6) fun g => { g with
    reqs := g.reqs.filter fun x => !(decide (x.kind = .stream) && x.block == bix && x.issue == q.issue) }

/-- A stream completes: its flag is set and its slack noted (R135, R166). -/
def streamEnds (s : State) (pid bix : Nat) (q : StreamReq) (cycle : Nat) : State :=
  ((s.dropStream bix q).updBlock bix fun b => b.setFlag q.setFlag q.flag).noteSlack pid bix
    ((q.deadline - cycle) * 1000 / (stepFloor s pid).1)

/-- Part-local pieces of line k of a stream, through the windows (02 R56, R57). -/
def streamLine (s : State) (pid : Nat) (q : StreamReq) (k : Nat) : List (Nat × Nat) :=
  match s.part pid with
  | some p => p.localPieces s.model (q.lx + 256 * k) 256
  | none => []

/-- Write a byte string over pieces of HBM. -/
def State.writePieces (s : State) : List (Nat × Nat) → Bytes → State
  | [], _ => s
  | r :: rest, bs => (s.hbmWrite r.1 (bs.take r.2)).writePieces rest (bs.drop r.2)

/-- One line of a stream crosses HBM: a line of a STREAM.IN is read and asks for its bank in the region store; one of a
STREAM.OUT is written (R197). A line with a poison mark delivers no data (R191). -/
def moveLine (s : State) (pid bix : Nat) (q : StreamReq) (cyc : Nat) : State :=
  let ps := streamLine s pid q q.slots
  let count (s : State) : State := s.updBlock bix fun b => { b with streams := b.streams.map fun x =>
    if x.issue = q.issue then { x with slots := x.slots + 1 } else x }
  let mine (x : RsReq) : Bool := decide (x.kind = .stream) && x.block == bix && x.issue == q.issue
  if q.out_ then
    match ((s.region (bix / 6)).reqs.find? mine).bind (·.data.head?) with
    | none => s
    | some u => count ((s.updRegion (bix / 6) fun g => { g with
        reqs := g.reqs.map fun x => if mine x then { x with data := x.data.tail } else x }).writePieces ps u.2)
  else if ps.any fun r => s.poisoned r.1 r.2 then
    (s.dropStream bix q).raiseFatal pid 0x1302 (channelUnit s.model ((ps.headD (0, 0)).1)) 0 cyc
  else
    let bs := ps.flatMap fun r => s.readMem r.1 r.2
    count (s.updRegion (bix / 6) fun g => { g with
      reqs := g.reqs.map fun x => if mine x then { x with data := x.data ++ [(cyc + 1, bs)] } else x })

/-- HBM command slots of a die that have begun before a cycle, in lines of 256 bytes: 4.096 TB/s from two stacks (R115). -/
def slotsBefore (v : Variant) (step cyc : Nat) : Nat :=
  cyc * (match v with | .zx960 | .zx940 => 16000 | _ => 8000) / Nat.max 1 step

/-- Who can use a command slot of a region: a stream of one of its blocks, or a fabric landing (R107, R115). -/
inductive Seeker where
  | stream (bix : Nat) (q : StreamReq)
  | landing (q : RsReq)
  deriving DecidableEq, Repr

/-- Order of R102 and R107: D, rank, place in the rank, age. -/
def Seeker.key : Seeker → Nat
  | .stream bix q => ((q.d.toNat * 8 + 1) * 2048 + (4 * (bix % 6) + q.pf.toNat)) * 2 ^ 40 + q.issue
  | .landing q => q.key

/-- Lines that a seeker still has to move. -/
def Seeker.left : Seeker → Nat
  | .stream _ q => q.len / 256 - q.slots
  | .landing q => q.total - q.done

/-- A landing that waits for command slots of HBM (R249). -/
def RsReq.toHbm (q : RsReq) : Bool := decide (q.kind = .landing) && decide (q.addr < 0x800000000000)

/-- Streams and landings of a region that can use a command slot in a cycle, in order. -/
def slotSeekers (s : State) (r cyc : Nat) : List Seeker :=
  let all := (List.range 6).flatMap fun k =>
    let b := s.block (6 * r + k)
    (b.streams.filter fun q => b.runs q && (if q.out_ then
        (match ((s.region r).reqs.find? fun x => decide (x.kind = .stream) && x.block == 6 * r + k && x.issue == q.issue).bind (·.data.head?) with
         | some u => decide (u.1 ≤ cyc)
         | none => false)
      else decide (q.slots < q.len / 256) && decide (q.issue < cyc))).map fun q => .stream (6 * r + k) q
  let land := ((s.region r).reqs.filter fun q => q.toHbm && decide (q.first ≤ cyc)).map .landing
  sortBy Seeker.key (all ++ land)

/-- Whether a region of a die has anything that waits for command slots. -/
def wantsSlots (s : State) (r : Nat) : Bool :=
  ((List.range 6).any fun k => !(s.block (6 * r + k)).streams.isEmpty) || (s.region r).reqs.any (·.toHbm)

/-- Region to which a command slot falls: its owner in the fixed rotation, or the next region of the die that can use it
(R115). -/
def slotOwner (s : State) (die slot : Nat) : Nat :=
  match (List.range 6).find? fun k => wantsSlots s (6 * die + (slot + k) % 6) with
  | some k => 6 * die + (slot + k) % 6
  | none => 6 * die + slot % 6

/-- One line of a landing crosses HBM. -/
def landLine (s : State) (pid r : Nat) (q : RsReq) (cyc : Nat) : State :=
  let s := match q.data with
    | u :: _ => s.landHbm pid (q.addr + 256 * q.done) u.2 cyc
    | [] => s
  s.updRegion r fun g => { g with reqs := (g.reqs.map fun x =>
    if x.same q then { x with done := x.done + 1, data := x.data.tail } else x).filter fun x => !(x.same q) || decide (x.done < x.total) }

/-- One command slot goes to the first in a region that can use it. -/
def hbmSlot (s : State) (pid r cyc : Nat) : State :=
  match slotSeekers s r cyc with
  | .stream bix q :: _ => moveLine s pid bix q cyc
  | .landing q :: _ => landLine s pid r q cyc
  | [] => s

/-- The command slots of one region cycle; streams that wait learn their turn (R104, R114). -/
def slotCycle (s : State) (pid r cyc : Nat) : State :=
  if !wantsSlots s r then s
  else
    let step := (stepFloor s pid).1
    let lo := slotsBefore s.model step cyc
    let s := (List.range (slotsBefore s.model step (cyc + 1) - lo)).foldl (fun (s : State) k =>
      if slotOwner s (r / 6) (lo + k) = r then hbmSlot s pid r cyc else s) s
    let wait := slotSeekers s r cyc
    (wait.foldl (fun (acc : State × Nat) x =>
      let per := Nat.max 1 (slotsBefore s.model step 6)
      let turn := turnOf (acc.2 * 36 / per)
      ((match x with
        | .stream bix y => acc.1.updBlock bix fun b => { b with streams := b.streams.map fun q =>
            if q.issue = y.issue then { q with turn := turn } else q }
        | .landing y => acc.1.updRegion r fun g => { g with reqs := g.reqs.map fun q => if q.same y then { q with turn := turn } else q }),
        acc.2 + x.left)) (s, 0)).1

/-! ### Region cycles -/

/-- Blocks of a region that hold anything. -/
def regionBlocks (s : State) (r : Nat) : List Nat := ((List.range 6).map (6 * r + ·)).filter fun x => (fmGet s.blocks x).isSome

/-- Streams of a block, not driven by commands, that have moved their last line complete (R166, entry 126). -/
def closeStreams (s : State) (pid bix cyc : Nat) : State :=
  let b := s.block bix
  if b.driven then s
  else (b.streams.filter fun q => decide (q.slots = q.len / 256) && decide (q.lines = q.len / 256) &&
    !((s.region (bix / 6)).entering.any fun e => e.block == bix && e.issue == q.issue)).foldl
      (fun (s : State) q => streamEnds s pid bix q cyc) s

/-- What has reached the stores of a region by a cycle enters them, and M operations land. -/
def enterPhase (s : State) (pid r cyc : Nat) : State :=
  let s := (regionBlocks s r).foldl (fun (s : State) b => enterBlock s b cyc) s
  let g := s.region r
  let s := if g.entering.isEmpty && g.rr.isEmpty then s
    else
      let s := (g.entering.filter fun e => decide (e.at_ ≤ cyc)).foldl (fun (s : State) e => s.write e.addr e.data) s
      s.updRegion r fun g =>
        let g := { g with entering := g.entering.filter fun e => decide (cyc < e.at_) }
        { g with rr := g.rr.filter fun q => q.missing g || decide (cyc < q.stated) }
  (regionBlocks s r).foldl (fun (s : State) b =>
    let s := closeStreams s pid b cyc
    [0, 1, 2, 3].foldl (fun s c => if (s.cell (4 * b + c)).mops.isEmpty then s else landCell s pid (4 * b + c) cyc) s) s

/-- Bank conflicts found at issue show in their cycle (R100). -/
def showFaults (s : State) (pid bix cyc : Nat) : State :=
  let now := (s.block bix).faults.filter fun f => decide (f.cycle ≤ cyc)
  if now.isEmpty then s
  else (now.foldl (fun (s : State) f => s.cellFatal pid f.cell 0x1408 0 f.cycle) s).updBlock bix fun b => { b with
    faults := b.faults.filter fun f => decide (cyc < f.cycle) }

/-- One cycle of a region: lines enter, due reads, port F and the banks of each block, then the region store and HBM. -/
def regionCycle (s : State) (pid r cyc : Nat) : State :=
  let s := enterPhase s pid r cyc
  let s := (regionBlocks s r).foldl (fun (s : State) b =>
    let p := portCycle (portReads s pid b cyc) pid b cyc
    showFaults (drainBlock p.1 pid b cyc p.2) pid b cyc) s
  slotCycle (regionArbiter s pid r cyc) pid r cyc

/-- Next cycle, from `c` on, in which something can happen in a region; `t` if nothing does before it. -/
def regionNext (s : State) (r c t : Nat) : Nat :=
  let lower (acc x : Nat) : Nat := if x < acc then (if x < c then c else x) else acc
  let g := s.region r
  let a := g.entering.foldl (fun acc e => lower acc e.at_) t
  let a := g.reqs.foldl (fun acc q => if q.done < q.total ∧ ((q.kind ≠ .copyWrite ∧ q.kind ≠ .fill) ∨ q.data ≠ []) then lower acc (q.first + q.done) else acc) a
  let a := g.rr.foldl (fun acc q => if q.late ∨ q.data.length ≤ 256 * q.done then acc else lower acc (q.due - 3 - (q.total - q.done))) a
  (regionBlocks s r).foldl (fun acc x =>
    let b := s.block x
    let a := b.timed.foldl (fun acc w => lower acc (w.enterAt w.entered)) acc
    let a := b.entering.foldl (fun acc e => lower acc e.at_) a
    let a := b.pf.foldl (fun acc q => if q.done < q.total ∧ (q.kind ≠ .copyRc ∨ q.arr ≠ []) then lower acc (q.ready + 1) else acc) a
    let a := b.loads.foldl (fun acc q => lower acc (q.issue + q.got.length / 256)) a
    let a := b.commits.foldl (fun acc q => if q.done < cdiv q.len 256 ∧ q.cellSrc then lower acc (q.issue + q.done) else acc) a
    let a := b.faults.foldl (fun acc f => lower acc f.cycle) a
    let a := if b.streams.isEmpty then a else lower a c
    [0, 1, 2, 3].foldl (fun acc k =>
      let ce := s.cell (4 * x + k)
      let acc := if ce.wb.isEmpty && ce.wback.isEmpty then acc else lower acc c
      ce.mops.foldl (fun acc m => match m.land with
        | some l => lower acc l
        | none => acc) acc) a) a

/-- Bring a region up to cycle `t`: everything before it has happened, and what reaches the stores in it has entered. -/
def regionTo : Nat → State → Nat → Nat → Nat → State
  | 0, s, pid, r, t => enterPhase s pid r t
  | fuel + 1, s, pid, r, t =>
    let c := regionNext s r (s.region r).served t
    if t ≤ c then
      let s := enterPhase s pid r t
      (((regionBlocks s r).flatMap fun b => [4 * b, 4 * b + 1, 4 * b + 2, 4 * b + 3]).foldl
        (fun (s : State) x => s.captureReads x (t : Int)) s).updRegion r fun g => { g with served := Nat.max g.served t }
    else regionTo fuel ((regionCycle s pid r c).updRegion r fun g => { g with served := c + 1 }) pid r t

/-- Regions that still owe data to a copy that reaches this one by a cycle are brought on first (R167). -/
def feedRegion (s : State) (pid r t : Nat) : State :=
  (s.region r).rr.foldl (fun s q =>
    let src := q.from_ / 6
    let need := q.issue + 40 + q.total
    if q.late ∨ 256 * q.total ≤ q.data.length ∨ t + 4 + q.total < q.due ∨ need ≤ (s.region src).served then s
    else regionTo (need + 1) s pid src need) s

/-- Region whose arbiters serve a part-local address; for HBM the first of the tile (entry 127). -/
def regionOf (a : Nat) : Nat :=
  if 0x900000000000 ≤ a then (a - 0x900000000000) / 0x100000 / 24
  else if 0x800000000000 ≤ a then (a - 0x800000000000) / 0x20000000
  else 6 * (a / 0x4000000000)

/-- Bring a block's region up to cycle `t`: its blocks share one clock (R12, R113). A unit that a fault has named no longer
holds requests (R24, R105). -/
def advanceRegion (s : State) (pid bix t : Nat) : State :=
  let r := bix / 6
  let s := feedRegion (s.dropFailing pid) pid r t
  let s := regionTo (t - (s.region r).served + 1) s pid r t
  (regionBlocks s r).foldl (fun (s : State) x => s.updBlock x fun b => { landVecs b t with
    pf := b.pf.filter fun q => decide (q.done < q.total) || (q.own && decide (t < q.stated))
    due := b.due.filter fun q => decide (t ≤ q.cycle + 640) }) s

end Sys2Proof.Machine
end

