-- ==== Sys2Proof/Machine/Issue.lean ====
section
/-! DEFINITION. The issue of a bundle operation (05 R124 to R132): which block, which cycle, which predicate; illegal
bundles (R151, R183); the hazard detector's records (06 R180 to R182). -/

namespace Sys2Proof.Machine

/-- Where an operation issues: partition, logical and part-wide block, cycle, slot number of R151 and bundle address. -/
structure Ctx where
  pid : Nat
  lg : Nat
  bix : Nat
  t : Nat
  slot : Nat
  addr : Nat
  pred : BitVec 3
  deriving DecidableEq, Repr

/-- Detail word of ILLEGAL_BUNDLE (R151). -/
def illegalDetail (cause slot addr : Nat) : Nat := cause + slot * 256 + addr * 2048

/-- A block and its cells before the operations of a bundle are kept with its first slot (R125, entry 20). -/
def State.saveBundle (s : State) (pid bix t : Nat) : State :=
  match fmGet s.saves bix with
  | some v => if v.cycle = t then s else save s
  | none => save s
where
  save (s : State) : State :=
    let f := match s.part pid with | some p => p.frame | none => {}
    let v : BundleSave := ⟨t, s.block bix, (List.range 4).map fun k => s.cell (4 * bix + k), f.haltReq, f.reqLate, [], none⟩
    { s with saves := fmSet s.saves bix v }

/-- None of the slots of an illegal bundle issues: its block and cells go back to what they were before it, and what its
slots have sent elsewhere is withdrawn (R125, entry 20). -/
def dropBundle (s : State) (c : Ctx) : State :=
  match fmGet s.saves c.bix with
  | none => s
  | some v =>
    if v.cycle ≠ c.t then s
    else
      let s := v.cells.zipIdx.foldl (fun (s : State) p => s.setCell (4 * c.bix + p.2) p.1) (s.setBlock c.bix v.block)
      let s := { s with regions := s.regions.map fun g => (g.1, { g.2 with
        reqs := g.2.reqs.filter fun q => !(q.own && q.block == c.bix && q.issue == c.t)
        rr := g.2.rr.filter fun q => !(q.from_ == c.bix && q.issue == c.t) }) }
      let s := v.posts.foldl (fun (s : State) x => if x.1 = c.bix then s else
        s.updBlock x.1 fun b => { b with tokensDue := b.tokensDue.erase x.2 }) s
      let s := match v.staged with
        | some x => s.updTx x.1 fun y => { y with staging := fmErase y.staging x.2 }
        | none => s
      s.updFrame c.pid fun f => { f with haltReq := v.halt, reqLate := v.haltLate }

/-- Note in the kept state of a bundle what one of its slots sends elsewhere. -/
def State.noteBundle (s : State) (bix : Nat) (f : BundleSave → BundleSave) : State :=
  match fmGet s.saves bix with
  | some v => { s with saves := fmSet s.saves bix (f v) }
  | none => s

/-- Raise ILLEGAL_BUNDLE (R120, R125, R151). -/
def illegal (s : State) (c : Ctx) (cause : Nat) : State :=
  (dropBundle s c).blockFatal c.pid c.bix 0x1406 (illegalDetail cause c.slot c.addr) c.t

/-- Part-wide block of a logical block of a running partition whose Exposure has met no fatal fault (R52, R109). -/
def runningBlock (s : State) (pid lg : Nat) : Option Nat :=
  match s.part pid with
  | none => none
  | some p =>
    if p.state = .running ∧ p.frame.fatal = none ∧ lg < 36 * p.tiles.length then some (p.blockIx lg) else none

/-- The block on which a bundle operation issues in a cycle: one that runs, or one whose Exposure met a fault other than an
illegal bundle in that very cycle, since the slots of a bundle issue together (R52, R125, entry 122). -/
def issuingBlock (s : State) (pid lg t : Nat) : Option Nat :=
  match s.part pid with
  | none => none
  | some p =>
    let goes : Bool := match p.frame.fatal with
      | none => true
      | some r => r.time == t && decide (0x1406 < r.code.toNat)
    if p.state = .running ∧ goes = true ∧ lg < 36 * p.tiles.length then some (p.blockIx lg) else none

/-- Bring a block to the issue cycle of an operation (R126): none where no bundle of the block issues in that cycle.
A sequencer fault or an uncorrectable fetch stops the operation (R109, R120, R151). -/
def openIssue (s : State) (i : Issue) (slot : Nat) : State × Option Ctx :=
  match issuingBlock s i.part i.block i.cycle with
  | none => (s, none)
  | some bix =>
    let s := advanceRegion s i.part bix i.cycle
    let b0 := (s.block bix).prune i.cycle
    let r := seqTo (i.cycle - b0.cycle + 1) b0 i.cycle
    let s := s.setBlock bix r.1
    let c : Ctx := ⟨i.part, i.block, bix, i.cycle, slot, r.1.addr, i.pred⟩
    match r.2 with
    | some cause =>
      (s.blockFatal i.part bix 0x1406 (illegalDetail cause 0 r.1.addr) r.1.cycle, none)
    | none =>
      if r.1.atTick ∨ r.1.cycle ≠ i.cycle then (s, none)
      else
        let s := (s.updBlock bix fun b => { b with driven := true }).saveBundle i.part bix i.cycle
        match i.fetch with
        | .uncorrectable => (s.blockFatal i.part bix 0x1405 0 i.cycle, none)
        | .corrected =>
          let s := s.logOnce 0x0404 i.part bix (s.blockUnit bix i.block) 0
          if i.rsvd then (illegal s c 0x01, none) else (s, some c)
        | .good => if i.rsvd then (illegal s c 0x01, none) else (s, some c)

/-- The predicate of an operation in the C, V, S or X slot, sampled in its issue cycle (R128). -/
def predOn (s : State) (c : Ctx) : Bool := predAt (s.block c.bix) c.t c.pred

/-- First cause whose condition holds. -/
def firstCause : List (Nat × Bool) → Option Nat
  | [] => none
  | (k, true) :: _ => some k
  | (_, false) :: rest => firstCause rest

/-! ### Hazard records (R181, R182) -/

/-- Report one hazard: a record in the ring, event 0x0440 for the first of an Exposure, HAZARD_STOP with the stop bit
(R180, R182). -/
def hazard (s : State) (c : Ctx) (kind writer target earlyBy : Nat) : State :=
  match s.part c.pid with
  | none => s
  | some p =>
    if !p.hazard.on then s
    else
      let r : HazRec := ⟨kind, c.slot, c.lg, c.t, c.addr, writer, target, earlyBy, p.frame.exposure⟩
      let h := p.hazard
      let h' := if h.ring.length < 1024 then { h with ring := h.ring ++ [r] } else { h with lost := h.lost + 1 }
      let first := h.seen == 0
      let s := s.setPart c.pid { p with hazard := { h' with seen := h.seen + 1 } }
      let s := if first then s.logEv 0x0440 c.pid (s.blockUnit c.bix c.lg) 0 else s
      if first && h.stop then s.blockFatal c.pid c.bix 0x1442 0 c.t else s

/-- Report when a condition holds. -/
def hazardIf (cond : Bool) (s : State) (c : Ctx) (kind writer target earlyBy : Nat) : State :=
  if cond then hazard s c kind writer target earlyBy else s

/-- Results on their way to a vector register: when they land and the bundle that sends them (R156, R162). -/
def Block.coming (b : Block) (r : BitVec 6) : List (Nat × Nat) :=
  (b.vpend.filter fun v => v.reg == r).map (fun v => (v.due, v.writer)) ++
    (b.loads.filter fun q => q.reg == r).map fun q => (q.issue + 9, q.writer)

/-- Kind 1: a vector register is read before a result due to it has landed. -/
def hazVec (c : Ctx) (s : State) (r : BitVec 6) : State :=
  match (s.block c.bix).coming r with
  | v :: _ => hazard s c 1 v.2 r.toNat (v.1 - c.t)
  | [] => s

/-- Kind 2: two results land on one register in one cycle. -/
def hazDouble (c : Ctx) (due : Nat) (s : State) (r : BitVec 6) : State :=
  match ((s.block c.bix).coming r).find? fun v => v.1 == due with
  | some v => hazard s c 2 v.2 r.toNat 0
  | none => s

/-- Kind 7: a mask or the governing predicate is read before it has been written. -/
def hazMask (c : Ctx) (s : State) (k : BitVec 3) : State :=
  match (s.block c.bix).mpend.find? fun v => v.kd == k && k != 0 with
  | some v => hazard s c 7 v.writer k.toNat (v.due - c.t)
  | none => s

def hazPred (s : State) (c : Ctx) (at_ : Nat) : State :=
  match (s.block c.bix).predLog.find? fun v => v.pd == c.pred && decide (at_ < v.due) && decide (v.issue < c.t) with
  | some v => hazard s c 7 v.writer c.pred.toNat (v.due - at_)
  | none => s

/-- The predicate write, seen after a forecast, that an operation in between went by (R129, R181). -/
def lateForecast (b : Block) (fc t : Nat) : Option PredEv :=
  b.predLog.find? fun v => decide (fc < v.due) && decide (v.due ≤ t) &&
    b.arLog.any fun e => e.pred == v.pd && decide (fc ≤ e.cycle) && decide (e.cycle < t)

/-- Kind 7: a forecast differs from the registers as they then stand (R129). -/
def hazForecast (differs : Bool) (s : State) (c : Ctx) (fc target : Nat) : State :=
  if !differs then s
  else match lateForecast (s.block c.bix) fc c.t with
    | some v => hazard s c 7 v.writer v.pd.toNat (v.due - fc)
    | none => hazard s c 7 0xFFFF target 0

/-! ### Outstanding writes and reads of the stores (R181, R182) -/

/-- A write that has not reached its stated completion: range, stated completion, issue cycle and bundle address. -/
structure OutWrite where
  addr : Nat
  len : Nat
  stated : Nat
  issue : Nat
  writer : Nat
  deriving DecidableEq, Repr

/-- Outstanding writes of the blocks of a region into its stores (R182). -/
def outWrites (s : State) (r : Nat) : List OutWrite :=
  (regionBlocks s r).flatMap fun x =>
    let b := s.block x
    b.timed.map (fun w => ⟨w.addr, w.data.length, w.due, w.issue, w.writer⟩) ++
    (b.pf.filter fun q => decide (q.kind = .copyRc ∨ q.kind = .copyCr)).map (fun q => ⟨q.dst, 256 * q.total, q.stated, q.issue, q.writer⟩) ++
    (b.pf.filter fun q => decide (q.kind = .fill) && decide (0 < q.tag)).map fun q => ⟨q.dst, q.tag, q.stated, q.issue, q.writer⟩

/-- Offset of a part-local address in its store (R182). -/
def storeOffset (a : Nat) : Nat := if 0x900000000000 ≤ a then a % 0x100000 else a % 0x20000000

/-- Store of a part-local address: a cell store or a region store. -/
def storeKey (a : Nat) : Nat := a - storeOffset a

/-- Writes that the detector has dropped from its trackers (R182). -/
def hazDrops (s : State) (c : Ctx) : List (Nat × Nat) :=
  match s.part c.pid with | some p => p.hazard.drops | none => []

/-- A landing window of the partition, not yet confirmed in this Exposure, that a range meets. -/
def openWindow (s : State) (p : Partition) (a n : Nat) : Bool :=
  p.negative.landing.any fun w =>
    decide (0x800000000000 ≤ w.base) && !((s.block (p.blockIx w.block)).confirmed.getLsbD w.counter) &&
      (match p.toLocal s.model w.base 1 with
       | some base => overlaps a n base (w.limit - w.base)
       | none => false)

/-- Kind 3: a store range is read before the stated completion of a write to it. Kind 9: data of another region is read
against R169. Kind 8: a landing window is read before the CHKARR that confirms it. The read begins in cycle `cyc`; with
`paced` it takes one unit of 256 bytes in each cycle. -/
def hazRead (s : State) (c : Ctx) (a n cyc : Nat) (paced : Bool := false) : State :=
  match s.part c.pid with
  | none => s
  | some p =>
    if !p.hazard.on ∨ n = 0 then s
    else
      let at_ (x : Nat) : Nat := if paced then cyc + (x - a) / 256 else cyc
      let s := match (outWrites s (c.bix / 6)).find? fun w =>
          overlaps a n w.addr w.len && decide (at_ w.addr < w.stated) && !(hazDrops s c).contains (w.addr, w.issue) with
        | some w => hazard s c 3 w.writer (storeOffset a) (w.stated - at_ w.addr)
        | none => s
      let s := match (s.region (c.bix / 6)).rr.find? fun q => overlaps a n q.dst (256 * q.total) && decide (at_ q.dst < q.stated) with
        | some q => hazard s c 9 q.writer (storeOffset a) (q.stated - at_ q.dst)
        | none => s
      if openWindow s p a n then hazard s c 8 0xFFFF (storeOffset a) 0 else s

/-- Kind 4: a write into a range of a store of region r, or of a cell of the block, that a read still due under the schedule
will read. -/
def hazWriteIn (s : State) (c : Ctx) (r a n : Nat) : State :=
  let meets (x : Nat) (total done : Nat) : Bool := overlaps a n (x + 256 * done) (256 * (total - done))
  let mRead := (List.range 4).any fun k => (s.cell (4 * c.bix + k)).mops.any fun m => m.caps.any fun q =>
    let done := q.got.length
    decide (done < q.count * q.unit) && overlaps a n (q.addr + done) (q.count * q.unit - done)
  let bRead := (regionBlocks s r).any fun x =>
    let b := s.block x
    (b.pf.any fun q => decide (q.kind = .copyCr) && meets q.src q.total q.done) ||
    (b.pf.any fun q => decide (q.kind = .fill) && q.arr.any fun u => overlaps a n u.1 256) ||
    (b.commits.any fun q => overlaps a n (q.src + 256 * q.done) (q.len - 256 * q.done)) ||
    (b.loads.any fun q => overlaps a n (cellBase q.cellIx + q.off + q.got.length) (1024 - q.got.length))
  let gRead := (s.region r).reqs.any fun q => match q.kind with
    | .copyRead | .rrRead => meets q.addr q.total q.done
    | .fill => q.data.any fun u => overlaps a n u.1 256
    | _ => false
  hazardIf (mRead || bRead || gRead) s c 4 c.addr (storeOffset a) 0

def hazWrite (s : State) (c : Ctx) (a n : Nat) : State := hazWriteIn s c (c.bix / 6) a n

/-- Writes that a tracker holds: 64 for a cell store, 256 for a region store (R182). -/
def trackRoom (a : Nat) : Nat := if 0x900000000000 ≤ a then 64 else 256

/-- A write arrives at the tracker of its store: a full tracker drops its oldest entry (R182). -/
def hazTrack (s : State) (c : Ctx) (a : Nat) : State :=
  match s.part c.pid with
  | none => s
  | some p =>
    if !p.hazard.on then s
    else
      let mine := (outWrites s (c.bix / 6)).filter fun w =>
        storeKey w.addr == storeKey a && !p.hazard.drops.contains (w.addr, w.issue)
      if mine.length ≤ trackRoom a then s
      else match sortBy (·.issue) mine with
        | w :: _ => (s.setPart c.pid { p with hazard := { p.hazard with
            untracked := p.hazard.untracked + 1, drops := (w.addr, w.issue) :: p.hazard.drops } }).logOnce
              0x0441 c.pid 0 (s.blockUnit c.bix c.lg) 0
        | [] => s

/-- Count an issued V-slot or X-slot operation (19 R503). -/
def State.countSlot (s : State) (c : Ctx) : State :=
  if c.slot = 3 then s.updBlock c.bix fun b => { b with perf := { b.perf with vIssued := b.perf.vIssued + 1 } }
  else if c.slot = 5 then s.updBlock c.bix fun b => { b with perf := { b.perf with xIssued := b.perf.xIssued + 1 } }
  else s

/-- Run an operation of the C, V, S or X slot: `bits` are the causes that depend on the bundle's bits alone, `checks` the
others; a suppressed operation has only its recorded register effects (R125, R128). -/
def runSlot (s : State) (i : Issue) (slot : Nat) (always : Bool) (bits : List (Nat × Bool))
    (checks : State → Ctx → List (Nat × Bool)) (eff : State → Ctx → State) (skip : State → Ctx → State) : State :=
  match openIssue s i slot with
  | (s, none) => s
  | (s, some c) =>
    let s := if always then s else hazPred s c c.t
    match firstCause bits with
    | some k => illegal s c k
    | none =>
      if always || predOn s c then
        match firstCause (checks s c) with
        | some k => illegal s c k
        | none => (eff s c).countSlot c
      else skip s c

/-- What every meaning here answers. -/
abbrev Out := Host.Outcome State Fault Refusal

def skipNone (s : State) (_ : Ctx) : State := s
def noChecks (_ : State) (_ : Ctx) : List (Nat × Bool) := []

end Sys2Proof.Machine
end

