-- ==== Sys2Proof/Machine/Flags.lean ====
section
/-! DEFINITION. Comparison results, lane masks, clip counts and the shared frame of every V-slot operation
(06 R153 to R157). -/

namespace Sys2Proof.Machine

/-- Truth of a CMP condition on two lanes of a type (R157). -/
def cmpLane (type : BitVec 4) (cond : Nat) (x y : Nat) : Bool :=
  if type = 10 then
    let a := signedOf 32 x
    let b := signedOf 32 y
    match cond with
    | 0 => a == b | 1 => a != b | 2 => decide (a < b) | 3 => decide (a ≤ b) | 4 => decide (b < a) | 5 => decide (b ≤ a)
    | _ => false
  else
    let a := decodeElem type x
    let b := decodeElem type y
    match cond with
    | 0 => eqVal a b
    | 1 => !eqVal a b
    | 2 => ltVal a b
    | 3 => ltVal a b || eqVal a b
    | 4 => ltVal b a
    | 5 => ltVal b a || eqVal a b
    | _ => isNanVal a || isNanVal b

/-- Fields of a V operation that it does not use and that are not 0 (R124, R153). -/
structure VUse where
  vd : Bool := true
  va : Bool := true
  vb : Bool := false
  vc : Bool := false
  type : Bool := true
  km : Bool := true
  func : Nat := 0
  imm : Nat := 0

/-- Whether a field outside an operation's use is non-zero; `func` and `imm` are masks of used bits. -/
def vUnused (u : VUse) (f : VecF) : Bool :=
  (!u.vd && f.vd != 0) || (!u.va && f.va != 0) || (!u.vb && f.vb != 0) || (!u.vc && f.vc != 0) ||
  (!u.type && f.type != 0) || (!u.km && f.km != 0) ||
  (f.func.toNat &&& (255 - u.func) != 0) || (f.imm.toNat &&& (65535 - u.imm) != 0)

/-- Causes from the bits of a V operation: unused fields, reserved format codes, a type it does not allow (R151, R183). -/
def vBits (u : VUse) (types : List Nat) (f : VecF) : List (Nat × Bool) :=
  [(0x01, vUnused u f), (0x02, u.type && decide (10 < f.type.toNat)), (0x20, u.type && !(types.contains f.type.toNat))]

/-- Types named All or Any in R155, and the float types. -/
def allTypes : List Nat := [7, 8, 9, 10]
def floatTypes : List Nat := [7, 8, 9]

/-- Byte enables of a register for a lane mask: one bit for each byte of an enabled lane. -/
def laneEnables (lanes bytes : Nat) (mask : BitVec 512) : BitVec 1024 :=
  let one := 2 ^ bytes - 1
  BitVec.ofNat 1024 ((List.range lanes).foldl (fun (acc : Nat) l =>
    if mask.getLsbD l then acc ||| one * 2 ^ (bytes * l) else acc) 0)

/-- Send a result on its way to a register (R156). -/
def putVec (s : State) (c : Ctx) (due : Nat) (vd : BitVec 6) (val : Nat) (en : BitVec 1024) : State :=
  let s := hazDouble c due s vd
  s.updBlock c.bix fun b => { b with
    vpend := b.vpend ++ [⟨due, c.t, vd, BitVec.ofNat 8192 val, en, c.addr⟩] }

/-- Count clips of the vector unit (R78, R85, R95). -/
def countClips (s : State) (c : Ctx) (n : Nat) : State :=
  if n = 0 then s
  else (s.updBlock c.bix fun b => { b with convClip := satAdd b.convClip n }).logOnce 0x0426 c.pid 0
    (s.blockUnit c.bix c.lg) 0

/-- Occupy the special unit (R155, R156). -/
def takeSpecial (s : State) (c : Ctx) (occ : Nat) : State :=
  if occ = 0 then s
  else s.updBlock c.bix fun b => { b with
    specialFree := c.t + occ, perf := { b.perf with special := b.perf.special + occ } }

/-- Run a V operation: `occ` cycles of the special unit (0 for the main unit), then its effect. -/
def runV (i : Issue) (bitsOnly : List (Nat × Bool)) (occ : State → Ctx → Nat) (eff : State → Ctx → State) (s : State) : State :=
  runSlot s i 3 false bitsOnly
    (fun s c => [(0x21, decide (0 < occ s c) && decide (c.t < (s.block c.bix).specialFree))])
    (fun s c => eff (takeSpecial s c (occ s c)) c) skipNone

def noOcc (_ : State) (_ : Ctx) : Nat := 0

/-- Lanes of a register as numbers. -/
def lanesOf (type : BitVec 4) (v : BitVec 8192) : List Nat :=
  (List.range (laneCount type)).map (field (laneBits type) v.toNat)

/-- An elementwise operation on lanes of one type, with up to three sources, under a lane mask. -/
def laneOp (f : VecF) (latency : Nat) (op : Nat → Nat → Nat → Nat → Nat) (srcs : Nat) (s : State) (c : Ctx) : State :=
  let b := s.block c.bix
  let s := if 1 ≤ srcs then hazVec c s f.va else s
  let s := if 2 ≤ srcs then hazVec c s f.vb else s
  let s := if 3 ≤ srcs then hazVec c s f.vc else s
  let s := hazMask c s f.km
  let n := laneCount f.type
  let w := laneBits f.type
  let mask := b.mask f.km
  let a := (b.vreg f.va).toNat
  let x := (b.vreg f.vb).toNat
  let y := (b.vreg f.vc).toNat
  let val := packFields w ((List.range n).map fun l =>
    if mask.getLsbD l then op l (field w a l) (field w x l) (field w y l) else 0)
  putVec s c (c.t + latency) f.vd val (laneEnables n (w / 8) mask)

/-- Latency of an addition-like operation by type (R155). -/
def addLat (type : BitVec 4) : Nat := if type = 9 then 4 else if type = 10 then 2 else 3

/-- The float layout of a lane type. -/
def laneFmt (type : BitVec 4) : FloatFmt := (floatFmt type).getD fmtFP32

end Sys2Proof.Machine
end

