-- ==== Sys2Proof/Machine/Control.lean ====
section
/-! DEFINITION. The C slot (05 R130 to R137): loops, waits, HALT, TANK.BASE, stream flags, sync tokens, predicates and
address registers. -/

namespace Sys2Proof.Machine

/-- Checks of a loop's nesting and end address (R130, causes 0x09 and 0x0A). -/
def loopChecks (e : BitVec 13) (s : State) (c : Ctx) : List (Nat × Bool) :=
  let b := s.block c.bix
  [(0x09, decide (4 ≤ b.loops.length)),
   (0x0A, decide (e.toNat ≤ c.addr) || (match b.loops with | l :: _ => decide (l.endA < e.toNat) | [] => false))]

/-- LOOP (R130). -/
def execLoop (i : Issue) (e : BitVec 13) (n : BitVec 11) (s : State) : Out :=
  .next (runSlot s i 1 true [] (loopChecks e)
    (fun s c => s.updBlock c.bix fun b => { b with opening := some (e.toNat, n.toNat) }) skipNone)

/-- Count of a LOOP.AR, forecast 20 cycles before it issues (R129). -/
def loopArCount (s : State) (c : Ctx) (ar : BitVec 4) : BitVec 32 :=
  arOf (arForecast (s.block c.bix) (c.t - 20) c.t) ar

/-- LOOP.AR (R129, R130). -/
def execLoopAr (i : Issue) (e : BitVec 13) (ar : BitVec 4) (s : State) : Out :=
  .next (runSlot s i 1 true []
    (fun s c => loopChecks e s c ++ [(0x0E, decide (16777215 < (loopArCount s c ar).toNat))])
    (fun s c =>
      let n := loopArCount s c ar
      let s := hazForecast (n != arOf (arNow (s.block c.bix) c.t) ar) s c (c.t - 20) ar.toNat
      s.updBlock c.bix fun b => { b with opening := some (e.toNat, n.toNat) }) skipNone)

/-- WAITCY (R131). -/
def execWaitcy (i : Issue) (n : BitVec 20) (s : State) : Out :=
  .next (runSlot s i 1 true [] noChecks
    (fun s c => s.updBlock c.bix fun b => { b with
      wait := n.toNat }) skipNone)

/-- Bring a block's stores and sequencer up to a cycle without issuing anything. -/
def passTo (s : State) (pid lg cycle : Nat) : State :=
  match runningBlock s pid lg with
  | none => s
  | some bix =>
    let s := advanceRegion s pid bix cycle
    let b0 := (s.block bix).prune cycle
    let r := seqTo (cycle - b0.cycle + 1) b0 cycle
    let s := s.setBlock bix r.1
    match r.2 with
    | some cause => s.blockFatal pid bix 0x1406 (illegalDetail cause 0 r.1.addr) r.1.cycle
    | none => s

/-- The wait of a WAITCY ends: the block stands at the bundle of that cycle (R131). -/
def execWaitcyExpiry (part block cycle : Nat) (s : State) : Out := .next (passTo s part block cycle)

/-- WAITTICK (R131). -/
def execWaittick (i : Issue) (s : State) : Out :=
  .next (runSlot s i 1 true [] noChecks
    (fun s c => s.updBlock c.bix fun b => { b with
      atTick := true, perf := { b.perf with issued := b.perf.issued + 1, tickCycle := c.t } }) skipNone)

/-- HALT: the first code of a block is kept, and the partition's halt request is set (R132); in the last µs of the frame it is
one for the Shutter after the next (02 R55). -/
def execBundleHalt (i : Issue) (code : BitVec 8) (s : State) : Out :=
  .next (runSlot s i 1 false [] noChecks
    (fun s c => (s.updBlock c.bix fun b => { b with haltCode := b.haltCode.or (some code) }).updPart c.pid fun p =>
      { p with frame := if p.lastMicro (c.lg / 6) c.t then { p.frame with reqLate := true } else { p.frame with haltReq := true } })
    skipNone)

/-- The cell after TANK.BASE (R68, R134). -/
def Cell.setBase (c : Cell) (base : BitVec 10) : Cell :=
  { c with base := base, tanks := [], poison := 0, depth := 0, kcur := 0, strip := [], stripReg := 0, stripRow := none }

/-- Whether a cell's engine is occupied in a cycle, or a contribution is due to land at or after it (R134). -/
def Cell.busyForBase (c : Cell) (t : Nat) : Bool :=
  decide (t < c.engFree) || (match c.lastLand with | some l => decide (t ≤ l) | none => false) ||
    c.mops.any (fun m => decide (m.land = none))

/-- TANK.BASE (R134). -/
def execTankBase (i : Issue) (cells : BitVec 4) (base : BitVec 10) (s : State) : Out :=
  .next (runSlot s i 1 false []
    (fun s c => [(0x04, (maskCells cells).any fun k => (s.cell (4 * c.bix + k)).busyForBase c.t)])
    (fun s c => (maskCells cells).foldl (fun s k => s.updCell (4 * c.bix + k) fun x => x.setBase base) s) skipNone)

/-- CHKFLAG (R114, R135). -/
def execChkflag (i : Issue) (mask : BitVec 16) (clear : Bool) (s : State) : Out :=
  .next (runSlot s i 1 false [] noChecks
    (fun s c =>
      let b := s.block c.bix
      if mask &&& ~~~b.flags = 0 then
        (if clear then s.updBlock c.bix fun b => { b with flags := b.flags &&& ~~~mask } else s)
      else s.raiseFatal c.pid 0x1503 (regionUnit (c.bix / 6) (c.lg / 6)) 0 c.t) skipNone)

/-- Cycles of another region between which a token arrives that is posted in cycle t over h crossings (R136, R150, R168,
R169). -/
def tokenBounds (s : State) (pid : Nat) (p : Partition) (t h : Nat) : Nat × Nat :=
  (p.slowCycle (p.earliestPs t), p.safeCycle (p.latestPs t + crossingPs h (stepFloor s pid).2))

/-- SYNC.POST (R136, R150): within a region the token arrives two cycles later; another region has it in a cycle that the
bounds of R169 leave open. -/
def execSyncPost (i : Issue) (target : BitVec 10) (token : BitVec 4) (s : State) : Out :=
  .next (runSlot s i 1 false []
    (fun s c => [(0x0F, match s.part c.pid with
      | some p => decide (36 * p.tiles.length ≤ target.toNat) || target.toNat / 36 != c.lg / 36
      | none => true)])
    (fun s c => match s.part c.pid with
      | some p =>
        let own := decide (target.toNat / 6 = c.lg / 6)
        let bd := tokenBounds s c.pid p c.t (rrHops (c.bix / 6 % 6) (target.toNat / 6 % 6) 0)
        let d := if own then (c.t + 2, s) else s.openCycle bd.1 bd.2 11
        let dest := p.blockIx target.toNat
        (d.2.updBlock dest fun b => { b with
          tokensDue := b.tokensDue ++ [(d.1, token)]
          crossTokens := if own then b.crossTokens else b.crossTokens ++ [(bd.2, token, c.addr)] }).noteBundle c.bix fun v =>
            { v with posts := v.posts ++ [(dest, d.1, token)] }
      | none => s) skipNone)

/-- Tokens of the own region that have arrived by a cycle are set (R136). -/
def Block.takeTokens (b : Block) (t : Nat) : Block :=
  { b with
    tokens := (b.tokensDue.filter fun x => decide (x.1 ≤ t)).foldl (fun acc x => acc ||| (1#16 <<< x.2.toNat)) b.tokens
    tokensDue := b.tokensDue.filter fun x => decide (t < x.1) }

/-- A posted token arrives (R136). -/
def execSyncTokenArrival (part block : Nat) (token : BitVec 4) (cycle : Nat) (s : State) : Out :=
  .next (match runningBlock s part block with
    | none => s
    | some bix =>
      let s := passTo s part block cycle
      let b := s.block bix
      match b.tokensDue.find? fun x => x.2 == token with
      | some x => s.setBlock bix { b with
          tokens := b.tokens ||| (1#16 <<< token.toNat), tokensDue := b.tokensDue.erase x }
      | none => s)

/-- SYNC.CHK (R136). -/
def execSyncChk (i : Issue) (mask : BitVec 16) (clear : Bool) (s : State) : Out :=
  .next (runSlot s i 1 false [] noChecks
    (fun s c =>
      let s := s.updBlock c.bix fun b => b.takeTokens c.t
      let s := match (s.block c.bix).crossTokens.find? fun x => mask.getLsbD x.2.1.toNat && decide (c.t < x.1) with
        | some x => hazard s c 9 x.2.2 x.2.1.toNat (x.1 - c.t)
        | none => s
      if mask &&& ~~~(s.block c.bix).tokens = 0 then
        (if clear then s.updBlock c.bix fun b => { b with tokens := b.tokens &&& ~~~mask } else s)
      else s.blockFatal c.pid c.bix 0x140B 0 c.t) skipNone)

/-- Index of the loop at nesting depth k, 0 for the outermost; 0 where none is active (R130, R137). -/
def loopIndex (b : Block) (k : Nat) : Nat := match b.loops.reverse[k]? with | some l => l.idx | none => 0

/-- Reserved values of a PSET (R137): a reserved function, a non-zero unused operand bit, a frame m above 13. -/
def psetReserved (fn : BitVec 3) (ops : BitVec 18) : Bool :=
  let x := ops.toNat
  match fn.toNat with
  | 0 => bits x 17 1 != 0
  | 1 => bit x 0 || bits x 17 15 != 0
  | 2 => bits x 17 8 != 0
  | 3 => decide (13 < bits x 4 0)
  | _ => true

/-- Value that a PSET writes (R137). -/
def psetValue (b : Block) (t : Nat) (exposure : BitVec 64) (fn : BitVec 3) (ops : BitVec 18) : Bool :=
  let x := ops.toNat
  match fn.toNat with
  | 0 => bit x 0
  | 1 =>
    let li := loopIndex b (bits x 2 1)
    if bit x 3 then decide (li < bits x 14 4) else li == bits x 14 4
  | 2 =>
    let a := predAt b t (BitVec.ofNat 3 (bits x 2 0))
    let c := predAt b t (BitVec.ofNat 3 (bits x 5 3))
    match bits x 7 6 with
    | 0 => a && c
    | 1 => a || c
    | 2 => a != c
    | _ => a && !c
  | _ => exposure.toNat % 2 ^ bits x 4 0 == bits x 17 5

/-- PSET (R137). -/
def execPset (i : Issue) (d : BitVec 3) (fn : BitVec 3) (ops : BitVec 18) (s : State) : Out :=
  .next (runSlot s i 1 false [(0x01, psetReserved fn ops), (0x11, d == 0)] noChecks
    (fun s c =>
      let e := match s.part c.pid with | some p => p.frame.exposure | none => 0
      s.updBlock c.bix fun b => b.putPred (c.t + 1) c.t d (psetValue b c.t e fn ops) c.addr) skipNone)

/-- A register operation of the C slot: it is recorded whether or not its predicate lets it issue (R129, R133). -/
def runAr (s : State) (i : Issue) (eff : ArEff) : State :=
  runSlot s i 1 false [] noChecks
    (fun s c => s.updBlock c.bix fun b => b.putAr c.t c.pred true eff)
    (fun s c => s.updBlock c.bix fun b => b.putAr c.t c.pred false eff)

/-- AR.SETLO (R133). -/
def execArSetlo (i : Issue) (d : BitVec 4) (imm : BitVec 16) (s : State) : Out := .next (runAr s i (.setLo d imm))
/-- AR.SETHI (R133). -/
def execArSethi (i : Issue) (d : BitVec 4) (imm : BitVec 16) (s : State) : Out := .next (runAr s i (.setHi d imm))
/-- AR.ADDI (R133). -/
def execArAddi (i : Issue) (d src : BitVec 4) (imm : BitVec 16) (s : State) : Out := .next (runAr s i (.addi d src imm))
/-- AR.ADD (R133). -/
def execArAdd (i : Issue) (d a b : BitVec 4) (s : State) : Out := .next (runAr s i (.add d a b))

end Sys2Proof.Machine
end

