-- ==== Sys2Proof/Machine/MatrixOps.lean ====
section
/-! DEFINITION. The M slot (05 R138 to R149): issue checks, operand slabs, occupancy and depth of MMA, MMA.DODGE,
TANK.READ, TANK.MERGE, DODGE.SET and STRIP.CHECK. -/

namespace Sys2Proof.Machine

/-- What an M operation asks of one cell: its slabs, occupancy, landing delay and whether it adds to the depth count. -/
structure MPlan where
  cells : BitVec 4
  occ : Nat
  /-- slabs of one cell, given the base of its store. -/
  caps : Nat → List Cap
  /-- ranges checked for alignment and end, as offset, alignment and length (R129, R139). -/
  ranges : List (Nat × Nat × Nat)
  /-- a step of MMA or MMA.DODGE. -/
  mma : Bool := false

/-- Causes common to the M operations, in rising order, for one plan (R129, R140, R141, R151). -/
def mCommon (s : State) (c : Ctx) (p : MPlan) : List (Nat × Bool) :=
  let cs := (maskCells p.cells).map fun k => 4 * c.bix + k
  [(0x04, cs.any fun x => decide (c.t < (s.cell x).engFree)),
   (0x05, cs.any fun x =>
      let mine := p.caps (cellBase x)
      ((s.cell x).mops ++ (s.cell x).past).any fun m => m.caps.any fun a => mine.any fun b => portClash b a),
   (0x06, p.ranges.any fun r => r.1 % r.2.1 != 0),
   (0x07, p.ranges.any fun r => decide (0x100000 < r.1 + r.2.2)),
   (0x10, decide (firstRead c.t (p.caps 0) < -4))]

/-- Cycles before `t` in which an M operation, known from `t` on, has read a bank that a due read of port F then claimed: that
read ranks below it (R100). Later ones show as the port F read comes due. -/
def dueClashes (b : Block) (cellIx t : Nat) (caps : List Cap) : List Nat :=
  let base := cellBase cellIx
  ((b.due.filter fun d => d.read && d.cell.toNat == cellIx % 4 && decide (d.cycle < t)).filter fun d =>
    caps.any fun k => (k.unitsAt d.cycle).any fun u =>
      [bankOf d.off, bankOf (d.off + 128)].contains (bankOf (k.addr + u * k.unit - base))).map (·.cycle)

/-- Cycles in which the operand and scale reads of an M operation meet on a bank, among themselves or with those of the
operations in progress and just done (R97, R100). The two halves of a line that ports A and B read together are one
access. -/
def mConflicts (c : Cell) (base t : Nat) (caps : List Cap) : List Int :=
  let own := caps.zipIdx.flatMap fun x => caps.zipIdx.flatMap fun y =>
    if x.2 < y.2 then bankClash base x.1 y.1 else []
  own ++ ((c.mops ++ c.past).filter fun m => m.issue != t).flatMap fun m => m.caps.flatMap fun x =>
    caps.flatMap fun y => bankClash base y x

/-- A write-buffer line has taken a bank that the operation, known only from cycle t on, read before (R99, R120). -/
def forcedBefore (c : Cell) (base : Nat) (caps : List Cap) : Option Nat :=
  (c.forced.find? fun f => caps.any fun k => (k.unitsAt f.1).any fun u => bankOf (k.addr + u * k.unit - base) == f.2).map (·.1)

/-- ECC outcome of a read from a cell store (R120): a corrected word waits for its write-back. -/
def cellEcc (s : State) (pid cellIx off : Nat) (rd : Ecc) (time : Nat) : State :=
  let lg := match s.part pid with | some p => p.logicalOf (cellIx / 4) * 4 + cellIx % 4 | none => 0xFFFF
  match rd with
  | .good => s
  | .corrected => (s.updCell cellIx fun c => { c with eccCount := c.eccCount + 1, wback := c.wback ++ [off / 128] }).logOnce
      0x0401 pid cellIx (s.cellUnit cellIx lg) 0
  | .uncorrectable => s.raiseFatal pid 0x1402 (s.cellUnit cellIx lg) 0 time

/-- Open an M operation: its first read cycle, the forecast registers, and whether it issues (R128, R129, R140). -/
def openM (s : State) (i : Issue) (fr : Nat → Int) : State × Option (Ctx × FMap (BitVec 32) × Bool) :=
  match openIssue s i 2 with
  | (s, none) => (s, none)
  | (s, some c) =>
    let fc := (fr c.t - 1).toNat
    let b := s.block c.bix
    let s := hazPred s c fc
    let regs := arForecast b fc c.t
    let s := hazForecast (regs != arNow b c.t) s c fc 0
    (s, some (c, regs, predAt b fc c.pred))

/-- Offset in a cell store held by a register. -/
def offOf (r : FMap (BitVec 32)) (k : BitVec 4) : Nat := (arOf r k).toNat

/-- Kind 5: a sample is taken while a contribution is due to land; kind 6: a merge will overwrite that landing. -/
def hazSample (s : State) (c : Ctx) (cells : BitVec 4) (merge : Bool := false) : State :=
  (maskCells cells).foldl (fun s k =>
    ((s.cell (4 * c.bix + k)).mops.filter fun m => decide (m.kind = .mma ∨ m.kind = .side)).foldl (fun s m =>
      let s := hazard s c 5 m.writer k (m.land.getD c.t - c.t)
      if merge then hazard s c 6 m.writer k (m.land.getD c.t - c.t) else s) s) s

/-- The first unit of a slab that is read before the stated completion of a write to it: an outstanding one, or one that has
completed since (R140, R181). -/
def earlyUnit (ws : List OutWrite) (cell : Cell) (base : Nat) (k : Cap) : Option (Nat × Nat × Nat × Nat) :=
  (List.range k.count).findSome? fun u =>
    let a := k.addr + u * k.unit
    let cyc := k.cycleOf u
    match ws.find? fun w => overlaps a k.unit w.addr w.len && decide (cyc < (w.stated : Int)) with
    | some w => some (a, cyc.toNat, w.stated, w.writer)
    | none => (cell.hist.find? fun h => overlaps (a - base) k.unit h.off h.old.length && decide (cyc < (h.stated : Int)) &&
        decide (h.stated < 0xFFFFFFFF)).map fun h => (a, cyc.toNat, h.stated, h.writer)

/-- Kinds 3 and 8: reads of the slabs of an M operation in each of its cells. -/
def hazCaps (s : State) (c : Ctx) (cells : BitVec 4) (caps : Nat → List Cap) : State :=
  match s.part c.pid with
  | none => s
  | some p =>
    if !p.hazard.on then s
    else
      (maskCells cells).foldl (fun s k =>
        let ix := 4 * c.bix + k
        let drops := hazDrops s c
        let ws := (outWrites s (c.bix / 6)).filter fun w => !drops.contains (w.addr, w.issue)
        (caps (cellBase ix)).foldl (fun s q =>
          let s := match earlyUnit ws (s.cell ix) (cellBase ix) q with
            | some e => hazard s c 3 e.2.2.2 (storeOffset e.1) (e.2.2.1 - e.2.1)
            | none => s
          if decide (0 < q.count) && openWindow s p q.addr (q.count * q.unit) then hazard s c 8 0xFFFF (storeOffset q.addr) 0 else s) s) s

/-- Raise the depth count of a cell by n, or say that it would pass 2^24 (R71). -/
def depthOver (c : Cell) (n : Nat) : Bool := decide (2 ^ 24 < c.depth.toNat + n)

/-- TANK_DEPTH_EXCEEDED on a cell (R71, R95). -/
def depthFault (s : State) (c : Ctx) (cellIx : Nat) : State :=
  s.raiseFatal c.pid 0x1420 (s.cellUnit cellIx (4 * c.lg + cellIx % 4)) 0 c.t

/-- Start an M operation on one cell: engine, landing, the reads that lie before its issue, conflicts and check outcome
(R99, R100, R120, R140). It works with the dodge list, the latch and the base as they stand at its issue. -/
def startM (s : State) (c : Ctx) (cellIx occ : Nat) (m : Mop) (rd : Ecc) : State :=
  let x := s.cell cellIx
  let base := cellBase cellIx
  let clash := mConflicts x base c.t m.caps
  let forced := forcedBefore x base m.caps
  let m := { m with
    dlist := x.dodgeList, latch := x.dodgeLatch, base := x.base
    failed := decide (rd = .uncorrectable) || !clash.isEmpty || forced.isSome }
  let s := s.updCell cellIx fun x => { x with engFree := c.t + occ, mops := x.mops ++ [m] }
  let s := s.updBlock c.bix fun b => { b with
    lastDone := Nat.max b.lastDone (m.land.getD (c.t + occ + 8))
    faults := b.faults ++ ((clash.filter fun k => decide ((c.t : Int) ≤ k)).take 1).map fun k => ⟨k.toNat, cellIx⟩ }
  let s := match (clash.filter fun k => decide (k < (c.t : Int))).map Int.toNat ++ dueClashes (s.block c.bix) cellIx c.t m.caps with
    | k :: _ => s.cellFatal c.pid cellIx 0x1408 0 k
    | [] => s
  let s := match forced with
    | some k => s.cellFatal c.pid cellIx 0x1409 0 k
    | none => s
  let off := match m.caps.find? fun k => decide (0 < k.count) with | some k => k.addr - base | none => 0
  cellEcc (s.captureReads cellIx (c.t : Int)) c.pid cellIx off rd c.t

/-! ### MMA -/

/-- Occupancy of a step with its strip (R67, R143). -/
def mmaOcc (f : MmaF) : Nat × Nat :=
  let occ := (pairOcc f.fmtA f.fmtB).getD 32
  (occ, if f.strip then (if occ = 128 then 132 else 36) else occ)

/-- Slabs of an MMA step in one cell: A, B, scales of A and B, strip activations and strip scale (R139, R140, R142, R143). -/
def mmaCaps (f : MmaF) (r : FMap (BitVec 32)) (t base : Nat) : List Cap :=
  let occ := (mmaOcc f).1
  let g := f.t2size.toNat
  let j := f.t2pos.toNat
  let st := offOf r f.arSt
  [elemCap t occ base (offOf r f.arA) f.fmtA g j .a,
   elemCap t occ base (offOf r f.arB) f.fmtB g j .b,
   scaleCap t occ base (offOf r f.arSA) 0 (f.fmtA != 7),
   scaleCap t occ base (offOf r f.arSB) 1 (f.fmtB != 7),
   { mkCap t 1 1 (base + st) 32 (boolNat f.strip) 1 0 .a with base := (t : Int) + occ - 3 },
   { mkCap t 1 1 (base + st + 32) 1 (boolNat f.strip) 1 0 .scale with base := (t : Int) + occ - 2 }]

/-- Ranges an MMA step reads, with their alignments (R129, R139). -/
def mmaRanges (f : MmaF) (r : FMap (BitVec 32)) : List (Nat × Nat × Nat) :=
  let g := f.t2size.toNat
  [(offOf r f.arA, 64, slabBytes f.fmtA g), (offOf r f.arB, 64, slabBytes f.fmtB g)] ++
  (if f.fmtA = 7 then [] else [(offOf r f.arSA, 16, 128)]) ++
  (if f.fmtB = 7 then [] else [(offOf r f.arSB, 16, 128)]) ++
  (if f.strip then [(offOf r f.arSt, 64, 64)] else [])

/-- Whether the T2 fields of a step are consistent in themselves (R138, R142). Without a T2 operand the rule asks t2_size to be
0 and says nothing of t2_pos, which is then ignored (DESIGN CHOICE, entry 132). -/
def t2FieldsBad (f : MmaF) : Bool :=
  let t2 := f.fmtA == 3 || f.fmtB == 3
  let g := f.t2size.toNat
  if t2 then decide (g = 0 ∨ 5 < g ∨ g ≤ f.t2pos.toNat) else g != 0

/-- Whether a step breaks the T2 sequence of a cell: order, t2_size, and the operand that is T2 with its register
(R142). -/
def t2SeqBad (x : Cell) (f : MmaF) : Bool :=
  let t2 := f.fmtA == 3 || f.fmtB == 3
  match x.t2 with
  | some q => !(t2 && q.size == f.t2size.toNat && q.next == f.t2pos.toNat && (q.fmtA == 3) == (f.fmtA == 3) &&
      (q.fmtB == 3) == (f.fmtB == 3) && (f.fmtA != 3 || q.arA == f.arA) && (f.fmtB != 3 || q.arB == f.arB))
  | none => t2 && f.t2pos.toNat != 0

/-- Whether a T2 group is in progress on a selected cell: every other M operation is illegal then (R142). -/
def t2Open (s : State) (bix : Nat) (cells : BitVec 4) : Bool :=
  (maskCells cells).any fun k => (s.cell (4 * bix + k)).t2.isSome

/-- Post-increments of an MMA step (R129, R138, R139). -/
def mmaIncs (f : MmaF) : List (BitVec 4 × Nat) :=
  let g := f.t2size.toNat
  let elem (fmt : BitVec 4) : Nat := if fmt = 3 then (if f.t2pos.toNat + 1 = g then slabBytes 3 g else 0) else slabBytes fmt 1
  if f.inc then
    [(f.arA, elem f.fmtA), (f.arB, elem f.fmtB)] ++
    (if f.fmtA = 7 then [] else [(f.arSA, 128)]) ++ (if f.fmtB = 7 then [] else [(f.arSB, 128)]) ++
    (if f.strip then [(f.arSt, 64)] else [])
  else []

/-- One MMA step on one cell (R141 to R143). -/
def mmaCell (s : State) (c : Ctx) (f : MmaF) (r : FMap (BitVec 32)) (rd : Ecc) (cellIx : Nat) : State :=
  let x := s.cell cellIx
  if depthOver x 1 then depthFault s c cellIx
  else
    let occ := (mmaOcc f).2
    let g := f.t2size.toNat
    let land := c.t + occ + 8
    let last := decide (g = 0 ∨ f.t2pos.toNat + 1 = g)
    let m : Mop := {
      kind := .mma, issue := c.t, land := if last then some land else none, writer := c.addr,
      caps := mmaCaps f r c.t (cellBase cellIx), fmtA := f.fmtA, fmtB := f.fmtB, dodge := f.dodge, strip := f.strip,
      row := f.row, kblk := x.kcur, t2pos := f.t2pos.toNat, t2size := g }
    let s := s.updCell cellIx fun x => { x with
      depth := x.depth + 1
      kcur := x.kcur + 1
      stripRow := if f.strip then some f.row else x.stripRow
      lastLand := if last then some land else x.lastLand
      t2 := if g = 0 ∨ last then none else some ⟨g, f.t2pos.toNat + 1, f.arA, f.arB, f.fmtA, f.fmtB⟩
      mops := if last then x.mops.map fun q => if q.land = none then { q with land := some land } else q else x.mops }
    startM s c cellIx occ m rd

/-- MMA (R141). -/
def runMma (i : Issue) (f : MmaF) (rd : Ecc) (s : State) : State :=
  let fr (t : Nat) : Int := firstRead t (mmaCaps f [] t 0)
  match openM s i fr with
  | (s, none) => s
  | (s, some (c, r, on)) =>
    let cells := (maskCells f.cells).map fun k => 4 * c.bix + k
    let bitsOnly := [(0x02, decide (10 < f.fmtA.toNat ∨ 10 < f.fmtB.toNat)),
      (0x03, (pairOcc f.fmtA f.fmtB).isNone || (f.strip && !(decide (f.fmtA.toNat ≤ 3))))]
    match firstCause bitsOnly with
    | some k => illegal s c k
    | none =>
      if !on then s.updBlock c.bix fun b => b.postInc c.t c.pred false (mmaIncs f)
      else
        let plan : MPlan := { cells := f.cells, occ := (mmaOcc f).2, caps := mmaCaps f r c.t, ranges := mmaRanges f r }
        let common := mCommon s c plan
        let checks := (common.filter fun q => decide (q.1 < 8)) ++
          [(0x08, t2FieldsBad f || cells.any fun x => t2SeqBad (s.cell x) f),
           (0x0C, f.strip && cells.any fun x => match (s.cell x).stripRow with | some q => q != f.row | none => false)] ++
          (common.filter fun q => decide (8 < q.1))
        match firstCause checks with
        | some k => illegal s c k
        | none =>
          let s := hazCaps s c f.cells (mmaCaps f r c.t)
          let s := cells.foldl (mmaCell · c f r rd ·) s
          s.updBlock c.bix fun b => { b.postInc c.t c.pred true (mmaIncs f) with
            perf := { b.perf with mmaBusy := b.perf.mmaBusy + cells.length * (mmaOcc f).2 } }

def execMma (i : Issue) (f : MmaF) (rd : Ecc) (s : State) : Out := .next (runMma i f rd s)

/-- A landing cycle is reached: contributions due on the cell reach its Tanks (R73, R141). -/
def execTankLanding (part block : Nat) (_cell : BitVec 2) (cycle : Nat) (s : State) : Out :=
  .next (passTo s part block cycle)

/-! ### The other M operations -/

/-- Run an M operation other than MMA: bit checks, the common checks with further ones, and its effect on each selected
cell; `incs` are its post-increments. -/
def runM (s : State) (i : Issue) (cells : BitVec 4) (fr : Nat → Int) (bitsOnly : List (Nat × Bool))
    (plan : FMap (BitVec 32) → Nat → MPlan) (more : State → Ctx → FMap (BitVec 32) → List (Nat × Bool))
    (incs : List (BitVec 4 × Nat)) (cellEff : FMap (BitVec 32) → Ctx → State → Nat → State) : State :=
  match openM s i fr with
  | (s, none) => s
  | (s, some (c, r, on)) =>
    match firstCause bitsOnly with
    | some k => illegal s c k
    | none =>
      if !on then s.updBlock c.bix fun b => b.postInc c.t c.pred false incs
      else
        let common := mCommon s c (plan r c.t)
        let checks := (common.filter fun q => decide (q.1 < 8)) ++ [(0x08, t2Open s c.bix cells)] ++ more s c r ++
          (common.filter fun q => decide (8 < q.1))
        match firstCause checks with
        | some k => illegal s c k
        | none =>
          let s := hazCaps s c cells (plan r c.t).caps
          let s := (maskCells cells).foldl (fun s k => cellEff r c s (4 * c.bix + k)) s
          s.updBlock c.bix fun b => { b.postInc c.t c.pred true incs with
            perf :=
              let n := (maskCells cells).length * (plan r c.t).occ
              if (plan r c.t).mma then { b.perf with mmaBusy := b.perf.mmaBusy + n }
              else { b.perf with mOther := b.perf.mOther + n } }

/-- Slabs of a side-pass group: activations, gathered weights, scales with indices (R145). -/
def dodgeCaps (f : DodgeF) (r : FMap (BitVec 32)) (t base : Nat) : List Cap :=
  [mkCap t 128 64 (base + offOf r f.arA) 64 64 1 0 .a,
   mkCap t 128 (slabBytes f.fmtW 1 / 64) (base + offOf r f.arW) 64 (slabBytes f.fmtW 1 / 64) 1 0 .b,
   mkCap t 128 16 (base + offOf r f.arS) 16 16 1 0 .scale]

/-- MMA.DODGE (R145). -/
def execMmaDodge (i : Issue) (f : DodgeF) (rd : Ecc) (s : State) : Out :=
  .next (runM s i f.cells (fun t => (t : Int) - 3)
    [(0x02, decide (10 < f.fmtW.toNat)), (0x03, decide (3 < f.fmtW.toNat))]
    (fun r t => { cells := f.cells, occ := 128, caps := dodgeCaps f r t, mma := true,
                  ranges := [(offOf r f.arA, 64, 4096), (offOf r f.arW, 64, slabBytes f.fmtW 1), (offOf r f.arS, 16, 256)] })
    (fun s c _ => [(0x0D, (maskCells f.cells).any fun k =>
      decide (cdiv (s.cell (4 * c.bix + k)).dodgeList.length 32 ≤ f.group.toNat))])
    (if f.inc then [(f.arA, 4096), (f.arW, slabBytes f.fmtW 1), (f.arS, 256)] else [])
    (fun r c s x =>
      if depthOver (s.cell x) 1 then depthFault s c x
      else
        let s := s.updCell x fun q => { q with depth := q.depth + 1, lastLand := some (c.t + 136) }
        startM s c x 128 {
          kind := .side, issue := c.t, land := some (c.t + 136), writer := c.addr,
          caps := dodgeCaps f r c.t (cellBase x), fmtA := 5, fmtB := f.fmtW, group := f.group.toNat } rd))

/-- Element bytes of a readout format (R146). -/
def readBytes (fmt : BitVec 4) : Nat :=
  match fmt.toNat with
  | 9 => 4 | 10 => 4 | 7 => 2 | 8 => 2 | _ => 1

/-- Bytes of a tile that TANK.READ writes (R146). -/
def tileBytes (f : TankReadF) : Nat := if f.raw then 0x40000 else 16384 * readBytes f.fmt

/-- The tile of a rounding readout with the number of clipped and of poisoned elements (R75 to R77, R146). -/
def readTile (x : Cell) (fmt : BitVec 4) (sigma : Option Val) : Bytes × Nat × Nat :=
  let es := (List.range 16384).map fun k =>
    readoutElem fmt (fmtank x k) (baseExp x.base) (x.poison.getLsbD k) sigma
  (es.flatMap fun e => leBytes (readBytes fmt) e.1, (es.filter (·.2.1)).length, (es.filter (·.2.2)).length)
where
  /-- Signed Tank value of element k. -/
  fmtank (x : Cell) (k : Nat) : Int := (fmGetD x.tanks k 0).toInt

/-- The raw tile of a cell (R74). -/
def rawBytes (x : Cell) : Bytes :=
  (List.range 16384).flatMap fun k =>
    leBytes 12 (fmGetD x.tanks k 0).toNat ++ leBytes 4 (x.depth.toNat + (if x.poison.getLsbD k then 2 ^ 31 else 0))

/-- TANK_PARITY: no data leaves the cell (R120). -/
def parityFault (s : State) (c : Ctx) (cellIx : Nat) : State :=
  s.raiseFatal c.pid 0x1403 (s.cellUnit cellIx (4 * c.lg + cellIx % 4)) 0 c.t

/-- One readout on one cell (R75 to R77, R146): σ is the word that stood in the store in cycle t − 3. -/
def readCell (f : TankReadF) (rd : Ecc) (parity : Bool) (r : FMap (BitVec 32)) (c : Ctx) (s : State) (ix : Nat) : State :=
  let occ := if f.raw then 256 else 64
  let stated := c.t + occ + 6
  let x := s.cell ix
  let so := offOf r f.arSigma
  let s := (s.setCell ix { x with engFree := c.t + occ }).updBlock c.bix (·.until stated)
  let late := f.sigma && lateWrite (s.block c.bix) x (cellBase ix + so) so 4 ((c.t : Int) - 3)
  let s := if late then s.blockFatal c.pid c.bix 0x1407 0 (c.t - 3) else s
  let s := if f.sigma then cellEcc s c.pid ix so rd c.t else s
  if parity then parityFault s c ix
  else if late ∨ (f.sigma ∧ rd = .uncorrectable) then s
  else
    let sg := if f.sigma then some (decodeFloat fmtFP32 (leNat (s.cellReadAt ix so 4 ((c.t : Int) - 3)))) else none
    let tile := if f.raw then (rawBytes x, 0, 0) else readTile x f.fmt sg
    let s := hazWrite s c (cellBase ix + offOf r f.arD) (tileBytes f)
    let s := s.updBlock c.bix fun b => { b with
      timed := b.timed ++ [⟨stated, c.t, cellBase ix + offOf r f.arD, tile.1, c.addr, 0⟩] }
    let s := hazTrack s c (cellBase ix)
    let s := s.updCell ix fun x => { x with
      readClip := satAdd x.readClip tile.2.1
      poisonFlag := x.poisonFlag || tile.2.2 != 0 }
    let u := s.cellUnit ix (4 * c.lg + ix % 4)
    let s := if tile.2.1 = 0 then s else s.logOnce 0x0422 c.pid 0 u 0
    if tile.2.2 = 0 then s else s.logOnce 0x0423 c.pid 0 u 0

/-- TANK.READ (R146). -/
def execTankRead (i : Issue) (f : TankReadF) (rd : Ecc) (parity : Bool) (s : State) : Out :=
  .next (runM s i f.cells (fun t => (t : Int) - 3)
    [(0x02, decide (10 < f.fmt.toNat)), (0x03, if f.raw then f.fmt != 0 else decide (f.fmt.toNat < 5))]
    (fun r t => { cells := f.cells, occ := (if f.raw then 256 else 64),
                  caps := fun base => [{ mkCap t 1 1 (base + offOf r f.arSigma) 4 (boolNat f.sigma) 1 0 .scale with base := (t : Int) - 3 }],
                  ranges := [(offOf r f.arD, 1024, tileBytes f)] ++ (if f.sigma then [(offOf r f.arSigma, 4, 4)] else []) })
    (fun _ _ _ => [])
    (if f.inc then [(f.arD, tileBytes f)] else [])
    (fun r c s x => readCell f rd parity r c (hazSample s c (1#4 <<< (x % 4))) x))

/-- Slab of an operation that reads pairs of 64-byte units through ports A and B from cycle t − 3 on (R144, R147). -/
def pairCap (t addr units : Nat) : Cap :=
  { addr, unit := 64, count := units, base := (t : Int) - 3, mul := 1, add := 0, occ := 1, n := 2, port := .pair }

/-- Depth count that a raw tile carries, as its first unit is read in cycle t − 3 (R74, R147). -/
def tileDepth (s : State) (ix off t : Nat) : Nat := leNat (s.cellReadAt ix (off + 12) 4 ((t : Int) - 3)) % 2 ^ 25

/-- TANK.MERGE (R74, R147). -/
def execTankMerge (i : Issue) (cells : BitVec 4) (ar : BitVec 4) (inc : Bool) (rd : Ecc) (parity : Bool) (s : State) : Out :=
  .next (runM s i cells (fun t => (t : Int) - 3) []
    (fun r t => { cells := cells, occ := 2048, caps := fun base => [pairCap t (base + offOf r ar) 4096],
                  ranges := [(offOf r ar, 1024, 0x40000)] })
    (fun _ _ _ => [])
    (if inc then [(ar, 0x40000)] else [])
    (fun r c s ix =>
      let x := s.cell ix
      let n := tileDepth s ix (offOf r ar) c.t
      if depthOver x n then depthFault s c ix
      else if parity then parityFault s c ix
      else
        let s := hazSample s c (1#4 <<< (ix % 4)) true
        let s := s.updCell ix fun q => { q with depth := q.depth + BitVec.ofNat 25 n, lastLand := some (c.t + 2056) }
        startM s c ix 2048 {
          kind := .merge, issue := c.t, land := some (c.t + 2056), writer := c.addr,
          caps := [pairCap c.t (cellBase ix + offOf r ar) 4096], sample := x.tanks, samplePoison := x.poison } rd))

/-- Occupancy of DODGE.SET (R144). -/
def dodgeSetOcc (n : Nat) : Nat := if n = 0 then 1 else (alignUp (4 * n) 128 + 128 * n) / 128 + 8

/-- DODGE.SET (R144). -/
def execDodgeSet (i : Issue) (cells : BitVec 4) (ar : BitVec 4) (n : BitVec 9) (rd : Ecc) (s : State) : Out :=
  let len := alignUp (4 * n.toNat) 128 + 128 * n.toNat
  .next (runM s i cells (fun t => (t : Int) - 3) []
    (fun r t => { cells := cells, occ := dodgeSetOcc n.toNat, caps := fun base => [pairCap t (base + offOf r ar) (len / 64)],
                  ranges := if n = 0 then [] else [(offOf r ar, 128, len)] })
    (fun _ _ _ => [(0x0E, decide (256 < n.toNat))])
    []
    (fun r c s ix => startM s c ix (dodgeSetOcc n.toNat) {
      kind := .dodgeSet, issue := c.t,
      land := some (c.t + dodgeSetOcc n.toNat), writer := c.addr, n := n.toNat,
      caps := [pairCap c.t (cellBase ix + offOf r ar) (len / 64)] } rd))

/-- STRIP.CHECK (R82, R83, R148). The row is cleared in cycle t + 20; whether another row may be named from the check's issue
on or only then, the rule does not say: here from its issue on (DESIGN CHOICE, entry 134). -/
def execStripCheck (i : Issue) (cells : BitVec 4) (row : BitVec 7) (entry : BitVec 8) (s : State) : Out :=
  .next (runM s i cells (fun t => (t : Int) - 3) []
    (fun _ _ => { cells := cells, occ := 16, caps := fun _ => [], ranges := [] })
    (fun s c _ =>
      [(0x0C, (maskCells cells).any fun k => match (s.cell (4 * c.bix + k)).stripRow with | some q => q != row | none => false),
       (0x0D, match s.part c.pid with | some p => decide (p.negative.thresh.length ≤ entry.toNat) | none => true)])
    []
    (fun _ c s ix =>
      let x := s.cell ix
      let s := hazSample s c (1#4 <<< (ix % 4))
      let s := s.updCell ix fun q => { q with stripRow := none }
      startM s c ix 16 {
        kind := .check, issue := c.t, land := some (c.t + 20), writer := c.addr, row := row, entry := entry,
        sample := x.tanks.filter (fun q => q.1 / 128 == row.toNat), stripSample := x.strip } .good))

end Sys2Proof.Machine
end

