-- ==== Sys2Proof/Machine/Transcendental.lean ====
section
/-! DEFINITION. The transcendental functions of the vector unit (03 R86, R87, 06 R158). The reference set is the exact
value rounded to nearest even; it is computed here in fixed point far beyond FP32 precision (DEDUCED, entry 12). The
fast set is any code within 2 ulp of the exact value, chosen by a constant without a body. -/

namespace Sys2Proof.Machine

/-- The eleven functions, in opcode order (R158). -/
inductive TFn where
  | exp | exp2 | log | log2 | rcp | rsqrt | sin | cos | tanh | sigmoid | erf
  deriving DecidableEq, Repr

/-- A magnitude m × 2^e with its sign; `tail` says that the exact value lies a little above the magnitude. -/
structure Approx where
  neg : Bool
  m : Nat
  e : Int
  tail : Bool
  deriving DecidableEq, Repr

/-- Fraction bits of the fixed-point work. -/
def trF : Nat := 960

/-- 1.0 in fixed point. -/
def trOne : Int := (2 ^ trF : Nat)

/-- Fixed-point product. -/
def fxMul (a b : Int) : Int := a * b / trOne

/-- sum of 1/((2k+1) q^(2k+1)), alternating if `alt`: atan or atanh of 1/q. -/
def arcSum (alt : Bool) (q : Int) : Nat → Int → Int → Int → Int
  | 0, _, _, acc => acc
  | n + 1, k, p, acc =>
    let t := p / (2 * k + 1)
    arcSum alt q n (k + 1) (p / (q * q)) (if alt && k % 2 != 0 then acc - t else acc + t)

/-- π in fixed point, by Machin's formula. -/
def trPi : Int :=
  4 * (4 * arcSum true 5 260 0 (trOne / 5) 0 - arcSum true 239 80 0 (trOne / 239) 0)

/-- ln 2 in fixed point. -/
def trLn2 : Int := 2 * arcSum false 3 340 0 (trOne / 3) 0

/-- Taylor series of exp: term, index, sum. -/
def expSum (x : Int) : Nat → Int → Int → Int → Int
  | 0, _, _, acc => acc
  | n + 1, k, t, acc =>
    let t' := fxMul t x / k
    expSum x n (k + 1) t' (acc + t')

/-- exp of a fixed-point number in [0, 1). -/
def fxExp (x : Int) : Int := expSum x 220 1 trOne trOne

/-- Taylor series of sin (start t = x, k = 1) or cos (start t = 1, k = 0). -/
def trigSum (x2 : Int) : Nat → Int → Int → Int → Int
  | 0, _, _, acc => acc
  | n + 1, k, t, acc =>
    let t' := -(fxMul t x2) / ((k + 1) * (k + 2))
    trigSum x2 n (k + 2) t' (acc + t')

/-- atanh series of z, doubled: log((1+z)/(1−z)). -/
def atanhSum (z2 : Int) : Nat → Int → Int → Int → Int
  | 0, _, _, acc => acc
  | n + 1, k, p, acc => atanhSum z2 n (k + 2) (fxMul p z2) (acc + p / k)

/-- erf series without the factor 2/√π. -/
def erfSum (x2 : Int) : Nat → Int → Int → Int → Int
  | 0, _, _, acc => acc
  | n + 1, k, t, acc =>
    let t' := -(fxMul t x2) / (k + 1)
    erfSum x2 n (k + 1) t' (acc + t' / (2 * (k + 1) + 1))

/-- A finite value in fixed point. -/
def fxOf (neg : Bool) (m : Nat) (e : Int) : Int := sInt neg (m * pow2 (e + trF))

/-- exp of a fixed-point number as mantissa (fixed point in [1, 2)) and exponent of two. -/
def fxExpFull (x : Int) : Int × Int :=
  let k := x / trLn2
  (fxExp (x - k * trLn2), k)

/-- A fixed-point number as an approximation with a tail. -/
def ofFx (x : Int) (k : Int) : Approx := ⟨decide (x < 0), x.natAbs, k - trF, true⟩

/-- log of a positive value m × 2^e in fixed point. -/
def fxLog (m : Nat) (e : Int) : Int :=
  let b : Int := bitLen m
  -- y = m / 2^b lies in [1/2, 1); below 3/4 it is doubled
  let low := decide (4 * m < 3 * 2 ^ bitLen m)
  let k : Int := e + b - (if low then 1 else 0)
  let y : Int := (m * pow2 (trF - b + (if low then 1 else 0)) : Nat)
  let z := (y - trOne) * trOne / (y + trOne)
  k * trLn2 + 2 * atanhSum (fxMul z z) 260 1 z 0

/-- Exact value (or a close magnitude with a tail) of a function at a finite non-special input (R86). -/
def trApprox (f : TFn) (neg : Bool) (m : Nat) (e : Int) : Approx :=
  let x := fxOf neg m e
  let exact1 (n : Bool) (a : Nat) (k : Int) : Approx := ⟨n, a, k, false⟩
  match f with
  | .exp =>
    if m = 0 then exact1 false 1 0
    else if magGt m e 128 0 then (if neg then ⟨false, 1, -400, true⟩ else ⟨false, 1, 400, true⟩)
    else let r := fxExpFull x; ofFx r.1 r.2
  | .exp2 =>
    if magGt m e 300 0 then (if neg then ⟨false, 1, -400, true⟩ else ⟨false, 1, 400, true⟩)
    else if 0 ≤ e ∨ m % pow2 (-e) = 0 then exact1 false 1 (x / trOne)
    else
      let k := x / trOne
      ofFx (fxExp (fxMul (x - k * trOne) trLn2)) k
  | .log =>
    if m = 2 ^ bitLen m / 2 ∧ e + (bitLen m : Int) = 1 then exact1 false 0 0
    else ofFx (fxLog m e) 0
  | .log2 =>
    if m = 2 ^ bitLen m / 2 then
      let k := e + (bitLen m : Int) - 1
      exact1 (decide (k < 0)) k.natAbs 0
    else ofFx (fxLog m e * trOne / trLn2) 0
  | .rcp =>
    let k := 200 + bitLen m
    ⟨neg, 2 ^ k / m, -e - k, 2 ^ k % m != 0⟩
  | .rsqrt =>
    let odd := e % 2 != 0
    let m1 := if odd then 2 * m else m
    let e1 := if odd then e - 1 else e
    let q := 2 ^ 400 / m1
    let r := isqrt q
    ⟨false, r, -200 - e1 / 2, 2 ^ 400 % m1 != 0 || r * r != q⟩
  | .sin | .cos =>
    let half := trPi / 2
    let n := (x + half / 2) / half
    let r := x - n * half
    let r2 := fxMul r r
    let s := trigSum r2 130 1 r r
    let c := trigSum r2 130 0 trOne trOne
    let q := (n + (if f = .cos then 1 else 0)) % 4
    if m = 0 then exact1 false 1 0
    else if q = 0 then ofFx s 0
    else if q = 1 then ofFx c 0
    else if q = 2 then ofFx (-s) 0
    else ofFx (-c) 0
  | .tanh =>
    if magGt m e 10 0 then ⟨neg, 2 ^ 60 - 1, -60, true⟩
    else
      let r := fxExpFull (2 * (if neg then -x else x))
      let v := r.1 * (pow2 r.2 : Nat)
      let t := (v - trOne) * trOne / (v + trOne)
      ⟨neg, t.natAbs, -(trF : Int), true⟩
  | .sigmoid =>
    if m = 0 then exact1 false 1 (-1)
    else if magGt m e 110 0 then (if neg then ⟨false, 1, -400, true⟩ else ⟨false, 2 ^ 60 - 1, -60, true⟩)
    else
      let r := fxExpFull (if neg then x else -x)
      let v := r.1 / (pow2 (-r.2) : Nat)
      let t := (if neg then v else trOne) * trOne / (trOne + v)
      ofFx t 0
  | .erf =>
    if magGt m e 6 0 then ⟨neg, 2 ^ 60 - 1, -60, true⟩
    else
      let a := if neg then -x else x
      let s := erfSum (fxMul a a) 420 0 a a
      let rootPi : Int := isqrt (trPi.toNat * 2 ^ trF)
      let t := 2 * s * trOne / rootPi
      ⟨neg, t.natAbs, -(trF : Int), true⟩

/-- Special values of R87, as FP32 codes; none for an input that has no entry there. -/
def trSpecial (f : TFn) (v : Val) : Option Nat :=
  let nan := 0x7FC00000
  let pinf := 0x7F800000
  let ninf := 0xFF800000
  match f, v with
  | _, .nan => some nan
  | .exp, .inf n => some (if n then 0 else pinf)
  | .exp2, .inf n => some (if n then 0 else pinf)
  | .log, .inf n => some (if n then nan else pinf)
  | .log2, .inf n => some (if n then nan else pinf)
  | .log, .fin n m _ => if m = 0 then some ninf else if n then some nan else none
  | .log2, .fin n m _ => if m = 0 then some ninf else if n then some nan else none
  | .rcp, .inf n => some (if n then 0x80000000 else 0)
  | .rcp, .fin n m _ => if m = 0 then some (if n then ninf else pinf) else none
  | .rsqrt, .inf n => some (if n then nan else 0)
  | .rsqrt, .fin n m _ => if m = 0 then some (if n then ninf else pinf) else if n then some nan else none
  | .sin, .inf _ => some nan
  | .cos, .inf _ => some nan
  | .sin, .fin n m _ => if m = 0 then some (if n then 0x80000000 else 0) else none
  | .tanh, .fin n m _ => if m = 0 then some (if n then 0x80000000 else 0) else none
  | .erf, .fin n m _ => if m = 0 then some (if n then 0x80000000 else 0) else none
  | .tanh, .inf n => some (if n then 0xBF800000 else 0x3F800000)
  | .erf, .inf n => some (if n then 0xBF800000 else 0x3F800000)
  | .sigmoid, .inf n => some (if n then 0 else 0x3F800000)
  | _, _ => none

/-- Whether the value of a code lies within 2 ulp of an approximation: `lo` is the code at or below it, whose ulp is that of the
exact result (R86). -/
def withinTwoUlp (a : Approx) (lo c : Nat) : Bool :=
  match decodeFloat fmtFP32 lo, decodeFloat fmtFP32 c with
  | .fin _ _ eu, .fin _ mc ec =>
    let base := min a.e (min eu ec)
    let scaled (m : Nat) (e : Int) : Int := ((m * 2 ^ (e - base).toNat : Nat) : Int)
    let d := scaled mc ec - scaled a.m a.e
    let u := scaled 2 eu
    if 0 ≤ d then decide (d ≤ u) else decide (-d < u) || (decide (-d = u) && !a.tail)
  | _, _ => false

/-- The codes within 2 ulp of an approximation, without sign (R86): below a power of two they stand twice as close. -/
def fastCodes (a : Approx) : List Nat :=
  let lo := roundMag fmtFP32 .zero a.m a.e false
  ((List.range 7).filterMap fun k => if 4 ≤ lo + k then some (lo + k - 4) else none).filter fun c =>
    decide (c ≤ fmtFP32.maxCode) && withinTwoUlp a lo c

/-- FP32 result of a transcendental: `fast` holds the firmware key when the fast set is in use (R86, R87). -/
def trFp32 (f : TFn) (fast : Option Nat) (x : BitVec 32) : Nat :=
  let v := decodeFloat fmtFP32 x.toNat
  match trSpecial f v with
  | some r => r
  | none =>
    match v with
    | .fin neg m e =>
      let a := trApprox f neg m e
      let ref := encodeIeee fmtFP32 .near a.neg a.m a.e a.tail
      match fast with
      | none => ref
      | some key =>
        if roundMag fmtFP32 .near a.m a.e a.tail > fmtFP32.maxCode then ref
        else
          let cs := fastCodes a
          let n := match f with
            | .exp => 0 | .exp2 => 1 | .log => 2 | .log2 => 3 | .rcp => 4 | .rsqrt => 5
            | .sin => 6 | .cos => 7 | .tanh => 8 | .sigmoid => 9 | .erf => 10
          withSign fmtFP32 a.neg (cs.getD (Config.fastPick key n x % cs.length) 0)
    | _ => 0x7FC00000

end Sys2Proof.Machine
end

