-- ==== Sys2Proof/Machine/Vector.lean ====
section
/-! DEFINITION. The V slot (06 R155 to R162). -/

namespace Sys2Proof.Machine

/-- A binary operation on floats by exact value, or on 32-bit integers. -/
def arith (type : BitVec 4) (fl : Val → Val → Val) (int : Nat → Nat → Nat) (_l a b _c : Nat) : Nat :=
  if type = 10 then int a b % 2 ^ 32
  else encVal (laneFmt type) (fl (decodeElem type a) (decodeElem type b))

/-- A signed integer as a 32-bit field. -/
def ofS32 (i : Int) : Nat := (i % (2 ^ 32 : Int)).toNat

/-- A signed integer saturated to 32 bits (R155). -/
def satS32 (i : Int) : Nat :=
  if i > 2147483647 then 2147483647 else if i < -2147483648 then 2147483648 else ofS32 i

def use2 : VUse := { vb := true }

/-- ADD (R155). -/
def execAdd (i : Issue) (f : VecF) (s : State) : Out :=
  .next (runV i (vBits use2 allTypes f) noOcc (laneOp f (addLat f.type) (arith f.type addVal (· + ·)) 2) s)
/-- SUB (R155). -/
def execSub (i : Issue) (f : VecF) (s : State) : Out :=
  .next (runV i (vBits use2 allTypes f) noOcc
    (laneOp f (addLat f.type) (arith f.type (fun a b => addVal a (negVal b)) (fun a b => a + 2 ^ 32 - b)) 2) s)
/-- MUL (R155). -/
def execMul (i : Issue) (f : VecF) (s : State) : Out :=
  .next (runV i (vBits use2 allTypes f) noOcc
    (laneOp f (if f.type = 10 then 4 else addLat f.type) (arith f.type mulVal (· * ·)) 2) s)

/-- Fused multiply-add, rounded once (R84). -/
def fmaLane (type : BitVec 4) (_l a b c : Nat) : Nat :=
  encVal (laneFmt type) (addVal (mulVal (decodeElem type a) (decodeElem type b)) (decodeElem type c))

/-- FMA (R155). -/
def execFma (i : Issue) (f : VecF) (s : State) : Out :=
  .next (runV i (vBits { vb := true, vc := true } floatTypes f) noOcc (laneOp f (addLat f.type) (fmaLane f.type) 3) s)
/-- MIN (R84, R155). -/
def execMin (i : Issue) (f : VecF) (s : State) : Out :=
  .next (runV i (vBits use2 allTypes f) noOcc (laneOp f (addLat f.type)
    (arith f.type minVal (fun a b => if signedOf 32 a ≤ signedOf 32 b then a else b)) 2) s)
/-- MAX (R84, R155). -/
def execMax (i : Issue) (f : VecF) (s : State) : Out :=
  .next (runV i (vBits use2 allTypes f) noOcc (laneOp f (addLat f.type)
    (arith f.type maxVal (fun a b => if signedOf 32 a ≤ signedOf 32 b then b else a)) 2) s)

/-- ABS of a lane: a NaN gives the canonical NaN; I32 saturates (R84, R155). -/
def absLane (type : BitVec 4) (_l a _b _c : Nat) : Nat :=
  if type = 10 then satS32 (signedOf 32 a).natAbs
  else if isNanVal (decodeElem type a) then (laneFmt type).nanCode
  else a % 2 ^ ((laneFmt type).width - 1)

/-- NEG of a lane: a NaN gives the canonical NaN; I32 wraps (R84, R155). -/
def negLane (type : BitVec 4) (_l a _b _c : Nat) : Nat :=
  if type = 10 then (2 ^ 32 - a) % 2 ^ 32
  else if isNanVal (decodeElem type a) then (laneFmt type).nanCode
  else (a + 2 ^ ((laneFmt type).width - 1)) % 2 ^ (laneFmt type).width

/-- ABS (R155). -/
def execAbs (i : Issue) (f : VecF) (s : State) : Out :=
  .next (runV i (vBits {} allTypes f) noOcc (laneOp f (addLat f.type) (absLane f.type) 1) s)
/-- NEG (R155). -/
def execNeg (i : Issue) (f : VecF) (s : State) : Out :=
  .next (runV i (vBits {} allTypes f) noOcc (laneOp f (addLat f.type) (negLane f.type) 1) s)
/-- ADDS (R155). -/
def execAdds (i : Issue) (f : VecF) (s : State) : Out :=
  .next (runV i (vBits use2 [10] f) noOcc
    (laneOp f 2 (fun _ a b _ => satS32 (signedOf 32 a + signedOf 32 b)) 2) s)
/-- AND (R155). -/
def execAnd (i : Issue) (f : VecF) (s : State) : Out :=
  .next (runV i (vBits use2 allTypes f) noOcc (laneOp f 2 (fun _ a b _ => a &&& b) 2) s)
/-- OR (R155). -/
def execOr (i : Issue) (f : VecF) (s : State) : Out :=
  .next (runV i (vBits use2 allTypes f) noOcc (laneOp f 2 (fun _ a b _ => a ||| b) 2) s)
/-- XOR (R155). -/
def execXor (i : Issue) (f : VecF) (s : State) : Out :=
  .next (runV i (vBits use2 allTypes f) noOcc (laneOp f 2 (fun _ a b _ => a ^^^ b) 2) s)
/-- SHL (R155). -/
def execShl (i : Issue) (f : VecF) (s : State) : Out :=
  .next (runV i (vBits { imm := 0x1F } [10] f) noOcc
    (laneOp f 2 (fun _ a _ _ => a * 2 ^ (f.imm.toNat % 32) % 2 ^ 32) 1) s)
/-- SHR (R155). -/
def execShr (i : Issue) (f : VecF) (s : State) : Out :=
  .next (runV i (vBits { imm := 0x1F, func := 1 } [10] f) noOcc
    (laneOp f 2 (fun _ a _ _ =>
      if f.func.getLsbD 0 then ofS32 (signedOf 32 a / (2 ^ (f.imm.toNat % 32) : Nat)) else a / 2 ^ (f.imm.toNat % 32)) 1) s)

/-- The mask that a CMP writes (R157). -/
def cmpMask (f : VecF) (a b : BitVec 8192) (km : BitVec 512) : BitVec 512 :=
  let w := laneBits f.type
  BitVec.ofNat 512 ((List.range (laneCount f.type)).foldl (fun (acc : Nat) l =>
    if km.getLsbD l && cmpLane f.type (f.func.toNat % 8) (field w a.toNat l) (field w b.toNat l) then acc + 2 ^ l else acc) 0)

/-- The predicate that a CMP writes: any lane, or every lane that km leaves on (R157). -/
def cmpPred (f : VecF) (m km : BitVec 512) : Bool :=
  let on := if laneCount f.type = 512 then km else km &&& BitVec.ofNat 512 (2 ^ 256 - 1)
  if f.imm.getLsbD 4 then m &&& on == on else m != 0

/-- CMP (R157). -/
def execCmp (i : Issue) (f : VecF) (s : State) : Out :=
  let kd : BitVec 3 := (f.func >>> 3).setWidth 3
  .next (runV i (vBits { vd := false, vb := true, func := 0x3F, imm := 0x1F } allTypes f ++
      [(0x01, f.func.toNat % 8 == 7), (0x11, f.imm.getLsbD 3 && f.imm.toNat % 8 == 0), (0x22, kd == 0)]) noOcc
    (fun s c =>
      let b := s.block c.bix
      let s := hazMask c (hazVec c (hazVec c s f.va) f.vb) f.km
      let km := b.mask f.km
      let m := cmpMask f (b.vreg f.va) (b.vreg f.vb) km
      s.updBlock c.bix fun b =>
        let b := { b with mpend := b.mpend ++ [⟨c.t + 2, c.t, kd, m, c.addr⟩] }
        if f.imm.getLsbD 3 then b.putPred (c.t + 2) c.t (f.imm.setWidth 3) (cmpPred f m km) c.addr else b) s)

/-- SEL (R155). -/
def execSel (i : Issue) (f : VecF) (s : State) : Out :=
  .next (runV i (vBits { vb := true, func := 7 } allTypes f) noOcc
    (fun s c =>
      let kb := (s.block c.bix).mask (f.func.setWidth 3)
      laneOp f 2 (fun l a b _ => if kb.getLsbD l then a else b) 2 (hazMask c s (f.func.setWidth 3)) c) s)
/-- MOV (R155). -/
def execMov (i : Issue) (f : VecF) (s : State) : Out :=
  .next (runV i (vBits {} allTypes f) noOcc (laneOp f 1 (fun _ a _ _ => a) 1) s)

/-- The immediate that MOVI broadcasts (R155). -/
def moviLane (f : VecF) : Nat :=
  match f.type.toNat with
  | 9 => f.imm.toNat * 65536
  | 10 => ofS32 f.imm.toInt
  | _ => f.imm.toNat

/-- MOVI (R155). -/
def execMovi (i : Issue) (f : VecF) (s : State) : Out :=
  .next (runV i (vBits { va := false, imm := 0xFFFF } allTypes f) noOcc (laneOp f 1 (fun _ _ _ _ => moviLane f) 0) s)
/-- IOTA (R155). -/
def execIota (i : Issue) (f : VecF) (s : State) : Out :=
  .next (runV i (vBits { va := false, imm := 0xFFFF } [10] f) noOcc
    (laneOp f 1 (fun l _ _ _ => ofS32 ((l : Int) + f.imm.toInt)) 0) s)
/-- PERM (R155). -/
def execPerm (i : Issue) (f : VecF) (s : State) : Out :=
  .next (runV i (vBits use2 allTypes f) noOcc
    (fun s c =>
      let a := ((s.block c.bix).vreg f.va).toNat
      laneOp f 4 (fun _ _ x _ => field (laneBits f.type) a (x % laneCount f.type)) 2 s c) s)

/-- KLOGIC (R157). -/
def execKlogic (i : Issue) (f : VecF) (s : State) : Out :=
  let ka : BitVec 3 := f.func.setWidth 3
  let kb : BitVec 3 := (f.func >>> 3).setWidth 3
  let kd : BitVec 3 := f.imm.setWidth 3
  .next (runV i ([(0x01, vUnused { vd := false, va := false, type := false, km := false, func := 0x3F, imm := 0x37 } f),
      (0x22, kd == 0)]) noOcc
    (fun s c =>
      let b := s.block c.bix
      let s := hazMask c (hazMask c s ka) kb
      let x := b.mask ka
      let y := b.mask kb
      let v := match f.imm.toNat / 16 % 4 with
        | 0 => x &&& y | 1 => x ||| y | 2 => x ^^^ y | _ => x &&& ~~~y
      s.updBlock c.bix fun b => { b with mpend := b.mpend ++ [⟨c.t + 1, c.t, kd, v, c.addr⟩] }) s)

/-- DIV (R84, R155). -/
def execDiv (i : Issue) (f : VecF) (s : State) : Out :=
  .next (runV i (vBits use2 floatTypes f) (fun _ _ => if f.type = 9 then 4 else 8)
    (laneOp f 16 (fun _ a b _ => divFloat (laneFmt f.type) (decodeElem f.type a) (decodeElem f.type b)) 2) s)
/-- SQRT (R84, R155). -/
def execSqrt (i : Issue) (f : VecF) (s : State) : Out :=
  .next (runV i (vBits {} floatTypes f) (fun _ _ => if f.type = 9 then 4 else 8)
    (laneOp f 16 (fun _ a _ _ => sqrtFloat (laneFmt f.type) (decodeElem f.type a)) 1) s)

/-! ### Transcendentals (R86, R87, R158) -/

/-- Whether a partition uses the reference set (R86). -/
def refSetOf (s : State) (pid : Nat) : Bool :=
  match s.part pid with | some p => p.negative.refSet || p.negative.fixed | none => true

/-- Latency and occupancy by set and type (R158). -/
def trTiming (ref : Bool) (type : BitVec 4) : Nat × Nat :=
  if ref then (if type = 7 then (49, 8) else (48, 4)) else (if type = 7 then (13, 2) else (12, 1))

/-- One lane of a transcendental: a BF16 result is the FP32 result rounded once more (R86, R158). -/
def trLane (fn : TFn) (fast : Option Nat) (type : BitVec 4) (a : Nat) : Nat :=
  if type = 7 then encVal fmtBF16 (decodeFloat fmtFP32 (trFp32 fn fast (BitVec.ofNat 32 (a * 65536))))
  else trFp32 fn fast (BitVec.ofNat 32 a)

/-- A transcendental operation (R158). -/
def runTr (fn : TFn) (i : Issue) (f : VecF) (s : State) : State :=
  runV i (vBits {} [7, 9] f) (fun s c => (trTiming (refSetOf s c.pid) f.type).2)
    (fun s c =>
      let ref := refSetOf s c.pid
      let fast := if ref then none else some s.firmware
      laneOp f (trTiming ref f.type).1 (fun _ a _ _ => trLane fn fast f.type a) 1 s c) s

/-- EXP (R86, R158). -/
def execExp (i : Issue) (f : VecF) (s : State) : Out := .next (runTr .exp i f s)
/-- EXP2 (R86, R158). -/
def execExp2 (i : Issue) (f : VecF) (s : State) : Out := .next (runTr .exp2 i f s)
/-- LOG (R86, R158). -/
def execLog (i : Issue) (f : VecF) (s : State) : Out := .next (runTr .log i f s)
/-- LOG2 (R86, R158). -/
def execLog2 (i : Issue) (f : VecF) (s : State) : Out := .next (runTr .log2 i f s)
/-- RCP (R86, R158). -/
def execRcp (i : Issue) (f : VecF) (s : State) : Out := .next (runTr .rcp i f s)
/-- RSQRT (R86, R158). -/
def execRsqrt (i : Issue) (f : VecF) (s : State) : Out := .next (runTr .rsqrt i f s)
/-- SIN (R86, R158). -/
def execSin (i : Issue) (f : VecF) (s : State) : Out := .next (runTr .sin i f s)
/-- COS (R86, R158). -/
def execCos (i : Issue) (f : VecF) (s : State) : Out := .next (runTr .cos i f s)
/-- TANH (R86, R158). -/
def execTanh (i : Issue) (f : VecF) (s : State) : Out := .next (runTr .tanh i f s)
/-- SIGMOID (R86, R158). -/
def execSigmoid (i : Issue) (f : VecF) (s : State) : Out := .next (runTr .sigmoid i f s)
/-- ERF (R86, R158). -/
def execErf (i : Issue) (f : VecF) (s : State) : Out := .next (runTr .erf i f s)

/-! ### Conversions (R85, R159, R524) -/

/-- Bits of an element that a conversion reads or writes. -/
def cvtBits (fmt : BitVec 4) : Nat := if fmt = 5 ∨ fmt = 6 then 8 else if fmt = 7 ∨ fmt = 8 then 16 else 32

/-- Lanes of a conversion (R159). -/
def cvtLanes (a b : BitVec 4) : Nat := if 8 < a.toNat ∨ 8 < b.toNat then 256 else 512

/-- One converted element and whether it was clipped (R85, R524). -/
def cvtElem (src dst : BitVec 4) (r : Rnd) (x : Nat) : Nat × Bool :=
  let v := decodeElem src x
  if dst = 10 then (if src = 10 then (x, false) else encodeInt 32 (2 ^ 31) (2 ^ 31 - 1) r v)
  else if dst = 9 then (encVal fmtFP32 v, false)
  else encodeSat (laneFmt dst) r v

/-- Formats that CVT accepts on either side (R159). -/
def cvtFormats : List Nat := [5, 6, 7, 8, 9, 10]

/-- A conversion of lanes under a mask: writes the packed elements and counts the clips. -/
def cvtLanesOp (f : VecF) (latency : Nat) (rnd : Nat → Rnd) (s : State) (c : Ctx) : State :=
  let src : BitVec 4 := f.func.setWidth 4
  let b := s.block c.bix
  let s := hazMask c (hazVec c s f.va) f.km
  let mask := b.mask f.km
  let n := cvtLanes src f.type
  let a := (b.vreg f.va).toNat
  let rs := (List.range n).map fun l =>
    if mask.getLsbD l then cvtElem src f.type (rnd l) (field (cvtBits src) a l) else (0, false)
  let s := putVec s c (c.t + latency) f.vd (packFields (cvtBits f.type) (rs.map (·.1))) (laneEnables n (cvtBits f.type / 8) mask)
  countClips s c (rs.filter (·.2)).length

/-- CVT (R159). -/
def execCvt (i : Issue) (f : VecF) (s : State) : Out :=
  let src := f.func.toNat % 16
  .next (runV i [(0x01, vUnused { func := 0x0F, imm := 1 } f || (f.imm.getLsbD 0 && f.type != 10)),
      (0x02, decide (10 < f.type.toNat ∨ 10 < src)),
      (0x20, !(cvtFormats.contains f.type.toNat && cvtFormats.contains src))] noOcc
    (cvtLanesOp f 4 (fun _ => if f.imm.getLsbD 0 then .zero else .near)) s)

/-- Advance the draw counter by 256 elements (R161). -/
def advanceDraw (s : State) (c : Ctx) : State :=
  s.updBlock c.bix fun b => { b with draw := b.draw + 256 }

/-- Grain word w for a lane of a counter-based draw (R161). -/
def drawWord (s : State) (c : Ctx) (w l : Nat) : BitVec 32 :=
  match s.part c.pid with
  | some p => grainWord p c.lg ((s.block c.bix).draw.toNat + l) w
  | none => 0

/-- CVT.SR (R159, R161). -/
def execCvtSr (i : Issue) (f : VecF) (s : State) : Out :=
  let src := f.func.toNat % 16
  .next (runV i [(0x01, vUnused { func := 0x0F, imm := 3 } f), (0x02, decide (10 < f.type.toNat ∨ 10 < src)),
      (0x20, !(src == 9 && [5, 6, 7, 8].contains f.type.toNat))] (fun _ _ => 1)
    (fun s c => advanceDraw (cvtLanesOp f 16 (fun l => .stoch (drawWord s c (f.imm.toNat % 4) l)) s c) c) s)

/-- Pack the fields of one block of 32 elements (R63). -/
def packBlock (fmt : BitVec 4) (xs : List Nat) : Nat :=
  packFields (match fmt.toNat with | 0 => 4 | 1 => 4 | 2 => 3 | _ => 8) xs

/-- Pack base-3 digits, five to a byte (R64). -/
def packT2 : Nat → List Nat → List Nat
  | 0, _ => []
  | n + 1, ds =>
    (ds.getD 0 0 + 3 * ds.getD 1 0 + 9 * ds.getD 2 0 + 27 * ds.getD 3 0 + 81 * ds.getD 4 0) :: packT2 n (ds.drop 5)

/-- Element bytes and scale bytes that QUANT writes and DEQ reads: for T2 one group of g blocks (R159). -/
def quantSizes (fmt : BitVec 4) (g : Nat) : Nat × Nat :=
  if fmt = 3 then (t2Bytes g, g) else (8 * rowBytes fmt 1, 8)

/-- Byte enables for `n` bytes from byte `o`. -/
def byteRange (o n : Nat) : BitVec 1024 := BitVec.ofNat 1024 ((2 ^ n - 1) * 2 ^ o)

/-- Offsets past a register, or a T2 group size outside 1 to 5 (cause 0x24). -/
def quantOffsetsBad (fmt : BitVec 4) (f : VecF) : Bool :=
  let g := f.imm.toNat / 256 % 8
  let z := quantSizes fmt g
  decide (1024 < 32 * (f.imm.toNat % 256) + z.1) || decide (1024 < 8 * (f.func.toNat / 16) + z.2) ||
    (fmt == 3 && (g == 0 || decide (5 < g)))

/-- QUANT on the blocks of a register (R66, R159): element bytes, scale bytes, clips. The rule does not say what the unused
digits of the last byte of a partial T2 group hold: they are free (R64; DESIGN CHOICE, entry 129). -/
def quantRegs (s : State) (c : Ctx) (f : VecF) (fmt : BitVec 4) : Nat × Nat × Nat :=
  let b := s.block c.bix
  let g := f.imm.toNat / 256 % 8
  let n := if fmt = 3 then g else 8
  let a := (b.vreg f.va).toNat
  let rnd (l : Nat) : Rnd := if f.imm.getLsbD 11 then .stoch (drawWord s c (f.imm.toNat / 4096 % 4) l) else .near
  let qs := (List.range n).map fun k =>
    quantBlock fmt ((List.range 32).map fun j => decodeFloat fmtFP32 (field 32 a (32 * k + j)))
      ((List.range 32).map fun j => rnd (32 * k + j))
  let elems := if fmt = 3 then
      let tail := (List.range 5).map fun k => Config.freeBits s.free k % 3
      packFields 8 (packT2 (t2Bytes g) (qs.flatMap (·.2.1) ++ tail))
    else packFields (8 * rowBytes fmt 1) (qs.map fun q => packBlock fmt q.2.1)
  (elems, packFields 8 (qs.map fun q => q.1.toNat), qs.foldl (fun acc q => acc + q.2.2) 0)

/-- QUANT (R66, R159). Where vd is vc and the two byte ranges meet, the rule does not say which bytes are kept: here the
scale bytes are (DESIGN CHOICE, entry 131). -/
def execQuant (i : Issue) (f : VecF) (s : State) : Out :=
  let fmt : BitVec 4 := f.func.setWidth 4
  let st := f.imm.getLsbD 11
  .next (runV i [(0x01, vUnused { vc := true, type := false, km := false, func := 0xFF, imm := 0x3FFF } f),
      (0x02, decide (10 < fmt.toNat)), (0x20, decide (4 < fmt.toNat)), (0x24, quantOffsetsBad fmt f)]
    (fun _ _ => boolNat st)
    (fun s c =>
      let s := hazVec c s f.va
      let r := quantRegs s c f fmt
      let z := quantSizes fmt (f.imm.toNat / 256 % 8)
      let due := c.t + (if st then 16 else 8)
      let eo := 32 * (f.imm.toNat % 256)
      let so := 8 * (f.func.toNat / 16)
      let s := putVec s c due f.vd (r.1 * 2 ^ (8 * eo)) (byteRange eo z.1)
      let s := putVec s c due f.vc (r.2.1 * 2 ^ (8 * so)) (byteRange so z.2)
      let s := countClips s c r.2.2
      let s := if fmt = 3 then { s with free := s.free + 1 } else s
      if st then advanceDraw s c else s) s)

/-- DEQ of one block: FP32 codes and clips; a poisoned block gives NaN (R65, R85). -/
def deqBlock (fmt : BitVec 4) (row : Bytes) (j : Nat) (scale : Byte) : List (Nat × Bool) :=
  let vs := (List.range 32).map fun n => decodeElem fmt (rowElem fmt row j n)
  let special (v : Val) : Bool := match v with | .fin _ _ _ => false | _ => true
  if scale == 0xFF || vs.any special || (fmt == 3 && (t2BlockBytes row j).any t2Bad) then
    vs.map fun _ => (fmtFP32.nanCode, false)
  else vs.map fun v => encodeSat fmtFP32 .near (scaleVal v (scaleExp scale))

/-- Bytes o to o + n − 1 of a register. -/
def regBytes (v : BitVec 8192) (o n : Nat) : Bytes := leBytes n (v.toNat / 2 ^ (8 * o))

/-- DEQ (R85, R159). -/
def execDeq (i : Issue) (f : VecF) (s : State) : Out :=
  let fmt : BitVec 4 := f.func.setWidth 4
  .next (runV i [(0x01, vUnused { vb := true, type := false, km := false, func := 0xFF, imm := 0x7FF } f),
      (0x02, decide (10 < fmt.toNat)), (0x20, decide (6 < fmt.toNat)), (0x24, quantOffsetsBad fmt f)] noOcc
    (fun s c =>
      let b := s.block c.bix
      let s := hazVec c (hazVec c s f.va) f.vb
      let g := f.imm.toNat / 256 % 8
      let z := quantSizes fmt g
      let bytes := regBytes (b.vreg f.va) (32 * (f.imm.toNat % 256)) z.1
      let scales := regBytes (b.vreg f.vb) (8 * (f.func.toNat / 16)) z.2
      let es := if fmt = 3 then (List.range g).flatMap fun j => deqBlock fmt bytes j (scales.getD j 0)
        else ((chunks (rowBytes fmt 1) 8 bytes).zip scales).flatMap fun p => deqBlock fmt p.1 0 p.2
      let s := putVec s c (c.t + 4) f.vd (packFields 32 (es.map (·.1))) (byteRange 0 (4 * es.length))
      countClips s c (es.filter (·.2)).length) s)

/-! ### Reductions and draws -/

/-- FP32 code of a lane widened exactly (R88). -/
def widen (type : BitVec 4) (x : Nat) : Nat := if type = 9 then x else encVal fmtFP32 (decodeElem type x)

/-- A lane reduction (R88, R160). -/
def runReduce (op : Val → Val → Val) (ident : Nat) (i : Issue) (f : VecF) (s : State) : State :=
  runV i (vBits {} floatTypes f) noOcc
    (fun s c =>
      let b := s.block c.bix
      let s := hazMask c (hazVec c s f.va) f.km
      let mask := b.mask f.km
      let n := laneCount f.type
      let a := (b.vreg f.va).toNat
      let xs := (List.range n).map fun l =>
        if mask.getLsbD l then some (widen f.type (field (laneBits f.type) a l)) else none
      let op32 (x y : Nat) : Nat := encVal fmtFP32 (op (decodeFloat fmtFP32 x) (decodeFloat fmtFP32 y))
      let r := (laneReduce op32 (if n = 256 then 8 else 9) xs).getD ident
      putVec s c (c.t + (if n = 256 then 36 else 40)) f.vd (packFields 32 (List.replicate 256 r)) (laneEnables 256 4 mask)) s

/-- RSUM (R160). -/
def execRsum (i : Issue) (f : VecF) (s : State) : Out := .next (runReduce addVal 0 i f s)
/-- RMAX (R160). -/
def execRmax (i : Issue) (f : VecF) (s : State) : Out := .next (runReduce maxVal 0xFF800000 i f s)
/-- RMIN (R160). -/
def execRmin (i : Issue) (f : VecF) (s : State) : Out := .next (runReduce minVal 0x7F800000 i f s)

/-- DRAW (R93, R161). -/
def execDraw (i : Issue) (f : VecF) (s : State) : Out :=
  let reg := f.imm.getLsbD 10
  let w := f.imm.toNat / 256 % 4
  .next (runV i (vBits { imm := 0x7FF } [9, 10] f) (fun _ _ => 1)
    (fun s c =>
      let word (l a : Nat) : BitVec 32 :=
        if reg then (match s.part c.pid with
          | some p => grainWord p c.lg (a + (f.imm.toNat % 256) * 2 ^ 32) w
          | none => 0)
        else drawWord s c w l
      let t := laneOp f 14 (fun l a _ _ => if f.type = 9 then uniformOf (word l a) else (word l a).toNat) (boolNat reg) s c
      if reg then t else advanceDraw t c) s)

/-! ### Loads and stores (R162) -/

/-- Cells of an LD or ST mask, none for a mask that is neither one cell nor all four. -/
def ldCells (m : BitVec 4) : Option (List Nat) :=
  match m.toNat with
  | 15 => some [0, 1, 2, 3]
  | 1 => some [0] | 2 => some [1] | 4 => some [2] | 8 => some [3]
  | _ => none

/-- Offset of an LD or ST in the cell store. -/
def ldOff (s : State) (c : Ctx) (f : LdStF) : Nat := (arOf (arNow (s.block c.bix) c.t) f.ar).toNat + 256 * f.off.toNat

/-- The due port F accesses of an LD or ST (R102, R162). -/
def ldDue (t off : Nat) (cells : List Nat) (read : Bool) : List DueAcc :=
  match cells with
  | [k] => (List.range 4).map fun u => ⟨t + u, BitVec.ofNat 2 k, off + 256 * u, read⟩
  | ks => ks.map fun k => ⟨t, BitVec.ofNat 2 k, off, read⟩

/-- A due access that shares a cell and a cycle with one already claimed (cause 0x2C). -/
def dueClash (b : Block) (ds : List DueAcc) : Bool :=
  ds.any fun d => b.due.any fun x => x.cell == d.cell && x.cycle == d.cycle

/-- Checks of an LD or ST at issue (R162, R183). -/
def ldChecks (f : LdStF) (read : Bool) (s : State) (c : Ctx) : List (Nat × Bool) :=
  let off := ldOff s c f
  match ldCells f.cells with
  | none => [(0x23, true)]
  | some ks =>
    let len := if ks.length = 1 then 1024 else 256
    [(0x23, off % 256 != 0 || decide (0x100000 < off + len)), (0x2C, dueClash (s.block c.bix) (ldDue c.t off ks read))]

/-- Claim port F for due accesses (R102). -/
def claimDue (s : State) (c : Ctx) (ds : List DueAcc) : State :=
  s.updBlock c.bix fun b => { b with due := b.due ++ ds, perf := { b.perf with portF := b.perf.portF + ds.length } }

/-- The check outcome of a load from several cells falls on one of them: which one is a free choice (R120, entry 127). -/
def loadEcc (s : State) (c : Ctx) (ks : List Nat) (off : Nat) (rd : Ecc) : State :=
  if rd = .good then s
  else
    let d := s.draw 2 13
    cellEcc d.2 c.pid (4 * c.bix + ks.getD (d.1 % Nat.max 1 ks.length) 0) off rd c.t

/-- The reads of a load from all four cells in its issue cycle: the state after their faults, and whether all deliver data
(R99, R100). -/
def loadReads (s : State) (c : Ctx) (ks : List Nat) (off : Nat) : State × Bool :=
  ks.foldl (fun (acc : State × Bool) k =>
    match dueReadFails acc.1 c.bix (BitVec.ofNat 2 k) off c.t with
    | some e => (raiseReadFail acc.1 c.pid c.bix (BitVec.ofNat 2 k) c.t e, false)
    | none => acc) (s, true)

/-- LD (R162): a read that fails delivers no data. -/
def execLd (i : Issue) (f : LdStF) (rd : Ecc) (s : State) : Out :=
  .next (runSlot s i 3 false [] (ldChecks f true)
    (fun s c =>
      let off := ldOff s c f
      let ks := (ldCells f.cells).getD []
      let s := claimDue s c (ldDue c.t off ks true)
      let s := loadEcc s c ks off rd
      match ks with
      | [k] =>
        let s := hazRead s c (cellBase (4 * c.bix + k) + off) 1024 c.t true
        let s := hazDouble c (c.t + 9) s f.vd
        s.updBlock c.bix fun b => { b with
          loads := b.loads ++ [⟨f.vd, 4 * c.bix + k, off, c.t, [], c.addr, decide (rd = .uncorrectable)⟩] }
      | _ =>
        let r := loadReads s c ks off
        let s := ks.foldl (fun s k => hazRead s c (cellBase (4 * c.bix + k) + off) 256 c.t) r.1
        let bs := ks.flatMap fun k => s.readMem (cellBase (4 * c.bix + k) + off) 256
        if r.2 && decide (rd ≠ .uncorrectable) then putVec s c (c.t + 6) f.vd (leNat bs) (BitVec.allOnes 1024) else s) skipNone)

/-- ST (R162). -/
def execSt (i : Issue) (f : LdStF) (s : State) : Out :=
  .next (runSlot s i 3 false [] (ldChecks f false)
    (fun s c =>
      let off := ldOff s c f
      let ks := (ldCells f.cells).getD []
      let s := claimDue (hazVec c s f.vd) c (ldDue c.t off ks false)
      let v := (s.block c.bix).vreg f.vd
      let ws : List TimedWrite := match ks with
        | [k] => [⟨c.t + 9, c.t, cellBase (4 * c.bix + k) + off, regBytes v 0 1024, c.addr, 0⟩]
        | _ => ks.map fun k => ⟨c.t + 6, c.t, cellBase (4 * c.bix + k) + off, regBytes v (256 * k) 256, c.addr, 0⟩
      let s := ws.foldl (fun s w => hazWrite s c w.addr w.data.length) s
      let s := s.updBlock c.bix fun b => { b with timed := b.timed ++ ws }
      ws.foldl (fun s w => hazTrack s c w.addr) s) skipNone)

/-- A write-buffer line is granted its bank in a cycle and written (R99, R120). -/
def execWriteBufferDrain (part block : Nat) (_cell : BitVec 2) (_bank : BitVec 4) (cycle : Nat) (s : State) : Out :=
  .next (passTo s part block (cycle + 1))

/-- The block arbiter wakes the gated owner of port F of a cell: its first unit is served in the third cycle of its
grant (R104). -/
def execArbiterWake (part block : Nat) (cell : BitVec 2) (cycle : Nat) (s : State) : Out :=
  .next (match runningBlock s part block with
    | none => s
    | some bix =>
      let s := passTo s part block cycle
      let b := s.block bix
      match pfBest (b.pf.filter fun r => r.cell == cell && r.live cycle) with
      | none => s
      | some o => s.setBlock bix { b with pf := b.pf.map fun r =>
          if r.issue == o.issue && r.kind == o.kind && r.dst == o.dst && decide (r.done = 0) then
            { r with ready := Nat.max r.ready (cycle + 1) } else r })

end Sys2Proof.Machine
end

