-- ==== Sys2Proof/Machine/Stream.lean ====
section
/-! DEFINITION. The S slot (06 R163 to R169): copies between the stores, copies between regions and HBM streams. -/

namespace Sys2Proof.Machine

/-- Whether a stream port still carries a copy (R164). -/
def portBusy (s : State) (c : Ctx) (port : BitVec 2) : Bool :=
  decide (c.t < fmGetD (s.block c.bix).portFree port.toNat 0)

/-- A store offset of a copy: the address register as it stands in the issue cycle. -/
def arVal (s : State) (c : Ctx) (ar : BitVec 4) : Nat := (arOf (arNow (s.block c.bix) c.t) ar).toNat

/-- A range that is misaligned or runs past its store (R164). -/
def badRange (off bytes limit : Nat) : Bool := off % 256 != 0 || decide (limit < off + bytes)

/-- Checks of a copy between region store and cell store (R164, R183). -/
def copyChecks (f : CopyF) (s : State) (c : Ctx) : List (Nat × Bool) :=
  [(0x25, portBusy s c f.port),
   (0x26, badRange (arVal s c f.arC) (256 * f.n.toNat) 0x100000 || badRange (arVal s c f.arR) (256 * f.n.toNat) 0x20000000)]

/-- Post-increments of a copy (R163). -/
def copyIncs (f : CopyF) : List (BitVec 4 × Nat) :=
  if f.inc then [(f.arC, 256 * f.n.toNat), (f.arR, 256 * f.n.toNat)] else []

/-- Hold a stream port until the stated completion (R164). -/
def Block.takePort (b : Block) (port : BitVec 2) (upto : Nat) : Block :=
  { b.until upto with portFree := fmSet b.portFree port.toNat upto }

/-- One S-slot copy more has issued (19 R503). -/
def Block.countCopy (b : Block) : Block := { b with perf := { b.perf with copies := b.perf.copies + 1 } }

/-- A copy issues: its port is held, and its requests are filed at port F of its cell and at the region arbiter (R110,
R111, R164, entry 127). -/
def startCopy (kind : PfKind) (f : CopyF) (rd : Ecc) (s : State) (c : Ctx) : State :=
  let n := f.n.toNat
  let cellA := cellBase (4 * c.bix + f.cell.toNat) + arVal s c f.arC
  let regA := regionBase (c.bix / 6) + arVal s c f.arR
  let toCell := decide (kind = .copyRc)
  let stated := if n = 0 then c.t + 1 else c.t + 40 + n
  let src := if toCell then regA else cellA
  let dst := if toCell then cellA else regA
  let s := if n = 0 then s else if toCell then s.regionEcc c.pid (c.bix / 6) (c.lg / 6) rd c.t
    else cellEcc s c.pid (4 * c.bix + f.cell.toNat) (arVal s c f.arC) rd c.t
  let s := hazWrite (hazRead s c src (256 * n) (if toCell then c.t + 2 else c.t + 1) true) c dst (256 * n)
  let s := s.updBlock c.bix fun b => ((b.takePort f.port stated).postInc c.t c.pred true (copyIncs f)).countCopy
  if n = 0 then s
  else
    let q : PfReq := {
      kind := kind, cell := f.cell, d := if toCell then c.t + 36 else c.t + 12, rank := 2,
      ready := if toCell then c.t + 12 else c.t, total := n, done := 0, src := src, dst := dst, issue := c.t, stated := stated,
      turn := 0, owner := false, writer := c.addr, tag := 0, idx := f.port.toNat }
    let g : RsReq := {
      kind := if toCell then .copyRead else .copyWrite, rank := 0, idx := 4 * (c.bix % 6) + f.port.toNat,
      d := if toCell then c.t + 14 else c.t + 31, first := if toCell then c.t + 2 else c.t + 7, total := n, done := 0,
      addr := regA, block := c.bix, issue := c.t, tag := 0, stated := stated, writer := c.addr }
    hazTrack ((s.updBlock c.bix fun b => { b with pf := b.pf ++ [q] }).updRegion (c.bix / 6) fun r => { r with
      reqs := r.reqs ++ [g] }) c dst

/-- A suppressed copy leaves its post-increments recorded as not done (R129). -/
def skipIncs (incs : List (BitVec 4 × Nat)) (s : State) (c : Ctx) : State :=
  s.updBlock c.bix fun b => b.postInc c.t c.pred false incs

/-- COPY.RC (R163). -/
def execCopyRc (i : Issue) (f : CopyF) (rd : Ecc) (s : State) : Out :=
  .next (runSlot s i 4 false [] (copyChecks f) (startCopy .copyRc f rd) (skipIncs (copyIncs f)))
/-- COPY.CR (R163). -/
def execCopyCr (i : Issue) (f : CopyF) (rd : Ecc) (s : State) : Out :=
  .next (runSlot s i 4 false [] (copyChecks f) (startCopy .copyCr f rd) (skipIncs (copyIncs f)))

/-- A route that R167 does not allow between two positions. -/
def rrRouteBad (r r' route : Nat) : Bool :=
  route == 3 || (route == 2 && !((r == 0 && r' == 5) || (r == 5 && r' == 0) || (r == 2 && r' == 3) || (r == 3 && r' == 2)))

/-- Cycles from issue to the stated completion of a COPY.RR of n units over h crossings (R167, R168). -/
def rrLatency (n h f floor : Nat) : Nat := 40 + n * cdiv f floor + h * cdiv (4 * f) floor + 2 * (h - 1) * cdiv f floor

/-- Post-increments of a COPY.RR (R163). -/
def rrIncs (f : CopyRRF) : List (BitVec 4 × Nat) :=
  if f.inc then [(f.arS, 256 * f.n.toNat), (f.arD, 256 * f.n.toNat)] else []

/-- Checks of a COPY.RR (R164, R167, R183). -/
def rrChecks (f : CopyRRF) (s : State) (c : Ctx) : List (Nat × Bool) :=
  [(0x25, portBusy s c f.port),
   (0x26, badRange (arVal s c f.arS) (256 * f.n.toNat) 0x20000000 || badRange (arVal s c f.arD) (256 * f.n.toNat) 0x20000000),
   (0x27, decide (5 < f.dest.toNat) || f.dest.toNat == c.bix / 6 % 6 || rrRouteBad (c.bix / 6 % 6) f.dest.toNat f.route.toNat)]

/-- Cycles of the destination region for a copy from another one, stated in cycle `stated` of its own: the first that surely
follows that completion, and the earliest in which its last unit can arrive (R167, R169). -/
def rrBounds (p : Partition) (t n stated : Nat) : Nat × Nat :=
  let hi := p.safeCycle (p.latestPs stated)
  (Nat.min hi (p.slowCycle (p.earliestPs (t + 12 + n)) + n + 4), hi)

/-- COPY.RR (R163, R167): its units are read from the own store and reach the destination's store in cycles of that region
that the bounds of R169 leave open, or stay missing where the crossing is late. -/
def startCopyRr (f : CopyRRF) (late : Bool) (rd : Ecc) (s : State) (c : Ctx) : State :=
  let n := f.n.toNat
  let src := regionBase (c.bix / 6) + arVal s c f.arS
  let dest := c.bix / 36 * 6 + f.dest.toNat
  let dst := regionBase dest + arVal s c f.arD
  let sf := stepFloor s c.pid
  let h := rrHops (c.bix / 6 % 6) f.dest.toNat f.route.toNat
  let stated := if n = 0 then c.t + 1 else c.t + rrLatency n h sf.1 sf.2
  let s := if n = 0 then s else s.regionEcc c.pid (c.bix / 6) (c.lg / 6) rd c.t
  let s := hazWriteIn (hazRead s c src (256 * n) (c.t + 2) true) c dest dst (256 * n)
  let s := s.updBlock c.bix fun b => ((b.takePort f.port stated).postInc c.t c.pred true (rrIncs f)).countCopy
  match s.part c.pid with
  | none => s
  | some p =>
    if n = 0 then s
    else
      let bd := rrBounds p c.t n stated
      let d := s.openCycle bd.1 bd.2 12
      let q : RrCopy := ⟨dst, [], c.t, bd.2, late, c.addr, c.bix, d.1, n, 0⟩
      let g : RsReq := {
        kind := .rrRead, rank := 0, idx := 4 * (c.bix % 6) + f.port.toNat, d := c.t + 14, first := c.t + 2, total := n, done := 0,
        addr := src, block := c.bix, issue := c.t, tag := dest, stated := stated, writer := c.addr }
      (d.2.updRegion dest fun r => { r with rr := r.rr ++ [q] }).updRegion (c.bix / 6) fun r => { r with reqs := r.reqs ++ [g] }

def execCopyRr (i : Issue) (f : CopyRRF) (late : Bool) (rd : Ecc) (s : State) : Out :=
  .next (runSlot s i 4 false [] (rrChecks f) (startCopyRr f late rd) (skipIncs (rrIncs f)))

/-! ### HBM streams -/

/-- Timing length of a stream (R203). -/
def timingLen (dark : Bool) (len : Nat) : Nat := if dark then cdiv (9 * len) 8 + 131072 else len

/-- Cycles that a stream needs at nine tenths of its share, the share in units of 1/65536 byte per cycle (R166). -/
def shareCycles (len share : Nat) : Nat := cdiv (len * 655360) (9 * share)

/-- Post-increments of a stream: the length to ar_r, and the length in lines to ar_h (R166). -/
def streamIncs (f : StreamF) (len : Nat) : List (BitVec 4 × Nat) :=
  if f.inc then
    (if f.arH = f.arR then [(f.arR, len + len / 256)] else [(f.arR, len), (f.arH, len / 256)])
  else []

/-- The stream table entry that a stream names (R165). -/
def streamEnt (s : State) (c : Ctx) (f : StreamF) : Option StreamEnt :=
  match s.part c.pid with
  | some p => p.negative.streams[f.entry.toNat]?
  | none => none

/-- A stream issues (R166, R184, R203). -/
def startStream (out_ : Bool) (f : StreamF) (s : State) (c : Ctx) : State :=
  match s.part c.pid, streamEnt s c f with
  | some p, some e =>
    let x := e.hbm + 256 * arVal s c f.arH
    let o := e.reg + arVal s c f.arR
    let tile := c.lg / 36
    let cap := tileCap s.model p.dark
    let s := s.updBlock c.bix fun b => { b.postInc c.t c.pred true (streamIncs f e.len) with
      perf := { b.perf with streams := b.perf.streams + 1 } }
    let u := s.blockUnit c.bix c.lg
    if 8 ≤ ((s.block c.bix).streams.filter fun q => q.pf == f.pf).length then s.raiseFatal c.pid 0x1506 u 0 c.t
    else if e.len = 0 then
      (s.updBlock c.bix fun b => b.setFlag f.setFlag f.flag).noteSlack c.pid c.bix (e.deadline * 1000 / (stepFloor s c.pid).1)
    else if x < tile * cap ∨ (tile + 1) * cap < x + e.len ∨ 0x20000000 < o + e.len then s.raiseFatal c.pid 0x1507 u 0 c.t
    else
      let hbm := ((p.localPieces s.model x e.len).headD (0, 0)).1
      let reg := regionBase (c.bix / 6) + o
      let d : Int := ((c.t + e.deadline : Nat) : Int) - ((shareCycles (timingLen p.dark e.len) e.share : Nat) : Int)
      let q : StreamReq := {
        pf := f.pf, entry := f.entry.toNat, out_ := out_, lx := x, hbm := hbm, reg := reg, len := e.len, flag := f.flag,
        setFlag := f.setFlag, issue := c.t, deadline := c.t + e.deadline, d := d }
      let g : RsReq := {
        kind := .stream, rank := 1, idx := 4 * (c.bix % 6) + f.pf.toNat, d := d.toNat, first := c.t + 1, total := e.len / 256,
        done := 0, addr := reg, block := c.bix, issue := c.t, tag := f.pf.toNat, stated := 0xFFFFFFFF, writer := c.addr }
      let s := if out_ then hazRead s c reg e.len (c.t + 1) true else hazWrite s c reg e.len
      (s.updBlock c.bix fun b => { b with streams := b.streams ++ [q] }).updRegion (c.bix / 6) fun r => { r with
        reqs := r.reqs ++ [g] }
  | _, _ => s

/-- A STREAM.IN or STREAM.OUT (R166). -/
def runStream (out_ : Bool) (i : Issue) (f : StreamF) (s : State) : State :=
  runSlot s i 4 false []
    (fun s c => [(0x28, (streamEnt s c f).isNone)])
    (startStream out_ f)
    (fun s c => skipIncs (streamIncs f (match streamEnt s c f with | some e => e.len | none => 0)) s c)

/-- STREAM.IN (R166). -/
def execStreamIn (i : Issue) (f : StreamF) (s : State) : Out := .next (runStream false i f s)
/-- STREAM.OUT (R166). -/
def execStreamOut (i : Issue) (f : StreamF) (s : State) : Out := .next (runStream true i f s)

/-- Part-local HBM pieces of a stream, through the windows (02 R56, R57). -/
def streamPieces (s : State) (pid : Nat) (q : StreamReq) : List (Nat × Nat) :=
  match s.part pid with | some p => p.localPieces s.model q.lx q.len | none => []

/-- The line of a stream that met a corrected or failing check, by its address: a line with a poison mark is its own; which one
of the others it is, is a free choice among the stream's lines (R190, entry 128). -/
def streamHit (s : State) (pid : Nat) (q : StreamReq) : Nat × State :=
  let at_ (k : Nat) : Nat := ((streamLine s pid q k).headD (0, 0)).1
  match (List.range (q.len / 256)).find? fun k => (streamLine s pid q k).any fun r => s.poisoned r.1 r.2 with
  | some k => (at_ k, s)
  | none =>
    let d := s.draw 32 14
    (at_ (d.1 % Nat.max 1 (q.len / 256)), d.2)

/-- The lines of a stream that the arbiters have not yet moved reach their place: of a STREAM.IN, first those that have
crossed HBM already (R197). -/
def flushStream (s : State) (pid bix : Nat) (q : StreamReq) (cyc : Nat) : State :=
  let g := s.region (bix / 6)
  let mine := g.reqs.find? fun x => decide (x.kind = .stream) && x.block == bix && x.issue == q.issue
  let held : List Bytes := match mine with | some x => x.data.map (fun u => u.2) | none => []
  let rest := (List.range (q.len / 256)).drop q.slots
  if q.out_ then
    let start := q.slots
    let s := held.zipIdx.foldl (fun (s : State) u => s.writePieces (streamLine s pid q (start + u.2)) u.1) s
    (rest.drop held.length).foldl (fun (s : State) k => s.writePieces (streamLine s pid q k) (s.readMem (q.reg + 256 * k) 256)) s
  else
    let s := (g.entering.filter fun e => e.block == bix && e.issue == q.issue).foldl (fun (s : State) e => s.write e.addr e.data) s
    let s := held.zipIdx.foldl (fun (s : State) u => s.write (q.reg + 256 * (q.lines + u.2)) u.1) s
    let s := rest.foldl (fun (s : State) k => s.write (q.reg + 256 * k) ((streamLine s pid q k).flatMap fun r => s.readMem r.1 r.2)) s
    s.updRegion (bix / 6) fun g => { g with entering := g.entering.filter fun e => !(e.block == bix && e.issue == q.issue && decide (cyc ≤ e.at_)) }

/-- A stream ends (R190, R191, R202): its data are in place and its flag is set, or it stops on a line that delivers no
data. -/
def finishStream (s : State) (pid bix : Nat) (q : StreamReq) (end_ : StreamEnd) (cycle : Nat) : State :=
  let r := match s.part pid with
    | some p => if q.out_ then (s, end_) else s.resolve p end_
    | none => (s, end_)
  let s := r.1
  let fin := r.2
  let fin := if !q.out_ && (streamPieces s pid q).any (fun r => s.poisoned r.1 r.2) then .uncorrectable else fin
  match fin with
  | .uncorrectable =>
    if q.out_ then (s.dropStream bix q).regionEcc pid (bix / 6) (lregion s pid bix) .uncorrectable cycle
    else
      let u := streamHit s pid q
      (u.2.dropStream bix q).raiseFatal pid 0x1302 (channelUnit s.model u.1) 0 cycle
  | .badTag =>
    (match s.part pid with
     | some p => if p.dark && !q.out_ then
         let u := streamHit s pid q
         (u.2.dropStream bix q).memoryIntegrity pid (channelUnit s.model u.1) else s.dropStream bix q
     | none => s.dropStream bix q)
  | ok =>
    let s := if ok = .corrected then
        (if q.out_ then s.regionEcc pid (bix / 6) (lregion s pid bix) .corrected cycle
         else
          let u := streamHit s pid q
          u.2.hbmCorrected pid u.1)
      else s
    let r := if q.out_ then regionReadCheck s pid bix q.reg q.len cycle else (s, true)
    if r.2 then streamEnds (flushStream r.1 pid bix q cycle) pid bix q cycle else r.1.dropStream bix q

/-- The oldest stream of a prefetcher ends (R166). -/
def execStreamComplete (part block : Nat) (pf : BitVec 2) (fin : StreamEnd) (cycle : Nat) (s : State) : Out :=
  .next (match runningBlock s part block with
    | none => s
    | some bix =>
      let s := passTo s part block cycle
      match (s.block bix).streams.find? fun q => q.pf == pf with
      | none => s
      | some q => finishStream s part bix q fin cycle)

end Sys2Proof.Machine
end

