-- ==== Sys2Proof/Machine/ExchangeOps.lean ====
section
/-! DEFINITION. The X slot (06 R170 to R179): commits, arrival checks and Contact sheet fills. -/

namespace Sys2Proof.Machine

/-- The fabric die that serves a block (R172). -/
def servingDie (s : State) (bix : Nat) : Nat := fabricDie s.model (bix / 36)

/-- The slot table entry that a COMMIT names: a packet entry of a port (R172). -/
def commitEnt (s : State) (c : Ctx) (f : CommitF) : Option SlotEnt :=
  match (fmGetD s.tx (4 * servingDie s c.bix + f.port.toNat) {}).table[f.entry.toNat]? with
  | some e => if e.kind = .packet then some e else none
  | none => none

/-- The due reads of a COMMIT from a cell store (R102, R172). -/
def commitDue (s : State) (c : Ctx) (f : CommitF) (n : Nat) : List DueAcc :=
  if f.space then []
  else (List.range n).map fun u => ⟨c.t + u, f.cell, arVal s c f.arSrc + 256 * u, true⟩

/-- Checks of a COMMIT (R102, R170, R172, R183). -/
def commitChecks (f : CommitF) (s : State) (c : Ctx) : List (Nat × Bool) :=
  let len := match commitEnt s c f with | some e => e.len | none => 0
  [(0x26, badRange (arVal s c f.arSrc) (256 * cdiv len 256) (if f.space then 0x20000000 else 0x100000)),
   (0x29, decide (c.t < (s.block c.bix).xFree)),
   (0x2A, (commitEnt s c f).isNone),
   (0x2C, dueClash (s.block c.bix) (commitDue s c f (cdiv len 256)))]

/-- Post-increment of a COMMIT: the payload length, rounded up to 256 (R172). -/
def commitIncs (f : CommitF) (len : Nat) : List (BitVec 4 × Nat) := if f.inc then [(f.arSrc, alignUp len 256)] else []

/-- A COMMIT issues (R172, R184): units in a cell store are due reads of port F, lines of the region store requests at rank
0. -/
def startCommit (f : CommitF) (rd : Ecc) (s : State) (c : Ctx) : State :=
  match commitEnt s c f with
  | none => s
  | some e =>
    let n := cdiv e.len 256
    let port := 4 * servingDie s c.bix + f.port.toNat
    let src := if f.space then regionBase (c.bix / 6) + arVal s c f.arSrc
      else cellBase (4 * c.bix + f.cell.toNat) + arVal s c f.arSrc
    let stated := c.t + 64 + n + 24 * meshHops s.model (c.bix / 36)
    let s := claimDue s c (commitDue s c f n)
    let s := if f.space then s.regionEcc c.pid (c.bix / 6) (c.lg / 6) rd c.t
      else cellEcc s c.pid (4 * c.bix + f.cell.toNat) (arVal s c f.arSrc) rd c.t
    let s := hazRead s c src e.len c.t true
    let s := s.updBlock c.bix fun b =>
      { b.postInc c.t c.pred true (commitIncs f e.len) with xFree := c.t + Nat.max 1 n, lastDone := Nat.max b.lastDone stated }
    let known := (fmGet (fmGetD s.tx port {}).staging f.entry.toNat).isSome
    if known then s.blockFatal c.pid c.bix 0x1435 0 c.t
    else
      let s := (s.updTx port fun x => { x with
          staging := fmSet x.staging f.entry.toNat ⟨c.bix, [], if n = 0 then some c.t else none, 0⟩ }).noteBundle c.bix
        fun v => { v with staged := some (port, f.entry.toNat) }
      if n = 0 then s
      else
        let q : CommitReq := {
          port := port, entry := f.entry.toNat, src := src, cellSrc := !f.space, len := e.len, done := 0, issue := c.t,
          stated := stated, dead := decide (rd = .uncorrectable) }
        let s := s.updBlock c.bix fun b => { b with commits := b.commits ++ [q] }
        if f.space then
          let g : RsReq := {
            kind := .commit, rank := 0, idx := 4 * (c.bix % 6) + f.port.toNat, d := c.t, first := c.t, total := n, done := 0,
            addr := src, block := c.bix, issue := c.t, tag := 1, stated := stated, writer := c.addr }
          s.updRegion (c.bix / 6) fun r => { r with reqs := r.reqs ++ [g] }
        else s

/-- COMMIT (R172). -/
def execCommit (i : Issue) (f : CommitF) (rd : Ecc) (s : State) : Out :=
  .next (runSlot s i 5 false [] (commitChecks f) (startCommit f rd)
    (fun s c => skipIncs (commitIncs f (match commitEnt s c f with | some e => e.len | none => 0)) s c))

/-- CHKARR (R174). -/
def execChkarr (i : Issue) (counter : BitVec 4) (ar : BitVec 4) (clear : Bool) (s : State) : Out :=
  .next (runSlot s i 5 false []
    (fun s c => [(0x29, decide (c.t < (s.block c.bix).xFree))])
    (fun s c =>
      let want := arVal s c ar
      let got := (fmGetD (s.block c.bix).arrival counter.toNat 0).toNat
      let s := s.updBlock c.bix fun b => { b with xFree := c.t + 1 }
      if got < want then s.blockFatal c.pid c.bix 0x1431 0 c.t
      else if want < got then s.blockFatal c.pid c.bix 0x1432 0 c.t
      else s.updBlock c.bix fun b => { b with
        confirmed := b.confirmed ||| (1#16 <<< counter.toNat)
        arrival := if clear then fmSet b.arrival counter.toNat 0 else b.arrival }) skipNone)

/-- The sheet that a CSFILL names (R175). -/
def fillSheet (s : State) (c : Ctx) (f : CsfillF) : Option Sheet :=
  match s.part c.pid with
  | some p => (sheetsOf p c.lg)[f.sheet.toNat]?
  | none => none

/-- Checks of a CSFILL (R170, R175, R183): every entry of its sheet must stand in the active bank as a sheet entry (R256). -/
def fillChecks (f : CsfillF) (s : State) (c : Ctx) : List (Nat × Bool) :=
  let ranges := match fillSheet s c f with
    | none => false
    | some g =>
      let rowLimit := if f.rowSpace then 0x20000000 else 0x100000
      badRange (arVal s c f.arList) (8 * g.routeLen) 0x100000 ||
      badRange (arVal s c f.arDin) (8 * g.deferLen) 0x100000 ||
      badRange (arVal s c f.arDout) (8 * g.deferLen) 0x100000 ||
      badRange (arVal s c f.arRows) (g.rowsMax * g.rowSize) rowLimit ||
      badRange (arVal s c f.arDrows) (g.rowsMax * g.rowSize) rowLimit
  let entries := match fillSheet s c f with
    | none => false
    | some g => g.map.any fun m =>
      match (fmGetD s.tx (4 * servingDie s c.bix + m.1) {}).table[m.2]? with
      | some e => decide (e.kind ≠ .sheet)
      | none => true
  [(0x26, ranges), (0x29, decide (c.t < (s.block c.bix).xFree)), (0x2A, entries), (0x2B, (fillSheet s c f).isNone)]

/-- Occupancy of a fill (R179). -/
def Sheet.occupancy (g : Sheet) : Nat :=
  cdiv (8 * (g.routeLen + g.deferLen)) 256 + g.experts * cdiv g.packetLen 256 + 16

/-- Units of 256 bytes that a fill takes at port F: its lists, its rows where they lie in the cell, its deferral-out list
(R179). -/
def Sheet.fillUnits (g : Sheet) (rowsInCell : Bool) : Nat :=
  g.listUnits + (if rowsInCell then g.experts * g.packetRows else 0) + cdiv (8 * g.deferLen) 256

/-- Addresses of the list units of a fill. -/
def Sheet.listAddrs (g : Sheet) (list_ din : Nat) : List (Nat × Bytes) :=
  ((List.range (cdiv (8 * g.routeLen) 256)).map fun k => (list_ + 256 * k, ([] : Bytes))) ++
    (List.range (cdiv (8 * g.deferLen) 256)).map fun k => (din + 256 * k, [])

/-- A CSFILL issues (R175 to R179): its requests carry D equal to its issue cycle (R110). -/
def startFill (f : CsfillF) (rd : Ecc) (s : State) (c : Ctx) : State :=
  match fillSheet s c f with
  | none => s
  | some g =>
    let base := cellBase (4 * c.bix + f.cell.toNat)
    let rowBase := if f.rowSpace then regionBase (c.bix / 6) else base
    let stated := c.t + 64 + g.occupancy
    let q : FillReq := {
      sheet := f.sheet.toNat, cell := f.cell, list_ := base + arVal s c f.arList, rows := rowBase + arVal s c f.arRows
      din := base + arVal s c f.arDin, drows := rowBase + arVal s c f.arDrows, dout := base + arVal s c f.arDout
      issue := c.t, stated := stated, dlen := 8 * g.deferLen }
    let s := cellEcc s c.pid (4 * c.bix + f.cell.toNat) (arVal s c f.arList) rd c.t
    let s := hazRead (hazRead s c q.list_ (8 * g.routeLen) (c.t + 1) true) c q.din (8 * g.deferLen) (c.t + 1) true
    let s := hazRead (hazRead s c q.rows (g.rowsMax * g.rowSize) (c.t + 1)) c q.drows (if g.deferLen = 0 then 0 else g.rowsMax * g.rowSize) (c.t + 1)
    let s := if g.deferLen = 0 then s else hazWrite s c q.dout (8 * g.deferLen)
    let r : PfReq := {
      kind := .fill, cell := f.cell, d := c.t, rank := 1, ready := c.t, total := g.fillUnits (!f.rowSpace), done := 0
      src := q.list_, dst := q.dout, issue := c.t, stated := stated, turn := 0, owner := false, writer := c.addr
      tag := 8 * g.deferLen, arr := g.listAddrs q.list_ q.din }
    let s := s.updBlock c.bix fun b => { b with xFree := c.t + g.occupancy, lastDone := Nat.max b.lastDone stated, fills := b.fills ++ [q], pf := b.pf ++ [r] }
    let s := if f.rowSpace then
        let e : RsReq := {
          kind := .fill, rank := 0, idx := 4 * (c.bix % 6), d := c.t, first := 2 ^ 62, total := g.experts * g.packetRows, done := 0
          addr := q.rows, block := c.bix, issue := c.t, tag := 2, stated := stated, writer := c.addr }
        s.updRegion (c.bix / 6) fun x => { x with reqs := x.reqs ++ [e] }
      else s
    if g.deferLen = 0 then s else hazTrack s c q.dout

/-- CSFILL (R175 to R179). -/
def execCsfill (i : Issue) (f : CsfillF) (rd : Ecc) (s : State) : Out :=
  .next (runSlot s i 5 false [] (fillChecks f) (startFill f rd) skipNone)

end Sys2Proof.Machine
end

