-- ==== Sys2Proof/Machine/Command.lean ====
section
/-! DEFINITION. Acceptance of a mailbox command (16 R430 to R437, R446; 17 R459, R463; 18 R488): who sends it, who may send
it, what holds its target, and its completion. Every command's meaning is one call of `runCmd`. -/

namespace Sys2Proof.Machine

/-- Columns of the permission table (R436) for one command. -/
structure Perm where
  bound : Bool
  pf : Bool
  owner : Bool
  /-- the owner only for Open partitions. -/
  openOnly : Bool := false
  other : Bool
  deriving DecidableEq, Repr

/-- Targets of commands (R436). -/
inductive Target where
  | none_ | part | maybe
  deriving DecidableEq, Repr

/-- Commands as the conflict table tells them apart (R437). -/
inductive Kind where
  | plain | status | logRead | reset | halt | destroy | scrub | develop | expose | darkslide | resume | export_ | epoch | proof
  deriving DecidableEq, Repr

/-- What the part knows of a command before its own checks. -/
structure CmdSpec where
  code : Nat
  /-- bytes of the request layout. -/
  len : Nat
  perm : Perm
  target : Target := .none_
  kind : Kind := .plain
  /-- answered by an unbound function, and on a part with a part-fatal fault. -/
  unbound : Bool := false
  fatalOk : Bool := false
  deriving DecidableEq, Repr

/-- Outcome of a command's body: the state and the answer, or none where it completes later. -/
abbrev Answer := State × Option (Byte × Bytes)

def reply (s : State) (st : Byte) (resp : Bytes := []) : Answer := (s, some (st, resp))

/-- Mailboxes accept commands: bring-up is over and the Easel cores answer (R481, R488). -/
def State.serves (s : State) : Bool := decide (9 ≤ s.boot.step) && !s.boot.easelDead && !s.boot.held

/-- The mailbox of a requester. -/
def State.mboxOf (s : State) (r : Route) : Option Mbox :=
  match r with
  | .fn h k => if s.fnEnabled h k then some (s.func h k).mbox else none
  | .session n => (fmGet s.sessions n).map (·.mbox)

/-- Write the mailbox of a requester. -/
def State.setMbox (s : State) (r : Route) (m : Mbox) : State :=
  match r with
  | .fn h k => s.updFunc h k fun f => { f with mbox := m }
  | .session n => { s with sessions := fmUpd s.sessions n ⟨.observer, 0, {}⟩ fun x => { x with mbox := m } }

/-- A refused access of a function: its bit of HIF_ERR and its count (R469). -/
def State.hifErr (s : State) (h k bitNo : Nat) : State :=
  s.updFunc h k fun f => { f with err := f.err ||| (1#32 <<< bitNo), errCount := satAdd f.errCount 1 }

/-- A refusal under R399 or R463: not_tee, and NON_TEE_REJECTED at the first in each hour. -/
def State.notTee (s : State) (h k pid : Nat) : State :=
  (s.hifErr h k 3).logHourly 0x0802 pid (64 * h + k) (dieUnit h) 0

/-- The Darkroom conditions of a function's partition fail (R399, R463). -/
def State.teeFails (s : State) (h k : Nat) (tee : Bool) : Bool :=
  match s.boundTo h k with
  | none => false
  | some pid => match s.part pid with
    | some p => p.dark && (!tee || (s.func h k).tdi != .run)
    | none => false

/-- Whether a session owns the part (R449). -/
def State.owns (s : State) (r : Route) : Bool :=
  match r with
  | .session n => s.owner == some n
  | .fn _ _ => false

/-- Whether an OPERATOR credential is enrolled (R436, CRED.ENROLL). -/
def State.hasOperator (s : State) : Bool := s.nvm.creds.any fun q => q.2.role == .operator

/-- The partition that a command names (R434): none where the command has no target. -/
def targetOf (s : State) (e : Envelope) (c : CmdSpec) : Option (Option Nat) :=
  match c.target with
  | .none_ => some none
  | t =>
    match e.route with
    | .fn h k =>
      if k = 0 then
        if t = .maybe ∧ e.target = 0xFFFF then some none
        else if (s.part e.target.toNat).isSome then some (some e.target.toNat) else none
      else
        match s.boundTo h k with
        | some pid => if e.target = 0xFFFF ∨ e.target.toNat = pid then some (some pid) else none
        | none => some none
    | .session _ =>
      if t = .maybe ∧ e.target = 0xFFFF then some none
      else if (s.part e.target.toNat).isSome then some (some e.target.toNat) else none

/-- Whether the requester may issue the command (R436). -/
def permitted (s : State) (e : Envelope) (c : CmdSpec) (pid : Option Nat) : Bool :=
  match e.route with
  | .fn _ k => if k = 0 then c.perm.pf && (c.code != 0x0105 || !s.hasOperator) else c.perm.bound
  | .session n =>
    if s.owner = some n then
      c.perm.owner && (!c.perm.openOnly || (match pid with
        | some p => match s.part p with | some x => !x.dark | none => true
        | none => true))
    else c.perm.other && (c.code != 0x0101 || (match fmGet s.sessions n with | some x => x.role == .operator | none => false))

/-- Whether a kind is a lifecycle command (R437). -/
def Kind.lifecycle : Kind → Bool
  | .scrub | .darkslide | .resume | .export_ | .destroy => true
  | _ => false

/-- Whether a Darkslide write is still under way in a hold (R437). -/
def Partition.slideBusy (p : Partition) : Bool :=
  match p.slide with
  | some o => o.phase != .held
  | none => false

/-- The first matching row of the conflict table (R437): the status that turns the command away. -/
def conflict (p : Partition) (k : Kind) : Option Byte :=
  match p.busy with
  | some (.agree _ _ _ _) => some stBusy
  | some (.scrub _) =>
    match k with
    | .destroy | .reset | .status | .logRead | .proof | .plain => none
    | .halt | .develop | .expose | .darkslide | .resume => some stWrongState
    | _ => some stBusy
  | some (.restore _ _) =>
    match k with
    | .destroy | .scrub | .darkslide | .resume | .export_ | .epoch => some stBusy
    | _ => none
  | none =>
    if p.slideBusy then
      (match k with
       | .scrub | .darkslide | .resume | .export_ | .epoch => some stBusy
       | _ => none)
    else
      match p.expose with
      | some _ => (match k with
        | .darkslide | .epoch | .expose => some stBusy
        | _ => none)
      | none => none

/-- Accept a command into a mailbox (R431, R432). -/
def acceptMbox (m : Mbox) (e : Envelope) (code : Nat) : Mbox :=
  { m with
    lastSeq := some e.seq, state := .running, command := BitVec.ofNat 16 code, target := e.target, length := e.length, tag := e.tag,
    status := 0, resp := [], fault := 0, logIndex := 0 }

/-- The checks that come before a command's own (R433 to R437, R459, R488), in their order: the status of a refusal, or the
target. -/
def precheck (s : State) (e : Envelope) (c : CmdSpec) : Byte ⊕ Option Nat :=
  let unboundVf := match e.route with
    | .fn h k => k != 0 && (s.boundTo h k).isNone
    | .session _ => false
  let tg := targetOf s e c
  if unboundVf && !c.unbound then .inl stWrongState
  else if !permitted s e c (tg.getD none) then .inl stDenied
  else if e.length.toNat < c.len ∨ 4064 < e.length.toNat ∨ e.rsvd = true then .inl stBadArg
  else
    match tg with
    | none => (match e.route with
      | .fn _ k => .inl (if k = 0 then stBadArg else stDenied)
      | .session _ => .inl stBadArg)
    | some t =>
      if s.boot.fatal.isSome && !c.fatalOk then .inl stWrongState
      else
        match t with
        | none => .inr none
        | some pid => match s.part pid with
          | none => .inr (some pid)
          | some p => match conflict p c.kind with
            | some st => .inl st
            | none => .inr (some pid)

/-- Run an accepted command and complete it where its body says so. -/
def runBody (s : State) (e : Envelope) (c : CmdSpec) (body : State → Option Nat → Answer) : State :=
  let mark := s.log.next
  match precheck s e c with
  | .inl st => s.complete e.route mark st []
  | .inr t =>
    let r := body s t
    match r.2 with
    | some (st, resp) => r.1.complete e.route mark st resp
    | none => r.1

/-- A mailbox command arrives (R432, R446, R463). -/
def runCmd (s : State) (e : Envelope) (c : CmdSpec) (body : State → Option Nat → Answer) : State :=
  if !s.serves then s
  else
    match s.mboxOf e.route with
    | none => s
    | some m =>
      match e.route with
      | .fn h k =>
        if s.teeFails h k e.tee then s.notTee h k ((s.boundTo h k).getD 0xFF)
        else if m.state = .running ∨ e.doorbell ≠ e.seq ∨ m.lastSeq = some e.seq then
          s.setMbox e.route { m with ignored := m.ignored + 1 }
        else runBody (s.setMbox e.route (acceptMbox m e c.code)) e c body
      | .session n =>
        let s := if s.owner = some n then { s with leaseAt := s.now } else s
        if m.state = .running ∧ c.code ≠ 0x0104 then
          let b := { acceptMbox m e c.code with status := stBusy }
          s.emit (.frame n (answerHeader b e.seq))
        else if m.state = .running then
          -- HEARTBEAT runs beside the running command
          match precheck s e c with
          | .inl st => s.emit (.frame n (answerHeader { acceptMbox m e c.code with status := st } e.seq))
          | .inr t =>
            let r := body s t
            let b := { acceptMbox m e c.code with
              status := (r.2.map (·.1)).getD 0, resp := (r.2.map (·.2)).getD [] }
            r.1.emit (.frame n (answerHeader b e.seq ++ b.resp))
        else runBody (s.setMbox e.route (acceptMbox m e c.code)) e c body

end Sys2Proof.Machine
end

