-- ==== Sys2Proof/Machine/LinkOps.lean ====
section
/-! DEFINITION. What other chapters ask of a Golre port: its name in the log, its events (10 R304), the start of a retrain
(10 R296) and fresh training (10 R295, R301); the flow units that a port sends and its credit pools (10 R274 to R276, R288 to
R290). -/

namespace Sys2Proof.Machine

/-- A port as a unit of the log, with its logical index in the partition that owns its fabric die (08 R214, 18 R492). -/
def State.portUnitOf (s : State) (q : Nat) : LogUnit :=
  match (s.die (q / 4)).owner with
  | none => portUnit q
  | some pid => ⟨7, q, 4 * ((s.dies.filter fun d => d.2.owner == some pid).findIdx fun d => d.1 == q / 4) + q % 4⟩

/-- A severity 0 event of a port: its first occurrence in an Exposure is logged, or in an hour where no Negative is
installed (R304). -/
def State.linkEv (s : State) (q code detail : Nat) : State :=
  match (s.die (q / 4)).owner with
  | some pid => s.logOnce code pid q (s.portUnitOf q) detail
  | none => s.logHourly code 0xFF q (portUnit q) detail

/-- Logical fabric dies of a set of tiles: part-local die indices, ascending (08 R214). -/
def fabricDies (v : Variant) (tiles : List Nat) : List Nat := (tiles.map (fabricDie v)).eraseDups

/-! ### Credit pools (R288 to R290) -/

/-- Key of a pool in `credits` and `pools`. -/
def poolKey (data service : Bool) (vc : Nat) : Nat := 16 * boolNat data + 8 * boolNat service + vc

/-- Size of a receiver's pool when n virtual channels run (R288). -/
def poolSize (n : Nat) (data service : Bool) (vc : Nat) : Nat :=
  if service then (if vc + 1 = n then (if data then 256 else 16) else 0)
  else if vc < n then (if data then 3840 / n else 112 / n) else 0

/-- Pools with a non-zero advertisement: data bit, class bit and channel, in the rotation of R289. -/
def rotation (n : Nat) : List (Bool × Bool × Nat) :=
  (List.range n).flatMap (fun v => [(false, false, v), (true, false, v)]) ++ [(false, true, n - 1), (true, true, n - 1)]

/-- Available credit of a pool (R289). -/
def CreditPool.available (c : CreditPool) : Nat := c.advertised - (c.consumed - c.returned).toNat

/-- The channel on which a packet travels: vc mod n, or the service channel (R287). -/
def Port.channel (x : Port) (service : Bool) (vc : Nat) : Nat := if service then x.vcs - 1 else vc % x.vcs

/-- Whether a pool pair holds one header and u data credits (R290). -/
def Port.hasCredit (x : Port) (service : Bool) (vc u : Nat) : Bool :=
  decide (1 ≤ (fmGetD x.credits (poolKey false service vc) {}).available) &&
    decide (u ≤ (fmGetD x.credits (poolKey true service vc) {}).available)

/-- Consume them. -/
def Port.consume (x : Port) (service : Bool) (vc u : Nat) : Port :=
  let take (n : Nat) (c : CreditPool) : CreditPool := { c with consumed := c.consumed + BitVec.ofNat 16 n }
  { x with credits := fmUpd (fmUpd x.credits (poolKey false service vc) {} (take 1)) (poolKey true service vc) {} (take u) }

/-- Free entries of a receiving pool. -/
def RxPool.free (p : RxPool) : Nat := p.size - p.used

/-- The receiver reserves the entries of a packet (R288). -/
def Port.reserve (x : Port) (service : Bool) (vc u : Nat) : Port :=
  let take (n : Nat) (p : RxPool) : RxPool := { p with used := p.used + n }
  { x with pools := fmUpd (fmUpd x.pools (poolKey false service vc) {} (take 1)) (poolKey true service vc) {} (take u) }

/-- The receiver frees them, and its cumulative counts rise (R288, R289). -/
def Port.release (x : Port) (service : Bool) (vc u : Nat) : Port :=
  let give (n : Nat) (p : RxPool) : RxPool := { p with used := p.used - n, freed := p.freed + BitVec.ofNat 16 n }
  { x with pools := fmUpd (fmUpd x.pools (poolKey false service vc) {} (give 1)) (poolKey true service vc) {} (give u) }

/-! ### Flow units (R274 to R276, R289) -/

/-- The link-control field of a unit (R275): what the packet unit says of itself, the sender's E, and the count of the pool in
turn. -/
def Port.control (x : Port) (kind : Nat) (sop : Bool) (vc : Nat) (service : Bool) (units : Nat) : Nat :=
  let turn := rotation x.vcs
  let cr := turn.getD (x.rotate % turn.length) (false, false, 0)
  let freed := (fmGetD x.pools (poolKey cr.1 cr.2.1 cr.2.2) {}).freed
  kind + 4 * boolNat sop + 8 * vc + 64 * boolNat service + 2 ^ 8 * x.expect.toNat + 2 ^ 24 * boolNat (x.vcs != 0) +
    2 ^ 25 * boolNat cr.1 + 2 ^ 26 * boolNat cr.2.1 + 2 ^ 27 * cr.2.2 + 2 ^ 32 * freed.toNat + 2 ^ 48 * units

/-- A unit on the wire: carried bytes, control, and the CRC under its implicit value (R274, R276). -/
def wireBytes (carried : Bytes) (control implicit : Nat) : Bytes :=
  let body := carried ++ leBytes 8 control
  body ++ leBytes 8 (unitCrc (implicit % 65536) body).toNat

/-- A PACKET unit on the wire under its sequence number. -/
def Port.wire (x : Port) (u : TxUnit) (seq : Nat) : Bytes := wireBytes u.carried (x.control 1 u.sop u.vc u.service u.units) seq

/-- An IDLE or LINK unit on the wire: it takes no sequence number. -/
def Port.plainUnit (x : Port) (kind : Nat) (carried : Bytes) : Bytes := wireBytes carried (x.control kind false 0 false 0) 0xFFFF

/-- Carried bytes of a LINK unit: what is given, then zeros (R278). -/
def linkBytes (b : Bytes) : Bytes := b ++ List.replicate (240 - b.length) 0

/-- A LINK unit leaves a port, with its acknowledgement and credit return (R275, R278, R289). -/
def State.sendLink (s : State) (q type : Nat) (carried : Bytes) : State :=
  let x := s.port q
  (s.updPort q fun x => { x with rotate := x.rotate + 1 }).emit (.link q type (x.plainUnit 2 carried))

/-- An IDLE unit leaves a port (R274, R289). -/
def State.sendIdle (s : State) (q : Nat) : State :=
  let x := s.port q
  (s.updPort q fun x => { x with rotate := x.rotate + 1 }).emit (.flowUnit q (x.plainUnit 0 (linkBytes [])))

/-- Carried bytes of a RETRAIN_REQUEST (R278). -/
def retrainMsg (serial : BitVec 64) (q reason : Nat) : Bytes :=
  linkBytes (leBytes 8 3 ++ leBytes 8 serial.toNat ++ leBytes 1 q ++ leBytes 1 reason)

/-- A port leaves UP, REMAPPING or DEGRADED for a retrain; a lane that was being remapped is on the spare from then on
(R298). -/
def Port.retraining (x : Port) (reason : Nat) (leader : Bool) : Port :=
  { x with
    state := .retraining, reason := some reason, leader := leader, verdict := .none_, partner := none
    spareRx := if x.remapRx.isSome then x.remapRx else x.spareRx, remapRx := none, remapTx := false }

/-- Whether a port can start or join a retrain (R294, R296). -/
def Port.inUse (x : Port) : Bool := x.patch.isNone && (x.state == .up || x.state == .remapping || x.state == .degraded)

/-- What reaches a port of a crosspoint patch leaves by the other port as it came: the patch retimes the lanes and decodes
nothing (09 R254, R255). -/
def State.passOn (s : State) (q : Nat) (what : Instr) : State :=
  match (s.port q).patch with
  | some o => s.emit (.passed o what)
  | none => s

/-- This end starts a retrain and asks for it (R296). -/
def State.startRetrain (s : State) (q reason : Nat) : State :=
  if (s.port q).inUse then
    (s.updPort q fun x => x.retraining reason true).sendLink q 3 (retrainMsg s.id.serial q reason)
  else s

/-- A port goes to fresh training (R295, R301). -/
def State.freshTrain (s : State) (q : Nat) : State :=
  s.updPort q fun p => if p.state = .off then p else { p with
    state := .training, fresh := true, reason := none, verdict := .none_, partner := none, remapRx := none, remapTx := false }

end Sys2Proof.Machine
end

