-- ==== Sys2Proof/Machine/TimeOps.lean ====
section
/-! DEFINITION. Audit time and timed launch (12), the passage of time, and the choice of a launch Shutter (11 R325). -/

namespace Sys2Proof.Machine

/-! ### The passage of time (R328, 11 R313, R320) -/

/-- `n` cycles of the 100 MHz time reference pass in the time unit (R328). -/
def TimeUnit.ticks (u : TimeUnit) (n : Nat) : TimeUnit := { u with acc := u.acc + BitVec.ofNat 56 (u.inc.toNat * n) }

/-- Fabric time runs on by `ns`, slewing by at most one part in 50,000 (11 R313, R320). -/
def FTime.run (f : FTime) (ns : Nat) : FTime :=
  let steps := (f.slewClock + ns) / 50000
  let back : Nat := Nat.min f.slew.natAbs steps
  let moved : Int := if f.slew < 0 then -(back : Int) else (back : Int)
  { f with
    time := ((f.time : Int) + (ns : Int) + moved).toNat
    slew := f.slew - moved
    slewClock := (f.slewClock + ns) % 50000
    sinceBeacon := f.sinceBeacon + ns }

/-- `n` cycles of the time reference pass on the whole part. -/
def State.elapse (s : State) (n : Nat) : State :=
  { s with
    time := s.time.ticks n
    now := s.now + 10 * n
    parts := s.parts.map fun q => (q.1, { q.2 with ftime := q.2.ftime.map fun f => f.run (10 * n) }) }

/-! ### The launch Shutter (11 R325, R342) -/

/-- The tick master of a partition's job: the lowest part_id (11 R319). -/
def Neg.master (n : Neg) : Nat := n.members.foldl (fun acc m => Nat.min acc m.1) 0xFFF

/-- part_id of the partition's own rank (08 R218). -/
def Neg.ownPart (n : Neg) : Nat := (n.members.getD n.rank.toNat (0, 0)).1

/-- This partition is the tick master of its job; a job of one member has no other. -/
def Neg.isMaster (n : Neg) : Bool := decide (n.jobParts ≤ 1) || n.ownPart == n.master

/-- Smallest quotient that reaches a bound. -/
def atLeast (x k : Nat) : Nat := if k = 0 then 0 else cdiv x k

/-- g_L of R325, and of R342 for a requested audit time. -/
def chooseLaunch (p : Partition) (f : FTime) (tReq : Option Nat) : Nat :=
  let period := p.periodNs
  let wait := if p.negative.jobParts ≤ 1 then 2000 else 8000000
  let g := Nat.max (f.grid + 2) (atLeast (f.time + wait) period)
  match tReq with
  | none => g
  | some t => Nat.max g (f.grid + atLeast (10000 * (t + 20 - f.capture.toNat)) (9989 * period))

/-- The master takes up an EXPOSE and decides g_L (R325, R342). -/
def State.takeUp (s : State) (pid : Nat) : State :=
  match s.part pid with
  | none => s
  | some p =>
    match p.expose, p.ftime with
    | some x, some f =>
      if x.taken then s
      else s.updPart pid fun p => { p with
        expose := some { x with taken := true }, ftime := some { f with launch := some (chooseLaunch p f x.tReq) } }
    | _, _ => s

/-- A queued timed EXPOSE of a partition ends (R343). -/
def State.cancelTimed (s : State) (pid : Nat) : State :=
  match s.part pid with
  | none => s
  | some p =>
    match p.expose with
    | none => s
    | some x =>
      let mark := s.log.next
      let s := if x.tReq.isSome then s.logEv 0x0233 pid noUnit 0 else s
      (s.complete x.route mark stWrongState []).updPart pid fun p => { p with
        expose := none, ftime := p.ftime.map fun f => { f with launch := if p.negative.isMaster then none else f.launch } }

/-- Audit time is FREE: every queued timed EXPOSE ends (R343). -/
def State.cancelAllTimed (s : State) : State :=
  s.parts.foldl (fun (s : State) (q : Nat × Partition) =>
    if (match q.2.expose with | some x => x.tReq.isSome && !x.taken | none => false) then s.cancelTimed q.1 else s) s

/-- Every queued timed EXPOSE whose audit time has come is taken up (R342, R343). -/
def State.takeUpDue (s : State) : State :=
  s.parts.foldl (fun (s : State) (q : Nat × Partition) =>
    match q.2.expose with
    | some x => match x.tReq with
      | some t => if t ≤ (s.auditNow.1).toNat + 20000000 then s.takeUp q.1 else s
      | none => s
    | none => s) s

/-- TIMED_LAUNCH_TAKEUP (R342). -/
def execTimedLaunchTakeup (part : Nat) (s : State) : Host.Outcome State Fault Refusal :=
  .next (match s.part part with
    | none => s
    | some p => match p.expose with
      | some x => if x.tReq.isSome && p.negative.isMaster then s.takeUp part else s
      | none => s)

/-! ### Registers of the time unit (R330 to R333) -/

def incLow : BitVec 32 := 0x09FD70A4
def incHigh : BitVec 32 := 0x0A028F5C

/-- A value that TIM_INC accepts (R330). -/
def incOk (v : BitVec 32) : Bool := incLow.ule v && v.ule incHigh

/-- TIM_INC: outside its range the write is ignored (R330). -/
def execTimInc (value : BitVec 32) (s : State) : Host.Outcome State Fault Refusal :=
  .next (if incOk value then
      { s with time := { s.time with inc := value, disciplined := if s.time.slewing then s.time.disciplined else value } }
    else s)

/-- The accumulator steps forward by n ns (R331). -/
def State.stepTime (s : State) (n : Nat) : State :=
  { s with time := { s.time with acc := s.time.acc + BitVec.ofNat 56 (n * 2 ^ 24) } }.takeUpDue

/-- TIM_STEP (R331, R343). -/
def execTimStep (value : BitVec 32) (s : State) : Host.Outcome State Fault Refusal :=
  .next (if 0 < value.toNat ∧ value.toNat ≤ 0x3B9ACA00 then s.stepTime value.toNat else s)

/-- ext_stale (R332). -/
def State.extStale (s : State) : Bool := decide (2 ^ 31 ≤ (s.timNs + 2 ^ 32 - s.time.extLo.toNat) % 2 ^ 32)

/-- Write the extension sample for a 64-bit audit time at the present reading of TIM_NS (R333). -/
def TimeUnit.sample (u : TimeUnit) (t : BitVec 64) : TimeUnit :=
  { u with extSeq := u.extSeq + 2, extLo := t.setWidth 32, extHi := (t >>> 32).setWidth 32 }

/-- EXTENSION_UPDATE (R333). -/
def execExtensionUpdate (s : State) : Host.Outcome State Fault Refusal :=
  .next (
    let t := s.auditNow.1
    if s.extStale then
      let s := s.logEv 0x1232 0xFF controlUnit 0
      ({ s with time := { s.time.sample t with state := 0, unset := true } }).cancelAllTimed
    else { s with time := s.time.sample t })

/-! ### Corrections (R337) -/

/-- How a correction was applied: refused, a step, a slew, or nothing to correct. -/
inductive Applied where
  | refused | step | slew | none_
  deriving DecidableEq, Repr

/-- A refused correction (R337). -/
def State.refuseJump (s : State) : State :=
  { s with time := { s.time with jumpRefused := true, refused := s.time.refused + 1 } }.logHourly 0x0230 0xFF 0 controlUnit 0

/-- Apply a correction of `d` ns outside FREE (R337); how far a slew lowers TIM_INC is left open, at most 1,000 ppm. -/
def State.correct (s : State) (d : Int) : State × Applied :=
  let u := { s.time with inc := s.time.disciplined, slewing := false, slewLeft := 0 }
  if (s.time.jump : Int) < d ∨ d < -(s.time.jump : Int) then (s.refuseJump, .refused)
  else if d = 0 then ({ s with time := { u with jumpRefused := false } }, .none_)
  else if 0 < d then (({ s with time := { u with jumpRefused := false, unset := false } }).stepTime d.toNat, .step)
  else
    let room := s.time.disciplined.toNat - Nat.max incLow.toNat (s.time.disciplined.toNat - s.time.disciplined.toNat / 1000)
    let fr := s.draw 32 1
    let low := 1 + fr.1 % Nat.max 1 room
    ({ fr.2 with time := { u with
        jumpRefused := false, unset := false, slewing := true, slewLeft := (-d).toNat
        inc := if room = 0 then s.time.disciplined else s.time.disciplined - BitVec.ofNat 32 (Nat.min low room) } }, .slew)

/-- Set audit time forward in FREE, of any size (R336, R338). -/
def State.setForward (s : State) (t : BitVec 64) : State :=
  let low := t.toNat % 2 ^ 32
  { s with time := { s.time with
      acc := BitVec.ofNat 56 (low * 2 ^ 24 + s.time.acc.toNat % 2 ^ 24), unset := false
      extSeq := s.time.extSeq + 2, extLo := t.setWidth 32, extHi := (t >>> 32).setWidth 32 } }

/-- SLEW_END (R337). -/
def execSlewEnd (s : State) : Host.Outcome State Fault Refusal :=
  .next (if s.time.slewing then
      { s with time := { s.time with inc := s.time.disciplined, slewing := false, slewLeft := 0 } }
    else s)

/-! ### TIME.SET and TIME.TRIM (R338, R443) -/

def ownerOnly : Perm := { bound := false, pf := false, owner := true, other := false }

/-- Response of TIME.SET and TIME.TRIM (R443). -/
def timeResp (s : State) (applied : Nat) : Bytes :=
  leBytes 8 (s.auditNow.1).toNat ++ leBytes 1 applied ++ leBytes 1 s.time.state.toNat ++ List.replicate 6 0

/-- Code of an applied correction (R443). -/
def Applied.code : Applied → Nat
  | .step => 0
  | .slew => 1
  | _ => 3

/-- TIME.SET (R336 to R338, R443). -/
def execTimeSet (e : Envelope) (value : BitVec 64) (rate : BitVec 32) (s : State) : Host.Outcome State Fault Refusal :=
  .next (runCmd s e ⟨0x0601, 16, ownerOnly, .none_, .plain, false, false⟩ fun s _ =>
    if s.settings.ptpEnable ≠ 0 then reply s stWrongState
    else if rate ≠ 0 then reply s stBadArg
    else if s.time.state = 0 then
      if value.toNat < (s.auditNow.1).toNat then reply s stBadArg
      else
        let t := (s.setForward value)
        let t := { t with time := { t.time with state := 1 } }
        reply t stOk (timeResp t 2)
    else
      let r := s.correct ((value.toNat : Int) - ((s.auditNow.1).toNat : Int))
      if r.2 = .refused then reply r.1 stDenied
      else
        let t := { r.1 with time := { r.1.time with state := 1 } }
        reply t stOk (timeResp t r.2.code))

/-- Increment for a rate correction in parts per billion on top of the disciplined rate (R338). -/
def rateInc (base : BitVec 32) (ppb : Int) : Int := (base.toNat : Int) + 0x0A000000 * ppb / 1000000000

/-- TIME.TRIM (R337, R338, R443). -/
def execTimeTrim (e : Envelope) (value : BitVec 64) (rate : BitVec 32) (s : State) : Host.Outcome State Fault Refusal :=
  .next (runCmd s e ⟨0x0602, 16, ownerOnly, .none_, .plain, false, false⟩ fun s _ =>
    if s.settings.ptpEnable ≠ 0 ∨ s.time.state = 0 then reply s stWrongState
    else if rate.toInt < -500000 ∨ 500000 < rate.toInt then reply s stBadArg
    else
      let r := s.correct value.toInt
      if r.2 = .refused then reply r.1 stDenied
      else
        let inc := rateInc r.1.time.disciplined rate.toInt
        let v := BitVec.ofInt 32 inc
        let t := if rate ≠ 0 ∧ incOk v then
            { r.1 with time := { r.1.time with disciplined := v, inc := if r.1.time.slewing then r.1.time.inc else v } }
          else r.1
        reply t stOk (timeResp t r.2.code))

/-! ### PTP (R339, R340) -/

/-- The best of the eligible masters (R339): lowest rank, then lowest identity. -/
def bestMaster : List Master → Option Master
  | [] => none
  | m :: rest => match bestMaster rest with
    | none => some m
    | some b => if m.rank < b.rank ∨ (m.rank = b.rank ∧ m.identity ≤ b.identity) then some m else some b

/-- PTP_ANNOUNCE: masters of the domain in the settings with an accepted sync interval take part (R339). -/
def execPtpAnnounce (identity rank : Nat) (domain : Byte) (logSync : Int) (utcOffset : Byte) (utcValid : Bool) (s : State) :
    Host.Outcome State Fault Refusal :=
  .next (if s.settings.ptpEnable = 0 ∨ domain ≠ s.settings.ptpDomain then s
    else
      let others := s.time.masters.filter fun m => m.identity != identity
      let ms := if -4 ≤ logSync ∧ logSync ≤ 1 then others ++ [⟨identity, rank, logSync, utcOffset, utcValid⟩] else others
      let b := bestMaster ms
      let changed := b.map (·.identity) != s.time.master
      { s with time := { s.time with
          masters := ms, master := b.map (·.identity)
          utcOffset := match b with | some m => if m.utcValid then m.utcOffset else s.time.utcOffset | none => s.time.utcOffset
          utcValid := match b with | some m => s.time.utcValid || m.utcValid | none => s.time.utcValid
          window := if changed then [] else s.time.window
          t1 := if changed then none else s.time.t1, t2 := if changed then none else s.time.t2
          t3 := if changed then none else s.time.t3 } })

/-- A PTP message counts only from the chosen master while PTP is enabled (R339). -/
def State.ptpFrom (s : State) (identity : Nat) : Bool := s.settings.ptpEnable != 0 && s.time.master == some identity

/-- PTP_SYNC: t2 is taken, and t1 from a one-step master (R340). -/
def execPtpSync (identity : Nat) (t1 : Option (BitVec 64)) (s : State) : Host.Outcome State Fault Refusal :=
  .next (if s.ptpFrom identity then
      { s with time := { s.time with t2 := some (s.auditNow.1).toNat, t1 := t1.map (·.toNat), t3 := none } }
    else s)

/-- PTP_FOLLOW_UP: t1 of a two-step master, and t2 at its receive interrupt (R340). -/
def execPtpFollowUp (identity : Nat) (t1 : BitVec 64) (s : State) : Host.Outcome State Fault Refusal :=
  .next (if s.ptpFrom identity && s.time.t2.isSome && s.time.t1.isNone then
      { s with time := { s.time with t2 := some (s.auditNow.1).toNat, t1 := some t1.toNat } }
    else s)

/-- PTP_DELAY_REQ_SENT: t3 is taken (R340). -/
def execPtpDelayReqSent (s : State) : Host.Outcome State Fault Refusal :=
  .next (if s.settings.ptpEnable != 0 && s.time.t2.isSome then
      { s with time := { s.time with t3 := some (s.auditNow.1).toNat } }
    else s)

/-- The exchange with the smallest round trip, the earliest of equals (R340). -/
def bestExchange : List Exchange → Option Exchange
  | [] => none
  | x :: rest => match bestExchange rest with
    | none => some x
    | some y => if x.roundTrip ≤ y.roundTrip then some x else some y

/-- Enter HOLDOVER (R336). -/
def State.enterHoldover (s : State) : State :=
  { s with time := { s.time with
      state := 4, inc := s.time.disciplined, slewing := false, slewLeft := 0, good := 0, bad := 0 } }.logEv 0x0231 0xFF controlUnit 0

/-- AUDIT_HOLDOVER: no usable Sync for 8 intervals (R336). -/
def execAuditHoldover (s : State) : Host.Outcome State Fault Refusal :=
  .next (if s.time.state = 3 then s.enterHoldover else s)

/-- A new rate of the servo, within the range of TIM_INC (R330, R340); the servo's gains are left open. -/
def State.servoRate (s : State) : State :=
  let fr := s.draw 32 2
  let v := incLow + BitVec.ofNat 32 (fr.1 % (incHigh.toNat - incLow.toNat + 1))
  { fr.2 with time := { fr.2.time with disciplined := v, inc := if fr.2.time.slewing then fr.2.time.inc else v } }

/-- An offset of the servo: the part's time is `off` ns ahead of the master's (R336, R337, R340). -/
def State.servo (s : State) (off : Int) : State :=
  if s.time.state = 2 then
    let good := if -50000 ≤ off ∧ off ≤ 50000 then s.time.good + 1 else 0
    let s := if s.time.unset && decide (off < 0) then
        s.setForward (BitVec.ofInt 64 (((s.auditNow.1).toNat : Int) - off))
      else (s.correct (-off)).1
    let s := s.servoRate
    if 16 ≤ good then { s with time := { s.time with state := 3, good := 0, bad := 0 } }
    else { s with time := { s.time with good := good } }
  else if s.time.state = 3 then
    let r := s.correct (-off)
    if r.2 = .refused then
      let bad := s.time.bad + 1
      if 16 ≤ bad then r.1.enterHoldover else { r.1 with time := { r.1.time with bad := bad } }
    else
      let t := r.1.servoRate
      { t with time := { t.time with bad := 0 } }
  else if s.time.state = 4 then
    let good := if off ≤ (s.time.jump : Int) ∧ -(s.time.jump : Int) ≤ off then s.time.good + 1 else 0
    if 4 ≤ good then { s with time := { s.time with state := 3, good := 0, bad := 0 } }
    else { s with time := { s.time with good := good } }
  else s

/-- PTP_DELAY_RESP: t4 completes an exchange; each sixteenth drives the servo (R340). -/
def execPtpDelayResp (identity : Nat) (t4 : BitVec 64) (s : State) : Host.Outcome State Fault Refusal :=
  .next (if s.ptpFrom identity then
      match s.time.t1, s.time.t2, s.time.t3 with
      | some a, some b, some c =>
        let x : Exchange :=
          ⟨((t4.toNat : Int) - a) - ((c : Int) - b), (((b : Int) - a) - ((t4.toNat : Int) - c)) / 2⟩
        let w := s.time.window ++ [x]
        let s := { s with time := { s.time with t1 := none, t2 := none, t3 := none, window := if w.length < 16 then w else [] } }
        if w.length < 16 then s
        else
          match bestExchange w with
          | some y => s.servo y.offset
          | none => s
      | _, _, _ => s
    else s)

end Sys2Proof.Machine
end

