-- ==== Sys2Proof/Machine/Status.lean ====
section
/-! DEFINITION. IDENTIFY, PART.STATUS and LOG.READ (16 R438, R439; 18 R492, R494; 11 R312; 06 R182; 15 R421). -/

namespace Sys2Proof.Machine

/-- Memory stacks fitted, one bit each (00 R2). -/
def variantStacks : Variant → Nat
  | .zx960 | .zx940 => 0xFFFFFFFF
  | .zx920 | .zx910 => 0x55555555

/-- Fabric dies fitted, one bit each (00 R2). -/
def variantFabric : Variant → Nat
  | .zx960 | .zx920 => 0xFFFF
  | .zx940 => 0x5555
  | .zx910 => 0x1111

/-- Model number. -/
def variantNumber : Variant → Nat
  | .zx960 => 960
  | .zx940 => 940
  | .zx920 => 920
  | .zx910 => 910

/-- Tiles that share a fabric die (00 R2). -/
def variantGroup : Variant → Nat
  | .zx960 | .zx920 => 1
  | .zx940 => 2
  | .zx910 => 4

/-- Whether a Golre port exists on the variant (00 R3). -/
def State.hasPort (s : State) (q : Nat) : Bool := decide (q < 64) && (variantFabric s.model).testBit (q / 4)

/-- A mask from a list of bit numbers. -/
def maskOf (l : List Nat) : Nat := l.foldl (fun acc k => if acc.testBit k then acc else acc + 2 ^ k) 0

/-- Clock steps of a region, in MHz, by index (14 R373). -/
def clockSteps : List Nat :=
  [800, 850, 900, 950, 1000, 1050, 1100, 1150, 1200, 1250, 1300, 1350, 1400, 1500, 1650, 1800]

/-- Index of a step. -/
def stepIndex (mhz : Nat) : Nat := (clockSteps.findIdx? (· == mhz)).getD 15

/-- DPIs that the part reports (R17, R349): those that the running firmware lists for its stepping, each with its reference
step. -/
def State.dpis (s : State) : List (BitVec 32 × Nat) :=
  (fmGetD s.active.dpis s.id.stepping.toNat []).map fun d =>
    (d, match s.id.dpis.find? fun x => x.1 == d with | some x => x.2 | none => Config.referenceStep d)

/-! ### The identification memory (20 R518, R523) -/

/-- An ordering code names its model, a stepping as a letter and a digit, and the packaging T or S, padded with spaces. -/
def orderingOk (v : Variant) (c : Bytes) : Bool :=
  let ch (i : Nat) : Nat := (c.getD i 0).toNat
  let n := variantNumber v
  c.length == 24 && c.take 2 == [0x5A, 0x58] && ch 2 == 0x30 + n / 100 && ch 3 == 0x30 + n / 10 % 10 &&
    ch 4 == 0x30 + n % 10 && ch 5 == 0x2D && decide (0x41 ≤ ch 6) && decide (ch 6 ≤ 0x5A) && decide (0x30 ≤ ch 7) &&
    decide (ch 7 ≤ 0x39) && ch 8 == 0x2D && (ch 9 == 0x53 || ch 9 == 0x54) && (c.drop 10).all (· == 0x20)

/-- The 256 bytes of the identification memory. -/
def State.idMemory (s : State) : Bytes :=
  let b := leBytes 8 s.id.serial.toNat ++ s.id.ordering ++ leBytes 4 s.id.manufactured.toNat ++ [s.id.stepping] ++
    List.replicate 215 0
  b ++ leBytes 4 (crc32 b).toNat

/-- A read over FRU_SCL and FRU_SDA: the memory answers at 7-bit address 0x50, from standby alone; it is write-protected. -/
def State.fruRead (s : State) (address off n : Nat) : Option Bytes :=
  if s.boot.standby ∧ address = 0x50 then some ((s.idMemory.drop (off % 256)).take n) else none

def anyone : Perm := { bound := true, pf := true, owner := true, other := true }

/-- Response of IDENTIFY (R438), 320 bytes. -/
def identifyResp (s : State) : Bytes :=
  let v := s.model
  let e (h : Nat) : Bool := (s.endpoint h).enabled
  let position (r : Nat) : Nat :=
    maskOf ((s.boot.failing.filter fun x => x.1 == r).map (·.2)) % 128 + (if (fmGet s.nvm.remap r).isSome then 128 else 0)
  let dpi (d : BitVec 32 × Nat) : Bytes := leBytes 4 d.1.toNat ++ leBytes 2 d.2 ++ leBytes 2 0
  let dpis : Bytes := (s.dpis.flatMap dpi).take 128
  leBytes 8 s.id.serial.toNat ++ leBytes 2 (variantNumber v) ++ [s.id.stepping] ++ leBytes 1 (boolNat s.id.dieB) ++
    leBytes 4 s.active.version.toNat ++ s.active.digest ++ leBytes 2 1 ++ leBytes 2 0 ++ leBytes 4 (variantStacks v) ++
    leBytes 2 (variantFabric v) ++ leBytes 2 (maskOf s.power.degraded) ++ leBytes 1 (boolNat (e 0) + 2 * boolNat (e 1)) ++
    leBytes 1 s.dpis.length ++ leBytes 2 (match s.nvm.plan with | some p => p.partId.toNat | none => 0xFFFF) ++
    (dpis ++ List.replicate (128 - dpis.length) (0 : Byte)) ++ ((List.range 96).flatMap fun r => leBytes 1 (position r)) ++
    leBytes 1 s.power.cls ++ leBytes 1 s.time.state.toNat ++ leBytes 2 0 ++
    leBytes 4 (match s.nvm.plan with | some p => p.generation.toNat | none => 0) ++ leBytes 8 (s.auditNow.1).toNat

/-- IDENTIFY (R438). -/
def execIdentify (e : Envelope) (s : State) : Host.Outcome State Fault Refusal :=
  .next (runCmd s e ⟨0x0001, 0, anyone, .none_, .plain, true, true⟩ fun s _ => reply s stOk (identifyResp s))

/-- Code of a partition state (R398). -/
def PartState.code : PartState → Nat
  | .empty => 0
  | .tainted => 1
  | .ready => 2
  | .developed => 3
  | .running => 4
  | .halted => 5
  | .faulted => 6

/-- A requester is the function bound to a partition. -/
def isBound (s : State) (r : Route) (pid : Nat) : Bool :=
  match r with
  | .fn h k => s.boundTo h k == some pid
  | .session _ => false

/-- HALTED after an overrun (R53). -/
def Partition.overrunHalt (p : Partition) : Bool := p.state == .halted && p.frame.partialState

/-- Response of PART.STATUS (R439), 96 bytes. -/
def statusResp (s : State) (e : Envelope) (pid : Nat) (p : Partition) : Bytes :=
  let hide := p.dark && !isBound s e.route pid
  let flags := boolNat p.dark + 2 * boolNat p.negative.fixed + 4 * boolNat p.hazard.on + 8 * boolNat p.overrunHalt +
    16 * boolNat p.expose.isSome + 32 * boolNat (p.switchAt.isSome) + 64 * boolNat p.slideValid
  leBytes 1 p.state.code ++ leBytes 1 flags ++ leBytes 2 (maskOf p.tiles) ++ leBytes 1 p.hostDie ++ leBytes 1 p.fn ++
    (if hide then [0] else [p.haltCode]) ++ leBytes 1 p.haltSource ++ leBytes 8 p.frame.shutter.toNat ++
    leBytes 8 p.frame.exposure.toNat ++ leBytes 4 p.gen.toNat ++ leBytes 4 p.epoch.toNat ++
    leBytes 2 (if hide then 0 else p.haltBlock.toNat) ++ leBytes 1 p.frame.attempts ++
    leBytes 1 (if p.state = .running then stepIndex p.step else 0xFF) ++ leBytes 4 p.lastFault.toNat ++
    leBytes 8 (match p.frame.stopAt with | some k => k - p.frame.exposure.toNat | none => 0) ++
    (match p.neg with | some n => n.digest | none => List.replicate 48 0)

/-- PART.STATUS (R439). -/
def execPartStatus (e : Envelope) (s : State) : Host.Outcome State Fault Refusal :=
  .next (runCmd s e ⟨0x0002, 0, anyone, .part, .status, false, true⟩ fun s t =>
    match t with
    | none => reply s stBadArg
    | some pid => match s.part pid with
      | none => reply s stBadArg
      | some p => reply s stOk (statusResp s e pid p))

/-! ### LOG.READ -/

/-- Codes whose counts a Darkroom partition hides (R494). -/
def hiddenCount (code : Nat) : Bool := (decide (0x0421 ≤ code) && decide (code ≤ 0x0426)) || code == 0x0440 || code == 0x0441

/-- The 32-byte records of an entry (R492): the base entry, then its continuations. -/
def entryRecords (s : State) (bound : Bool) (e : LogEntry) : List Bytes :=
  let dark := match s.part e.part.toNat with | some p => p.dark | none => false
  let filt := !bound && dark && hiddenCount e.code.toNat
  let flags := e.conts.length + 4 * e.tstate.toNat + 32 * boolNat e.physValid + 64 * boolNat filt
  (leBytes 8 e.index ++ leBytes 8 e.time.toNat ++ leBytes 2 e.code.toNat ++ [e.part] ++ leBytes 1 flags ++
    leBytes 2 e.phys.toNat ++ leBytes 2 e.logical.toNat ++ leBytes 4 e.detail.toNat ++
    leBytes 4 (if filt then 0 else e.count.toNat)) ::
  e.conts.zipIdx.map fun c => leBytes 8 (e.index + 1 + c.2) ++ c.1

/-- Take whole entries while their records fit. -/
def takeEntries (s : State) (bound : Bool) : Nat → List LogEntry → List Bytes
  | _, [] => []
  | room, e :: rest =>
    let r := entryRecords s bound e
    if r.length ≤ room then r ++ takeEntries s bound (room - r.length) rest else []

/-- The head of a LOG.READ response (R439). -/
def logHead (first next count lost : Nat) : Bytes :=
  leBytes 8 first ++ leBytes 8 next ++ leBytes 4 count ++ leBytes 4 lost ++ leBytes 2 32 ++ List.replicate 6 0

/-- Source 0: the part log as the requester may see it (R494). -/
def readLog (s : State) (pid : Option Nat) (maxCount start : Nat) : Bytes :=
  let all := s.log.ring ++ s.log.buf
  let oldest := match all with | e :: _ => e.index | [] => s.log.next
  let from_ := match pid with
    | some p => match s.part p with | some x => Nat.max start x.created | none => start
    | none => start
  let mine := all.filter fun e => decide (from_ ≤ e.index) && (match pid with | some p => e.part.toNat == p | none => true)
  let recs := takeEntries s pid.isSome maxCount mine
  let first := match mine with | e :: _ => e.index | [] => s.log.next
  let last := match recs.getLast? with | some r => leNat (r.take 8) + 1 | none => first
  let more := mine.any fun e => decide (last ≤ e.index)
  logHead first (if more then last else s.log.next) recs.length (oldest - from_) ++ recs.flatten

/-- A hazard record, 32 bytes (R182). -/
def HazRec.bytes (h : HazRec) : Bytes :=
  leBytes 1 h.kind ++ leBytes 1 h.slot ++ leBytes 2 h.block ++ leBytes 4 h.cycle ++ leBytes 2 h.reader ++ leBytes 2 h.writer ++
    leBytes 4 h.target ++ leBytes 4 h.earlyBy ++ leBytes 8 h.exposure.toNat ++ leBytes 4 0

/-- Code of a link state (R312). -/
def LinkState.code : LinkState → Nat
  | .off => 0
  | .training => 1
  | .up => 2
  | .remapping => 3
  | .retraining => 4
  | .degraded => 5
  | .down => 6

/-- Code of a verdict (R310). -/
def Verdict.code : Verdict → Nat
  | .none_ => 0
  | .match_ => 1
  | .matchFar => 2
  | .unplanned => 3
  | .mismatch => 4
  | .swapped => 5
  | .loopback => 6

/-- State that the record of a port shows: a patched port reads UP (R312). -/
def shownState (s : State) (q : Nat) : Nat :=
  if !s.hasPort q then 0 else if (s.port q).patch.isSome then 2 else (s.port q).state.code

/-- The identity record of a port, 32 bytes (R312). -/
def identityRecord (s : State) (q : Nat) : Bytes :=
  let p := s.port q
  leBytes 1 q ++ leBytes 1 p.verdict.code ++ leBytes 1 (shownState s q) ++ leBytes 1 (p.partner.getD 0xFF) ++
    leBytes 4 p.planGen.toNat ++ leBytes 8 p.seenSerial.toNat ++ leBytes 1 p.seenPort ++ leBytes 1 p.vcs ++ leBytes 2 0 ++
    leBytes 4 p.rtt ++ leBytes 8 p.trainedAt.toNat

/-- Records `start` onward of a list, at most `maxCount`. -/
def readRecords (recs : List Bytes) (start maxCount : Nat) : Bytes :=
  let out := (recs.drop start).take maxCount
  logHead start (start + out.length) out.length 0 ++ out.flatten

/-- Partition-wide sums of the counters of 03 R78: clamps, readout clips, invalid T2 bytes, alarms, conversion clips. -/
def State.countSums (s : State) (p : Partition) : List Nat :=
  let mine := s.cells.filter fun q => p.tiles.contains (q.1 / 144)
  let cell (f : Cell → Nat) : Nat := mine.foldl (fun acc q => acc + f q.2) 0
  let clips := s.blocks.foldl (fun acc q => if p.tiles.contains (q.1 / 36) then acc + q.2.convClip.toNat else acc) 0
  [cell (·.clampCount.toNat), cell (·.readClip.toNat), cell (·.t2Invalid.toNat), cell (·.precAlarm.toNat), clips]

/-- The counters of a port (10 R303, 09 R240), lanes, pools and reasons in ascending order. -/
def PortCounters.nums (c : PortCounters) : List Nat :=
  let tab (m : FMap Nat) : List Nat := m.flatMap fun q => [q.1, q.2]
  [c.uncorrectable, c.invalid, c.naksSent, c.naksReceived, c.rewinds, c.resent, c.spilled, c.spillReads, c.maxOutstanding,
    c.idleAdded, c.idleDeleted, c.remaps, c.reservedTypes, c.droppedDegraded, c.droppedBare, c.beaconsIgnored,
    c.delaysDiscarded] ++ tab c.fecCorrected ++ tab c.creditWait ++ tab c.retrains

/-- The counters of a partition: those of 03 R78, the received tokens of 09 R267 and the flagged packets of 09 R263 by landing
window. -/
def State.partCounters (s : State) (p : Partition) : List Nat :=
  s.countSums p ++ [p.tokens] ++ p.flagged.flatMap fun q => [q.1, q.2]

/-- A record of counts: the spec gives no layout, so its 32 bytes are an uninterpreted function of the counts (entry 19). -/
def countRecord (source : Nat) (counts : List Nat) : Bytes := leBytes 32 (Config.countLayout source counts)

/-- LOG.READ (R439, R494). -/
def execLogRead (e : Envelope) (source maxCount : Byte) (start : BitVec 64) (s : State) : Host.Outcome State Fault Refusal :=
  .next (runCmd s e ⟨0x0003, 16, anyone, .maybe, .logRead, false, true⟩ fun s t =>
    let n := maxCount.toNat
    let st := start.toNat
    let hidden := match t with
      | some pid => (match s.part pid with | some p => p.dark && !isBound s e.route pid | none => false)
      | none => false
    if 126 < n then reply s stBadArg
    else if source = 0 then
      let who := match e.route with
        | .fn _ k => if k = 0 then none else t
        | .session _ => none
      reply s stOk (readLog s who n st)
    else if source = 1 then
      match t with
      | none => reply s stBadArg
      | some pid => match s.part pid with
        | none => reply s stBadArg
        | some p => reply s stOk (readRecords (if hidden then [] else p.hazard.ring.map HazRec.bytes) st n)
    else if source = 2 then reply s stOk (readRecords ((List.range 64).map (identityRecord s)) st n)
    else if source = 3 then
      reply s stOk (readRecords ((List.range 64).map fun q => countRecord 3 (q :: (s.port q).cnt.nums)) st n)
    else if source = 4 then
      match t with
      | none => reply s stBadArg
      | some pid => match s.part pid with
        | none => reply s stBadArg
        | some p => reply s stOk (readRecords (if hidden then [] else [countRecord 4 (s.partCounters p)]) st n)
    else reply s stBadArg)

end Sys2Proof.Machine
end

