-- ==== Sys2Proof/Machine/Sessions.lean ====
section
/-! DEFINITION. The management network: sessions, ownership, credentials (16 R444 to R449). -/

namespace Sys2Proof.Machine

/-- Unit of a session event: none. Detail of OWNER_CHANGED: session numbers, the former owner in [31:16] (entry 13). -/
def State.ownerChanged (s : State) (old new : Option Nat) : State :=
  s.logEv 0x0001 0xFF noUnit (new.getD 0 + 65536 * old.getD 0)

/-- An open firmware staging is abandoned when ownership leaves its session (R456). -/
def State.dropStaging (s : State) (n : Nat) : State :=
  match s.staging with
  | some x => if x.session = n then { s with staging := none } else s
  | none => s

/-- Ownership falls vacant (R449). -/
def State.vacate (s : State) : State :=
  match s.owner with
  | some n => (({ s with owner := none }).dropStaging n).ownerChanged (some n) none
  | none => s

/-- Lease left, ms (R449). -/
def State.leaseMs (s : State) : Nat := 10000 - (s.now - s.leaseAt) / 1000000

/-- Session of a route. -/
def sessionNo : Route → Nat
  | .session n => n
  | .fn _ _ => 0

/-- OWN (R449). -/
def execOwn (e : Envelope) (s : State) : Host.Outcome State Fault Refusal :=
  .next (runCmd s e ⟨0x0101, 0, { bound := false, pf := false, owner := true, other := true }, .none_, .plain, false, false⟩
    fun s _ =>
      let n := sessionNo e.route
      match s.owner with
      | none =>
        let t := ({ s with owner := some n, leaseAt := s.now }).ownerChanged none (some n)
        let t := t.notice n 1 n 0
        reply t stOk (leBytes 2 n ++ leBytes 2 0 ++ leBytes 4 10000)
      | some o =>
        if o = n then reply { s with leaseAt := s.now } stOk (leBytes 2 n ++ leBytes 2 0 ++ leBytes 4 10000)
        else reply s stDenied (leBytes 2 o ++ leBytes 2 0 ++ leBytes 4 0))

/-- HANDOVER (R449). -/
def execHandover (e : Envelope) (target : BitVec 16) (s : State) : Host.Outcome State Fault Refusal :=
  .next (runCmd s e ⟨0x0102, 8, ownerOnly, .none_, .plain, false, false⟩ fun s _ =>
    let n := sessionNo e.route
    match fmGet s.sessions target.toNat with
    | some x =>
      if x.role = .operator ∧ target.toNat ≠ n then
        let t := ({ s with owner := some target.toNat, leaseAt := s.now }).dropStaging n
        let t := (t.ownerChanged (some n) (some target.toNat)).notice target.toNat 1 target.toNat 0
        reply t stOk
      else reply s stBadArg
    | none => reply s stBadArg)

/-- RELEASE (R449). -/
def execRelease (e : Envelope) (s : State) : Host.Outcome State Fault Refusal :=
  .next (runCmd s e ⟨0x0103, 0, ownerOnly, .none_, .plain, false, false⟩ fun s _ => reply s.vacate stOk)

/-- HEARTBEAT (R449): answered even while a command of the session runs. -/
def execHeartbeat (e : Envelope) (s : State) : Host.Outcome State Fault Refusal :=
  .next (runCmd s e ⟨0x0104, 0, { bound := false, pf := false, owner := true, other := true }, .none_, .plain, false, false⟩
    fun s _ => reply s stOk (leBytes 4 (if s.owner = some (sessionNo e.route) then s.leaseMs else 0)))

/-- LEASE_EXPIRING: seven seconds without a frame from the owner (R449). -/
def execLeaseExpiring (s : State) : Host.Outcome State Fault Refusal :=
  .next (match s.owner with
    | some n => s.notice n 3 n 0
    | none => s)

/-- LEASE_EXPIRED: ten seconds without a frame (R449, R456). -/
def execLeaseExpired (s : State) : Host.Outcome State Fault Refusal :=
  .next (match s.owner with
    | some n => (s.vacate.notice n 2 0 0).logEv 0x0002 0xFF noUnit n
    | none => s)

/-! ### Sessions (R444, R445) -/

/-- Whether a client's chain matches a credential (R445). -/
def Credential.accepts (c : Credential) (chain : List Bytes) : Bool :=
  if c.authority then Config.validatesTo chain c.cert
  else match chain with
    | leaf :: _ => sha384 (Config.spki leaf) == sha384 (Config.spki c.cert)
    | [] => false

/-- The lowest free session number, 1 to 8 (R444). -/
def State.freeSession (s : State) : Option Nat := ((List.range 8).map (· + 1)).find? fun n => (fmGet s.sessions n).isNone

/-- SESSION_CONNECT (R444, R445). -/
def execSessionConnect (chain : List Bytes) (handshake : Bool) (s : State) : Host.Outcome State Fault Refusal :=
  .next (if !s.serves then s
    else match s.freeSession with
    | none => s.emit .refusedConnection
    | some n =>
      match (if handshake then s.nvm.creds.find? fun q => q.2.accepts chain else none) with
      | some (slot, c) => { s with sessions := fmSet s.sessions n ⟨c.role, slot, {}⟩, lastSession := n }
      | none => (s.logHourly 0x0003 0xFF 0 noUnit 0).emit .refusedConnection)

/-- A session closes (R446, R449, R456). -/
def State.closeSession (s : State) (n : Nat) : State :=
  if (fmGet s.sessions n).isSome then
    let s := if s.owner = some n then s.vacate else s.dropStaging n
    { s with sessions := fmErase s.sessions n }
  else s

/-- SESSION_CLOSE (R446). -/
def execSessionClose (n : Nat) (s : State) : Host.Outcome State Fault Refusal := .next (s.closeSession n)

/-- SESSION_IDLE_TIMEOUT: 60 s without a frame (R444). -/
def execSessionIdleTimeout (n : Nat) (s : State) : Host.Outcome State Fault Refusal :=
  .next (if (fmGet s.sessions n).isSome then (s.closeSession n).emit (.closed n) else s)

/-! ### Committed writes and credentials (R448, R451) -/

/-- A committed write of an NVM item: `ok` is its read-back (R451). -/
def State.commitNvm (s : State) (ok : Bool) (f : Nvm → Nvm) : State × Bool :=
  if ok then
    let n := f s.nvm
    ({ s with nvm := { n with
        sequence := n.sequence + 1, ringUsed := if n.ringUsed < 1024 then n.ringUsed + 1 else 1 } }, true)
  else (s.logEv 0x000A 0xFF controlUnit 0, false)

/-- The lowest free credential slot (R448). -/
def State.freeSlot (s : State) : Option Nat := (List.range 32).find? fun n => (fmGet s.nvm.creds n).isNone

/-- CRED.ENROLL (R436, R448). -/
def execCredEnroll (e : Envelope) (role kind : Byte) (derLength : BitVec 16) (cert : Bytes) (nvm : Bool) (s : State) :
    Host.Outcome State Fault Refusal :=
  .next (runCmd s e ⟨0x0105, 8 + derLength.toNat, { bound := false, pf := true, owner := true, other := false }, .none_, .plain,
      false, false⟩ fun s _ =>
    if (role ≠ 1 ∧ role ≠ 2) ∨ (kind ≠ 0 ∧ kind ≠ 1) ∨ derLength = 0 ∨ 4000 < derLength.toNat ∨ cert.length ≠ derLength.toNat ∨
        Config.isCertificate cert = false then
      reply s stBadArg
    else
      match s.freeSlot with
      | none => reply s stNoResource
      | some slot =>
        let c : Credential := ⟨if role = 1 then .operator else .observer, kind == 1, cert⟩
        let r := s.commitNvm nvm fun n => { n with creds := fmSet n.creds slot c }
        if r.2 then reply r.1 stOk (leBytes 1 slot ++ leBytes 3 0) else reply r.1 stIntegrity)

/-- CRED.REMOVE (R448): the sessions of the removed credential close. -/
def execCredRemove (e : Envelope) (slot : Byte) (nvm : Bool) (s : State) : Host.Outcome State Fault Refusal :=
  .next (runCmd s e ⟨0x0106, 8, ownerOnly, .none_, .plain, false, false⟩ fun s _ =>
    match fmGet s.nvm.creds slot.toNat with
    | none => reply s stBadArg
    | some c =>
      let ops := (s.nvm.creds.filter fun q => q.2.role == .operator).length
      let own := match fmGet s.sessions (sessionNo e.route) with | some x => x.slot == slot.toNat | none => false
      if (c.role = .operator ∧ ops ≤ 1) ∨ own = true then reply s stWrongState
      else
        let r := s.commitNvm nvm fun n => { n with creds := fmErase n.creds slot.toNat }
        if r.2 then
          let gone := (r.1.sessions.filter fun q => q.2.slot == slot.toNat).map (·.1)
          reply (gone.foldl (fun (t : State) n => (t.closeSession n).emit (.closed n)) r.1) stOk
        else reply r.1 stIntegrity)

end Sys2Proof.Machine
end

