-- ==== Sys2Proof/Machine/Settings.lean ====
section
/-! DEFINITION. Persistent settings and firmware images (16 R452 to R456). -/

namespace Sys2Proof.Machine

/-- One packed entry of the settings (R452). -/
def settingEntry (id : Nat) (v : Bytes) : Bytes := leBytes 2 id ++ leBytes 2 v.length ++ v

/-- The entries of a copy in ascending id (R452). -/
def Settings.packed (x : Settings) : Bytes :=
  settingEntry 1 [x.capClass] ++ settingEntry 2 (leBytes 4 x.jump.toNat) ++ settingEntry 3 [x.ptpEnable] ++
    settingEntry 4 [x.ptpTransport] ++ settingEntry 5 [x.ptpDomain] ++ settingEntry 6 [x.iface] ++ settingEntry 7 x.ipv4 ++
    settingEntry 8 x.ipv6 ++ settingEntry 9 [x.endpoints]

/-- settings_digest, over the packed entries of the stored copy (entry 14). -/
def Settings.digest (x : Settings) : Bytes := sha384 x.packed

/-- Apply one entry, or refuse it: unknown id, wrong size, value out of range (R452). -/
def Settings.put (x : Settings) (id : Nat) (v : Bytes) : Option Settings :=
  let b := (v.headD 0)
  let n := leNat v
  if id = 1 then (if v.length = 1 ∧ n ≤ 3 then some { x with capClass := b } else none)
  else if id = 2 then
    (if v.length = 4 ∧ 100000 ≤ n ∧ n ≤ 1000000000 then some { x with jump := BitVec.ofNat 32 n } else none)
  else if id = 3 then (if v.length = 1 ∧ n ≤ 1 then some { x with ptpEnable := b } else none)
  else if id = 4 then (if v.length = 1 ∧ n ≤ 2 then some { x with ptpTransport := b } else none)
  else if id = 5 then (if v.length = 1 ∧ n ≤ 127 then some { x with ptpDomain := b } else none)
  else if id = 6 then (if v.length = 1 ∧ n ≤ 1 then some { x with iface := b } else none)
  else if id = 7 then (if v.length = 12 then some { x with ipv4 := v } else none)
  else if id = 8 then (if v.length = 36 then some { x with ipv6 := v } else none)
  else if id = 9 then (if v.length = 1 ∧ 1 ≤ n ∧ n ≤ 3 then some { x with endpoints := b } else none)
  else none

/-- Apply every entry or none (R452). -/
def Settings.putAll : Nat → Bytes → Settings → Option Settings
  | 0, b, x => if b.isEmpty then some x else none
  | fuel + 1, b, x =>
    if b.isEmpty then some x
    else if b.length < 4 then none
    else
      let n := leNat ((b.drop 2).take 2)
      if b.length < 4 + n then none
      else match x.put (leNat (b.take 2)) ((b.drop 4).take n) with
        | some y => Settings.putAll fuel (b.drop (4 + n)) y
        | none => none

/-- SETTINGS.READ (R452). -/
def execSettingsRead (e : Envelope) (copy : Byte) (s : State) : Host.Outcome State Fault Refusal :=
  .next (runCmd s e ⟨0x0801, 1, anyone, .none_, .plain, false, false⟩ fun s _ =>
    if copy = 0 then reply s stOk s.settings.packed
    else if copy = 1 then reply s stOk s.nvm.settings.packed
    else reply s stBadArg)

/-- PTP is switched on (R336): audit time acquires. -/
def State.applyPtp (s : State) (was : Byte) : State :=
  if was = 0 ∧ s.settings.ptpEnable ≠ 0 ∧ s.time.state.toNat < 2 then
    { s with time := { s.time with state := 2, good := 0, bad := 0, window := [] } }
  else s

/-- SETTINGS.WRITE (R336, R452). -/
def execSettingsWrite (e : Envelope) (entries : Bytes) (s : State) : Host.Outcome State Fault Refusal :=
  .next (runCmd s e ⟨0x0802, 0, ownerOnly, .none_, .plain, false, false⟩ fun s _ =>
    match s.settings.putAll entries.length entries with
    | some x => reply ({ s with settings := x }.applyPtp s.settings.ptpEnable) stOk
    | none => reply s stBadArg)

/-- STORE (R451, R452). -/
def execStore (e : Envelope) (nvm : Bool) (s : State) : Host.Outcome State Fault Refusal :=
  .next (runCmd s e ⟨0x0803, 0, ownerOnly, .none_, .plain, false, false⟩ fun s _ =>
    if s.settings = s.nvm.settings then reply s stOk s.nvm.settings.digest
    else
      let r := s.commitNvm nvm fun n => { n with settings := s.settings }
      if r.2 then reply (r.1.logEv 0x0007 0xFF controlUnit 0) stOk s.settings.digest else reply r.1 stIntegrity)

/-! ### Firmware images (R453 to R456) -/

/-- The two continuation entries that carry a digest (18 R492). -/
def digestConts (d : Bytes) : List Bytes := [d.take 24, d.drop 24]

/-- All bytes are 0. -/
def allZero (b : Bytes) : Bool := b.all (· == 0)

/-- A used stepping entry of an image header: 72 bytes (R453). -/
def steppingOk (b : Bytes) : Bool :=
  let n := leNat ((b.drop 1).take 1)
  decide (1 ≤ n) && decide (n ≤ 16) && allZero ((b.drop 2).take 6) && allZero (b.drop (8 + 4 * n))

/-- DPIs of a stepping entry. -/
def steppingDpis (b : Bytes) : Nat × List (BitVec 32) :=
  let n := leNat ((b.drop 1).take 1)
  (leNat (b.take 1), ((pieces 4 ((b.drop 8).take (4 * n))).map fun x => BitVec.ofNat 32 (leNat x)))

/-- Whether an image keeps the layout of R453. -/
def imageLayout (b : Bytes) : Bool :=
  let count := leNat ((b.drop 16).take 1)
  let ents := pieces 72 ((b.drop 32).take 576)
  decide (1120 ≤ b.length) && leNat (b.take 4) == 0x4952435A && leNat ((b.drop 12).take 4) + 1120 == b.length &&
    decide (1 ≤ count) && decide (count ≤ 8) && allZero ((b.drop 17).take 15) && allZero ((b.drop 608).take 416) &&
    (ents.take count).all steppingOk && (ents.drop count).all allZero

/-- What the part reads of an image. -/
def readImage (b : Bytes) : FwImage :=
  let count := leNat ((b.drop 16).take 1)
  let put (m : FMap (List (BitVec 32))) (x : Bytes) : FMap (List (BitVec 32)) :=
    fmSet m (steppingDpis x).1 (steppingDpis x).2
  { version := BitVec.ofNat 32 (leNat ((b.drop 4).take 4)), svn := BitVec.ofNat 32 (leNat ((b.drop 8).take 4)),
    digest := sha384 b, dpis := ((pieces 72 ((b.drop 32).take 576)).take count).foldl put []
    genuine := imageLayout b && Config.imageGenuine b }

/-- Response of FW.STAGE (R454). -/
def stageResp (x : Option FwImage) : Bytes :=
  match x with
  | some i => i.digest ++ leBytes 4 i.version.toNat ++ leBytes 4 i.svn.toNat
  | none => List.replicate 56 0

/-- FW.STAGE BEGIN (R454): a staged image and a commit not yet active are discarded, the inactive slot is erased. -/
def execFwStageBegin (e : Envelope) (offset total chunkLength : BitVec 32) (s : State) : Host.Outcome State Fault Refusal :=
  .next (runCmd s e ⟨0x0804, 16, ownerOnly, .none_, .plain, false, false⟩ fun s _ =>
    if offset ≠ 0 ∨ chunkLength ≠ 0 ∨ total = 0 ∨ 8388608 < total.toNat then reply s stBadArg
    else
      let n := { s.nvm with selectB := s.activeB }
      let n := if s.activeB then { n with imageA := none } else { n with imageB := none }
      reply { s with nvm := n, staged := none, staging := some ⟨sessionNo e.route, total.toNat, []⟩ } stOk (stageResp none))

/-- FW.STAGE DATA (R454): a chunk out of place abandons the staging. -/
def execFwStageData (e : Envelope) (offset total chunkLength : BitVec 32) (chunk : Bytes) (s : State) :
    Host.Outcome State Fault Refusal :=
  .next (runCmd s e ⟨0x0804, 16 + chunkLength.toNat, ownerOnly, .none_, .plain, false, false⟩ fun s _ =>
    match s.staging with
    | none => reply s stWrongState
    | some x =>
      if x.session ≠ sessionNo e.route then reply s stWrongState
      else if total ≠ 0 ∨ chunkLength = 0 ∨ 4048 < chunkLength.toNat ∨ chunk.length ≠ chunkLength.toNat then reply s stBadArg
      else if offset.toNat ≠ x.got.length ∨ x.total < x.got.length + chunk.length then reply { s with staging := none } stBadArg
      else reply { s with staging := some { x with got := x.got ++ chunk } } stOk (stageResp none))

/-- The image's table lists every DPI that the active image lists for the part's stepping (R454). -/
def dpisCover (s : State) (i : FwImage) : Bool :=
  (fmGetD s.active.dpis s.id.stepping.toNat []).all fun d => (fmGetD i.dpis s.id.stepping.toNat []).contains d

/-- FW.STAGE END (R454). -/
def execFwStageEnd (e : Envelope) (offset total chunkLength : BitVec 32) (s : State) : Host.Outcome State Fault Refusal :=
  .next (runCmd s e ⟨0x0804, 16, ownerOnly, .none_, .plain, false, false⟩ fun s _ =>
    match s.staging with
    | none => reply s stWrongState
    | some x =>
      if x.session ≠ sessionNo e.route then reply s stWrongState
      else if offset ≠ 0 ∨ total ≠ 0 ∨ chunkLength ≠ 0 then reply s stBadArg
      else
        let i := readImage x.got
        if x.got.length ≠ x.total ∨ i.genuine = false then reply { s with staging := none } stIntegrity
        else if dpisCover s i = false ∨ i.svn.toNat < s.active.svn.toNat then reply { s with staging := none } stDenied
        else
          let b := !s.activeB
          let n := if b then { s.nvm with imageB := some i } else { s.nvm with imageA := some i }
          let t := { s with staging := none, staged := some (b, i), nvm := n }
          reply (t.logEv 0x0004 0xFF controlUnit 0 (digestConts i.digest)) stOk (stageResp (some i)))

/-- FW.COMMIT (R455). -/
def execFwCommit (e : Envelope) (nvm : Bool) (s : State) : Host.Outcome State Fault Refusal :=
  .next (runCmd s e ⟨0x0805, 0, ownerOnly, .none_, .plain, false, false⟩ fun s _ =>
    match s.staged with
    | none => reply s stWrongState
    | some (b, i) =>
      let r := s.commitNvm nvm fun n => { n with selectB := b }
      if r.2 then reply (r.1.logEv 0x0005 0xFF controlUnit 0 (digestConts i.digest)) stOk i.digest else reply r.1 stIntegrity)

end Sys2Proof.Machine
end

