-- ==== Sys2Proof/Machine/Power.lean ====
section
/-! DEFINITION. Power, clocks, stretching and temperature (14, 20 R511), and HBM refresh (07 R192). -/

namespace Sys2Proof.Machine

/-- Input power limit of a class, W (R387). -/
def classLimit : Nat → Nat
  | 0 => 7800
  | 1 => 6600
  | 2 => 5400
  | _ => 4600

/-- Guaranteed step of a class, MHz. -/
def classStep : Nat → Nat
  | 0 => 1500
  | 1 => 1300
  | 2 => 1100
  | _ => 800

/-- Ceiling of a class, MHz. -/
def classCeiling : Nat → Nat
  | 0 => 1800
  | 1 => 1500
  | 2 => 1300
  | _ => 1100

/-- POWER.CAP (R388, R443). -/
def execPowerCap (e : Envelope) (cls : Byte) (s : State) : Host.Outcome State Fault Refusal :=
  .next (runCmd s e ⟨0x0603, 8, ownerOnly, .none_, .plain, false, false⟩ fun s _ =>
    if 3 < cls.toNat then reply s stBadArg
    else
      let old := s.power.cls
      let t := { s with power := { s.power with cls := cls.toNat } }
      reply (if cls.toNat = old then t else t.logEv 0x0904 0xFF controlUnit 0) stOk (leBytes 1 old))

/-! ### Stretching (R376, R377, 02 R45) -/

/-- The partition that holds a region, and the region's logical index. -/
def State.regionOwner (s : State) (region : Nat) : Option (Nat × Nat) :=
  match s.ownerOf (region / 6) with
  | none => none
  | some pid => match s.part pid with
    | some p => some (pid, 6 * (p.tiles.findIdx (· == region / 6)) + region % 6)
    | none => none

/-- A stretch counter exceeds the allowance S × C ÷ f of its Exposure (02 R45). -/
def Partition.overStretch (p : Partition) (ns : Nat) : Bool :=
  decide (p.negative.stretch * p.negative.schedLen < ns * 10 * p.step)

/-- Add wall time to the stretch counter of a region of a RUNNING partition (R377, 02 R45). -/
def State.addStretch (s : State) (region ns : Nat) : State :=
  match s.regionOwner region with
  | none => s
  | some (pid, lr) => match s.part pid with
    | none => s
    | some p =>
      if p.state ≠ .running then s
      else
        let v := Nat.min (fmGetD p.frame.stretchNs lr 0 + ns) 0xFFFFFFFF
        let s := s.updFrame pid fun f => { f with stretchNs := fmSet f.stretchNs lr v }
        if p.overStretch v then
          (s.logOnce 0x0203 pid region (regionUnit region lr) 0).updFrame pid fun f => { f with stretchOver := true }
        else s

/-- SUPPLY_DROOP (R376, R378): `periods` periods are lengthened by one eighth for each percent, at most doubled; where a
doubled period is not safe the region stops. -/
def execSupplyDroop (region percent periods : Nat) (low : Bool) (s : State) : Host.Outcome State Fault Refusal :=
  .next (match s.regionOwner region with
    | none => s
    | some (pid, lr) => match s.part pid with
      | none => s
      | some p =>
        if low then
          let s := { s with power := { s.power with gated := region :: s.power.gated } }
          s.raiseFatal pid 0x1905 (regionUnit region lr) 0 (s.presentCycle pid)
        else s.addStretch region (periods * Nat.min percent 8 * 125 / p.step))

/-! ### The governor (R374, R390, R391) -/

/-- R_act (R390). -/
def State.reserved (s : State) : Nat := s.power.reservations.foldl (fun acc r => acc + r.watts) 0

/-- Tiles of a warm die: a key of `warn`. -/
def tileOfDie (v : Variant) (key : Nat) : List Nat :=
  let i := key % 64
  match key / 64 with
  | 0 => [i]
  | 1 => [i / 2]
  | 2 => [i / 2]
  | _ => (List.range (variantGroup v)).map (i + ·)

/-- A thermal warning stands on a tile of the partition. -/
def State.warmTile (s : State) (p : Partition) : Bool :=
  s.power.warn.any fun k => (tileOfDie s.model k).any fun d => p.tiles.contains d

/-- The raise condition of action 4 without its last clause (R391). -/
def State.raiseOk (s : State) (p : Partition) : Bool :=
  let c := s.power.cls
  decide (s.power.a1 + s.reserved + 150 * p.tiles.length ≤ classLimit c) && !s.warmTile p

/-- The step with the next higher index. -/
def stepUp (f : Nat) : Nat := clockSteps.getD (stepIndex f + 1) f
/-- The step with the next lower index. -/
def stepDown (f : Nat) : Nat := clockSteps.getD (stepIndex f - 1) f

/-- The highest step within two bounds. -/
def highestStep (low high : Nat) : Option Nat := (clockSteps.filter fun f => decide (low ≤ f) && decide (f ≤ high)).getLast?

/-- An Open-mode partition whose step the governor moves (R374). -/
def Partition.governed (p : Partition) : Bool := !p.negative.fixed && decide (p.negative.fFloor < p.negative.fSched)

/-- A RUNNING partition is throttled: nothing but the class and warnings keeps it below its steps (R395). -/
def Partition.throttled (p : Partition) : Bool :=
  p.state == .running && decide (p.step < Nat.min p.negative.fSched p.negative.fMax)

/-- Lower the step: logged, and the partition's event bit (R391, R395). -/
def State.lowerStep (s : State) (pid f : Nat) : State × Nat :=
  let s := s.logEv 0x0901 pid noUnit 0
  match s.part pid with
  | some p => (s.updFunc p.hostDie p.fn fun x => { x with pwrEvents := x.pwrEvents ||| 4 }, f)
  | none => (s, f)

/-- Step of the next Exposure at a Shutter after the launch, or none where it would lie below the floor (R374, R391). -/
def State.governor (s : State) (pid : Nat) (p : Partition) : State × Option Nat :=
  let n := p.negative
  let ceil := classCeiling s.power.cls
  if n.fixed || !p.governed then
    let f := match n.sealRec with | some x => x.2.1 | none => n.fSched
    (s, if f ≤ ceil then some f else none)
  else
    let top := Nat.min n.fMax ceil
    if ceil < p.step then
      match highestStep n.fFloor top with
      | some f => let r := s.lowerStep pid f
                  (r.1, some r.2)
      | none => (s, none)
    else if s.warmTile p ∧ n.fFloor < p.step then
      let r := s.lowerStep pid (stepDown p.step)
      (r.1, some r.2)
    else if classStep s.power.cls < p.step ∧ 97 * classLimit s.power.cls < 100 * s.power.a1 then
      if n.fFloor ≤ stepDown p.step then
        let r := s.lowerStep pid (stepDown p.step)
        (r.1, some r.2)
      else (s, some p.step)
    else if p.step < top ∧ s.raiseOk p ∧ p.frame.limited = false then
      ({ s with power := { s.power with reservations := s.power.reservations ++ [⟨pid, 150 * p.tiles.length⟩] } },
        some (stepUp p.step))
    else (s, some p.step)

/-- Step of the first Exposure at a launch (R374). -/
def State.launchStep (s : State) (p : Partition) : Option Nat :=
  let n := p.negative
  let g := classStep s.power.cls
  let ceil := classCeiling s.power.cls
  if n.fixed || !p.governed then
    let f := match n.sealRec with | some x => x.2.1 | none => n.fSched
    if f ≤ ceil then some f else none
  else if n.fSched ≤ g ∨ (n.fSched ≤ ceil ∧ s.raiseOk p) then some n.fSched
  else highestStep n.fFloor g

/-- RESERVATION_EXPIRY: 1 ms after a raise (R390). -/
def execReservationExpiry (part : Nat) (s : State) : Host.Outcome State Fault Refusal :=
  .next (match s.power.reservations.find? fun r => r.part == part with
    | some r => { s with power := { s.power with reservations := s.power.reservations.erase r } }
    | none => s)

/-! ### The fast limiter (R392) -/

/-- Regions of a RUNNING partition. -/
def runningRegions (q : Nat × Partition) : List Nat :=
  if q.2.state = .running then q.2.tiles.flatMap fun d => (List.range 6).map (6 * d + ·) else []

/-- Regions that the limiter chooses (R392). -/
def State.limiterChoice (s : State) : List Nat :=
  let fast := s.parts.filter fun q => q.2.state == .running && decide (classStep s.power.cls < q.2.step)
  if fast.isEmpty then List.range 96 else fast.flatMap runningRegions

/-- RUNNING partitions with a region in a list. -/
def State.touched (s : State) (regions : List Nat) : List Nat :=
  (s.parts.filter fun q => (runningRegions q).any fun r => regions.contains r).map (·.1)

/-- FAST_LIMITER (R389, R392, R395). -/
def execFastLimiter (a20 : Nat) (s : State) : Host.Outcome State Fault Refusal :=
  .next (
    let s := { s with power := { s.power with a20 := a20 } }
    if a20 ≤ classLimit s.power.cls ∨ s.power.limiter.isSome then s
    else
      let rs := s.limiterChoice
      let s := { s with power := { s.power with limiter := some rs } }
      let s := (s.updFunc 0 0 fun x => { x with pwrEvents := x.pwrEvents ||| 1 }).updFunc 1 0 fun x =>
        { x with pwrEvents := x.pwrEvents ||| 1 }
      (s.touched rs).foldl (fun (s : State) pid =>
        let s := (s.logEv 0x0902 pid noUnit 0).updFrame pid fun f => { f with limited := true }
        match s.part pid with
        | some p => s.updFunc p.hostDie p.fn fun x => { x with pwrEvents := x.pwrEvents ||| 1 }
        | none => s) s)

/-- LIMITER_STOP: one ninth of the interval enters the stretch counters (R392). -/
def execLimiterStop (a20 ns : Nat) (s : State) : Host.Outcome State Fault Refusal :=
  .next (
    let s := { s with power := { s.power with a20 := a20 } }
    match s.power.limiter with
    | none => s
    | some rs =>
      if 98 * classLimit s.power.cls ≤ 100 * a20 then s
      else
        let s := (s.touched rs).foldl (fun (s : State) pid => s.updFrame pid fun f => { f with limited := true }) s
        let s := rs.foldl (fun (s : State) r => s.addStretch r (ns / 9)) s
        { s with power := { s.power with limiter := none } })

/-! ### Temperature (R393, 07 R192) -/

/-- Number of a kind of die, and its thresholds: warning, limiter, shutdown. -/
def dieClass : DieKind → Nat × Int × Option Int × Int
  | .compute => (0, 95, some 105, 115)
  | .sram => (1, 95, some 105, 115)
  | .stack => (2, 95, some 100, 105)
  | .fabric => (3, 100, none, 120)

/-- Thresholds of a die key. -/
def keyClass (k : Nat) : Nat × Int × Option Int × Int :=
  match k / 64 with
  | 0 => dieClass .compute
  | 1 => dieClass .sram
  | 2 => dieClass .stack
  | _ => dieClass .fabric

/-- The event bit of a threshold on the bound functions of the tile and on the physical functions (R395). -/
def State.thermalEvent (s : State) (key : Nat) : State :=
  let bit (s : State) (h k : Nat) : State := s.updFunc h k fun x => { x with pwrEvents := x.pwrEvents ||| 2 }
  let s := bit (bit s 0 0) 1 0
  (tileOfDie s.model key).foldl (fun (s : State) d => match s.ownerOf d with
    | some pid => (match s.part pid with | some p => bit s p.hostDie p.fn | none => s)
    | none => s) s

/-- Whether the variant has a die: an absent one has no sensor and no domain (00 R3). -/
def hasDie (v : Variant) : DieKind → Nat → Bool
  | .compute, i => decide (i < 16)
  | .sram, i => decide (i < 32)
  | .stack, i => decide (i < 32) && (variantStacks v).testBit i
  | .fabric, i => decide (i < 16) && (variantFabric v).testBit i

/-- One reading of a die's sensor. -/
def State.readDie (s : State) (x : DieKind × Nat × Int) : State :=
  let c := dieClass x.1
  let key := 64 * c.1 + x.2.1
  let t := x.2.2
  let tile := (tileOfDie s.model key).headD 0
  let s := { s with power := { s.power with temps := fmSet s.power.temps key t } }
  -- warning
  let s := if c.2.1 ≤ t ∧ ¬ s.power.warn.contains key then
      (({ s with power := { s.power with warn := key :: s.power.warn } }).logEv 0x0903 ((s.ownerOf tile).getD 0xFF)
        (if c.1 = 3 then fabricUnit x.2.1 else tileUnit tile) 0).thermalEvent key
    else if t ≤ c.2.1 - 5 then { s with power := { s.power with warn := s.power.warn.filter (· != key) } }
    else s
  -- limiter: one period in four doubled over the 100 µs since the reading before
  match c.2.2.1 with
  | none => s
  | some l =>
    let s := if s.power.limit.contains key then
        ((tileOfDie s.model key).flatMap fun d => (List.range 6).map (6 * d + ·)).foldl (fun (s : State) r => s.addStretch r 20000) s
      else s
    if l ≤ t then
      if s.power.limit.contains key then s
      else ({ s with power := { s.power with limit := key :: s.power.limit } }).thermalEvent key
    else { s with power := { s.power with limit := s.power.limit.filter (· != key) } }

/-- THERMAL_SAMPLE (R393, 20 R517). -/
def execThermalSample (readings : List (DieKind × Nat × Int)) (s : State) : Host.Outcome State Fault Refusal :=
  .next (
    let readings := readings.filter fun x => hasDie s.model x.1 x.2.1
    let s := readings.foldl State.readDie s
    match readings.find? fun x => decide ((dieClass x.1).2.2.2 ≤ x.2.2) with
    | some x =>
      let tile := (tileOfDie s.model (64 * (dieClass x.1).1 + x.2.1)).headD 0
      if s.boot.fatal = some 0x3907 then s
      else if s.boot.step < 4 then { s with pins := { s.pins with therm := true } }
      else
        let s := s.partFatal 0x3907 ((s.ownerOf tile).getD 0xFF)
          (if x.1 = .fabric then fabricUnit x.2.1 else tileUnit tile) 0
        { s with pins := { s.pins with therm := true } }
    | none =>
      let hot := s.power.temps.any fun q => match (keyClass q.1).2.2.1 with
        | some l => decide (l ≤ q.2)
        | none => false
      { s with pins := { s.pins with therm := hot || s.boot.fatal == some 0x3907 } })

/-- HBM_REFRESH (07 R192): each upward crossing of 85 °C is logged, also while the refresh is doubled still. The log has no unit
kind for a stack; the entry names its tile (entry 135: DESIGN CHOICE). -/
def execHbmRefresh (stack : Nat) (celsius : Int) (s : State) : Host.Outcome State Fault Refusal :=
  .next (
    let w := s.power
    if !(variantStacks s.model).testBit stack || decide (32 ≤ stack) then s
    else if 85 < celsius then
      let t := { s with power := { w with doubled := if w.doubled.contains stack then w.doubled else stack :: w.doubled } }
      if w.hot.contains stack then t
      else ({ t with power := { t.power with hot := stack :: w.hot } }).logEv 0x0305
        ((s.ownerOf (stack / 2)).getD 0xFF) (tileUnit (stack / 2)) 0
    else { s with power := { w with
      hot := w.hot.filter (· != stack), doubled := if celsius < 83 then w.doubled.filter (· != stack) else w.doubled } })

/-! ### Domains, supplies and generators (R379, R386, R394) -/

/-- Whether the variant has a power domain: an absent die has none (00 R3, R386). -/
def hasDomain (v : Variant) : Domain → Bool
  | .host h => decide (h < 2)
  | .fabric f => hasDie v .fabric f
  | .stack k => hasDie v .stack k
  | .sram k => hasDie v .sram k
  | .region r => decide (r < 96)

/-- Mark tiles as degraded. -/
def State.degrade (s : State) (tiles : List Nat) : State :=
  { s with power := { s.power with degraded := s.power.degraded ++ tiles.filter fun d => !s.power.degraded.contains d } }

/-- Tiles whose partition a domain fault takes (R386). -/
def domainTiles (v : Variant) : Domain → List Nat
  | .host _ => []
  | .fabric f => (List.range (variantGroup v)).map (f + ·)
  | .stack k => [k / 2]
  | .sram k => [k / 2]
  | .region r => [r / 6]

/-- Raise a partition-fatal fault against each partition of a list, or a part-wide entry where there is none. -/
def State.faultEach (s : State) (pids : List Nat) (code : Nat) (u : LogUnit) (detail : Nat) : State :=
  match pids with
  | [] => s.logEv code 0xFF u detail
  | l => l.foldl (fun (s : State) pid => s.partitionFatal pid code u detail []) s

/-- A fabric die goes off: its tables and ports are gone (R386, 01 R29). -/
def State.dropDie (s : State) (f : Nat) : State :=
  { s with
    dies := fmErase s.dies f
    tx := s.tx.filter fun q => q.1 / 4 != f
    ports := [0, 1, 2, 3].foldl (fun (ps : FMap Port) k => fmSet ps (4 * f + k) { s.port (4 * f + k) with state := .off }) s.ports }

/-- DOMAIN_FAULT (R386): how the detail word names the domain is left open. -/
def execDomainFault (d : Domain) (s : State) : Host.Outcome State Fault Refusal :=
  .next (if !hasDomain s.model d then s else
    let fr := s.draw 32 3
    let s := fr.2
    let tiles := domainTiles s.model d
    let owners := match d with
      | .host h => (s.parts.filter fun q => q.2.hostDie == h).map (·.1)
      | _ => (s.parts.filter fun q => q.2.tiles.any fun t => tiles.contains t).map (·.1)
    let u := match d with
      | .host h => dieUnit h
      | .fabric f => fabricUnit f
      | .stack k => tileUnit (k / 2)
      | .sram k => tileUnit (k / 2)
      | .region r => regionUnit r 0xFFFF
    let s := { s with power := { s.power with off := d :: s.power.off } }
    let s := (s.degrade tiles).faultEach owners 0x2906 u fr.1
    match d with
    | .fabric f => s.dropDie f
    | .host h => s.updEp h fun e => { e with linkUp := false }
    | _ => s)

/-- INPUT_SUPPLY_FAULT (R394, 20 R511). -/
def execInputSupplyFault (millivolts micros : Nat) (s : State) : Host.Outcome State Fault Refusal :=
  if 72000 < millivolts then .fault .inputAbove72V
  else .next (
    let inRange := decide (40000 ≤ millivolts) && decide (millivolts ≤ 60000)
    let s := { s with power := { s.power with millivolts := millivolts } }
    let early := s.draw 1 4
    if inRange ∨ s.boot.supply48 = false then s
    else if s.boot.step < 4 then { s with boot := { s.boot with supply48 := false } }
    else if 100 < micros ∨ (millivolts < 30000 ∧ early.1 = 1) then
      let s := if 100 < micros then s else early.2
      let s := { s with boot := { s.boot with supply48 := false } }
      let s := s.partFatal 0x3908 0xFF controlUnit 0
      (s.updEp 0 fun e => { e with linkUp := false }).updEp 1 fun e => { e with linkUp := false }
    else if millivolts < 30000 then early.2
    else s)

/-- STANDBY_LOSS (R394, 18 R491, 20 R512): only what manufacture and NVM hold remains. -/
def execStandbyLoss (s : State) : Host.Outcome State Fault Refusal :=
  .next { State.reset with
    model := s.model, id := s.id, nvm := s.nvm, staged := s.staged
    log := { next := s.log.next, ring := s.log.ring }
    boot := { step := 0, standby := false, supply48 := s.boot.supply48 }
    pins := { pwrOk := false, fault := false, therm := false }
    eps := [(0, { linkUp := false }), (1, { linkUp := false })]
    mon := { enabled := false }
    free := s.free, firmware := s.firmware, now := s.now, out := s.out, pending := s.pending }

/-- Raise CLOCK_GENERATOR_FAULT (04 R120). -/
def State.generatorFault (s : State) (region : Nat) : State :=
  s.faultEach ((s.regionOwner region).toList.map (·.1)) 0x2505
    (regionUnit region (match s.regionOwner region with | some x => x.2 | none => 0xFFFF)) 0

/-- CLOCK_GENERATOR_FAULT (04 R120, R375, R379). -/
def execClockGeneratorFault (region : Nat) (s : State) : Host.Outcome State Fault Refusal :=
  .next (if region < 96 then s.generatorFault region else s)

/-- A region's generator is stopped: its partition is DEVELOPED, HALTED, READY or TAINTED (R379). -/
def State.stoppedRegion (s : State) (region : Nat) : Bool :=
  match s.regionOwner region with
  | none => false
  | some (pid, _) => match s.part pid with
    | some p => p.state == .developed || p.state == .halted || p.state == .ready || p.state == .tainted
    | none => false

/-- CLOCK_WAKE (R379). -/
def execClockWake (region : Nat) (started : Bool) (s : State) : Host.Outcome State Fault Refusal :=
  .next (if !s.stoppedRegion region then s
    else if started then
      (if s.power.awake.contains region then s else { s with power := { s.power with awake := region :: s.power.awake } })
    else s.generatorFault region)

/-- REGION_IDLE_STOP (R379). -/
def execRegionIdleStop (region : Nat) (s : State) : Host.Outcome State Fault Refusal :=
  .next (if s.stoppedRegion region then
      { s with power := { s.power with awake := s.power.awake.filter (· != region) } }
    else s)

end Sys2Proof.Machine
end

