-- ==== Sys2Proof/Machine/Queues.lean ====
section
/-! DEFINITION. DMA queues (17 R471 to R474), and what the host's accesses to a partition's memory do (02 R57, 07 R191
R197 R202, 13 R350, 17 R467). -/

namespace Sys2Proof.Machine

def State.queue (s : State) (h k q : Nat) : Queue := fmGetD (s.func h k).queues q {}
def State.updQueue (s : State) (h k q : Nat) (f : Queue → Queue) : State :=
  s.updFunc h k fun x => { x with queues := fmSet x.queues q (f (fmGetD x.queues q {})) }

/-! ### Refusals (R467, R469, R477) -/

/-- A BAR2 access or descriptor is refused: its bit, the count, and HOST_ACCESS_REFUSED at the first in each hour. -/
def State.hostRefused (s : State) (h k bitNo : Nat) : State :=
  (s.hifErr h k bitNo).logHourly 0x0101 ((s.boundTo h k).getD 0xFF) (64 * h + k) (dieUnit h) 0

/-- A refusal under R399 of a BAR2 access or descriptor. -/
def State.hostNotTee (s : State) (h k : Nat) : State :=
  (s.hostRefused h k 3).logHourly 0x0802 ((s.boundTo h k).getD 0xFF) (64 * h + k) (dieUnit h) 0

/-- Set a bit of HIF_ERR without counting a refusal. -/
def State.errBit (s : State) (h k bitNo : Nat) : State :=
  s.updFunc h k fun f => { f with err := f.err ||| (1#32 <<< bitNo) }

/-- The host die serves BAR2 and DMA for the partition (R233, R399). -/
def Partition.servesHost (p : Partition) : Bool :=
  (p.state == .ready || p.state == .developed || p.state == .running || p.state == .halted) &&
    (match p.busy with | some (.agree _ _ _ _) => false | _ => true)

/-! ### Bytes that land and bytes that leave -/

/-- First byte of a range, counted from its start, that meets an input buffer in use (02 R57). -/
def Partition.firstInUse (p : Partition) (x n : Nat) : Nat :=
  p.negative.inputs.foldl (fun acc w =>
    let b := p.behind false w
    if meets x n b w.len then Nat.min acc (if x < b then b - x else 0) else acc) n

/-- INPUT_WRITE_DISCARDED: the first discarded write of an Exposure is logged, all are counted (02 R57, R60). -/
def State.inputDiscarded (s : State) (pid : Nat) : State :=
  (s.logOnce 0x0206 pid 0 noUnit 0).updFrame pid fun f => { f with inputDiscards := f.inputDiscards + 1 }

/-- A host write into HBM: a partial write reads its line first, and is not performed where that read fails; a transfer stops there
(07 R191, R202, 17 R473). Answers the bytes before the first such line, where there is one. -/
def State.hostHbmWrite (s : State) (a : Nat) (bs : Bytes) (stops : Bool) (line : StreamEnd) : State × Option Nat :=
  (lineParts a bs).foldl (fun (acc : State × Option Nat) p =>
    if stops && acc.2.isSome then acc
    else if p.2.length < 64 && (acc.1.poisoned p.1 p.2.length || (readFails line && acc.2.isNone)) then
      (acc.1, acc.2.or (some (p.1 - a)))
    else (acc.1.hbmWrite p.1 p.2, acc.2)) (s, none)

/-- Bytes of a host transfer land at a logical address of the partition; the bytes before a poisoned line that a partial write
meets. -/
def State.hostLand (s : State) (pid x : Nat) (bs : Bytes) (stops : Bool) (line : StreamEnd) : State × Option Nat :=
  match s.part pid with
  | none => (s, none)
  | some p => match p.toLocal s.model x bs.length with
    | none => (s, none)
    | some a =>
      if isHbm x then (s.partTraffic pid .host none a bs.length).hostHbmWrite a bs stops line
      else (s.storeWrite a bs (s.region (regionOf a)).served 0xFFFFFFFF 0xFFFFFFFF, none)

/-- What a host read of a range meets. -/
def State.hostReadEnd (s : State) (a n : Nat) (hbm : Bool) (line : StreamEnd) : StreamEnd := if hbm then s.readEnd a n line else line

/-- Events of a partial write that is not performed: those of the read that failed. -/
def State.partialFails (s : State) (pid a : Nat) (line : StreamEnd) : State :=
  s.readEvents pid a 1 (if s.poisoned a 1 then .uncorrectable else line)

/-- Events of a host read (07 R190, R191, R202; 04 R120 for the stores). -/
def State.hostReadEvents (s : State) (pid x a n : Nat) (fin : StreamEnd) : State :=
  if isHbm x then s.readEvents pid a n fin
  else
    let region := (a - 0x800000000000) / 0x20000000
    let cell := (a - 0x900000000000) / 0x100000
    match fin with
    | .good => s
    | .corrected =>
      if a < 0x900000000000 then s.regionEcc pid region 0xFFFF .corrected 0 else s.logOnce 0x0401 pid cell (s.cellUnit cell 0xFFFF) 0
    | _ =>
      if a < 0x900000000000 then s.regionEcc pid region 0xFFFF .uncorrectable (s.presentCycle pid)
      else s.raiseFatal pid 0x1402 (s.cellUnit cell 0xFFFF) 0 (s.presentCycle pid)

/-! ### Descriptors (R472, R473) -/

/-- Descriptor status codes. -/
def dsState : Byte := 1
def dsWindow : Byte := 2
def dsRefused : Byte := 3
def dsPoisoned : Byte := 4
def dsHostError : Byte := 5
def dsBadDesc : Byte := 6
def dsNotTee : Byte := 7
def dsAborted : Byte := 8

/-- Whether a host-to-partition transfer may be refused under R350, or a transfer of either direction under R112. -/
def Partition.refusesDma (p : Partition) (v : Variant) (d : Descriptor) : Bool :=
  let x := d.part.toNat
  let n := d.length.toNat
  (d.direction == 0 && p.sealedWrite v x n) || (p.state == .running && p.negative.fixed && !isHbm x)

/-- The tests before any byte moves, in their order (R473). -/
def descVerdict (s : State) (h k : Nat) (d : Descriptor) (tee : Bool) : Byte :=
  if 1 < d.direction.toNat ∨ d.rsvd = true ∨ 0x40000000 < d.length.toNat then dsBadDesc
  else if s.teeFails h k tee then dsNotTee
  else match s.boundTo h k with
    | none => dsState
    | some pid => match s.part pid with
      | none => dsState
      | some p =>
        if !p.servesHost then dsState
        else if d.length = 0 then 0
        else if (p.toLocal s.model d.part.toNat d.length.toNat).isNone then dsWindow
        else if p.refusesDma s.model d then dsRefused
        else 0

/-- Effects of a descriptor's status other than its completion bytes (R469, R473, R477). -/
def State.descEvents (s : State) (h k : Nat) (st : Byte) : State :=
  if st = dsState then s.hostRefused h k 1
  else if st = dsWindow then s.hostRefused h k 0
  else if st = dsRefused then s.hostRefused h k 2
  else if st = dsNotTee then s.hostNotTee h k
  else if st = dsBadDesc then
    (s.updFunc h k fun f => { f with errCount := satAdd f.errCount 1 }).logHourly 0x0101
      ((s.boundTo h k).getD 0xFF) (64 * h + k) (dieUnit h) 0
  else if st = dsPoisoned then s.errBit h k 4
  else if st = dsHostError then s.logEv 0x0102 ((s.boundTo h k).getD 0xFF) (dieUnit h) 0
  else s

/-- Number of descriptors in a ring (R471). -/
def Queue.ringSize (q : Queue) : Nat := 2 ^ (q.size.toNat + 4)

/-! ### Host transfers at the stores of a running partition (04 R107, R110, R112) -/

/-- A queue as a requester. -/
def hostTag (h k q : Nat) : Nat := (17 * h + k) * 8 + q

/-- A range of a store becomes free values while the host writes it: what a running Exposure reads there is undefined
(R112). -/
def State.freeRange (s : State) (a n : Nat) : State :=
  { s with free := s.free + 1 }.write a ((List.range n).map fun j => BitVec.ofNat 8 (Config.freeBits s.free j))

/-- A descriptor that moves data of a store of a running partition asks for it: port F of the cell, as host DMA without a
deadline, or the banks of the region store, as part-level traffic (R107, R110, R112, entry 127). -/
def State.fileHost (s : State) (h k q : Nat) (p : Partition) (d : Descriptor) : State :=
  match p.toLocal s.model d.part.toNat d.length.toNat with
  | none => s
  | some a =>
    if p.state ≠ .running ∨ a < 0x800000000000 then s
    else
      let n := d.length.toNat
      let writes := d.direction == 0
      let r := regionOf a
      let now_ := (s.region r).served
      let s := if 0x900000000000 ≤ a then
          let ix := (a - 0x900000000000) / 0x100000
          s.updBlock (ix / 4) fun b => { b with pf := b.pf ++ [{
            kind := if writes then .hostWrite else .hostRead, cell := BitVec.ofNat 2 ix, d := 0xFFFFFFFF, rank := 5, ready := now_
            total := cdiv n 256, done := 0, src := a, dst := a, issue := 0, stated := 0xFFFFFFFF, turn := 0, owner := false
            writer := 0xFFFF, tag := hostTag h k q, idx := hostTag h k q }] }
        else s.updRegion r fun g => { g with reqs := g.reqs ++ [{
            kind := if writes then .hostWrite else .hostRead, rank := 4, idx := hostTag h k q, d := 0xFFFFFFFF, first := now_ + 1
            total := cdiv n 256, done := 0, addr := a, block := 0, issue := 0, tag := hostTag h k q, stated := 0xFFFFFFFF
            writer := 0xFFFF }] }
      if writes then (s.updQueue h k q fun x => { x with underway := some (a, s.readMem a n) }).freeRange a n else s

/-- A transfer ends: its request leaves the arbiters, and bytes that it has not written stand as before. -/
def State.closeHost (s : State) (h k q : Nat) : State :=
  let tag := hostTag h k q
  let s : State := { s with
    blocks := s.blocks.map fun b => (b.1, { b.2 with pf := b.2.pf.filter fun x =>
      !((decide (x.kind = .hostWrite) || decide (x.kind = .hostRead)) && x.tag == tag) })
    regions := s.regions.map fun g => (g.1, { g.2 with reqs := g.2.reqs.filter fun x =>
      !((decide (x.kind = .hostWrite) || decide (x.kind = .hostRead)) && x.tag == tag) }) }
  match (s.queue h k q).underway with
  | some (a, old) => (s.write a old).updQueue h k q fun x => { x with underway := none }
  | none => s

/-- The descriptor in execution completes: its completion bytes are written, done counts, head advances and the cause is
raised if asked (R474). -/
def State.completeDesc (s : State) (h k q : Nat) (st : Byte) (moved : Nat) : State :=
  let x := s.queue h k q
  match x.cur with
  | none => s
  | some d =>
    let s := (s.closeHost h k q).descEvents h k st
    let a := x.base.toNat + 64 * x.head.toNat + 32
    let s := if (s.endpoint h).linkUp then s.emit (.hostWrite h a (leBytes 4 moved ++ [st, BitVec.ofNat 8 (boolNat d.phase)])) else s
    let next := x.head.toNat + 1
    let wrap := next == x.ringSize
    let s := s.updQueue h k q fun x => { x with
      cur := none, verdict := 0, done := x.done + 1
      head := if wrap then 0 else BitVec.ofNat 12 next
      phase := if wrap then !x.phase else x.phase }
    if d.interrupt then s.setCause h k (8 + q) else s

/-- The queue examines the descriptor at head (R474). -/
def State.examine (s : State) (h k q : Nat) (d : Descriptor) (tee : Bool) : State :=
  let x := s.queue h k q
  if d.phase = x.phase then
    let v := descVerdict s h k d tee
    let s := s.updQueue h k q fun x => { x with cur := some d, verdict := v, again := false }
    match s.boundTo h k with
    | some pid => match s.part pid with
      | some p =>
        if v = 0 ∧ isHbm d.part.toNat = false then s.fileHost h k q p d
        else s
      | none => s
    | none => s
  else s.updQueue h k q fun x => { x with again := false }

/-- The descriptor in execution stops part-way: `bs` are the bytes moved so far from the host. -/
def State.stopDesc (s : State) (h k q : Nat) (st : Byte) (d : Descriptor) (bs : Bytes) : State :=
  let bs := bs.take d.length.toNat
  let s := s.closeHost h k q
  let r : State × Option Nat := if d.direction = 0 then
      (match s.boundTo h k with
       | some pid => match s.part pid with
         | some p => if p.servesHost then s.hostLand pid d.part.toNat bs true .good else (s, none)
         | none => (s, none)
       | none => (s, none))
    else (s, none)
  r.1.completeDesc h k q st (r.2.getD bs.length)

/-- Bytes that a stopped transfer has moved: the spec fixes neither their number nor, for a read of host memory, what they
hold. -/
def State.freeTransfer (s : State) (d : Descriptor) : Bytes × State :=
  let n := Config.freeBits s.free 0 % (d.length.toNat + 1)
  ((List.range n).map fun j => BitVec.ofNat 8 (Config.freeBits s.free (j + 1)), { s with free := s.free + 1 })

/-- Stop the descriptors in execution on every queue of a function (R459, R473, R483). -/
def State.stopQueues (s : State) (h k : Nat) (st : Byte) (lands : Bool) : State :=
  (List.range 8).foldl (fun (s : State) q =>
    match (s.queue h k q).cur with
    | none => s
    | some d =>
      if (s.queue h k q).verdict ≠ 0 ∨ d.length = 0 then s.completeDesc h k q st 0
      else
        let fr := s.freeTransfer d
        if lands then fr.2.stopDesc h k q st d fr.1 else fr.2.completeDesc h k q st fr.1.length) s

/-! ### The queue commands (R474, R475) -/

/-- A TDI enters ERROR (R408): the event is logged, and a Darkroom partition halts at the next Shutter. -/
def State.tdiError (s : State) (h k : Nat) : State :=
  let f := s.func h k
  if f.tdi = .unlocked ∨ f.tdi = .error then s
  else
    let s := s.updFunc h k fun f => { f with tdi := .error }
    match s.boundTo h k with
    | none => s
    | some pid => match s.part pid with
      | none => s
      | some p =>
        if p.dark then (s.logEv 0x0801 pid (dieUnit h) 0).updFrame pid fun x =>
          if x.late then { x with tdiLate := true } else { x with tdiHalt := true }
        else s

/-- A change of the locked configuration of a function's queues (R475). -/
def State.lockedChange (s : State) (h k : Nat) : State :=
  match s.boundTo h k with
  | some pid => (match s.part pid with
    | some p => if p.dark && ((s.func h k).tdi == .locked || (s.func h k).tdi == .run) then s.tdiError h k else s
    | none => s)
  | none => s

/-- QUEUE_ENABLE (R474). -/
def execQueueEnable (f : FnId) (q : Nat) (s : State) : Host.Outcome State Fault Refusal :=
  .next (if !s.fnEnabled f.h f.k || decide (7 < q) || (s.queue f.h f.k q).enable then s
    else (s.updQueue f.h f.k q fun x => { x with enable := true, head := 0, phase := true, done := 0, again := false }).lockedChange
      f.h f.k)

/-- The bytes that a partition-to-host transfer has read reach the host, up to a line that is withheld, and the descriptor ends
(07 R191, R202, 17 R473). -/
def State.deliverRead (s : State) (h k q pid : Nat) (d : Descriptor) (a n : Nat) (line : StreamEnd) (st : Byte) : State :=
  let hbm := isHbm d.part.toNat
  let fin := s.hostReadEnd a n hbm line
  let bad := readFails fin
  let moved := if bad then Nat.min (s.firstPoison a n) n else n
  let s := (if hbm then s.partTraffic pid .host none a n else s).hostReadEvents pid d.part.toNat a n fin
  (s.emit (.hostWrite h d.host.toNat (s.readMem a moved))).completeDesc h k q (if bad then dsPoisoned else st) moved

/-- QUEUE_DISABLE: the current descriptor ends with ABORTED after the bytes it has moved (R474). -/
def execQueueDisable (f : FnId) (q : Nat) (data : Bytes) (line : StreamEnd) (s : State) :
    Host.Outcome State Fault Refusal :=
  .next (if !s.fnEnabled f.h f.k || decide (7 < q) || !(s.queue f.h f.k q).enable then s
    else
      let x := s.queue f.h f.k q
      let s := match x.cur with
        | none => s
        | some d =>
          if x.verdict ≠ 0 then s.completeDesc f.h f.k q dsAborted 0
          else
            let n := Nat.min data.length d.length.toNat
            if d.direction = 0 then s.stopDesc f.h f.k q dsAborted d data
            else match s.boundTo f.h f.k with
              | some pid => match s.part pid with
                | some p =>
                  let a := (p.toLocal s.model d.part.toNat d.length.toNat).getD 0
                  let r := s.resolve p line
                  r.1.deliverRead f.h f.k q pid d a n r.2 dsAborted
                | none => s.completeDesc f.h f.k q dsAborted 0
              | none => s.completeDesc f.h f.k q dsAborted 0
      (s.updQueue f.h f.k q fun x => { x with enable := false, again := false }).lockedChange f.h f.k)

/-- HIF_QDOORBELL: the queue looks for a descriptor, at once or after the current one (R474). -/
def execHifQdoorbell (f : FnId) (q : Nat) (d : Descriptor) (tee : Bool) (s : State) : Host.Outcome State Fault Refusal :=
  .next (if !s.fnEnabled f.h f.k || decide (7 < q) || !(s.queue f.h f.k q).enable then s
    else if (s.queue f.h f.k q).cur.isSome then s.updQueue f.h f.k q fun x => { x with again := true }
    else s.examine f.h f.k q d tee)

/-- QUEUE_CONFIGURATION_WRITE: HIF_QBASE_LO, HIF_QBASE_HI or HIF_QSIZE (R471, R474, R475). -/
def execQueueConfigurationWrite (f : FnId) (q reg : Nat) (value : BitVec 32) (s : State) :
    Host.Outcome State Fault Refusal :=
  .next (if !s.fnEnabled f.h f.k || decide (7 < q) then s
    else
      let x := s.queue f.h f.k q
      if x.enable then s.hifErr f.h f.k 6
      else
        let y := match reg with
          | 0 => { x with base := BitVec.ofNat 64 (x.base.toNat / 2 ^ 32 * 2 ^ 32 + value.toNat / 4096 * 4096) }
          | 1 => { x with base := BitVec.ofNat 64 (value.toNat * 2 ^ 32 + x.base.toNat % 2 ^ 32) }
          | 2 => if value.toNat % 16 ≤ 8 then { x with size := value.setWidth 4 } else x
          | _ => x
        let s := s.updQueue f.h f.k q fun _ => y
        if y = x then s else s.lockedChange f.h f.k)

/-- The transfer of a descriptor ends: its status, and the bytes moved (R473). -/
def State.runTransfer (s : State) (h k q pid : Nat) (d : Descriptor) (data : Bytes) (host : HostEnd) (line : StreamEnd) : State :=
  match s.part pid with
  | none => s.completeDesc h k q dsState 0
  | some p =>
    let x := d.part.toNat
    let n := d.length.toNat
    let a := (p.toLocal s.model x n).getD 0
    let r := s.resolve p line
    let s := r.1
    let line := r.2
    if d.direction = 0 then
      let bs := data.take n
      let free := p.firstInUse x bs.length
      let r := (s.closeHost h k q).hostLand pid x (bs.take free) true line
      if free < bs.length then (r.1.inputDiscarded pid).completeDesc h k q dsRefused free
      else if let some m := r.2 then (r.1.partialFails pid (a + m) line).completeDesc h k q dsPoisoned m
      else if host = .error ∨ bs.length < n then r.1.completeDesc h k q dsHostError bs.length
      else r.1.completeDesc h k q 0 n
    else
      let met := s.hostReadEnd a n (isHbm x) line
      let m := if host = .error ∨ readFails met = true then Nat.min data.length n else n
      s.deliverRead h k q pid d a m line (if host = .error then dsHostError else 0)

/-- DMA_DESCRIPTOR_COMPLETE: the current descriptor ends, and the queue examines the next (R473, R474). -/
def execDmaDescriptorComplete (f : FnId) (q : Nat) (data : Bytes) (host : HostEnd) (line : StreamEnd) (d : Descriptor)
    (tee : Bool) (s : State) : Host.Outcome State Fault Refusal :=
  .next (if !s.fnEnabled f.h f.k then s
    else
      let x := s.queue f.h f.k q
      match x.cur with
      | none => s
      | some c =>
        let s :=
          if x.verdict ≠ 0 then s.completeDesc f.h f.k q x.verdict 0
          else
            let v := descVerdict s f.h f.k c tee
            if v ≠ 0 then s.completeDesc f.h f.k q v 0
            else if c.length = 0 then s.completeDesc f.h f.k q 0 0
            else match s.boundTo f.h f.k with
              | some pid => s.runTransfer f.h f.k q pid c data host line
              | none => s.completeDesc f.h f.k q dsState 0
        s.examine f.h f.k q d tee)

end Sys2Proof.Machine
end

