-- ==== Sys2Proof/Machine/Lifecycle.lean ====
section
/-! DEFINITION. The life of a partition: PART.CREATE, PART.DESTROY, SCRUB, REMAP, HALT, RESET and the compute reset
(04 R118, 15 R398 to R404 R424 R426, 16 R437 R440 R441, 18 R483 to R485). -/

namespace Sys2Proof.Machine

/-! ### HALT (02 R55, 16 R435, R441) -/

/-- A partition becomes HALTED: the source and the code that PART.STATUS shows, and the commands that waited for it
(16 R437, R439). -/
def State.haltPart (s : State) (pid source : Nat) (code : Byte) (block : BitVec 16) : State :=
  match s.part pid with
  | none => s
  | some p =>
    let mark := s.log.next
    let s := match p.slide with
      | some o => if o.phase = .pending then s.complete o.route mark stWrongState [] else s
      | none => s
    let s := ((p.frame.haltRoutes ++ p.frame.lateRoutes).foldl (fun (s : State) r => s.complete r mark stOk []) s).updPart pid fun p => { p with
      state := .halted, haltSource := source, haltCode := code, haltBlock := block, slide := none
      frame := { p.frame.noHalts with started := false, stopAt := none } }
    s.partCause pid 3

/-- Apply a HALT request; `route` is the command that waits for it. The status where it completes at once. -/
def State.requestHalt (s : State) (pid : Nat) (route : Option Route) : State × Option Byte :=
  match s.part pid with
  | none => (s, some stWrongState)
  | some p =>
    let wait (s : State) : State := s.updFrame pid fun f => { f with haltRoutes := f.haltRoutes ++ route.toList }
    let atShutter (s : State) : State := s.updFrame pid fun f =>
      if f.late then { f with haltLate := true, lateRoutes := f.lateRoutes ++ route.toList }
      else { f with haltCmd := true, haltRoutes := f.haltRoutes ++ route.toList }
    match p.state with
    | .halted => (s.cancelTimed pid, some stOk)
    | .developed => if p.expose.isSome then (s.cancelTimed pid, some stOk) else (s, some stWrongState)
    | .running =>
      let s := s.cancelTimed pid
      (match p.slide with
       | some o =>
         if o.phase = .pending then (atShutter s, none)
         else if o.phase = .held then (s.haltPart pid 1 0 0xFFFF, some stOk)
         else ((wait s).updPart pid fun p => { p with slide := some { o with halt := some (1, 0, 0xFFFF) } }, none)
       | none => (atShutter s, none))
    | _ => (s, some stWrongState)

/-- HALT (R441). -/
def execHalt (e : Envelope) (s : State) : Host.Outcome State Fault Refusal :=
  .next (runCmd s e ⟨0x0303, 0, { bound := true, pf := false, owner := true, other := false }, .part, .halt, false, false⟩
    fun s t => match t with
      | none => reply s stBadArg
      | some pid =>
        let r := s.requestHalt pid (some e.route)
        (r.1, r.2.map fun st => (st, [])))

/-- MBX_HALT: writing 1 has the effect of a HALT on the bound partition (R435). -/
def execMbxHalt (f : FnId) (value : BitVec 32) (s : State) : Host.Outcome State Fault Refusal :=
  .next (if !s.serves || value != 1 || !s.fnEnabled f.h f.k || s.boot.fatal.isSome then s
    else match s.boundTo f.h f.k with
      | none => s
      | some pid => match s.part pid with
        | none => s
        | some p => if (conflict p .halt).isSome then s else (s.requestHalt pid none).1)

/-! ### Generations (15 R403) -/

/-- Draw a generation: the counter is written to NVM first. -/
def State.drawGen (s : State) (part : Nat) : State × Option (BitVec 32) :=
  let n := s.nvm.generation
  if n = 0xFFFFFFFF then (s.logEv 0x2808 part noUnit 0, none)
  else ({ s with nvm := { s.nvm with generation := n + 1 } }, some (n + 1))

/-! ### Tables, posts and registers of a partition -/

/-- Fabric dies whose tables belong to a partition (09 R240). -/
def State.diesOf (s : State) (pid : Nat) : List Nat := (s.dies.filter fun q => q.2.owner == some pid).map (·.1)

/-- Removal of a partition's Negative from the fabric: tables, job tag, patches and spill areas (09 R240, R255, 10 R293,
R301). -/
def State.removeTables (s : State) (pid : Nat) : State :=
  (s.diesOf pid).foldl (fun (s : State) f =>
    let s := { s with dies := fmErase s.dies f }
    [0, 1, 2, 3].foldl (fun (s : State) k =>
      let q := 4 * f + k
      let p := s.port q
      let s := { s with tx := fmErase s.tx q }
      let s := s.updPort q fun p => { p with patch := none, spillUnits := 0 }
      if p.spilled ≠ 0 ∨ p.patch.isSome then s.freshTrain q
      else if p.wantRetrain ∨ p.state = .degraded then s.startRetrain q 4
      else s) s) ((s.dropTraffic pid).updPart pid fun p => { p with
        fab := none, epoch := 0, bank := .empty, switchAt := none, landing := [], tokens := 0 })

/-- A pending post is discarded (17 R465). -/
def State.discardPost (s : State) (h k : Nat) : State :=
  (s.updFunc h k fun f => { f with post := false, postWaits := 0 })

/-- Registers that belong to a binding return to their reset values (17 R459). -/
def State.clearBinding (s : State) (h k : Nat) : State :=
  s.updFunc h k fun f => { f with
    post := false, postWaits := 0, taken := 0, commit := 0, window := 0, partLast := 0, partCount := 0
    pwrEvents := if k = 0 then f.pwrEvents else 0 }

/-- What a frame keeps when its Exposures end for good. -/
def Frame.stopped (f : Frame) : Frame :=
  { f.noHalts with
    fatal := none, rollback := .idle, haltRoutes := f.haltRoutes, lateRoutes := f.lateRoutes, starting := none
    stopAt := none, started := false, sampled := false, partialState := false }

/-! ### Partition reset (18 R483, R485) -/

/-- Whether a reset meets SCRUB, or DEVELOP or a RESUME with a Negative. -/
def Partition.inScrub (p : Partition) : Bool := match p.busy with | some (.scrub _) => true | _ => false
def Partition.inAgree (p : Partition) : Bool := match p.busy with | some (.agree _ _ _ _) => true | _ => false

/-- The fabric of a partition once no Negative is developed in it: its ports have their on-die buffers alone (07 R205), and no key
agreement runs. -/
def State.leaveNegative (s : State) (pid : Nat) : State :=
  match s.part pid with
  | none => s
  | some p => (fabricDies s.model p.tiles).foldl (fun (s : State) f =>
      [0, 1, 2, 3].foldl (fun (s : State) k => s.updPort (4 * f + k) fun x => { x with spillUnits := 0 })
        (s.updDie f fun d => { d with agree := none })) s

/-- A partition reset; `trigger` is that of RESET_RECORD (R493). A FAULTED partition is left by PART.DESTROY only (R398). -/
def State.resetPartition (s : State) (pid trigger : Nat) : State :=
  match s.part pid with
  | none => s
  | some p =>
    if p.state = .faulted then s
    else
      let mark := s.log.next
      let s := (s.destroyKeys pid).stopUnits pid
      let s := (s.stopQueues p.hostDie p.fn dsAborted false).discardPost p.hostDie p.fn
      let s := ((s.cancelTimed pid).dropTraffic pid).leaveNegative pid
      let s := if p.inScrub then s else s.abortWaiting pid mark stAborted
      let s := s.updPart pid fun p => { p with
        neg := none, slideValid := false, landing := [], switchLate := false, frame := p.frame.stopped }
      let g := s.drawGen pid
      let s := match g.2 with
        | none => g.1.faultPart pid mark
        | some gen =>
          let state : PartState := if p.inScrub ∨ p.inAgree then .tainted else .empty
          let t := g.1.updPart pid fun p => { p with gen := gen, state := state, keys := p.inScrub }
          if p.inScrub then t.logEv 0x0806 pid noUnit 0 else t
      ((s.recordPart pid).logEv 0x000C pid noUnit (3 + 16 * trigger)).setCause p.hostDie p.fn 2

/-- RESET kind 0 (R439). -/
def resetBody (s : State) (t : Option Nat) : Answer :=
  match t with
  | none => reply s stBadArg
  | some pid => match s.part pid with
    | none => reply s stBadArg
    | some p =>
      if p.state = .faulted then reply s stWrongState
      else
        let s := s.resetPartition pid 0
        reply s (match s.part pid with | some p => if p.state = .faulted then stNoResource else stOk | none => stOk)

/-- RESET kind 1: the completion, NOTICE kind 5 to every session, and a warm reset 10 ms later (R439, R447). -/
def warmBody (s : State) : Answer :=
  let s := s.sessions.foldl (fun (s : State) q => s.notice q.1 5 (s.owner.getD 0) 0) s
  reply { s with boot := { s.boot with warmPending := true } } stOk

/-- RESET with kind 0, or a reserved kind (R439). -/
def execReset (e : Envelope) (kind : Byte) (s : State) : Host.Outcome State Fault Refusal :=
  .next (
    if kind = 1 then runCmd s e ⟨0x0004, 8, ownerOnly, .none_, .plain, false, true⟩ fun s _ => warmBody s
    else runCmd s e ⟨0x0004, 8, { bound := true, pf := false, owner := true, other := false }, .part, .reset, false, false⟩
      fun s t => if kind ≠ 0 then reply s stBadArg else resetBody s t)

/-- RESET kind 1, from the owner only (R439, R488). -/
def execResetWarm (e : Envelope) (s : State) : Host.Outcome State Fault Refusal :=
  .next (runCmd s e ⟨0x0004, 8, ownerOnly, .none_, .plain, false, true⟩ fun s _ => warmBody s)

/-! ### PART.CREATE and PART.DESTROY (R440, 14 R385, 15 R398) -/

/-- Tiles of a mask, in ascending order. -/
def tilesOf (m : BitVec 16) : List Nat := (List.range 16).filter fun d => m.getLsbD d

/-- The tile set consists of whole groups that share a fabric die (00 R4). -/
def wholeGroups (v : Variant) (ts : List Nat) : Bool :=
  ts.all fun d => (List.range (variantGroup v)).all fun k => ts.contains (d / variantGroup v * variantGroup v + k)

/-- The JTAG instruction register holds an instruction that the lockout bars (15 R423). -/
def State.jtagOpen (s : State) : Bool := !(s.jtag.ir == 0x01 || s.jtag.ir == 0x02 || s.jtag.ir == 0xFF)

/-- PART.CREATE (R440). -/
def execPartCreate (e : Envelope) (tiles : BitVec 16) (hostDie fn flags : Byte) (s : State) :
    Host.Outcome State Fault Refusal :=
  .next (runCmd s e ⟨0x0201, 8, ownerOnly, .none_, .plain, false, false⟩ fun s _ =>
    let ts := tilesOf tiles
    let h := hostDie.toNat
    let k := fn.toNat
    let dark := flags == 1
    if ts = [] ∨ 1 < h ∨ k = 0 ∨ 16 < k ∨ 1 < flags.toNat ∨ wholeGroups s.model ts = false then reply s stBadArg
    else if dark ∧ s.jtagOpen = true then reply s stWrongState
    else if ts.any (fun d => (s.ownerOf d).isSome || s.power.degraded.contains d) = true ∨ (s.boundTo h k).isSome = true ∨
        (s.endpoint h).enabled = false then reply s stNoResource
    else
      let created := s.log.next
      let g := s.drawGen 0xFF
      match g.2 with
      | none => reply g.1 stNoResource
      | some gen =>
        let pid := ts.headD 0
        let p : Partition := { tiles := ts, hostDie := h, fn := k, dark := dark, state := .tainted, gen := gen, created := created }
        let s := ((g.1.setPart pid p).recordPart pid).clearBinding h k
        let s := { s with power := { s.power with tilesOn := s.power.tilesOn ++ ts } }
        let s := if dark then
            { s with parts := fmMap (fun _ (x : Partition) => { x with frame := { x.frame with perfOff := true } }) s.parts }
          else s
        reply s stOk ([BitVec.ofNat 8 pid, 1, 0, 0] ++ leBytes 4 gen.toNat))

/-- Blocks of some tiles lose everything but their bundle memory, which nothing but DEVELOP, RESUME and the compute reset
writes (04 R109). -/
def keepBundles (bs : FMap Block) (gone : Nat → Bool) : FMap Block :=
  bs.map fun q => if gone (q.1 / 36) then (q.1, { bundles := q.2.bundles }) else q

/-- A partition leaves the part: its tiles go off and its function is unbound (R398). -/
def State.releasePart (s : State) (pid : Nat) (p : Partition) : State :=
  let s := s.removeTables pid
  let s := { s with
    parts := fmErase s.parts pid
    nvm := { s.nvm with records := fmErase s.nvm.records pid }
    blocks := keepBundles s.blocks p.tiles.contains
    cells := s.cells.filter fun q => !p.tiles.contains (q.1 / 144)
    regions := s.regions.filter fun q => !p.tiles.contains (q.1 / 6)
    saves := s.saves.filter fun q => !p.tiles.contains (q.1 / 36)
    power := { s.power with
      tilesOn := s.power.tilesOn.filter fun d => !p.tiles.contains d
      awake := s.power.awake.filter fun r => !p.tiles.contains (r / 6)
      reservations := s.power.reservations.filter fun r => r.part != pid } }
  s.clearBinding p.hostDie p.fn

/-- PART.DESTROY (R398, R437). -/
def execPartDestroy (e : Envelope) (s : State) : Host.Outcome State Fault Refusal :=
  .next (runCmd s e ⟨0x0202, 0, ownerOnly, .part, .destroy, false, false⟩ fun s t =>
    match t with
    | none => reply s stBadArg
    | some pid => match s.part pid with
      | none => reply s stBadArg
      | some p =>
        let s := (s.cancelTimed pid).abortWaiting pid s.log.next stAborted
        let s := s.resetPartition pid 0
        let s := if p.dark then s.tdiError p.hostDie p.fn else s
        reply ((s.destroyKeys pid).releasePart pid p) stOk)

/-! ### SCRUB (15 R424 to R426) -/

/-- The tiles of a partition are written with zeros, and their Tanks, registers and counters cleared (R424). -/
def State.scrubTiles (s : State) (tiles : List Nat) : State :=
  tiles.foldl (fun (s : State) d => { s with
    mem := memClear (memClear (memClear s.mem (d * 0x4000000000) 0x4000000000) (regionBase (6 * d)) (6 * 0x20000000))
      (cellBase (144 * d)) (144 * 0x100000)
    poison := s.poison.filter fun l => l / 0x100000000 != d
    blocks := keepBundles s.blocks (· == d)
    cells := s.cells.filter fun q => q.1 / 144 != d
    regions := s.regions.filter fun q => q.1 / 6 != d }) s

/-- SCRUB: steps 1 and 2 of R424, after which the passes run. -/
def execScrub (e : Envelope) (s : State) : Host.Outcome State Fault Refusal :=
  .next (runCmd s e ⟨0x0203, 0, { bound := true, pf := false, owner := true, other := false }, .part, .scrub, false, false⟩
    fun s t => match t with
      | none => reply s stBadArg
      | some pid => match s.part pid with
        | none => reply s stBadArg
        | some p =>
          if p.state = .running ∨ p.state = .faulted then reply s stWrongState
          else
            let g := s.drawGen pid
            match g.2 with
            | none => reply g.1 stNoResource
            | some gen =>
              let s := (g.1.cancelTimed pid).removeTables pid
              let s := s.updPart pid fun p => { p with
                state := .tainted, neg := none, jobSecret := none, seed := 0, ring := [], origins := [], switches := []
                hazard := {}, gen := gen, keys := true, busy := some (.scrub (some e.route)), slideValid := false
                frame := p.frame.stopped, imageDigest := [] }
              (s.recordPart pid, none))

/-- SCRUB_PASS_COMPLETE (R424): the partition is READY, or FAULTED with its tile degraded. -/
def execScrubPassComplete (part : Nat) (fail : Option Nat) (s : State) : Host.Outcome State Fault Refusal :=
  .next (match s.part part with
    | none => s
    | some p => match p.busy with
      | some (.scrub route) =>
        let mark := s.log.next
        (match fail with
         | some d =>
           let s := (s.logEv 0x2807 part (tileUnit d) 0).degrade [d]
           let s := match route with | some r => s.complete r mark stIntegrity [] | none => s
           (s.updPart part fun p => { p with busy := none }).faultPart part mark
         | none =>
           let s := (s.scrubTiles p.tiles).updPart part fun p => { p with state := .ready, busy := none }
           let s := s.recordPart part
           match route with | some r => s.complete r mark stOk (leBytes 4 p.gen.toNat) | none => s)
      | _ => s)

/-! ### REMAP (04 R118) -/

/-- The tile of a region lies in a partition that is neither EMPTY nor TAINTED. -/
def State.remapBlocked (s : State) (r : Nat) : Bool :=
  match s.regionOwner r with
  | some (pid, _) => (match s.part pid with | some p => !(p.state == .empty || p.state == .tainted) | none => false)
  | none => false

/-- REMAP (R118, R440). The cell stores of both positions are undefined after it: those of the logical block that moves hold
free bytes. -/
def execRemap (e : Envelope) (region block direction : Byte) (nvm : Bool) (s : State) : Host.Outcome State Fault Refusal :=
  .next (runCmd s e ⟨0x0204, 8, ownerOnly, .none_, .plain, false, false⟩ fun s _ =>
    let r := region.toNat
    let b := block.toNat
    if 95 < r ∨ 5 < b ∨ 1 < direction.toNat then reply s stBadArg
    else if s.remapBlocked r then reply s stWrongState
    else
      let carried := fmGet s.nvm.remap r
      if direction = 0 then
        if carried.isSome ∨ s.boot.failing.contains (r, 6) = true then reply s stNoResource
        else
          let x := s.commitNvm nvm fun n => { n with remap := fmSet n.remap r b }
          if x.2 then reply (x.1.freeRange (cellBase (4 * (6 * r + b))) 0x400000) stOk [6, 0, 0, 0] else reply x.1 stIntegrity
      else if carried = some b then
        let x := s.commitNvm nvm fun n => { n with remap := fmErase n.remap r }
        if x.2 then reply (x.1.freeRange (cellBase (4 * (6 * r + b))) 0x400000) stOk [block, 0, 0, 0] else reply x.1 stIntegrity
      else reply s stOk [block, 0, 0, 0])

/-! ### The compute reset (18 R484) -/

/-- Registers of a block after a compute reset: undefined; its bundle memory is rewritten. -/
def scrambleBlock (free base : Nat) (bundles : List (BitVec 256)) (b : Block) : Block :=
  { b with
    bundles := bundles
    vregs := (List.range 64).map fun k => (k, BitVec.ofNat 8192 (Config.freeBits free (base + k)))
    masks := (List.range 7).map fun k => (k + 1, BitVec.ofNat 512 (Config.freeBits free (base + 64 + k)))
    arBase := (List.range 16).map fun k => (k, BitVec.ofNat 32 (Config.freeBits free (base + 80 + k)))
    arLog := [] }

/-- Tanks of a cell after a compute reset: undefined. -/
def scrambleCell (free base : Nat) (c : Cell) : Cell :=
  { c with
    tanks := (List.range 16384).map fun k => (k, BitVec.ofNat 96 (Config.freeBits free (base + k)))
    poison := BitVec.ofNat 16384 (Config.freeBits free (base + 16384)), mops := [], t2 := none, wb := [] }

/-- COMPUTE_RESET (R484, R493): sequencers of a partition did not stop after an Exposure-fatal fault. -/
def execComputeReset (part block : Nat) (s : State) : Host.Outcome State Fault Refusal :=
  .next (match s.part part with
    | none => s
    | some p =>
      if p.state ≠ .running ∨ p.frame.fatal = none ∨ 36 * p.tiles.length ≤ block then s
      else
        let bix := p.blockIx block
        let s := s.raiseFatal part 0x1443 (s.blockUnit bix block) 0 (s.presentCycle part)
        let s := (s.logEv 0x000C part noUnit 4).stopUnits part
        let mine := p.blockList
        let free := s.free
        let n := p.negative
        let s := { s with free := free + 1 }
        let s := mine.zipIdx.foldl (fun (s : State) b =>
          s.updBlock b.1 (scrambleBlock free (1000 * b.1) (fmGetD n.bundles b.2 []))) s
        (mine.flatMap fun b => (List.range 4).map (4 * b + ·)).foldl (fun (s : State) c =>
          s.updCell c (scrambleCell free (10000000 + 20000 * c))) s)

end Sys2Proof.Machine
end

