-- ==== Sys2Proof/Machine/HostIf.lean ====
section
/-! DEFINITION. The host's side of an endpoint: registers, the BAR2 window, interrupts and function resets (17 R458 to R470,
20 R516). -/

namespace Sys2Proof.Machine

/-! ### Posts and registers (R461 to R470) -/

/-- Whether a write into the TEE ranges is turned away (R463). -/
def State.teeRefused (s : State) (f : FnId) (tee : Bool) : Bool := s.teeFails f.h f.k tee

/-- HIF_POST (R465): writing 1 posts the posting buffers; `landed` tells whether earlier host writes have landed by the
next sampling point. -/
def State.postWrite (s : State) (f : FnId) (value : BitVec 32) (tee landed : Bool) : State :=
  match s.boundTo f.h f.k with
  | none => s
  | some pid =>
    if s.teeRefused f tee then s.notTee f.h f.k pid
    else if !value.getLsbD 0 || (s.func f.h f.k).post then s
    else s.updFunc f.h f.k fun x => { x with post := true, postWaits := boolNat (!landed) }

/-- HIF_POST (R465). -/
def execHifPost (f : FnId) (value : BitVec 32) (tee landed : Bool) (s : State) : Host.Outcome State Fault Refusal :=
  .next (if s.fnEnabled f.h f.k then s.postWrite f value tee landed else s)

/-- Cause bits that exist in a function (R468). -/
def causeBits (k : Nat) : BitVec 32 := if k = 0 then 0xFF41 else 0xFF1F

/-- HIF_CAUSE_MASK (R468): a cause that is set and becomes unmasked sends its message. -/
def State.maskWrite (s : State) (f : FnId) (value : BitVec 32) : State :=
  let x := s.func f.h f.k
  let new := value &&& causeBits f.k
  let freed := x.mask &&& ~~~new &&& x.cause
  let s := s.updFunc f.h f.k fun x => { x with mask := new }
  (List.range 16).foldl (fun (s : State) b => if freed.getLsbD b then s.sendVector f.h f.k (causeVector f.k b) else s) s

/-- HIF_CAUSE_MASK (R468). -/
def execHifCauseMask (f : FnId) (value : BitVec 32) (s : State) : Host.Outcome State Fault Refusal :=
  .next (if s.fnEnabled f.h f.k then s.maskWrite f value else s)

/-- Messages held in the pending bit array of vectors that are masked no more (R468). -/
def State.sendPending (s : State) (h k : Nat) : State :=
  (List.range 16).foldl (fun (s : State) v =>
    let x := s.func h k
    if x.pba.getLsbD v && !x.msixMask && !x.vecMask.getLsbD v then
      (s.updFunc h k fun x => { x with pba := x.pba &&& ~~~(1#16 <<< v) }).emit (.msix h k v)
    else s) s

/-- MSIX_VECTOR_UNMASK: the function mask, or one vector's mask, is cleared (R468). -/
def execMsixVectorUnmask (f : FnId) (vector : Option Nat) (s : State) : Host.Outcome State Fault Refusal :=
  .next (if !s.fnEnabled f.h f.k then s
    else
      let s := match vector with
        | none => s.updFunc f.h f.k fun x => { x with msixMask := false }
        | some v => s.updFunc f.h f.k fun x => { x with vecMask := x.vecMask &&& ~~~(1#16 <<< v) }
      s.sendPending f.h f.k)

/-- A write into an MSI-X table entry: address, data or vector control (R462). -/
def State.tableWrite (s : State) (f : FnId) (off : Nat) (value : BitVec 32) : State :=
  let v := (off - 0x7000) / 16
  if (if f.k = 0 then 2 else 16) ≤ v then s
  else match off % 16 with
    | 0 => s.updFunc f.h f.k fun x =>
        let a := (fmGetD x.msixAddr v 0).toNat
        { x with msixAddr := fmSet x.msixAddr v (BitVec.ofNat 64 (a / 2 ^ 32 * 2 ^ 32 + value.toNat)) }
    | 4 => s.updFunc f.h f.k fun x =>
        let a := (fmGetD x.msixAddr v 0).toNat
        { x with msixAddr := fmSet x.msixAddr v (BitVec.ofNat 64 (value.toNat * 2 ^ 32 + a % 2 ^ 32)) }
    | 8 => s.updFunc f.h f.k fun x => { x with msixData := fmSet x.msixData v value }
    | 12 =>
      let bitV : BitVec 16 := 1#16 <<< v
      (s.updFunc f.h f.k fun x => { x with vecMask := if value.getLsbD 0 then x.vecMask ||| bitV else x.vecMask &&& ~~~bitV }).sendPending
        f.h f.k
    | _ => s

/-- A write to a register of queue q (R471, R474). -/
def State.queueWrite (s : State) (f : FnId) (q reg : Nat) (value : BitVec 32) : State :=
  let next (o : Host.Outcome State Fault Refusal) (s : State) : State := match o with
    | .next t => t
    | _ => s
  if reg = 0x0C then
    let x := s.queue f.h f.k q
    if value.getLsbD 0 then next (execQueueEnable f q s) s
    else if x.enable then
      match x.cur with
      | some d =>
        let fr := s.freeTransfer d
        next (execQueueDisable f q (if x.verdict = 0 then fr.1 else []) .good fr.2) s
      | none => next (execQueueDisable f q [] .good s) s
    else s
  else if reg = 0x10 then
    (if (s.queue f.h f.k q).cur.isSome then s.updQueue f.h f.k q fun x => { x with again := true } else s)
  else if reg = 0x00 then next (execQueueConfigurationWrite f q 0 value s) s
  else if reg = 0x04 then next (execQueueConfigurationWrite f q 1 value s) s
  else if reg = 0x08 then next (execQueueConfigurationWrite f q 2 value s) s
  else s

/-- A 32-bit write at an aligned BAR0 offset (R462). -/
def State.write32 (s : State) (f : FnId) (off : Nat) (value : BitVec 32) (tee : Bool) : State :=
  let bound := s.boundTo f.h f.k
  if off < 0x2000 ∧ s.teeRefused f tee = true then s.notTee f.h f.k (bound.getD 0xFF)
  else if off = 0x1000 then s.updFunc f.h f.k fun x => { x with mbox := { x.mbox with ignored := x.mbox.ignored + 1 } }
  else if off = 0x1004 then s.postWrite f value tee true
  else if off = 0x1008 then
    (if bound.isSome then s.updFunc f.h f.k fun x => { x with window := value.setWidth 12 } else s)
  else if off = 0x2008 then
    (match execMbxHalt f value s with | .next t => t | _ => s)
  else if off = 0x2010 then s.updFunc f.h f.k fun x => { x with cause := x.cause &&& ~~~value }
  else if off = 0x2014 then s.maskWrite f value
  else if off = 0x2018 then s.updFunc f.h f.k fun x => { x with err := x.err &&& ~~~value }
  else if 0x3000 ≤ off ∧ off < 0x3200 then s.queueWrite f ((off - 0x3000) / 0x40) (off % 0x40) value
  else if off = 0x600C then s.updFunc f.h f.k fun x => { x with pwrEvents := x.pwrEvents &&& ~~~(value.setWidth 4) }
  else if 0x7000 ≤ off ∧ off < 0x7100 then s.tableWrite f off value
  else s

/-- REGISTER_WRITE: an access of the wrong size or alignment is discarded and sets bad_access; a 64-bit one acts as two
32-bit ones, the lower address first (R461). -/
def execRegisterWrite (f : FnId) (off : BitVec 16) (size : Nat) (value : BitVec 64) (tee : Bool) (s : State) :
    Host.Outcome State Fault Refusal :=
  .next (if !s.fnEnabled f.h f.k then s
    else
      let o := off.toNat
      if size = 4 ∧ o % 4 = 0 then s.write32 f o (value.setWidth 32) tee
      else if size = 8 ∧ o % 8 = 0 then
        (s.write32 f o (value.setWidth 32) tee).write32 f (o + 4) ((value >>> 32).setWidth 32) tee
      else s.hifErr f.h f.k 5)

/-! ### The BAR2 window (R466, R467) -/

/-- Logical address of a BAR2 offset. -/
def State.windowAddr (s : State) (f : FnId) (off : BitVec 34) : Nat := (s.func f.h f.k).window.toNat * 2 ^ 30 + off.toNat

/-- BAR2_READ (R467). -/
def execBar2Read (f : FnId) (off : BitVec 34) (n : Nat) (tee : Bool) (line : StreamEnd) (s : State) :
    Host.Outcome State Fault Refusal :=
  .next (
    let ones : OutEv := .readData f.h f.k (List.replicate n 0xFF) false
    if !s.fnEnabled f.h f.k || f.k == 0 then s
    else match s.boundTo f.h f.k with
      | none => s.emit ones
      | some pid => match s.part pid with
        | none => s.emit ones
        | some p =>
          let x := s.windowAddr f off
          if s.teeFails f.h f.k tee then (s.hostNotTee f.h f.k).emit ones
          else if !p.servesHost then (s.hostRefused f.h f.k 1).emit ones
          else match p.toLocal s.model x n with
            | none => (s.hostRefused f.h f.k 0).emit ones
            | some a =>
              let r := s.resolve p line
              let fin := r.1.readEnd a n r.2
              let s := (r.1.partTraffic pid .host none a n).readEvents pid a n fin
              if readFails fin then
                (s.errBit f.h f.k 4).emit (.readData f.h f.k (List.replicate n 0xFF) true)
              else s.emit (.readData f.h f.k (s.readMem a n) false))

/-- BAR2_WRITE (R467): `line` is what the read of a line that the write covers in part meets (07 R197). -/
def execBar2Write (f : FnId) (off : BitVec 34) (data : Bytes) (tee : Met Bool) (s : State) :
    Host.Outcome State Fault Refusal :=
  .next (
    if !s.fnEnabled f.h f.k || f.k == 0 then s
    else match s.boundTo f.h f.k with
      | none => s
      | some pid => match s.part pid with
        | none => s
        | some p =>
          let x := s.windowAddr f off
          let n := data.length
          if s.teeFails f.h f.k tee.val then s.hostNotTee f.h f.k
          else if !p.servesHost then s.hostRefused f.h f.k 1
          else match p.toLocal s.model x n with
            | none => s.hostRefused f.h f.k 0
            | some a =>
              if p.sealedWrite s.model x n then s.hostRefused f.h f.k 2
              else if p.hitsInUse x n then (s.inputDiscarded pid).hostRefused f.h f.k 2
              else
                let m := s.resolve p tee.rd
                let r := m.1.hostLand pid x data false m.2
                match r.2 with
                | some k => (r.1.partialFails pid (a + k) m.2).errBit f.h f.k 4
                | none => r.1)

/-! ### Function resets (R459) -/

/-- Commands of a function that go on without it lose their way back. -/
def forgetFn (h k : Nat) (r : Route) : Route := if r = .fn h k then .session 0 else r

/-- A lifecycle operation forgets a requester. -/
def Busy.forget (h k : Nat) : Busy → Busy
  | .scrub r => .scrub (r.map (forgetFn h k))
  | .agree r n x a => .agree (forgetFn h k r) n x a
  | .restore r rd => .restore (r.map (forgetFn h k)) rd

/-- Every operation that a function has started forgets it. -/
def State.forgetRoutes (s : State) (h k : Nat) : State :=
  { s with parts := s.parts.map fun q => (q.1, { q.2 with
      expose := q.2.expose.map fun x => { x with route := forgetFn h k x.route }
      slide := q.2.slide.map fun x => { x with route := forgetFn h k x.route }
      busy := q.2.busy.map (·.forget h k)
      frame := { q.2.frame with
        haltRoutes := q.2.frame.haltRoutes.map (forgetFn h k), lateRoutes := q.2.frame.lateRoutes.map (forgetFn h k) } }) }

/-- A function's registers, queues and tables return to their reset values; its TDI has a life of its own (R408, R459). -/
def State.resetFunc (s : State) (h k : Nat) : State :=
  (s.forgetRoutes h k).updFunc h k fun f => { tdi := f.tdi, stream := f.stream, nonce := f.nonce }

/-- FLR of a virtual function, or its loss of VF Enable: `trigger` as in RESET_RECORD (R459). -/
def State.flrOne (s : State) (h k trigger : Nat) : State :=
  let s := s.tdiError h k
  let s := match s.boundTo h k with
    | some pid => (s.logEv 0x0105 pid (dieUnit h) 0).resetPartition pid trigger
    | none => s.stopQueues h k dsAborted false
  s.resetFunc h k

/-- FLR_VF (R459). -/
def execFlrVf (f : FnId) (s : State) : Host.Outcome State Fault Refusal :=
  .next (if s.fnEnabled f.h f.k && f.k != 0 then s.flrOne f.h f.k 1 else s)

/-- VF_ENABLE_CLEAR: a configuration write of VF Enable and NumVFs (R459). -/
def execVfEnableClear (h : Nat) (enable : Bool) (numVfs : Nat) (s : State) : Host.Outcome State Fault Refusal :=
  .next (if !s.fnEnabled h 0 || decide (16 < numVfs) then s
    else
      let gone := (List.range 16).filter fun j => s.fnEnabled h (j + 1) && (!enable || decide (numVfs < j + 1))
      let s := gone.foldl (fun (s : State) j => s.flrOne h (j + 1) 2) s
      s.updEp h fun e => { e with vfEnable := enable, numVfs := numVfs })

/-- FLR_PF (R459): the virtual functions vanish with VF Enable, and no partition is touched. -/
def execFlrPf (h : Nat) (s : State) : Host.Outcome State Fault Refusal :=
  .next (if !s.fnEnabled h 0 then s
    else
      let s := (List.range 17).foldl (fun (s : State) k => (s.stopQueues h k dsAborted true).resetFunc h k) s
      s.updEp h fun e => { e with vfEnable := false, numVfs := 0 })

/-- An endpoint's link goes down (R459): DMA in flight ends, every function is reset, the IDE streams end. -/
def State.linkLoss (s : State) (h : Nat) : State :=
  let s := (s.logEv 0x0104 0xFF (dieUnit h) 0).updEp h fun e => { e with linkUp := false }
  let s := (List.range 17).foldl (fun (s : State) k =>
    ((s.stopQueues h k dsHostError true).tdiError h k).resetFunc h k) s
  s.updEp h fun e => { e with
    linkUp := false, perstReleased := false, vfEnable := false, numVfs := 0, spdm := .start, sessions := [], chunkIn := [], chunkOut := []
    ide := [], secure := [] }

/-- HOT_RESET: hot reset, PERST or link down of an endpoint (R459, R478). -/
def execHotReset (h : Nat) (s : State) : Host.Outcome State Fault Refusal :=
  .next (if s.fnEnabled h 0 then s.linkLoss h else s)

/-- PERST_N_RELEASE: the endpoint trains its link where its host die is powered (R458, 20 R516). -/
def execPerstNRelease (h : Nat) (s : State) : Host.Outcome State Fault Refusal :=
  .next (if 1 < h then s
    else
      let powered := s.boot.supply48 && s.boot.standby && decide (4 ≤ s.boot.step) && !s.power.off.contains (.host h)
      s.updEp h fun e => { e with perstReleased := true, linkUp := e.enabled && powered })

/-- TDISP_CONFIGURATION_CHANGE: a change that TDISP forbids moves a locked TDI to ERROR (15 R408). -/
def execTdispConfigurationChange (f : FnId) (s : State) : Host.Outcome State Fault Refusal :=
  .next (if s.fnEnabled f.h f.k && f.k != 0 then s.tdiError f.h f.k else s)

/-- MGMT_PHY_INT: the link of the management PHY changes (20 R516). -/
def execMgmtPhyInt (up : Bool) (s : State) : Host.Outcome State Fault Refusal :=
  .next { s with pins := { s.pins with phyLink := up } }

end Sys2Proof.Machine
end

