-- ==== Sys2Proof/Machine/Loader.lean ====
section
/-! DEFINITION. The loader: the layout of a Negative and checks 2 to 13 of R234 (08). A check that fails ends the loader
with a refusal (R235); entry and field are 0xFFFFFFFF where none applies. -/

namespace Sys2Proof.Machine

/-- A refusal of the loader (R235). -/
structure LoadStop where
  check : Nat
  status : Byte
  type : Nat := 0
  inst : Nat := 0
  bank : Nat := 0
  entry : Nat := 0xFFFFFFFF
  field : Nat := 0xFFFFFFFF
  deriving DecidableEq, Repr

/-- The 16 bytes of a refusal detail (R235). -/
def LoadStop.bytes (r : LoadStop) : Bytes :=
  leBytes 1 r.check ++ [r.status] ++ leBytes 2 r.type ++ leBytes 2 r.inst ++ leBytes 1 r.bank ++ [0] ++ leBytes 4 r.entry ++
    leBytes 4 r.field

/-- Status SETTINGS_MISMATCH by its loader name. -/
def stSettings : Byte := stMismatch

/-- A step of the loader: a result, or the refusal. -/
abbrev Load (α : Type) := Except LoadStop α

/-- Refuse unless a test holds. -/
def need (ok : Bool) (r : LoadStop) : Load Unit := if ok then .ok () else .error r

/-- A field of `n` bytes. -/
def fld (b : Bytes) (off n : Nat) : Nat := leNat ((b.drop off).take n)

/-- Offset of the first byte of a range that is not 0. -/
def firstNz (b : Bytes) (off n : Nat) : Option Nat := (((b.drop off).take n).findIdx? (· != 0)).map (off + ·)

/-- Refuse a reserved field that is not 0, at its first byte. -/
def needZero (b : Bytes) (off n : Nat) (r : LoadStop) : Load Unit := need (firstNz b off n).isNone { r with field := off }

/-- The first entry of a list that a test refuses, with its index: status and field. -/
def firstBad {α : Type} (f : Nat → α → Option (Byte × Nat)) : Nat → List α → Option (Nat × Byte × Nat)
  | _, [] => none
  | i, x :: rest => match f i x with
    | some r => some (i, r)
    | none => firstBad f (i + 1) rest

/-- The first of a list of tests that fails: a test, its status and its field. -/
def firstFail : List (Bool × Byte × Nat) → Option (Byte × Nat)
  | [] => none
  | x :: rest => if x.1 then firstFail rest else some x.2

/-! ### Sections (R211, R212) -/

/-- A section as its table entry declares it. -/
structure Sect where
  ix : Nat
  type : Nat
  inst : Nat
  bank : Nat
  off : Nat
  len : Nat
  count : Nat
  esize : Nat
  body : Bytes
  deriving DecidableEq, Repr

/-- Read entry `i` of a section table. -/
def readSect (b : Bytes) (tbl i : Nat) : Sect :=
  let e := (b.drop (tbl + 32 * i)).take 32
  let off := fld e 8 8
  let len := fld e 16 8
  { ix := i, type := fld e 0 2, inst := fld e 2 2, bank := fld e 4 1, off := off, len := len, count := fld e 24 4,
    esize := fld e 28 4, body := (b.drop off).take len }

/-- A refusal inside a section. -/
def Sect.stop (x : Sect) (check : Nat) (st : Byte) (entry field : Nat) : LoadStop :=
  { check := check, status := st, type := x.type, inst := x.inst, bank := x.bank, entry := entry, field := field }

/-- What R212 says of a type: entry size, lowest and highest count, whether it has instances, whether it is banked. -/
structure SectRule where
  esize : Nat
  lo : Nat
  hi : Nat
  many : Bool := false
  banked : Bool := false

/-- The rule of a section type; n is tile_count and j is job_parts (R212). The bound on bundles is check 9. -/
def sectRule (n j : Nat) : Nat → Option SectRule
  | 0x0001 => some ⟨0, 0, 0, false, false⟩
  | 0x0002 => some ⟨0, 0, 0, false, false⟩
  | 0x0003 => some ⟨0, 0, 0, false, false⟩
  | 0x0004 => some ⟨0, j, j, false, false⟩
  | 0x0010 => some ⟨32, 0, 0xFFFFFFFF, true, false⟩
  | 0x0011 => some ⟨64, 0, 36 * n, false, false⟩
  | 0x0020 => some ⟨48, 1, 4096, false, false⟩
  | 0x0021 => some ⟨96, 0, 4096, false, false⟩
  | 0x0022 => some ⟨0, 0, 0, true, false⟩
  | 0x0023 => some ⟨32, 0, 1024, false, false⟩
  | 0x0024 => some ⟨32, 0, 4096, false, false⟩
  | 0x0030 => some ⟨0, 0, 4096, false, false⟩
  | 0x0031 => some ⟨8, 0, 256, false, false⟩
  | 0x0040 => some ⟨32, 0, 16384, true, true⟩
  | 0x0041 => some ⟨4, 0, 4096, true, true⟩
  | 0x0042 => some ⟨8, 0, 32, false, false⟩
  | 0x0043 => some ⟨0, 0, 64, true, false⟩
  | 0x0050 => some ⟨0, 0, 0, false, false⟩
  | _ => none

/-- Whether the length of a section without fixed entry size keeps R212. -/
def sectLenOk (x : Sect) : Bool :=
  match x.type with
  | 0x0001 => x.len == 320
  | 0x0002 => x.len == 64
  | 0x0003 => x.len == 32
  | 0x0004 => x.len == 8 + 8 * x.count
  | 0x0030 => decide (32 * x.count ≤ x.len)
  | 0x0043 => decide (64 * x.count ≤ x.len)
  | 0x0050 => decide (x.len ≤ 0x1000000)
  | _ => true

/-- Two ranges with bytes in common. -/
def overlap (a n b m : Nat) : Bool := meets a n b m

/-- Check one table entry against R211, R212 and the entries before it: status and field. -/
def sectBad (b : Bytes) (tbl n j lo hi : Nat) (before : List Sect) (x : Sect) : Option (Byte × Nat) :=
  match sectRule n j x.type with
  | none => some (stBadArg, 0)
  | some r =>
    let e := (b.drop (tbl + 32 * x.ix)).take 32
    firstFail
      [(r.many || x.inst == 0, stBadArg, 2),
       (x.bank == 0 || (r.banked && x.bank == 1), stBadArg, 4),
       ((firstNz e 5 3).isNone, stBadArg, 5),
       (x.off % 256 == 0 && decide (lo ≤ x.off) && decide (x.off + x.len ≤ hi), stBadArg, 8),
       (x.esize == r.esize, stBadArg, 28),
       (decide (r.lo ≤ x.count) && decide (x.count ≤ r.hi), stBadArg, 24),
       (if r.esize = 0 then sectLenOk x else x.len == x.count * r.esize, stBadArg, 16),
       (!(before.any fun y => y.type == x.type && y.inst == x.inst && y.bank == x.bank), stBadArg, 0),
       (!(before.any fun y => overlap y.off y.len x.off x.len), stBadArg, 8)]

/-- Check a whole section table; `lo` and `hi` bound the sections. -/
def checkSects (b : Bytes) (check tbl n j lo hi : Nat) : List Sect → List Sect → Load Unit
  | _, [] => .ok ()
  | before, x :: rest =>
    match sectBad b tbl n j lo hi before x with
    | some (st, f) => .error (x.stop check st x.ix f)
    | none => checkSects b check tbl n j lo hi (before ++ [x]) rest

/-- The first non-zero byte from `from_` on that no part of the string covers (R209). -/
def paddingBad (b : Bytes) (parts : List (Nat × Nat)) : Option Nat :=
  (b.zipIdx.find? fun p => p.1 != 0 && !(parts.any fun r => decide (r.1 ≤ p.2) && decide (p.2 < r.1 + r.2))).map (·.2)

/-- A section by type, instance and bank. -/
def sectOf (xs : List Sect) (type inst bank : Nat) : Option Sect :=
  xs.find? fun x => x.type == type && x.inst == inst && x.bank == bank

/-- Entries of a section. -/
def Sect.entries (x : Sect) (size : Nat) : List Bytes := pieces size (x.body.take (x.count * size))

/-- Refuse the first entry of a section that a test refuses. -/
def Sect.each (x : Sect) (check size : Nat) (f : Nat → Bytes → Option (Byte × Nat)) : Load Unit :=
  match firstBad f 0 (x.entries size) with
  | some (i, st, fi) => .error (x.stop check st i fi)
  | none => .ok ()

/-- Run a test on a section if it is there. -/
def withSect (x : Option Sect) (f : Sect → Load Unit) : Load Unit :=
  match x with
  | some s => f s
  | none => .ok ()

/-- Run a test on every section of a type. -/
def eachSect (xs : List Sect) (type : Nat) (f : Sect → Load Unit) : Load Unit :=
  xs.forM fun x => if x.type = type then f x else .ok ()

/-! ### Checks 2 to 4 -/

/-- Check 2 (R210). -/
def checkHeader (b : Bytes) : Load Unit := do
  let h (f : Nat) (st : Byte) : LoadStop := { check := 2, status := st, field := f }
  need (fld b 0 4 == 0x47454E5A) (h 0 stBadArg)
  need (fld b 8 4 == 128) (h 8 stBadArg)
  need (fld b 32 4 < 8) (h 32 stBadArg)
  needZero b 38 2 (h 38 stBadArg)
  needZero b 52 4 (h 52 stBadArg)
  needZero b 64 64 (h 64 stBadArg)
  need (fld b 4 2 == 1) (h 4 stUnsupported)
  need (fld b 6 2 == 0) (h 6 stUnsupported)
  need (fld b 24 8 == b.length && (fld b 24 8 - 64) % 256 == 0) (h 24 stBadArg)
  need (decide (1 ≤ fld b 12 4) && decide (fld b 12 4 ≤ 4096)) (h 12 stBadArg)
  need (fld b 16 8 % 256 == 0 && decide (256 ≤ fld b 16 8)) (h 16 stBadArg)
  need (decide (1 ≤ fld b 36 2) && decide (fld b 36 2 ≤ 16)) (h 36 stBadArg)
  need (decide (1 ≤ fld b 50 2) && decide (fld b 50 2 ≤ 4096)) (h 50 stBadArg)
  need (decide (fld b 48 2 < fld b 50 2)) (h 48 stBadArg)

/-- Check 3 (R213). -/
def checkTrailer (b : Bytes) (check : Nat) : Load Unit := do
  let t := b.length - 64
  need (fld b (t + 48) 4 == 0x444E455A) { check := check, status := stBadArg, field := t + 48 }
  needZero b (t + 52) 12 { check := check, status := stBadArg }
  need ((b.drop t).take 48 == sha384 (b.take t)) { check := check, status := stIntegrity, field := t }

/-- Check 4 (R209, R211, R212): the sections. -/
def checkTable (b : Bytes) : Load (List Sect) := do
  let n := fld b 36 2
  let j := fld b 50 2
  let tbl := fld b 16 8
  let cnt := fld b 12 4
  let hi := b.length - 64
  need (decide (tbl + 32 * cnt ≤ hi)) { check := 4, status := stBadArg, field := 16 }
  let xs := (List.range cnt).map (readSect b tbl)
  checkSects b 4 tbl n j (tbl + 32 * cnt) hi [] xs
  [0x0001, 0x0004, 0x0020].forM fun ty =>
    need (sectOf xs ty 0 0).isSome { check := 4, status := stBadArg, type := ty }
  match paddingBad b ([(0, 128), (tbl, 32 * cnt), (hi, 64)] ++ xs.map fun x => (x.off, x.len)) with
  | some k => .error { check := 4, status := stBadArg, field := k }
  | none => .ok xs

/-! ### What the loader knows of the partition -/

/-- The partition that develops, as the checks see it. -/
structure Site where
  v : Variant
  tiles : List Nat
  dark : Bool
  /-- DPIs with their reference steps (13 R349). -/
  dpis : List (BitVec 32 × Nat)
  cls : Nat
  partId : Option Nat
  /-- configured virtual channels by part-local port (10 R287). -/
  vcs : List Nat
  /-- patches of the other partitions, as pairs of part-local ports. -/
  patches : List (Nat × Nat)
  /-- staging range, logical. -/
  base : Nat
  len : Nat

/-- Part-local port of a logical port (R214). -/
def portLocal (v : Variant) (tiles : List Nat) (q : Nat) : Nat := 4 * (fabricDies v tiles).getD (q / 4) 0 + q % 4

def Site.n (a : Site) : Nat := a.tiles.length
def Site.dies (a : Site) : List Nat := fabricDies a.v a.tiles
def Site.ports (a : Site) : Nat := 4 * a.dies.length
def Site.cap (a : Site) : Nat := tileCap a.v a.dark

/-- Configured virtual channels of a part-local port under a plan (10 R287, 11 R308). -/
def configuredVcs (v : Variant) (plan : Option Plan) (q : Nat) : Nat :=
  if v = .zx910 then 1
  else match plan with
    | none => 4
    | some p => match p.ports[q]? with
      | some e => if e.linked && e.vc != 0 then e.vc else 4
      | none => 4

/-- Whether a logical range lies in one window or store (R188). -/
def Site.inWindow (a : Site) (x len : Nat) : Bool :=
  if 0x900000000000 ≤ x then decide ((x - 0x900000000000) / 0x100000 < 144 * a.n) && decide (x % 0x100000 + len ≤ 0x100000)
  else if 0x800000000000 ≤ x then decide ((x - 0x800000000000) / 0x20000000 < 6 * a.n) && decide (x % 0x20000000 + len ≤ 0x20000000)
  else decide (x / a.cap < a.n) && decide (x % a.cap + len ≤ a.cap)

/-- Whether a range fits under R207. -/
def Site.fits (a : Site) (x len : Nat) : Bool :=
  if len = 0 then true
  else if 0x900000000000 ≤ x then decide ((x - 0x900000000000) / 0x100000 < 144 * a.n) && decide (x % 0x100000 + len ≤ 0x100000)
  else if 0x800000000000 ≤ x then decide ((x - 0x800000000000) / 0x20000000 < 6 * a.n) && decide (x % 0x20000000 + len ≤ 0x20000000)
  else decide (x + len ≤ a.n * a.cap)

/-- Space code of an address (R221). -/
def spaceOf (x : Nat) : Nat := if 0x900000000000 ≤ x then 2 else if 0x800000000000 ≤ x then 1 else 0

/-! ### Checks 5 to 8 -/

def fixedMode (b : Bytes) : Bool := bit (fld b 32 4) 0

/-- Check 5 (R210, R216). -/
def checkShape (a : Site) (b : Bytes) (xs : List Sect) : Load Unit := do
  let h (f : Nat) (st : Byte) : LoadStop := { check := 5, status := st, field := f }
  need (fld b 36 2 == a.n) (h 36 stSettings)
  need (!(bit (fld b 32 4) 2) || a.dark) (h 32 stDenied)
  need (fixedMode b || (sectOf xs 2 0 0).isNone) { check := 5, status := stBadArg, type := 2 }
  need (!(fixedMode b) || (sectOf xs 2 0 0).isSome) (h 32 stBadArg)
  need (!(fixedMode b) || bit (fld b 32 4) 1) (h 32 stBadArg)
  withSect (sectOf xs 2 0 0) fun x => do
    needZero x.body 7 1 (x.stop 5 stBadArg 0xFFFFFFFF 7)
    needZero x.body 10 54 (x.stop 5 stBadArg 0xFFFFFFFF 10)
    need (fld x.body 8 2 == fld b 36 2) (x.stop 5 stBadArg 0xFFFFFFFF 8)

/-- Check 6: the seal against the part (R216, R234). -/
def checkSeal (a : Site) (xs : List Sect) : Load Unit :=
  withSect (sectOf xs 2 0 0) fun x =>
    match a.dpis.find? fun d => d.1.toNat == fld x.body 0 4 with
    | none => .error (x.stop 6 stSettings 0xFFFFFFFF 0)
    | some d => do
      need (d.2 == fld x.body 4 2) (x.stop 6 stSettings 0xFFFFFFFF 4)
      need (fld x.body 6 1 == a.cls) (x.stop 6 stSettings 0xFFFFFFFF 6)

/-- Members of a JOB section: part_id and tiles. -/
def jobMembers (x : Sect) : List (Nat × Nat) := (pieces 8 (x.body.drop 8)).map fun e => (fld e 0 2, fld e 2 1)

/-- Check 7 (R218). -/
def checkJob (a : Site) (b : Bytes) (xs : List Sect) : Load Unit :=
  withSect (sectOf xs 4 0 0) fun x => do
    needZero x.body 2 2 (x.stop 7 stBadArg 0xFFFFFFFF 2)
    need (fld x.body 4 4 == fld b 50 2) (x.stop 7 stBadArg 0xFFFFFFFF 4)
    let ms := jobMembers x
    let rank := fld b 48 2
    match firstBad (fun i (e : Bytes) => firstFail
        [(decide (fld e 0 2 < 4096), stBadArg, 0),
         (!((ms.take i).any fun m => m.1 == fld e 0 2), stBadArg, 0),
         (decide (1 ≤ fld e 2 1) && decide (fld e 2 1 ≤ 16), stBadArg, 2),
         ((firstNz e 3 5).isNone, stBadArg, 3),
         (i != rank || a.partId == some (fld e 0 2), stBadArg, 0),
         (i != rank || fld e 2 1 == a.n, stBadArg, 2)]) 0 (pieces 8 (x.body.drop 8)) with
    | some (i, st, f) => .error (x.stop 7 st i f)
    | none => .ok ()

/-- Slot times of a frame and of its tick guard (R38). -/
def frameSlots (frameCount : Nat) : Nat := 20 * frameCount / 87
def guardSlots (skew : Nat) : Nat := cdiv (2 * skew) 87
/-- Usable slots of a frame. -/
def usableSlots (frameCount skew : Nat) : Nat := frameSlots frameCount - 1 - guardSlots skew

/-- A port has a slot table with entries in some bank (R215). -/
def hasTable (xs : List Sect) (q : Nat) : Bool :=
  xs.any fun x => x.type == 0x40 && x.inst == q && x.count != 0

/-- FRAME, as part of check 8 (R215, R32, R37, R40, R54). -/
def checkFrame (b : Bytes) (xs : List Sect) (x : Sect) : Load Unit := do
  let y := x.body
  let bad (f : Nat) : LoadStop := x.stop 8 stBadArg 0xFFFFFFFF f
  let within (lo hi v : Nat) : Bool := decide (lo ≤ v) && decide (v ≤ hi)
  let fixed := fixedMode b
  let fc := fld y 0 4
  let c := fld y 4 4
  let fs := fld y 8 2
  let ff := fld y 10 2
  let fm := fld y 12 2
  let st := fld y 14 2
  let skew := fld y 20 4
  need (within 2000 10000000 fc) (bad 0)
  need (decide (1 ≤ c)) (bad 4)
  need (clockSteps.contains fs) (bad 8)
  need (clockSteps.contains ff && decide (ff ≤ fs)) (bad 10)
  need (clockSteps.contains fm && decide (fs ≤ fm)) (bad 12)
  withSect (sectOf xs 2 0 0) fun z => do
    need (fs == fld z.body 4 2) (bad 8)
    need (ff == fld z.body 4 2) (bad 10)
    need (fm == fld z.body 4 2) (bad 12)
  need (within (if fixed then 200 else 100) 2500 st) (bad 14)
  need (within (if fixed then 4000 else 2000) 1000000 (fld y 16 4)) (bad 16)
  need (within (if fixed then 120 else 100) 10000 skew) (bad 20)
  need (within (if fixed then 32 else 16) 1024 (fld y 24 2)) (bad 24)
  need (decide (fld y 26 1 ≤ 15)) (bad 26)
  need (if fld y 26 1 = 0 then fld y 27 1 == 0 else within 4 16 (fld y 27 1)) (bad 27)
  needZero y 28 4 (bad 28)
  needZero y 40 24 (bad 40)
  need (decide ((250 + skew) * ff * 10 + c * (10000 + st) ≤ 100 * fc * ff)) (bad 4)
  need (ff == fm || decide (30000 * ff ≤ st * c)) (bad 14)
  let u := usableSlots fc skew
  (List.range 64).forM fun q =>
    let w := fld y (64 + 4 * q) 4
    need (if hasTable xs q then within (cdiv ((if fixed then 3 else 2) * u) 100) u w else w == 0) (bad (64 + 4 * q))

/-- Check 8: FRAME, then GRAIN (R217). -/
def checkContract (b : Bytes) (xs : List Sect) : Load Unit := do
  withSect (sectOf xs 1 0 0) (checkFrame b xs)
  withSect (sectOf xs 3 0 0) fun x => do
    needZero x.body 1 15 (x.stop 8 stBadArg 0xFFFFFFFF 1)
    need (decide (fld x.body 0 1 ≤ 1)) (x.stop 8 stBadArg 0xFFFFFFFF 0)
    need (fld x.body 0 1 == 0 || fld x.body 16 16 == 0) (x.stop 8 stBadArg 0xFFFFFFFF 16)

/-- Check 9: instances that exist in the partition, and the bound on bundles (R219, R234). -/
def checkInstances (a : Site) (xs : List Sect) : Load Unit :=
  xs.forM fun x =>
    let lim := match x.type with
      | 0x10 => some (36 * a.n)
      | 0x40 => some a.ports
      | 0x41 => some a.dies.length
      | 0x43 => some a.n
      | _ => none
    match lim with
    | none => .ok ()
    | some l => do
      need (decide (x.inst < l)) (x.stop 9 stNoResource x.ix 2)
      need (x.type != 0x10 || decide (x.count ≤ 8192)) (x.stop 9 stNoResource x.ix 24)

/-! ### Memory: checks 10 and 11 -/

/-- A MEMMAP entry (R221). -/
structure MemEnt where
  kind : Nat
  space : Nat
  index : Nat
  base : Nat
  len : Nat
  buf0 : Nat
  buf1 : Nat
  raw : Bytes
  deriving DecidableEq, Repr

def readMemEnt (e : Bytes) : MemEnt :=
  { kind := fld e 0 1, space := fld e 1 1, index := fld e 2 2, base := fld e 8 8, len := fld e 16 8, buf0 := fld e 24 8,
    buf1 := fld e 32 8, raw := e }

def MemEnt.window (m : MemEnt) : Bool := m.kind == 2 || m.kind == 3

/-- Ranges that an entry declares, with the field that names each. -/
def MemEnt.ranges (m : MemEnt) (a : Site) : List (Nat × Nat × Nat) :=
  if m.kind = 6 then (if m.len = 0 then [(m.base, 0, 16)] else (List.range a.n).map fun t => (t * a.cap + m.base, m.len, 16))
  else if m.window then [(m.base, m.len, 16), (m.buf0, m.len, 24), (m.buf1, m.len, 32)]
  else [(m.base, m.len, 16)]

/-- Sorted disjoint ranges [lo, hi) of a union. -/
def insertSpan (x : Nat × Nat) : List (Nat × Nat) → List (Nat × Nat)
  | [] => [x]
  | y :: rest =>
    if x.2 < y.1 then x :: y :: rest
    else if y.2 < x.1 then y :: insertSpan x rest
    else insertSpan (Nat.min x.1 y.1, Nat.max x.2 y.2) rest

/-- Union of ranges given as base and length. -/
def unionSpans (rs : List (Nat × Nat)) : List (Nat × Nat) :=
  rs.foldl (fun acc r => if r.2 = 0 then acc else insertSpan (r.1, r.1 + r.2) acc) []

/-- Take a range out of a union. -/
def cutSpan (r : Nat × Nat) (xs : List (Nat × Nat)) : List (Nat × Nat) :=
  if r.2 = 0 then xs
  else xs.flatMap fun y =>
    let lo := r.1
    let hi := r.1 + r.2
    if hi ≤ y.1 ∨ y.2 ≤ lo then [y]
    else (if y.1 < lo then [(y.1, lo)] else []) ++ (if hi < y.2 then [(hi, y.2)] else [])

/-- What a Darkslide saves and leaves out: DATA ranges, input and output windows, and the ranges excluded in every role
(13 R358). -/
structure SaveMap where
  data : List (Nat × Nat)
  inputs : List Window
  outputs : List Window
  excluded : List (Nat × Nat)

/-- Saved HBM ranges of a logical tile, base and length, ascending (13 R358). -/
def SaveMap.saved (m : SaveMap) (cap t : Nat) (inBuf : Bool) : List (Nat × Nat) :=
  let clip (r : Nat × Nat) : Nat × Nat :=
    let lo := Nat.max r.1 (t * cap)
    (lo, Nat.min (r.1 + r.2) ((t + 1) * cap) - lo)
  let used (w : Window) : Nat × Nat := (if inBuf then w.buf0 else w.buf1, w.len)
  let post (w : Window) : Nat × Nat := (if inBuf then w.buf1 else w.buf0, w.len)
  let inc := m.data ++ m.inputs.map used ++ m.outputs.flatMap fun w => [(w.buf0, w.len), (w.buf1, w.len)]
  let u := unionSpans (inc.map clip)
  let cut := (m.excluded ++ m.inputs.map post).foldl (fun acc r => cutSpan r acc) u
  cut.map fun y => (y.1, y.2 - y.1)

/-- Size of a slice (13 R358). -/
def sliceSize (saved : List (Nat × Nat)) : Nat := 3424190464 + saved.foldl (fun acc r => acc + alignUp r.2 65536) 0

/-- The save map of a MEMMAP and the weight targets. -/
def saveMapOf (a : Site) (ms : List MemEnt) (weights : List (Nat × Nat)) : SaveMap :=
  let win (k : Nat) : List Window := (ms.filter fun m => m.kind == k).map fun m => ⟨m.index, m.base, m.buf0, m.buf1, m.len⟩
  { data := (ms.filter fun m => m.kind == 1 && spaceOf m.base == 0).map fun m => (m.base, m.len)
    inputs := win 2, outputs := win 3
    excluded := weights ++ (ms.filter fun m => decide (4 ≤ m.kind)).flatMap fun m => (m.ranges a).map fun r => (r.1, r.2.1) }

/-- Largest slice over the roles of the input windows and the tiles (13 R357). -/
def SaveMap.largest (m : SaveMap) (a : Site) : Nat :=
  (List.range a.n).foldl (fun acc t =>
    Nat.max acc (Nat.max (sliceSize (m.saved a.cap t true)) (sliceSize (m.saved a.cap t false)))) 0

/-- Targets of the weight images. -/
def weightSpans (xs : List Sect) : List (Nat × Nat) :=
  match sectOf xs 0x21 0 0 with
  | some x => (x.entries 96).map fun e => (fld e 8 8, fld e 16 8)
  | none => []

/-- Capacity part of check 10 (R207, 13 R357). -/
def memFit (a : Site) (xs : List Sect) (x : Sect) : Load Unit :=
  let ms := (x.entries 48).map readMemEnt
  let save := saveMapOf a ms (weightSpans xs)
  x.each 10 48 fun _ e =>
    let m := readMemEnt e
    let exceeded := (m.ranges a).find? fun r => !a.fits r.1 r.2.1
    match exceeded with
    | some r => some (stNoResource, r.2.2)
    | none => if m.kind = 6 ∧ m.len ≠ 0 ∧ m.len < save.largest a then some (stNoResource, 16) else none

/-- Alignment that a kind asks for (R222). -/
def kindAlign : Nat → Nat
  | 1 => 256
  | 2 => 4096
  | 3 => 4096
  | 4 => 64
  | _ => 65536

/-- Lowest logical tile that a logical fabric die serves. -/
def Site.lowTile (a : Site) (j : Nat) : Nat := a.tiles.findIdx fun d => fabricDie a.v d == a.dies.getD j 0

/-- An entry of MEMMAP against R188, R221 and R222 and the entries before it. -/
def memBad (a : Site) (ms : List MemEnt) (weights : List (Nat × Nat)) (i : Nat) (m : MemEnt) : Option (Byte × Nat) :=
  let al := kindAlign m.kind
  let mine := m.ranges a
  let before := ms.take i
  let others := if m.kind = 1 then [] else (before.filter fun y => y.kind != 1).flatMap fun y => (y.ranges a).map fun r => (r.1, r.2.1)
  let outside := others ++ weights ++ [(a.base, a.len)]
  let fieldOf (f : Nat) : Nat := if f = 16 then 8 else f
  firstFail (
    [(decide (1 ≤ m.kind) && decide (m.kind ≤ 6), stBadArg, 0),
     ((if m.len = 0 then decide (m.space ≤ 2) else m.space == spaceOf m.base) && (m.kind == 1 || m.space == 0), stBadArg, 1),
     (if m.window then decide (m.index < 64) else if m.kind = 5 then decide (m.index < a.ports) else m.index == 0, stBadArg, 2),
     ((firstNz m.raw 4 4).isNone, stBadArg, 4),
     (m.base % al == 0, stBadArg, 8),
     (m.len % al == 0, stBadArg, 16),
     (m.window || m.buf0 == 0, stBadArg, 24),
     (m.window || m.buf1 == 0, stBadArg, 32),
     (!m.window || m.buf0 % al == 0, stBadArg, 24),
     (!m.window || m.buf1 % al == 0, stBadArg, 32),
     ((firstNz m.raw 40 8).isNone, stBadArg, 40)] ++
    (mine.map fun r => (r.2.1 == 0 || a.inWindow r.1 r.2.1, stBadArg, fieldOf r.2.2)) ++
    [(!m.window || m.len == 0 || m.buf0 / a.cap == m.base / a.cap, stBadArg, 24),
     (!m.window || m.len == 0 || m.buf1 / a.cap == m.base / a.cap, stBadArg, 32),
     (!m.window || !overlap m.base m.len m.buf0 m.len, stBadArg, 24),
     (!m.window || !(overlap m.base m.len m.buf1 m.len || overlap m.buf0 m.len m.buf1 m.len), stBadArg, 32),
     (!(before.any fun y => y.kind == m.kind &&
        (m.kind == 6 || ((m.window || m.kind == 5) && y.index == m.index))), stBadArg, if m.kind = 6 then 0 else 2),
     (m.kind != 4 || m.len == 64, stBadArg, 16),
     (m.kind != 5 || decide (m.len ≤ 0x400000), stBadArg, 16),
     (m.kind != 5 || m.len == 0 || m.base / a.cap == a.lowTile (m.index / 4), stBadArg, 8),
     (m.kind != 6 || m.len == 0 || decide (m.base < a.cap), stBadArg, 8)] ++
    (if m.kind = 1 then [] else mine.map fun r => (!(outside.any fun o => overlap r.1 r.2.1 o.1 o.2), stBadArg, fieldOf r.2.2)))

/-- Check 10 (R207, R188, R222, 13 R357). -/
def checkMemory (a : Site) (xs : List Sect) : Load Unit :=
  withSect (sectOf xs 0x20 0 0) fun x => do
    memFit a xs x
    let ms := (x.entries 48).map readMemEnt
    x.each 10 48 fun i e => memBad a ms (weightSpans xs) i (readMemEnt e)
    need (decide ((ms.filter fun m => m.kind == 4).length = 1)) (x.stop 10 stBadArg 0xFFFFFFFF 0)

/-- A WEIGHTS entry (R223). -/
def weightBad (a : Site) (spans : List (Nat × Nat)) (i : Nat) (e : Bytes) : Option (Byte × Nat) :=
  let x := fld e 8 8
  let n := fld e 16 8
  firstFail
    [(a.fits x n, stNoResource, 16),
     (fld e 0 2 == i, stBadArg, 0),
     (if n = 0 then decide (fld e 2 1 ≤ 2) else fld e 2 1 == spaceOf x, stBadArg, 2),
     (decide (fld e 3 1 ≤ 1) && (fld e 3 1 == 1 || fld e 2 1 == 0), stBadArg, 3),
     ((firstNz e 4 4).isNone, stBadArg, 4),
     (x % 256 == 0, stBadArg, 8),
     (n == 0 || a.inWindow x n, stBadArg, 8),
     (!((spans.take i).any fun o => overlap x n o.1 o.2), stBadArg, 8),
     ((firstNz e 72 24).isNone, stBadArg, 72)]

/-- Check 11 (R223, R234): the entries, and a WEIGHT_DATA section of the image's length for each inline image. -/
def checkWeights (a : Site) (xs : List Sect) : Load Unit :=
  withSect (sectOf xs 0x21 0 0) fun x =>
    x.each 11 96 fun i e => match weightBad a (weightSpans xs) i e with
      | some r => some r
      | none =>
        let data := (sectOf xs 0x22 i 0).map (·.len)
        if fld e 3 1 = 0 ∨ data = some (fld e 16 8) then none else some (stBadArg, 16)

/-! ### Check 12: tables -/

/-- A stream table entry (R165, R188). -/
def streamBad (a : Site) (_i : Nat) (e : Bytes) : Option (Byte × Nat) :=
  let x := fld e 0 8
  let n := fld e 12 4
  firstFail
    [(x % 256 == 0 && (n == 0 || (spaceOf x == 0 && a.inWindow x n)), stBadArg, 0),
     (n % 256 == 0 && decide (n ≤ 0x20000000), stBadArg, 12),
     (fld e 8 4 % 256 == 0 && (n == 0 || decide (fld e 8 4 + n ≤ 0x20000000)), stBadArg, 8),
     (fld e 16 4 != 0 && fld e 16 4 != 0xFFFFFFFF, stBadArg, 16),
     (fld e 20 4 != 0, stBadArg, 20),
     ((firstNz e 24 8).isNone, stBadArg, 24)]

/-- A landing window (R224). -/
def landingBad (a : Site) (all : List Bytes) (i : Nat) (e : Bytes) : Option (Byte × Nat) :=
  let x := fld e 0 8
  let l := fld e 8 8
  firstFail
    [(decide (x ≤ l), stBadArg, 8),
     (l == x || a.inWindow x (l - x), stBadArg, 0),
     (!((all.take i).any fun y => overlap x (l - x) (fld y 0 8) (fld y 8 8 - fld y 0 8)), stBadArg, 0),
     (decide (fld e 16 2 < 36 * a.n), stBadArg, 16),
     (decide (fld e 18 1 ≤ 15), stBadArg, 18),
     (fld e 19 1 == 0, stBadArg, 19),
     ((firstNz e 20 12).isNone, stBadArg, 20)]

/-- A strictly rising list below a bound. -/
def risingBelow (hi : Nat) : Option Nat → List Nat → Bool
  | _, [] => true
  | none, x :: rest => decide (x < hi) && risingBelow hi (some x) rest
  | some p, x :: rest => decide (p < x) && decide (x < hi) && risingBelow hi (some x) rest

/-- An accumulation (R225, R67, R80). -/
def accumBad (x : Sect) (_i : Nat) (e : Bytes) : Option (Byte × Nat) :=
  let k := fld e 0 4
  let fa := BitVec.ofNat 4 (fld e 4 1)
  let fb := BitVec.ofNat 4 (fld e 5 1)
  let d := fld e 8 2
  let off := fld e 12 4
  let list_ := (List.range d).map fun j => fld x.body (off + 4 * j) 4
  firstFail
    [(k % 32 == 0 && decide (32 ≤ k) && decide (k ≤ 2 ^ 29), stBadArg, 0),
     (decide (fld e 4 1 ≤ 7) && decide (fld e 5 1 ≤ 7) && (pairOcc fa fb).isSome, stBadArg, 4),
     (decide (fld e 6 2 ≤ 511) || decide (0x10000 - 512 ≤ fld e 6 2), stBadArg, 6),
     (decide (d ≤ Nat.min (k / 16) 256), stBadArg, 8),
     (d == 0 || decide (fld e 4 1 ≤ 3), stBadArg, 4),
     (d == 0 || decide (fld e 5 1 ≤ 3), stBadArg, 5),
     ((firstNz e 10 2).isNone, stBadArg, 10),
     (if d = 0 then off == 0 else off % 4 == 0 && decide (32 * x.count ≤ off) && decide (off + 4 * d ≤ x.len) &&
        risingBelow k none list_, stBadArg, 12),
     ((firstNz e 16 16).isNone, stBadArg, 16)]

/-- A threshold (R82, R226). -/
def threshBad (_i : Nat) (e : Bytes) : Option (Byte × Nat) :=
  firstFail
    [(decide (0 < fld e 0 4) && decide (fld e 0 4 < 0x7F800000), stBadArg, 0),
     (decide (fld e 4 1 ≤ 1), stBadArg, 4),
     ((firstNz e 5 3).isNone, stBadArg, 5)]

/-- A slot table entry as the loader reads it (R227). -/
def readSlot (e : Bytes) : SlotEnt :=
  { slot := fld e 0 4, kind := if fld e 4 1 = 1 then .packet else if fld e 4 1 = 2 then .sheet else .reserved, vc := fld e 5 1
    destPart := BitVec.ofNat 12 (fld e 6 2), destAddr := BitVec.ofNat 48 (fld e 8 8), len := fld e 16 2
    keyIndex := BitVec.ofNat 8 (fld e 18 1), last := bit (fld e 19 1) 0, sheet := fld e 20 2, expert := fld e 22 2 }

/-- Entries of a slot table. -/
def slotsOf (xs : List Sect) (q bank : Nat) : List SlotEnt :=
  match sectOf xs 0x40 q bank with
  | some x => (x.entries 32).map readSlot
  | none => []

/-- A Contact sheet geometry (R231). -/
def readSheet (x : Sect) (e : Bytes) : Sheet :=
  let m := fld e 0 2
  let off := fld e 12 4
  let word (k : Nat) : Nat × Nat := let w := fld x.body (off + 4 * k) 4
    (bits w 15 14, bits w 13 0)
  { experts := m, capacity := fld e 2 1, defer := fld e 3 1 == 1, rowSize := fld e 4 2, routeLen := fld e 6 2
    deferLen := fld e 8 2, rowsMax := fld e 10 2, map := (List.range m).map word }

/-- Sheets of a tile. -/
def sheetList (x : Sect) : List Sheet := (x.entries 64).map (readSheet x)

/-- What names a SHEET entry: logical port, entry, sheet, expert and packet length. -/
structure SheetRef where
  port : Nat
  entry : Nat
  sheet : Nat
  expert : Nat
  len : Nat
  deriving DecidableEq, Repr

/-- All references of a SHEETS section. -/
def sheetRefs (a : Site) (x : Sect) : List SheetRef :=
  let die := a.dies.findIdx (· == fabricDie a.v (a.tiles.getD x.inst 0))
  (sheetList x).zipIdx.flatMap fun g => g.1.map.zipIdx.map fun m =>
    ⟨4 * die + m.1.1, m.1.2, g.2, m.2, g.1.packetLen⟩

/-- All references of the Negative. -/
def allRefs (a : Site) (xs : List Sect) : List SheetRef := (xs.filter fun x => x.type == 0x43).flatMap (sheetRefs a)

/-- A sheet descriptor (R231, R178); `before` holds the references of the sections before it. -/
def sheetBad (a : Site) (tables : Nat → List SlotEnt) (x : Sect) (before : List SheetRef) (i : Nat) (e : Bytes) : Option (Byte × Nat) :=
  let g := readSheet x e
  let off := fld e 12 4
  let die := a.dies.findIdx (· == fabricDie a.v (a.tiles.getD x.inst 0))
  let wordBad (k : Nat) : Bool :=
    let w := fld x.body (off + 4 * k) 4
    let q := 4 * die + bits w 15 14
    decide (65535 < w) ||
      (match (tables q)[bits w 13 0]? with
       | some s => !(s.kind == .sheet && s.sheet == i && s.expert == k)
       | none => true) ||
      before.any (fun r => r.port == q && r.entry == bits w 13 0) ||
      (sheetRefs a x).any fun r => r.port == q && r.entry == bits w 13 0 && decide (r.sheet * 1024 + r.expert < i * 1024 + k)
  firstFail
    [(decide (1 ≤ g.experts) && decide (g.experts ≤ 1024), stBadArg, 0),
     (decide (1 ≤ g.capacity), stBadArg, 2),
     (decide (fld e 3 1 ≤ 1), stBadArg, 3),
     (g.rowSize % 256 == 0 && decide (256 ≤ g.rowSize) && decide (g.rowSize ≤ 8192) && decide (g.packetLen ≤ 8192), stBadArg, 4),
     (decide (1 ≤ g.routeLen) && decide (g.routeLen ≤ 4096), stBadArg, 6),
     (decide (g.deferLen ≤ 4096) && (g.defer || g.deferLen == 0), stBadArg, 8),
     (decide (1 ≤ g.rowsMax), stBadArg, 10),
     (off % 4 == 0 && decide (64 * x.count ≤ off) && decide (off + 4 * g.experts ≤ x.len), stBadArg, 12),
     ((firstNz e 16 48).isNone, stBadArg, 16),
     (!((List.range g.experts).any wordBad), stBadArg, 12)]

/-- Facts that slot and hop tables are checked against. -/
structure TableCtx where
  vcs : Nat → Nat
  members : List Nat
  frameSlots : Nat
  guard : Nat
  usable : Nat
  allowance : Nat → Nat
  patched : Nat → Bool
  ports : Nat
  own : Nat
  refs : List SheetRef

/-- An entry of a slot table (R227, R228); `all` is the raw table. -/
def slotBad (c : TableCtx) (q : Nat) (all : List Bytes) (i : Nat) (e : Bytes) : Option (Byte × Nat) :=
  let s := readSlot e
  let kind := fld e 4 1
  let named := c.refs.filter fun r => r.port == q && r.entry == i
  firstFail
    [((i == 0 || decide (fld (all.getD (i - 1) []) 0 4 < s.slot)) && decide (1 ≤ s.slot) && decide (s.slot + c.guard < c.frameSlots),
        stBadArg, 0),
     (decide (1 ≤ kind) && decide (kind ≤ 3), stBadArg, 4),
     (kind != 3 || (firstNz e 5 27).isNone, stBadArg, ([5, 6, 8, 16, 18, 19, 20, 22, 24].filter fun f =>
        decide (f ≤ (firstNz e 5 27).getD 0)).getLastD 5),
     (kind == 3 || decide (s.vc < c.vcs q), stBadArg, 5),
     (kind == 3 || c.members.contains (fld e 6 2), stBadArg, 6),
     (decide (fld e 8 8 < 2 ^ 48), stBadArg, 8),
     (decide (s.len ≤ 8192), stBadArg, 16),
     (decide (fld e 19 1 ≤ 1), stBadArg, 19),
     (kind == 2 || s.sheet == 0, stBadArg, 20),
     (kind == 2 || s.expert == 0, stBadArg, 22),
     (kind != 2 || (match named with
        | [r] => r.sheet == s.sheet && r.expert == s.expert
        | _ => false), stBadArg, 20),
     (kind != 2 || named.all (fun r => r.len == s.len), stBadArg, 16),
     ((firstNz e 24 8).isNone, stBadArg, 24)]

/-- Check a slot table (R227, R228). -/
def checkSlots (c : TableCtx) (check : Nat) (x : Sect) : Load Unit := do
  need (!c.patched x.inst) (x.stop check stBadArg 0xFFFFFFFF 0xFFFFFFFF)
  x.each check 32 (slotBad c x.inst (x.entries 32))
  let busy := (x.entries 32).filter fun y => fld y 4 1 != 3
  need (x.count == 0 || decide (busy.length + c.allowance x.inst ≤ c.usable)) (x.stop check stBadArg 0xFFFFFFFF 0xFFFFFFFF)

/-- A hop table entry (R229). -/
def hopBad (c : TableCtx) (i : Nat) (e : Bytes) : Option (Byte × Nat) :=
  let o := fld e 0 1
  firstFail
    [((i == c.own) == (o == 0xFE), stBadArg, 0),
     (decide (254 ≤ o) || (decide (o < c.ports) && !c.patched o), stBadArg, 0),
     (decide (254 ≤ o) || decide (fld e 1 1 < c.vcs o), stBadArg, 1),
     ((firstNz e 2 2).isNone, stBadArg, 2)]

/-- Check a hop table (R229). -/
def checkHops (c : TableCtx) (check : Nat) (x : Sect) : Load Unit := x.each check 4 (hopBad c)

/-- Patches of a Negative, as pairs of logical ports (R230). -/
def patchesOf (xs : List Sect) : List (Nat × Nat) :=
  match sectOf xs 0x42 0 0 with
  | some x => (x.entries 8).map fun e => (fld e 0 1, fld e 1 1)
  | none => []

/-- Fabric dies from one column to another along a row, then down the column: each link as a pair, lower die first
(09 R252). -/
def meshLinks (f g : Nat) : List (Nat × Nat) :=
  let row := f / 4
  let c0 := Nat.min (f % 4) (g % 4)
  let r0 := Nat.min row (g / 4)
  ((List.range (Nat.max (f % 4) (g % 4) - c0)).map fun k => (4 * row + c0 + k, 4 * row + c0 + k + 1)) ++
    (List.range (Nat.max row (g / 4) - r0)).map fun k => (4 * (r0 + k) + g % 4, 4 * (r0 + k + 1) + g % 4)

/-- Whether a set of patches, as part-local ports, keeps to four channels a link and off the compute mesh (09 R254). -/
def channelsOk (v : Variant) (ps : List (Nat × Nat)) : Bool :=
  let links := ps.flatMap fun p => meshLinks (p.1 / 4) (p.2 / 4)
  let mesh := match v with
    | .zx940 | .zx910 => ps.all fun p => p.1 / 4 % 4 == p.2 / 4 % 4
    | _ => true
  mesh && links.all fun l => decide ((links.filter (· == l)).length ≤ 4)

/-- An XPOINT entry (R230). -/
def patchBad (a : Site) (all : List (Nat × Nat)) (i : Nat) (e : Bytes) : Option (Byte × Nat) :=
  let p := fld e 0 1
  let q := fld e 1 1
  let before := (all.take i).flatMap fun y => [y.1, y.2]
  let set := a.patches ++ (all.take (i + 1)).map fun y => (portLocal a.v a.tiles y.1, portLocal a.v a.tiles y.2)
  firstFail
    [(decide (p < a.ports) && !before.contains p, stBadArg, 0),
     (decide (q < a.ports) && q != p && !before.contains q, stBadArg, 1),
     ((firstNz e 2 6).isNone, stBadArg, 2),
     (channelsOk a.v set, stNoResource, 0)]

/-- What the tables of a Negative are checked against. -/
def tableCtx (a : Site) (b : Bytes) (xs : List Sect) : TableCtx :=
  let y := match sectOf xs 1 0 0 with | some x => x.body | none => []
  let ms := match sectOf xs 4 0 0 with | some x => (jobMembers x).map (·.1) | none => []
  let ps := patchesOf xs
  { vcs := fun q => a.vcs.getD (portLocal a.v a.tiles q) 4, members := ms, frameSlots := frameSlots (fld y 0 4)
    guard := guardSlots (fld y 20 4), usable := usableSlots (fld y 0 4) (fld y 20 4), allowance := fun q => fld y (64 + 4 * q) 4
    patched := fun q => ps.any fun p => p.1 == q || p.2 == q, ports := a.ports, own := ms.getD (fld b 48 2) 4096
    refs := allRefs a xs }

/-- Check 12, in the order of R234. -/
def checkTables (a : Site) (b : Bytes) (xs : List Sect) : Load Unit := do
  let c := tableCtx a b xs
  withSect (sectOf xs 0x23 0 0) fun x => x.each 12 32 (streamBad a)
  withSect (sectOf xs 0x24 0 0) fun x => x.each 12 32 (landingBad a (x.entries 32))
  withSect (sectOf xs 0x30 0 0) fun x => x.each 12 32 (accumBad x)
  withSect (sectOf xs 0x31 0 0) fun x => x.each 12 8 threshBad
  eachSect xs 0x43 fun x => x.each 12 64 (sheetBad a (slotsOf xs · 0) x (allRefs a (xs.take x.ix)))
  eachSect xs 0x40 fun x => checkSlots c 12 x
  eachSect xs 0x41 fun x => checkHops c 12 x
  withSect (sectOf xs 0x42 0 0) fun x => x.each 12 8 (patchBad a (patchesOf xs))

/-! ### Check 13: bundles and address registers -/

/-- Types that a V operation allows, none where R155 gives the type field no meaning or the opcode is reserved. -/
def vTypes (op : Nat) : Option (List Nat) :=
  if op = 0x04 ∨ op = 0x18 ∨ op = 0x19 ∨ op = 0x38 ∨ op = 0x39 ∨ op = 0x3A then some floatTypes
  else if op = 0x09 ∨ op = 0x0D ∨ op = 0x0E ∨ op = 0x13 then some [10]
  else if 0x20 ≤ op ∧ op ≤ 0x2A then some [7, 9]
  else if op = 0x40 then some [9, 10]
  else if 1 ≤ op ∧ op ≤ 0x14 then some allTypes
  else none

/-- A bundle against R220: `entry` tells whether a port and an entry of the block's fabric die name a PACKET entry. The field
is the slot mask, the type of the V operation, or the entry of the COMMIT. -/
def bundleBad (entry : Nat → Nat → Bool) (w : Nat) : Option (Byte × Nat) :=
  let slot (hi lo : Nat) : Nat := bits w hi lo
  let quiet (k hi lo : Nat) : Bool := bit w k || slot hi lo == 0
  let v := slot 159 96
  let x := slot 255 208
  firstFail
    [(quiet 0 39 8 && quiet 1 95 40 && quiet 2 159 96 && quiet 3 207 160 && quiet 4 255 208, stBadArg, 0),
     (!(bit w 2) || (match vTypes (bits v 7 0) with
        | some ts => ts.contains (bits v 35 32)
        | none => true), stBadArg, 16),
     (!(bit w 4) || bits x 5 0 != 1 || entry (bits x 7 6) (bits x 21 8), stBadArg, 27)]

/-- Bundles of a section. -/
def bundleWords (x : Sect) : List Nat := (x.entries 32).map leNat

/-- Check 13 (R219, R220). -/
def checkBundles (a : Site) (xs : List Sect) : Load Unit := do
  eachSect xs 0x10 fun x =>
    let die := a.dies.findIdx (· == fabricDie a.v (a.tiles.getD (x.inst / 36) 0))
    let entry (p s : Nat) : Bool := match (slotsOf xs (4 * die + p) 0)[s]? with
      | some e => e.kind == .packet
      | none => false
    match firstBad (fun _ w => bundleBad entry w) 0 (bundleWords x) with
    | some (i, st, f) => .error (x.stop 13 st i f)
    | none => .ok ()
  withSect (sectOf xs 0x11 0 0) fun x => x.each 13 64 fun _ e => if fld e 0 4 = 0 then none else some (stBadArg, 0)

/-- Checks 2 to 13 (R234): the sections. -/
def loadChecks (a : Site) (b : Bytes) : Load (List Sect) := do
  checkHeader b
  checkTrailer b 3
  let xs ← checkTable b
  checkShape a b xs
  checkSeal a xs
  checkJob a b xs
  checkContract b xs
  checkInstances a xs
  checkMemory a xs
  checkWeights a xs
  checkTables a b xs
  checkBundles a xs
  return xs

/-! ### The Negative as the part keeps it -/

/-- Hop table of a section. -/
def hopsOf (x : Sect) : List HopEnt := (x.entries 4).map fun e => ⟨BitVec.ofNat 8 (fld e 0 1), BitVec.ofNat 8 (fld e 1 1)⟩

/-- Sections of a type and bank by instance. -/
def sectMap {α : Type} (xs : List Sect) (type bank : Nat) (f : Sect → α) : FMap α :=
  xs.foldl (fun acc x => if x.type = type ∧ x.bank = bank then fmSet acc x.inst (f x) else acc) []

/-- Read an accepted Negative. -/
def buildNeg (a : Site) (b : Bytes) (xs : List Sect) : Neg :=
  let body (ty : Nat) : Bytes := match sectOf xs ty 0 0 with | some x => x.body | none => []
  let ents (ty size : Nat) : List Bytes := match sectOf xs ty 0 0 with | some x => x.entries size | none => []
  let y := body 1
  let ms := (ents 0x20 48).map readMemEnt
  let save := saveMapOf a ms []
  let seal_ := body 2
  let grain := body 3
  let areg (e : Bytes) : List (BitVec 32) := (List.range 16).map fun k => BitVec.ofNat 32 (fld e (4 * k) 4)
  { digest := (b.drop (b.length - 64)).take 48
    fixed := fixedMode b, refSet := bit (fld b 32 4) 1, darkReq := bit (fld b 32 4) 2, tileCount := fld b 36 2
    jobId := BitVec.ofNat 64 (fld b 40 8), rank := BitVec.ofNat 16 (fld b 48 2), jobParts := fld b 50 2
    frameCount := fld y 0 4, schedLen := fld y 4 4, fSched := fld y 8 2, fFloor := fld y 10 2, fMax := fld y 12 2
    stretch := fld y 14 2, memVar := fld y 16 4, tickSkew := fld y 20 4, retryLag := fld y 24 2, attempts := fld y 26 1
    rejoinLog2 := fld y 27 1, arrivalTotal := BitVec.ofNat 64 (fld y 32 8)
    allowance := (List.range 64).map fun q => fld y (64 + 4 * q) 4
    sealRec := if (sectOf xs 2 0 0).isSome then some (fld seal_ 0 4, fld seal_ 4 2, fld seal_ 6 1) else none
    seedAtExpose := fld grain 0 1 == 1, seed := BitVec.ofNat 128 (fld grain 16 16)
    jobTag := BitVec.ofNat 16 (fld (body 4) 0 2)
    members := match sectOf xs 4 0 0 with | some x => jobMembers x | none => []
    bundles := sectMap xs 0x10 0 fun x => (bundleWords x).map (BitVec.ofNat 256 ·)
    aregs := ((ents 0x11 64).map areg).zipIdx.map fun p => (p.2, p.1)
    inputs := sortBy (·.num) save.inputs, outputs := sortBy (·.num) save.outputs
    commitAddr := match ms.find? (fun m => m.kind == 4) with | some m => m.base | none => 0
    spills := ms.foldl (fun acc m => if m.kind = 5 then fmSet acc m.index (m.base, m.len) else acc) []
    checkpoint := (ms.find? fun m => m.kind == 6).map fun m => (m.base, m.len)
    data := save.data
    weights := (ents 0x21 96).map fun e => ⟨fld e 8 8, fld e 16 8, (e.drop 24).take 48⟩
    streams := (ents 0x23 32).map fun e => ⟨fld e 0 8, fld e 8 4, fld e 12 4, fld e 16 4, fld e 20 4⟩
    landing := (ents 0x24 32).map fun e => ⟨fld e 0 8, fld e 8 8, fld e 16 2, fld e 18 1⟩
    thresh := (ents 0x31 8).map fun e => (BitVec.ofNat 32 (fld e 0 4), bit (fld e 4 1) 0)
    sheets := sectMap xs 0x43 0 sheetList
    slots0 := sectMap xs 0x40 0 fun x => (x.entries 32).map readSlot
    slots1 := sectMap xs 0x40 1 fun x => (x.entries 32).map readSlot
    hops0 := sectMap xs 0x41 0 hopsOf
    hops1 := sectMap xs 0x41 1 hopsOf
    patches := patchesOf xs
    jobDigest := sha384 (body 4) }

/-- Inline weight images: target and bytes (R223). -/
def inlineImages (xs : List Sect) : List (Nat × Nat × Bytes) :=
  match sectOf xs 0x21 0 0 with
  | none => []
  | some x => (x.entries 96).zipIdx.filterMap fun p =>
      if fld p.1 3 1 = 1 then (sectOf xs 0x22 p.2 0).map fun w => (p.2, fld p.1 8 8, w.body) else none

end Sys2Proof.Machine
end

