-- ==== Sys2Proof/Machine/Proofs.lean ====
section
/-! DEFINITION. Digests of installed tables, the Proof (15 R418, R419) and PROOF, the Print record (13 R366 to R371) and
PRINT. -/

namespace Sys2Proof.Machine

/-! ### Installed tables (09 R260) -/

/-- A slot table entry in the layout of R227. -/
def SlotEnt.bytes (e : SlotEnt) : Bytes :=
  let kind := match e.kind with | .packet => 1 | .sheet => 2 | .reserved => 3
  leBytes 4 e.slot ++ leBytes 1 kind ++ leBytes 1 e.vc ++ leBytes 2 e.destPart.toNat ++ leBytes 8 e.destAddr.toNat ++
    leBytes 2 e.len ++ [e.keyIndex] ++ leBytes 1 (boolNat e.last) ++ leBytes 2 e.sheet ++ leBytes 2 e.expert ++ leBytes 8 0

/-- A hop table entry in the layout of R229, with its logical port. -/
def HopEnt.bytes (e : HopEnt) (dies : List Nat) : Bytes :=
  let o := e.out_.toNat
  leBytes 1 (if o < 64 then 4 * dies.findIdx (· == o / 4) + o % 4 else o) ++ [e.vc, 0, 0]

/-- Logical fabric dies of a partition. -/
def State.fabDies (s : State) (p : Partition) : List Nat := fabricDies s.model p.tiles

/-- Part-local ports of a partition, in logical order. -/
def State.portsOf (s : State) (p : Partition) : List Nat := (s.fabDies p).flatMap fun f => [4 * f, 4 * f + 1, 4 * f + 2, 4 * f + 3]

/-- SHA-384 of a slot table as installed. -/
def State.slotDigest (s : State) (q : Nat) (bank : Bool) : Bytes :=
  let x := s.txOf q
  sha384 ((if bank then x.bank1 else x.bank0).flatMap SlotEnt.bytes)

/-- SHA-384 of a hop table as installed. -/
def State.hopDigest (s : State) (p : Partition) (f : Nat) (bank : Bool) : Bytes :=
  let x := s.die f
  sha384 ((if bank then x.hop1 else x.hop0).flatMap (HopEnt.bytes · (s.fabDies p)))

/-- table_digest of the Proof (15 R418). -/
def State.tableDigest (s : State) (p : Partition) (bank : Bool) : Bytes :=
  sha384 ((s.portsOf p).flatMap (s.slotDigest · bank) ++ (s.fabDies p).flatMap (s.hopDigest p · bank))

/-- The bank that an epoch number makes active (09 R256). -/
def Partition.activeBank (p : Partition) : Bool := p.epoch.getLsbD 0

/-- weights_digest (15 R418). -/
def Neg.weightsDigest (n : Neg) : Bytes := sha384 (n.weights.flatMap (·.digest))

/-! ### Keys of the device (15 R400, R402) -/

/-- Order of the group of P-384. -/
def p384Order : Nat := 0xFFFFFFFFFFFFFFFFFFFFFFFFFFFFFFFFFFFFFFFFFFFFFFFFC7634D81F4372DDF581A0DB248B0A77AECEC196ACCC52973

/-- Private scalar of the device wrap key pair. -/
def State.wrapPrivate (s : State) : BitVec 384 :=
  BitVec.ofNat 384 (beNat (kdf s.rootBytes "ZX.WRAP.EC" [] 448) % (p384Order - 1) + 1)

/-- An uncompressed public key. -/
def uncompressed (priv : BitVec 384) : Bytes := (4 : Byte) :: Config.ecPublic priv

/-- Sign the SHA-384 of a byte string with the identity key; the signature's randomness is free. -/
def State.sign (s : State) (m : Bytes) : Bytes × State :=
  (Config.ecdsaSign s.id.idKey (sha384 m) s.free, { s with free := s.free + 1 })

/-! ### The Proof -/

/-- The lockout of R423 holds. -/
def State.lockout (s : State) : Bool := s.parts.any fun q => q.2.dark

/-- Fields that only an installed Negative gives: from negative_digest to job_parts. -/
def proofJob (n : Neg) (epoch : Nat) (tables : Bytes) : Bytes :=
  n.digest ++ n.weightsDigest ++ leBytes 4 n.weights.length ++ leBytes 4 epoch ++ tables ++ n.jobDigest ++
    leBytes 8 n.jobId.toNat ++ leBytes 2 n.rank.toNat ++ leBytes 2 n.jobParts

/-- Bytes 0 to 655 of a Proof; `job` holds the 212 bytes from negative_digest to job_parts. -/
def State.proofHead (s : State) (p : Partition) (nonce : Bytes) (state : Nat) (n : Option Neg) (job : Bytes) : Bytes :=
  let x := n.getD {}
  let flags := boolNat p.dark + 2 * boolNat x.fixed + 4 * boolNat x.refSet + 8 * boolNat p.hazard.on + 16 * boolNat s.lockout +
    32 * boolNat p.jobSecret.isSome + 64 * boolNat s.staged.isSome
  let list_ : Bytes := (s.dpis.flatMap fun d => leBytes 4 d.1.toNat).take 64
  asciiBytes "ZPRF" ++ leBytes 2 1 ++ leBytes 2 752 ++ leBytes 8 s.id.serial.toNat ++ leBytes 2 (variantNumber s.model) ++
    leBytes 1 p.fn ++ leBytes 1 state ++ leBytes 4 p.gen.toNat ++ leBytes 2 (maskOf p.tiles) ++ leBytes 1 flags ++
    leBytes 1 (match (s.func p.hostDie p.fn).tdi with | .unlocked => 0 | .locked => 1 | .run => 2 | .error => 3) ++
    leBytes 4 (match x.sealRec with | some r => r.1 | none => 0) ++ nonce ++ s.id.romDigest ++ s.active.digest ++
    (match s.staged with | some i => i.2.digest | none => List.replicate 48 0) ++ s.nvm.settings.digest ++ job ++
    leBytes 2 (match s.nvm.plan with | some q => q.partId.toNat | none => 0xFFFF) ++ leBytes 1 s.time.state.toNat ++
    leBytes 1 s.dpis.length ++ leBytes 8 (s.auditNow.1).toNat ++ (list_ ++ List.replicate (64 - list_.length) 0) ++
    uncompressed s.wrapPrivate ++ List.replicate 15 0

/-- The Proof of a partition as its state gives it (R418, R419), bytes 0 to 655. -/
def State.proofOf (s : State) (p : Partition) (nonce : Bytes) : Bytes :=
  let bare := p.state == .empty || p.state == .tainted || p.state == .ready
  match p.neg with
  | some n =>
    if bare then s.proofHead p nonce p.state.code none (List.replicate 212 0)
    else s.proofHead p nonce p.state.code (some n)
      (proofJob n p.epoch.toNat (s.tableDigest p p.activeBank))
  | none => s.proofHead p nonce p.state.code none (List.replicate 212 0)

/-- PROOF (R418, R442). -/
def execProof (e : Envelope) (nonce : Bytes) (s : State) : Host.Outcome State Fault Refusal :=
  .next (runCmd s e ⟨0x0501, 32, anyone, .part, .proof, false, false⟩ fun s t =>
    match t with
    | none => reply s stBadArg
    | some pid => match s.part pid with
      | none => reply s stBadArg
      | some p =>
        let n := (nonce ++ List.replicate 32 0).take 32
        let head := s.proofOf p n
        let r := s.sign head
        reply r.2 stOk (head ++ r.1))

/-! ### Digests of windows (13 R366) -/

/-- Pieces of 1 MiB of a logical buffer, hashed. -/
def State.chunkHashes (s : State) (p : Partition) (x n : Nat) : Bytes :=
  (List.range (cdiv n 0x100000)).flatMap fun k =>
    sha384 (s.readLogical p (x + k * 0x100000) (Nat.min 0x100000 (n - k * 0x100000)))

/-- CD over a list of windows: number, length and logical buffer, in ascending number. -/
def State.windowsDigest (s : State) (p : Partition) (ws : List (Nat × Nat × Nat)) : Bytes :=
  sha384 (ws.flatMap fun w => leBytes 2 w.1 ++ leBytes 8 w.2.1 ++ s.chunkHashes p w.2.2 w.2.1)

/-- CD_in over the in-use buffers, and CD_out over the committed ones. -/
def State.cdIn (s : State) (p : Partition) : Bytes :=
  s.windowsDigest p (p.negative.inputs.map fun w => (w.num, w.len, p.behind false w))
def State.cdOut (s : State) (p : Partition) : Bytes :=
  s.windowsDigest p (p.negative.outputs.map fun w => (w.num, w.len, if p.frame.outBuf then w.buf1 else w.buf0))

/-! ### The Print record -/

/-- A chain over the digests of a range (R366). -/
def printChain (es : List PrintEnt) (cd : PrintEnt → Bytes) : Bytes :=
  es.foldl (fun acc e => sha384 (acc ++ leBytes 8 e.index ++ cd e)) (List.replicate 48 0)

/-- Sum of a field over a range. -/
def printSum (es : List PrintEnt) (f : PrintEnt → Nat) : Nat := es.foldl (fun acc e => acc + f e) 0

/-- The Print record without its signature (R370). -/
def printBody (s : State) (p : Partition) (n : Neg) (es : List PrintEnt) (o : Origin) (sw : List (Nat × Nat)) : Bytes :=
  let first := es.head?
  let last := es.getLast?
  let state0 := match first with | some e => e.startState.toNat | none => 0
  let state1 := match last with | some e => e.endState.toNat | none => 0
  let flags := boolNat p.dark + 2 * boolNat (es.any fun e => decide (0 < e.reruns)) + 4 * boolNat (es.any (·.missed)) +
    8 * boolNat (es.any (·.diverged)) + 16 * boolNat (es.any (·.inputChanged)) + 32 * boolNat (state0 != 3 || state1 != 3)
  let r := n.sealRec.getD (0, 0, 0)
  let seed : BitVec 128 := match first with | some e => e.seed | none => 0
  let idx (x : Option PrintEnt) : Nat := match x with | some e => e.index | none => 0
  asciiBytes "ZPRT" ++ leBytes 2 1 ++ leBytes 2 (608 + 16 * sw.length) ++ leBytes 8 s.id.serial.toNat ++ n.digest ++
    s.active.digest ++ leBytes 4 r.1 ++ leBytes 2 r.2.1 ++ leBytes 1 r.2.2 ++ leBytes 1 n.tileCount ++
    leBytes 8 n.jobId.toNat ++ leBytes 2 n.rank.toNat ++ leBytes 2 n.jobParts ++ leBytes 1 o.kind ++
    leBytes 1 (boolNat n.seedAtExpose) ++ leBytes 1 flags ++ leBytes 1 (state0 + 16 * state1) ++ leBytes 8 o.index ++
    (if o.digest.length = 48 then o.digest else List.replicate 48 0) ++ sha384 (leBytes 16 seed.toNat) ++
    leBytes 8 (idx first) ++ leBytes 8 (idx last) ++
    leBytes 8 (match first with | some e => e.startTime.toNat | none => 0) ++
    leBytes 8 (match last with | some e => e.endTime.toNat | none => 0) ++
    n.weightsDigest ++ printChain es (·.cdIn) ++ printChain es (·.cdOut) ++
    ((List.range 5).flatMap fun k => leBytes 8 (printSum es fun e => e.counts.getD k 0)) ++
    leBytes 4 (printSum es fun e => boolNat e.poisoned) ++ leBytes 4 (printSum es fun e => boolNat e.precision) ++
    leBytes 8 (printSum es (·.dropped)) ++ leBytes 8 (printSum es (·.deferred)) ++ leBytes 4 (printSum es (·.reruns)) ++
    leBytes 4 (printSum es fun e => boolNat e.repeated) ++ leBytes 4 (printSum es fun e => boolNat e.missed) ++
    List.replicate 20 0 ++
    sw.flatMap fun x => leBytes 8 x.1 ++ leBytes 4 x.2 ++ leBytes 4 0

/-- PRINT (R369, R371, R442). -/
def execPrint (e : Envelope) (first last : BitVec 64) (s : State) : Host.Outcome State Fault Refusal :=
  .next (runCmd s e ⟨0x0404, 16, { bound := true, pf := false, owner := true, openOnly := true, other := false }, .part, .plain,
      false, false⟩ fun s t =>
    match t with
    | none => reply s stBadArg
    | some pid => match s.part pid with
      | none => reply s stBadArg
      | some p => match p.neg with
        | none => reply s stWrongState
        | some n =>
          let a := first.toNat
          let b := last.toNat
          let es := p.ring.filter fun x => decide (a ≤ x.index) && decide (x.index ≤ b)
          let org := match es with | x :: _ => x.origin | [] => 0
          let seed := match es with | x :: _ => x.seed | [] => 0
          let sw := p.switches.filter fun x => decide (a ≤ x.1) && decide (x.1 ≤ b)
          if !n.fixed then reply s stWrongState
          else if b < a then reply s stBadArg
          else if (n.seedAtExpose && es.any fun x => x.seed != seed) || es.any (fun x => x.origin != org) ||
              decide (64 < sw.length) then reply s stBadArg
          else if es.length ≠ b - a + 1 then reply s stNoResource
          else
            let body := printBody s p n es ((p.origins[org]?).getD ⟨0, 0, []⟩) sw
            let r := s.sign body
            reply r.2 stOk (body ++ r.1))

end Sys2Proof.Machine
end

