-- ==== Sys2Proof/Machine/Develop.lean ====
section
/-! DEFINITION. Installing a Negative (08 R233 to R236, 11 R321) and staging table banks (09 R256 to R260). -/

namespace Sys2Proof.Machine

/-- What the loader knows of a partition, for a staging range. -/
def State.site (s : State) (pid : Nat) (p : Partition) (base len : Nat) : Site :=
  { v := s.model, tiles := p.tiles, dark := p.dark, dpis := s.dpis, cls := s.power.cls
    partId := s.nvm.plan.map fun q => q.partId.toNat
    vcs := (List.range 64).map (configuredVcs s.model s.nvm.plan)
    patches := (s.parts.filter fun q => q.1 != pid).flatMap fun q => match q.2.fab with
      | some n => n.patches.map fun x => (portLocal s.model q.2.tiles x.1, portLocal s.model q.2.tiles x.2)
      | none => []
    base := base, len := len }

/-- Staging ranges lie in one HBM window, begin at a multiple of 256 and hold at least 448 bytes (check 1 of R234). -/
def stagingBad (a : Site) : Option Nat :=
  if a.base % 256 ≠ 0 ∨ spaceOf a.base ≠ 0 ∨ a.base / a.cap ≥ a.n then some 0
  else if a.len < 448 ∨ a.inWindow a.base a.len = false then some 8
  else none

/-- Check 14 (R223, R234): the inline images are written and every image is measured; the index of the first image whose
digest differs. -/
def State.loadImages (s : State) (pid : Nat) (n : Neg) (images : List (Nat × Nat × Bytes)) : State × Option Nat :=
  match s.part pid with
  | none => (s, none)
  | some p =>
    let t := images.foldl (fun (s : State) x => s.writeLogical p x.2.1 x.2.2) s
    let torn (w : Nat × Nat) : Bool := readFails (t.readEnds (t.localRanges p [w]) .good)
    let u := match n.weights.find? fun w => torn (w.base, w.len) with
      | some w => t.rangesEvents pid (t.localRanges p [(w.base, w.len)]) .uncorrectable
      | none => t
    (u, n.weights.findIdx? fun w => torn (w.base, w.len) || sha384 (t.readLogical p w.base w.len) != w.digest)

/-- A hop entry with its port translated to the part-local one (R214). -/
def hopLocal (v : Variant) (tiles : List Nat) (e : HopEnt) : HopEnt :=
  if e.out_.toNat < 64 then { e with out_ := BitVec.ofNat 8 (portLocal v tiles e.out_.toNat) } else e

/-- The tables of a Negative go into the fabric dies and ports of a partition (R236, 09 R240). -/
def State.installTables (s : State) (pid : Nat) (p : Partition) (n : Neg) : State :=
  let ds := s.fabDies p
  let tr := hopLocal s.model p.tiles
  let s := ds.zipIdx.foldl (fun (s : State) d => s.updDie d.1 fun x => { x with
    owner := some pid, jobTag := some n.jobTag, bank := false, agree := none
    hop0 := (fmGetD n.hops0 d.2 []).map tr, hop1 := (fmGetD n.hops1 d.2 []).map tr }) s
  let patchOf (q : Nat) : Option Nat := n.patches.findSome? fun x =>
    if x.1 = q then some (portLocal s.model p.tiles x.2) else if x.2 = q then some (portLocal s.model p.tiles x.1) else none
  (s.portsOf p).zipIdx.foldl (fun (s : State) q =>
    let s := { s with tx := fmSet s.tx q.1 { bank0 := fmGetD n.slots0 q.2 [], bank1 := fmGetD n.slots1 q.2 [] } }
    s.updPort q.1 fun x => { x with
      patch := patchOf q.2, state := if (patchOf q.2).isSome then .up else x.state, ringNext := 0
      spillUnits := (fmGetD n.spills q.2 (0, 0)).2 / 256 }) s

/-- Fabric time at DEVELOP (11 R313, R314, R321): it runs on where the partition had one. -/
def startFTime (n : Neg) (old : Option FTime) : FTime :=
  let t0 := match old with | some f => f.time | none => 0
  let alone := decide (n.jobParts ≤ 1)
  { time := t0, state := if alone then .locked else .acquiring, hops := if alone then 0 else 0xFF
    listening := n.isMaster && !alone, grid := if n.frameCount = 0 then 0 else t0 / (10 * n.frameCount) }

/-- A logical block as DEVELOP leaves it (R109, R127, R219). -/
def developedBlock (n : Neg) (b : Nat) : Block :=
  { bundles := fmGetD n.bundles b [], arBase := (fmGetD n.aregs b []).zipIdx.map fun (r : BitVec 32 × Nat) => (r.2, r.1) }

/-- Check 16: installation (R236). -/
def State.installNeg (s : State) (pid : Nat) (n : Neg) (hazardOn hazardStop : Bool) : State :=
  match s.part pid with
  | none => s
  | some p0 =>
    let s := s.removeTables pid
    let s := s.installTables pid p0 n
    let s := (s.discardPost p0.hostDie p0.fn).updFunc p0.hostDie p0.fn fun f => { f with commit := 0 }
    let s := { s with
      blocks := (p0.blockList.zipIdx).foldl (fun (m : FMap Block) (b : Nat × Nat) => fmSet m b.1 (developedBlock n b.2)) s.blocks
      cells := s.cells.filter fun q => !p0.tiles.contains (q.1 / 144)
      regions := s.regions.filter fun q => !p0.tiles.contains (q.1 / 6) }
    let second := n.slots1 ≠ [] ∨ n.hops1 ≠ []
    let s := s.updPart pid fun p => { p with
      neg := some n, fab := some n, state := .developed, seed := if n.seedAtExpose then 0 else n.seed
      frame := { attempts := n.attempts }, hazard := { on := hazardOn, stop := hazardStop }
      ring := [], origins := [⟨0, 0, []⟩], switches := [], epoch := 0, bank := if second then .staged else .empty
      switchAt := none, switchLate := false, imageDigest := [], slideValid := false, haltSource := 0, haltCode := 0, haltBlock := 0xFFFF
      ftime := some (startFTime n p.ftime), landing := [], tokens := 0, flagged := [], discarded := 0 }
    s.logEv 0x0A46 pid noUnit 0 (digestConts n.digest)

/-- The response of DEVELOP (16 R441). -/
def developResp (detail digest : Bytes) : Bytes :=
  (detail ++ List.replicate 16 0).take 16 ++ (if digest.length = 48 then digest else List.replicate 48 0)

/-- A refusal of the loader is logged (18 R493). -/
def State.logRefusal (s : State) (pid : Nat) (r : LoadStop) : State :=
  s.logEv 0x0A47 pid noUnit (r.check + 256 * r.status.toNat + 65536 * r.type)

/-- A refusal at check 14 or 15 leaves the partition TAINTED (R234). -/
def State.taint (s : State) (pid : Nat) : State :=
  (s.updPart pid fun p => if p.state = .faulted then p else { p with state := .tainted, busy := none, jobSecret := none }).recordPart pid

/-- Checks 1 to 13 on the staging range (R234): the Negative and its inline images. Where a line of it delivers no data, its
digest does not match (07 R191, entry 139). -/
def State.loadNegative (s : State) (pid : Nat) (p : Partition) (base len : Nat) (torn : Bool) :
    Load (Neg × List (Nat × Nat × Bytes)) := do
  let a := s.site pid p base len
  match stagingBad a with
  | some f => .error { check := 1, status := stBadArg, field := f }
  | none =>
    let b := s.readLogical p base len
    if torn then
      checkHeader b
      .error { check := 3, status := stIntegrity, field := b.length - 64 }
    let xs ← loadChecks a b
    return (buildNeg a b xs, inlineImages xs)

/-! ### Epochs (09 R256 to R259) -/

/-- Sections of a table image: entries of 32 bytes from offset 0, up to the first section or the first entry of type 0
(R257). -/
def imageSects (b : Bytes) : Nat → Nat → Nat → List Sect
  | 0, _, _ => []
  | fuel + 1, i, hi =>
    if hi < 32 * i + 32 then []
    else
      let x := readSect b 0 i
      if x.type = 0 then [] else x :: imageSects b fuel (i + 1) (Nat.min hi x.off)

/-- What the checks of a staged image see of the installed Negative. -/
def imageCtx (s : State) (p : Partition) (n : Neg) : TableCtx :=
  let vcs := (List.range 64).map (configuredVcs s.model s.nvm.plan)
  let dies := s.fabDies p
  let refs := n.sheets.flatMap fun t =>
    let die := dies.findIdx (· == fabricDie s.model (p.tiles.getD t.1 0))
    t.2.zipIdx.flatMap fun g => g.1.map.zipIdx.map fun m => (⟨4 * die + m.1.1, m.1.2, g.2, m.2, g.1.packetLen⟩ : SheetRef)
  { vcs := fun q => vcs.getD (portLocal s.model p.tiles q) 4, members := n.members.map (·.1)
    frameSlots := frameSlots n.frameCount, guard := guardSlots n.tickSkew, usable := usableSlots n.frameCount n.tickSkew
    allowance := fun q => n.allowance.getD q 0, patched := fun q => n.patches.any fun x => x.1 == q || x.2 == q
    ports := 4 * dies.length, own := n.ownPart, refs := refs }

/-- Checks of an image after its digest: the section table, no section for the active bank, and R227 to R229. -/
def checkImage (c : TableCtx) (dies : Nat) (active : Bool) (b : Bytes) : Load (List Sect) := do
  let hi := b.length - 64
  let xs := imageSects b 4096 0 hi
  checkSects b 0 0 16 1 (32 * xs.length) hi [] xs
  xs.forM fun x => need (x.bank != boolNat active) (x.stop 0 stWrongState 0 0)
  xs.forM fun x =>
    need ((x.type == 0x40 && decide (x.inst < c.ports)) || (x.type == 0x41 && decide (x.inst < dies))) (x.stop 0 stBadArg 0 0)
  eachSect xs 0x40 fun x => checkSlots c 0 x
  eachSect xs 0x41 fun x => checkHops c 0 x
  return xs

/-- Sections of an image by instance: each names the bank that is written. -/
def imageMap {α : Type} (xs : List Sect) (type : Nat) (f : Sect → α) : FMap α :=
  xs.foldl (fun acc x => if x.type = type then fmSet acc x.inst (f x) else acc) []

/-- Write one bank of every table of a partition, by logical port and die. -/
def State.writeBank (s : State) (p : Partition) (bank : Bool) (slots : FMap (List SlotEnt)) (hops : FMap (List HopEnt)) : State :=
  let tr := hopLocal s.model p.tiles
  let s := (s.fabDies p).zipIdx.foldl (fun (s : State) d => s.updDie d.1 fun x =>
    let h := (fmGetD hops d.2 []).map tr
    if bank then { x with hop1 := h } else { x with hop0 := h }) s
  (s.portsOf p).zipIdx.foldl (fun (s : State) q => s.updTx q.1 fun x =>
    let t := fmGetD slots q.2 []
    if bank then { x with bank1 := t } else { x with bank0 := t }) s

/-- An EPOCH.STAGE is accepted: the switch Shutter is named, late within 1 µs of it (R258). -/
def State.nameSwitch (s : State) (pid sw : Nat) : State :=
  s.updPart pid fun p => { p with
    bank := .staged, switchAt := some sw
    switchLate := p.frame.late && sw == p.frame.shutter.toNat + 1 }

/-- Response of EPOCH.STAGE (16 R441). -/
def stageEpochResp (p : Partition) (digest : Bytes) : Bytes :=
  (if digest.length = 48 then digest else List.replicate 48 0) ++ leBytes 4 (p.epoch.toNat + 1)

/-- EPOCH.STAGE (R257, R441). -/
def execEpochStage (e : Envelope) (source : Byte) (switch base : BitVec 64) (length : Met (BitVec 64)) (s : State) :
    Host.Outcome State Fault Refusal :=
  .next (runCmd s e ⟨0x0304, 32, { bound := true, pf := false, owner := true, openOnly := true, other := false }, .part, .epoch,
      false, false⟩ fun s t =>
    match t with
    | none => reply s stBadArg
    | some pid => match s.part pid with
      | none => reply s stBadArg
      | some p =>
        let n := p.negative
        let sw := switch.toNat
        let bank := !p.activeBank
        if 2 < source.toNat ∨ (source ≠ 1 ∧ (base ≠ 0 ∨ length.val ≠ 0)) then reply s stBadArg
        else if !(p.state == .running || (p.state == .halted && p.frame.inExpose)) then reply s stWrongState
        else if p.bank = .retiring ∨ p.switchAt.isSome = true then reply s stBusy
        else if sw ≤ p.frame.shutter.toNat then reply s stBadArg
        else if source = 1 ∧ n.fixed = true then reply s stDenied
        else if source = 2 then
          (if p.bank = .staged then reply (s.nameSwitch pid sw) stOk (stageEpochResp p []) else reply s stWrongState)
        else if source = 0 then
          let sl := if bank then n.slots1 else n.slots0
          let ho := if bank then n.hops1 else n.hops0
          reply ((s.writeBank p bank sl ho).nameSwitch pid sw) stOk (stageEpochResp p [])
        else
          let a := s.site pid p base.toNat length.val.toNat
          if a.base % 256 ≠ 0 ∨ spaceOf a.base ≠ 0 ∨ a.len < 64 ∨ a.inWindow a.base a.len = false then reply s stBadArg
          else
            let m := s.resolve p length.rd
            let rs := m.1.localRanges p [(a.base, a.len)]
            let fin := m.1.readEnds rs m.2
            let s := m.1.rangesEvents pid rs fin
            if readFails fin then reply s stIntegrity
            else
            let b := s.readLogical p a.base a.len
            match checkTrailer b 0 with
            | .error r => reply s r.status
            | .ok _ => match checkImage (imageCtx s p n) (s.fabDies p).length p.activeBank b with
              | .error r => reply s r.status
              | .ok xs =>
                let d := (b.drop (b.length - 64)).take 48
                let s := s.writeBank p bank (imageMap xs 0x40 fun x => (x.entries 32).map readSlot) (imageMap xs 0x41 hopsOf)
                let s := (s.nameSwitch pid sw).updPart pid fun p => { p with imageDigest := d }
                reply (s.logEv 0x0A48 pid noUnit (p.epoch.toNat + 1) (digestConts d)) stOk (stageEpochResp p d))

end Sys2Proof.Machine
end

