-- ==== Sys2Proof/Machine/Slides.lean ====
section
/-! DEFINITION. Darkslides: their slices, DARKSLIDE, the restore and EXPORT (13 R356 to R365, 15 R414 to R417). A slice lies
in the checkpoint area byte for byte, its body under the slide key in Darkroom mode. -/

namespace Sys2Proof.Machine

def zeroes (n : Nat) : Bytes := List.replicate n 0

/-! ### Records of a slice (R359) -/

/-- The 64 KiB that follow a cell's raw tile. -/
def cellRest (x : Cell) : Bytes :=
  let state := boolNat x.poisonFlag + 2 * boolNat x.stripRow.isSome +
    4 * (match x.stripRow with | some r => r.toNat | none => 0)
  let list_ : Bytes := (x.dodgeList.flatMap fun c => leBytes 4 c.toNat).take 1024
  let latch : Bytes := (x.dodgeLatch.flatMap fun l => (l ++ zeroes 128).take 128).take 32768
  leBytes 2 (x.base.signExtend 16).toNat ++ leBytes 2 x.dodgeList.length ++ leBytes 4 x.depth.toNat ++ leBytes 4 x.kcur ++
    leBytes 4 state ++ leBytes 4 x.clampCount.toNat ++ leBytes 4 x.readClip.toNat ++ leBytes 4 x.t2Invalid.toNat ++
    leBytes 4 x.precAlarm.toNat ++ leBytes 12 x.stripReg.toNat ++ zeroes 20 ++ list_ ++ zeroes (1024 - list_.length) ++
    ((List.range 128).flatMap fun j => leBytes 12 (fmGetD x.strip j 0).toNat) ++ zeroes 1472 ++
    latch ++ zeroes (32768 - latch.length) ++ zeroes 28672

/-- A cell record. -/
def cellRecord (x : Cell) : Bytes := rawBytes x ++ cellRest x

/-- A cell as its record gives it; state that a Shutter rebuilds starts anew. -/
def readCellRecord (b : Bytes) : Cell :=
  let t := rawTile (b.take 0x40000)
  let r := b.drop 0x40000
  let n := Nat.min (fld r 2 2) 256
  let state := fld r 12 4
  { tanks := t.1, poison := t.2, base := BitVec.ofNat 10 (fld r 0 2), depth := BitVec.ofNat 25 (fld r 4 4), kcur := fld r 8 4
    dodgeList := (List.range n).map fun k => BitVec.ofNat 32 (fld r (64 + 4 * k) 4)
    dodgeLatch := (List.range n).map fun k => (r.drop (4096 + 128 * k)).take 128
    strip := (List.range 128).map fun j => (j, BitVec.ofNat 96 (fld r (1088 + 12 * j) 12))
    stripReg := BitVec.ofNat 96 (fld r 32 12), stripRow := if bit state 1 then some (BitVec.ofNat 7 (bits state 8 2)) else none
    clampCount := BitVec.ofNat 32 (fld r 16 4), readClip := BitVec.ofNat 32 (fld r 20 4), poisonFlag := bit state 0
    t2Invalid := BitVec.ofNat 32 (fld r 24 4), precAlarm := BitVec.ofNat 32 (fld r 28 4) }

/-- A cycle after every cycle of an Exposure. -/
def lastCycle : Nat := 2 ^ 33

/-- A block record, 128 KiB. -/
def blockRecord (b : Block) : Bytes :=
  let ar := arNow b lastCycle
  ((List.range 64).flatMap fun r => leBytes 1024 (b.vreg (BitVec.ofNat 6 r)).toNat) ++
    ((List.range 8).flatMap fun k => leBytes 64 (b.mask (BitVec.ofNat 3 k)).toNat) ++
    ((List.range 16).flatMap fun k => leBytes 4 (arOf ar (BitVec.ofNat 4 k)).toNat) ++ leBytes 4 b.convClip.toNat ++
    zeroes (0x20000 - 0x10244)

/-- A block with the registers of its record. -/
def readBlockRecord (old : Block) (r : Bytes) : Block :=
  { bundles := old.bundles, perfSnap := old.perfSnap
    vregs := (List.range 64).map fun k => (k, BitVec.ofNat 8192 (fld r (1024 * k) 1024))
    masks := (List.range 7).map fun k => (k + 1, BitVec.ofNat 512 (fld r (0x10000 + 64 * (k + 1)) 64))
    arBase := (List.range 16).map fun k => (k, BitVec.ofNat 32 (fld r (0x10200 + 4 * k) 4))
    convClip := BitVec.ofNat 32 (fld r 0x10240 4) }

/-! ### The slice of a tile -/

/-- The save map of an installed Negative (R358). -/
def Neg.saveMap (n : Neg) (cap tiles : Nat) : SaveMap :=
  let cp := match n.checkpoint with
    | some (b, l) => (List.range tiles).map fun t => (t * cap + b, l)
    | none => []
  { data := n.data, inputs := n.inputs, outputs := n.outputs
    excluded := (n.weights.filter fun w => spaceOf w.base == 0).map (fun w => (w.base, w.len)) ++ cp ++
      n.spills.map (·.2) ++ [(n.commitAddr, 64)] }

/-- Saved ranges of a tile in the roles of now. -/
def savedRanges (s : State) (p : Partition) (t : Nat) (inBuf : Bool) : List (Nat × Nat) :=
  let cap := tileCap s.model p.dark
  (p.negative.saveMap cap p.tiles.length).saved cap t inBuf

/-- The plaintext body of a slice: bytes 64 KiB on. -/
def sliceBody (s : State) (p : Partition) (t : Nat) : Bytes :=
  let d := p.tiles.getD t 0
  ((List.range 6).flatMap fun r => s.readMem (regionBase (6 * d + r)) 0x20000000) ++
    ((List.range 144).flatMap fun c => s.readMem (cellBase (144 * d + c)) 0x100000) ++
    ((List.range 144).flatMap fun c => cellRecord (s.cell (144 * d + c))) ++
    ((List.range 36).flatMap fun b => blockRecord (s.block (36 * d + b))) ++
    (savedRanges s p t p.frame.inBuf).flatMap fun r => s.readLogical p r.1 r.2 ++ zeroes (alignUp r.2 65536 - r.2)

/-- body_digest: the chunked digest of one window (R360, R366). -/
def bodyDigest (b : Bytes) : Bytes :=
  sha384 (leBytes 2 0 ++ leBytes 8 b.length ++ (pieces 0x100000 b).flatMap sha384)

/-- Body encryption of a Darkroom slice (15 R414). -/
def slideCtr (key : Bytes) (t : Nat) (b : Bytes) : Bytes :=
  ctrMode key (fun j => leBytes 2 t ++ zeroes 6 ++ leBytes 8 j) b

/-- Bytes 0 to 463 of a slice header with its wrap bits set to a value. -/
def setWrap (h : Bytes) (w : Nat) : Bytes :=
  let f := fld h 10 1
  h.take 10 ++ leBytes 1 (f - f / 4 % 4 * 4 + 4 * w) ++ h.drop 11

/-- header_tag (15 R414). -/
def headerTag (key : Bytes) (t : Nat) (h : Bytes) : Bytes :=
  gcmTag key (leBytes 2 t ++ List.replicate 10 0xFF) (setWrap (h.take 464) 1) []

/-- A wrap record, 4096 bytes (15 R415). -/
def wrapRecord (kind taker target : Nat) (salt nonce wrapKey eph slideKey tag proofDigest : Bytes) : Bytes :=
  let head := asciiBytes "ZWRP" ++ leBytes 2 1 ++ leBytes 1 kind ++ [0] ++ leBytes 8 taker ++ leBytes 8 target ++ salt
  let aad := head ++ eph
  let ct := gcmCrypt wrapKey nonce slideKey
  head ++ nonce ++ ct ++ gcmTag wrapKey nonce aad ct ++ tag ++ eph ++ proofDigest ++ zeroes 3835

/-- Bound slide wrap key (15 R402). -/
def State.bindKey (s : State) (salt : Bytes) : Bytes := kdf s.rootBytes "ZX.SLIDE.BIND" salt 256

/-- Free bytes of a draw, told apart by `k`. -/
def freeBytes (s : State) (n k : Nat) : Bytes := leBytes n (Config.freeBits s.free k)

/-- What a header says beside the tile's own items. -/
structure SlideHead where
  paused : Bool
  shutter : Nat
  time : BitVec 64

/-- Bytes 0 to 463 of a slice header (R360). -/
def sliceHead (s : State) (p : Partition) (t : Nat) (h : SlideHead) (bodyDig : Bytes) (saved : List (Nat × Nat)) : Bytes :=
  let n := p.negative
  let d := p.tiles.getD t 0
  let f := fabricDie s.model d
  let lowest := (p.tiles.findIdx fun x => fabricDie s.model x == f) == t
  let bank := p.activeBank
  let pad := saved.foldl (fun acc r => acc + alignUp r.2 65536) 0
  asciiBytes "ZDSL" ++ leBytes 2 1 ++ leBytes 2 t ++ leBytes 2 p.tiles.length ++
    leBytes 1 (boolNat n.fixed + 2 * boolNat p.dark + 4 * boolNat p.dark + 16 * boolNat h.paused) ++ leBytes 1 s.power.cls ++
    leBytes 4 (match n.sealRec with
      | some x => x.1
      | none => match s.dpis with | x :: _ => x.1.toNat | [] => 0) ++
    leBytes 8 p.frame.exposure.toNat ++ leBytes 8 h.shutter ++ leBytes 8 h.time.toNat ++ leBytes 8 s.id.serial.toNat ++
    n.digest ++ s.active.digest ++ leBytes 4 p.epoch.toNat ++ leBytes 2 p.step ++ leBytes 1 (boolNat p.frame.inBuf) ++
    leBytes 1 (boolNat p.frame.outBuf) ++ leBytes 8 (3424190464 + pad) ++ leBytes 8 pad ++
    (if lowest then ([0, 1, 2, 3].flatMap fun k => s.slotDigest (4 * f + k) bank) ++ s.hopDigest p f bank else zeroes 240) ++
    bodyDig ++ zeroes 8

/-- Logical address of the checkpoint area of a tile. -/
def slideBase (s : State) (p : Partition) (t : Nat) : Nat :=
  t * tileCap s.model p.dark + (match p.negative.checkpoint with | some c => c.1 | none => 0)

/-- The Darkslide digest over the slice headers (R360, 15 R414). -/
def slideDigest (heads : List Bytes) : Bytes :=
  sha384 (heads.flatMap fun h => let x := h.take 464
    if fld x 10 1 / 4 % 4 = 2 then setWrap x 1 else x)

/-- Write every slice, headers last: the state and the Darkslide digest (R359 to R361, 15 R414). -/
def State.writeSlides (s : State) (pid : Nat) (p : Partition) (h : SlideHead) : State × Bytes :=
  let ts := List.range p.tiles.length
  let key := freeBytes s 32 0
  let serial := s.id.serial.toNat
  let parts := ts.map fun t =>
    let body := sliceBody s p t
    let head := sliceHead s p t h (bodyDigest body) (savedRanges s p t p.frame.inBuf)
    let salt := freeBytes s 16 (10 + t)
    let wrap := if p.dark then
        wrapRecord 1 serial serial salt (freeBytes s 12 (100 + t)) (s.bindKey salt) (zeroes 97) key (headerTag key t head) (zeroes 48)
      else zeroes 4096
    (t, head ++ zeroes 3632 ++ wrap ++ zeroes 57344, if p.dark then slideCtr key t body else body)
  let u := parts.foldl (fun (u : State) x => u.writeLogical p (slideBase s p x.1 + 65536) x.2.2) s
  let u := parts.foldl (fun (u : State) x => u.writeLogical p (slideBase s p x.1) x.2.1) u
  ({ u with free := u.free + 1 }.updPart pid fun q => { q with slideValid := true }, slideDigest (parts.map (·.2.1)))

/-! ### DARKSLIDE (R361, R362, 16 R442) -/

/-- A HALTED partition that may be launched: not after an overrun (R53). -/
def Partition.cleanHalt (p : Partition) : Bool := p.state == .halted && !p.frame.partialState

/-- The Shutter number that a request may name at the earliest (R55). -/
def Partition.nextShutter (p : Partition) : Nat := p.frame.shutter.toNat + 1 + boolNat p.frame.late

/-- The writing of a Darkslide begins: the one before is lost (R361). -/
def State.beginSlide (s : State) (pid : Nat) (o : SlideOp) : State :=
  s.updPart pid fun p => { p with slide := some o, slideValid := false }

/-- DARKSLIDE. -/
def execDarkslide (e : Envelope) (st sr : BitVec 64) (s : State) : Host.Outcome State Fault Refusal :=
  .next (runCmd s e ⟨0x0401, 16, { bound := true, pf := false, owner := true, openOnly := true, other := false }, .part, .darkslide,
      false, false⟩ fun s t =>
    match t with
    | none => reply s stBadArg
    | some pid => match s.part pid with
      | none => reply s stBadArg
      | some p =>
        let now_ := s.auditNow.1
        let area := match p.negative.checkpoint with | some c => c.2 | none => 0
        let a := st.toNat
        let b := sr.toNat
        if !(p.state == .developed || p.state == .running || p.cleanHalt) then reply s stWrongState
        else if area = 0 then reply s stNoResource
        else if p.state = .running then
          let take := if a = 0 then p.nextShutter else a
          if (a = 0 ∧ 1 < p.negative.jobParts) ∨ take < p.nextShutter ∨ (b ≠ 0 ∧ b ≤ take) then reply s stBadArg
          else (s.updPart pid fun p => { p with slide := some ⟨e.route, take, b, .pending, none, 0, 0⟩ }, none)
        else if a ≠ 0 ∨ b ≠ 0 then reply s stBadArg
        else (s.beginSlide pid ⟨e.route, 0, 0, .writing, none, p.frame.shutter.toNat, now_⟩, none))

/-- Part-local HBM ranges that a Darkslide reads, and those of its slices. -/
def State.slideReads (s : State) (p : Partition) : List (Nat × Nat) :=
  s.localRanges p ((List.range p.tiles.length).flatMap fun t => savedRanges s p t p.frame.inBuf)

def State.slideAreas (s : State) (p : Partition) (hs : List Bytes) : List (Nat × Nat) :=
  s.localRanges p ((List.range p.tiles.length).map fun t => (slideBase s p t, fld (hs.getD t []) 152 8))

/-- Whether an outcome at a store or Tank fails the Darkslide. -/
def storeFails : StoreMeet → Bool
  | .tank _ => true
  | .cell _ rd => rd == .uncorrectable
  | .region _ rd => rd == .uncorrectable

/-- Events of what a Darkslide met at the stores (04 R120): no Exposure runs that they could end. -/
def State.storeEvents (s : State) (pid : Nat) (p : Partition) (m : StoreMeet) : State :=
  let cellOf (c : Nat) : Nat := 4 * p.blockIx (c / 4) + c % 4
  match m with
  | .tank c => s.logEv 0x1403 pid (s.cellUnit (cellOf c) c) 0
  | .cell c .corrected => (s.updCell (cellOf c) fun x => { x with eccCount := x.eccCount + 1 }).logOnce 0x0401 pid (cellOf c)
      (s.cellUnit (cellOf c) c) 0
  | .cell c .uncorrectable => s.logEv 0x1402 pid (s.cellUnit (cellOf c) c) 0
  | .region r .corrected => s.logOnce 0x0501 pid (p.region r) (regionUnit (p.region r) r) 0
  | .region r .uncorrectable => s.logEv 0x1502 pid (regionUnit (p.region r) r) 0
  | _ => s

/-- Events of the reads of a command that ends here: a wrong tag takes the partition down once the command has its answer. -/
def State.eventsAround (s : State) (pid : Nat) (rs : List (Nat × Nat)) (fin : StreamEnd) (f : State → State) : State :=
  if fin = .badTag then (f s).rangesEvents pid rs fin else f (s.rangesEvents pid rs fin)

/-- DARKSLIDE_WRITE_END (R361, R362). -/
def execDarkslideWriteEnd (part : Nat) (fin : SlideEnd) (s : State) : Host.Outcome State Fault Refusal :=
  .next (match s.part part with
    | none => s
    | some p => match p.slide with
      | none => s
      | some o =>
        if o.phase ≠ .writing ∧ o.phase ≠ .lateEnd then s
        else
          let mark := s.log.next
          let m := s.resolve p fin.rd
          let rs := m.1.slideReads p
          let end_ := m.1.readEnds rs m.2
          let good := fin.whole && !readFails end_ && !fin.met.any storeFails
          let s := fin.met.foldl (fun (s : State) x => s.storeEvents part p x) (m.1.checkpointTraffic part rs)
          s.eventsAround part rs end_ fun s =>
          let s := if good then
              let w := s.writeSlides part p ⟨o.sr == 0, o.shutter, o.time⟩
              w.1.complete o.route mark stOk (w.2 ++ leBytes 8 p.frame.exposure.toNat)
            else (s.logEv 0x0A45 part noUnit 0).complete o.route mark stIntegrity []
          if p.state ≠ .running then s.updPart part fun p => { p with slide := none }
          else if o.phase = .lateEnd ∨ o.sr = 0 ∨ o.halt.isSome = true then
            let h := o.halt.getD (7, 0, 0xFFFF)
            s.haltPart part h.1 h.2.1 h.2.2
          else s.updPart part fun p => { p with slide := some { o with phase := .held, route := .session 0 } })

/-! ### The restore (R363) -/

/-- The headers of the slices in the checkpoint areas, 64 KiB each. -/
def slideHeads (s : State) (p : Partition) : List Bytes :=
  (List.range p.tiles.length).map fun t => s.readLogical p (slideBase s p t) 65536

/-- Fields of a header in which the slices may not differ: all but tile, slice_length, hbm_bytes, the digests and the wrap
record (R363). -/
def commonFields (h : Bytes) : Bytes := h.take 6 ++ (h.drop 8).take 144 ++ (h.drop 456).take 8

/-- Check 1 of R363. -/
def slideShapeOk (p : Partition) (hs : List Bytes) : Bool :=
  let first := commonFields (hs.headD [])
  hs.zipIdx.all fun h => h.1.take 4 == asciiBytes "ZDSL" && fld h.1 4 2 == 1 && fld h.1 6 2 == h.2 &&
    fld h.1 8 2 == p.tiles.length && commonFields h.1 == first

/-- What a wrap record yields (15 R417). -/
inductive Unwrap where
  | plain | other | bad
  | key (k : Bytes)
  deriving DecidableEq, Repr

/-- Unwrap the slide key of a slice. -/
def State.unwrap (s : State) (t : Nat) (h : Bytes) : Unwrap :=
  let w := fld h 10 1 / 4 % 4
  let r := (h.drop 4096).take 4096
  let serial := s.id.serial.toNat
  let salt := (r.drop 24).take 16
  let eph := (r.drop 116).take 97
  if w = 0 then .plain
  else if (w = 1 ∧ fld r 8 8 ≠ serial) ∨ (w = 2 ∧ fld r 16 8 ≠ serial) ∨ w = 3 then .other
  else
    let wk := if w = 1 then s.bindKey salt
      else kdf (Config.ecdh s.wrapPrivate (eph.drop 1)) "ZX.SLIDE.EXPORT" (leBytes 8 serial ++ salt) 256
    let nonce := (r.drop 40).take 12
    let ct := (r.drop 52).take 32
    let k := gcmCrypt wk nonce ct
    if (r.drop 84).take 16 = gcmTag wk nonce (r.take 40 ++ eph) ct ∧ (r.drop 100).take 16 = headerTag k t h then .key k else .bad

/-- The plaintext body of a slice as it lies in its area. -/
def State.storedBody (s : State) (p : Partition) (t : Nat) (h : Bytes) : Bytes :=
  let b := s.readLogical p (slideBase s p t + 65536) (fld h 152 8 - 65536)
  match s.unwrap t h with
  | .key k => slideCtr k t b
  | _ => b

/-- The bank of a partition whose tables match the slices' digests (09 R260). -/
def slideBank (s : State) (p : Partition) (hs : List Bytes) : Option Bool :=
  let fits (bank : Bool) : Bool := hs.zipIdx.all fun h =>
    let f := fabricDie s.model (p.tiles.getD h.2 0)
    if (p.tiles.findIdx fun x => fabricDie s.model x == f) = h.2 then
      (h.1.drop 168).take 240 == ([0, 1, 2, 3].flatMap fun k => s.slotDigest (4 * f + k) bank) ++ s.hopDigest p f bank
    else true
  if fits p.activeBank then some p.activeBank else if fits (!p.activeBank) then some (!p.activeBank) else none

/-- Check 4 of R363: the conditions of R237. -/
def sealHolds (s : State) (n : Neg) : Bool :=
  match n.sealRec with
  | none => true
  | some r => (s.dpis.any fun d => d.1.toNat == r.1) && r.2.2 == s.power.cls && decide (r.2.1 ≤ classStep r.2.2) &&
      decide (s.power.cls ≤ 3)

/-- Checks 1 to 6 of R363 in order: the number and status of the first that fails. -/
def slideChecks (s : State) (p : Partition) (negForm : Bool) (rd : StreamEnd) (hs : List Bytes) : Option (Nat × Byte) :=
  let n := p.negative
  let h0 := hs.headD []
  let us := hs.zipIdx.map fun h => s.unwrap h.2 h.1
  let other := us.contains .other
  let badKey := us.contains .bad
  let digestBad := negForm && hs.zipIdx.any fun h => bodyDigest (s.storedBody p h.2 h.1) != (h.1.drop 408).take 48
  if !slideShapeOk p hs then some (1, stBadArg)
  else if !other && (badKey || digestBad || readFails rd) then some (2, stIntegrity)
  else if (h0.drop 48).take 48 ≠ n.digest then some (3, stMismatch)
  else if n.fixed && !(sealHolds s n && fld h0 12 4 == (n.sealRec.getD (0, 0, 0)).1 && fld h0 148 2 == (n.sealRec.getD (0, 0, 0)).2.1 &&
      fld h0 11 1 == s.power.cls) then some (4, stMismatch)
  else if bit (fld h0 10 1) 1 ≠ p.dark ∨ other = true ∨ (p.dark = true ∧ us.contains .plain = true) then some (5, stDenied)
  else if (slideBank s p hs).isNone then some (6, stMismatch)
  else none

/-- Events of failed slide checks (15 R417). -/
def State.slideEvents (s : State) (pid : Nat) (p : Partition) (r : Nat × Byte) (hs : List Bytes) : State :=
  if r.1 = 2 ∧ ((hs.zipIdx.map fun h => s.unwrap h.2 h.1).contains .bad) = true ∧ p.dark = true then
    s.logEv 0x0805 pid noUnit 0 else s

/-- Write back the stores, records and ranges of one tile (R356, R363). In place, the committed output buffers are left and
the saved working buffer goes into the other one. -/
def State.restoreTile (s : State) (p : Partition) (t : Nat) (h : Bytes) (inPlace : Bool) : State :=
  let b := s.storedBody p t h
  let d := p.tiles.getD t 0
  let inBuf := bit (fld h 150 1) 0
  let savedOut := bit (fld h 151 1) 0
  let regions := 6 * 0x20000000
  let cells := regions + 144 * 0x100000
  let recs := cells + 144 * 0x50000
  let s := s.write (regionBase (6 * d)) (b.take regions)
  let s := s.write (cellBase (144 * d)) ((b.drop regions).take (144 * 0x100000))
  let s := (List.range 144).foldl (fun (s : State) c =>
    s.setCell (144 * d + c) (readCellRecord ((b.drop (cells + c * 0x50000)).take 0x50000))) s
  let s := (List.range 36).foldl (fun (s : State) k =>
    s.setBlock (36 * d + k) (readBlockRecord (s.block (36 * d + k)) ((b.drop (recs + k * 0x20000)).take 0x20000))) s
  let outs := p.negative.outputs
  -- where a saved byte goes: the committed buffer stays, the saved working buffer goes into the buffer that works now
  let place (x : Nat) : Option Nat :=
    match outs.find? fun w => (decide (w.buf0 ≤ x) && decide (x < w.buf0 + w.len)) || (decide (w.buf1 ≤ x) && decide (x < w.buf1 + w.len)) with
    | none => some x
    | some w =>
      if !inPlace then some x
      else
        let inOne := decide (w.buf1 ≤ x) && decide (x < w.buf1 + w.len)
        let off := if inOne then x - w.buf1 else x - w.buf0
        -- the Darkslide's working buffer is the one that was not committed
        if inOne == !savedOut then some ((if p.frame.outBuf then w.buf0 else w.buf1) + off) else none
  let bounds := outs.flatMap fun w => [w.buf0, w.buf0 + w.len, w.buf1, w.buf1 + w.len]
  let cut (r : Nat × Nat) : List (Nat × Nat) :=
    let ks := (sortBy (fun (x : Nat) => x) ((bounds.filter fun x => decide (r.1 < x) && decide (x < r.1 + r.2)) ++ [r.1, r.1 + r.2])).eraseDups
    (ks.zip (ks.drop 1)).map fun q => (q.1, q.2 - q.1)
  ((savedRanges s p t inBuf).foldl (fun (acc : State × Nat) r =>
    let s := (cut r).foldl (fun (s : State) q =>
      let data := (b.drop (acc.2 + (q.1 - r.1))).take q.2
      match place q.1 with
      | some x => s.writeLogical p x data
      | none => s) acc.1
    (s, acc.2 + alignUp r.2 65536)) (s, recs + 36 * 0x20000)).1

/-- A restore takes effect (R363, 09 R260): the partition is HALTED at the saved index. -/
def State.restore (s : State) (pid : Nat) (p : Partition) (inPlace byCommand : Bool) : State :=
  let hs := slideHeads s p
  let h0 := hs.headD []
  let bank := (slideBank s p hs).getD p.activeBank
  let s := hs.zipIdx.foldl (fun (u : State) h => u.restoreTile p h.2 h.1 inPlace) s
  let newBank := bit (fld h0 144 4) 0
  -- the matching contents become the active bank of the recorded epoch, the other bank is left empty
  let s := (s.fabDies p).foldl (fun (s : State) f => s.updDie f fun x =>
    let t := if bank then x.hop1 else x.hop0
    { x with bank := newBank, hop0 := if newBank then [] else t, hop1 := if newBank then t else [] }) s
  let s := (s.portsOf p).foldl (fun (s : State) q => s.updTx q fun x =>
    let t := if bank then x.bank1 else x.bank0
    { x with bank := newBank, bank0 := if newBank then [] else t, bank1 := if newBank then t else [] }) s
  let s := s.discardPost p.hostDie p.fn
  let s := if p.state = .halted then s else s.partCause pid 3
  s.updPart pid fun q => { q with
    state := .halted, epoch := BitVec.ofNat 32 (fld h0 144 4), bank := .empty, switchAt := none
    slideValid := true
    haltSource := if byCommand then 0 else q.haltSource
    origins := if byCommand then q.origins ++ [⟨1, fld h0 16 8, slideDigest hs⟩] else q.origins
    frame := { q.frame with
      exposure := BitVec.ofNat 64 (fld h0 16 8), inBuf := bit (fld h0 150 1) 0
      outBuf := if inPlace then q.frame.outBuf else bit (fld h0 151 1) 0
      rollback := if byCommand then .idle else q.frame.rollback
      partialState := false, fatal := none, sampled := false, started := false } }

/-- Response of RESUME (16 R442). -/
def resumeResp (detail digest : Bytes) (index : Nat) : Bytes :=
  (detail ++ zeroes 16).take 16 ++ (digest ++ zeroes 48).take 48 ++ leBytes 8 index

/-- The slices of a RESUME with a Negative are checked and restored after check 16; a refusal leaves the partition TAINTED
(R363). -/
def State.resumeSlices (s : State) (pid : Nat) (rd : StreamEnd) : State × Byte × Bytes :=
  match s.part pid with
  | none => (s, stAborted, [])
  | some p =>
    let m := s.resolve p rd
    let hs := slideHeads m.1 p
    let rs := m.1.slideAreas p hs
    let fin := m.1.readEnds rs m.2
    let s := m.1.rangesEvents pid rs fin
    match slideChecks s p true fin hs with
    | some r =>
      let s := (s.slideEvents pid p r hs).taint pid
      let s := s.updPart pid fun p => { p with neg := none }
      (s, r.2, resumeResp (LoadStop.bytes { check := 0x80 + r.1, status := r.2 }) [] 0)
    | none =>
      (s.restore pid p false true, stOk, resumeResp [] (slideDigest hs) (fld (hs.headD []) 16 8))

/-- RESTORE_COMPLETE (R363, 02 R54): an in-place restore ends. -/
def execRestoreComplete (part : Met Nat) (s : State) : Host.Outcome State Fault Refusal :=
  .next (match s.part part.val with
    | none => s
    | some p => match p.busy with
      | some (.restore route rd) =>
        let mark := s.log.next
        let m := s.resolve p (if rd = .good then part.rd else rd)
        let hs := slideHeads m.1 p
        let rs := m.1.slideAreas p hs
        let fin := m.1.readEnds rs m.2
        let idle (s : State) : State := s.updPart part.val fun p => { p with busy := none }
        (m.1.checkpointTraffic part.val rs).eventsAround part.val rs fin fun s =>
        (match slideChecks s p false fin hs with
         | some r =>
           let s := idle (s.slideEvents part.val p r hs)
           (match route with
            | some x => s.complete x mark r.2 (resumeResp (LoadStop.bytes { check := 0x80 + r.1, status := r.2 }) [] 0)
            | none => s.updFrame part.val fun f => { f with rollback := .idle })
         | none =>
           let s := idle (s.restore part.val p true route.isSome)
           (match route with
            | some x => s.complete x mark stOk (resumeResp [] (slideDigest hs) (fld (hs.headD []) 16 8))
            | none => s.updFrame part.val fun f => { f with rollback := .waiting }))
      | _ => s)

/-! ### EXPORT (R365, 15 R416, 16 R442) -/

/-- Items 1 and 2 of R411 for a Proof and a chain, without the nonce. -/
def proofGenuine (proof chain : Bytes) : Bool :=
  Config.chainValid chain && Config.leafSerial chain == BitVec.ofNat 64 (fld proof 8 8) &&
    Config.ecdsaVerify (Config.leafKey chain) (sha384 (proof.take 656)) ((proof.drop 656).take 96)

/-- DPIs that a Proof reports. -/
def proofDpis (proof : Bytes) : List Nat := (List.range (Nat.min (fld proof 471 1) 16)).map fun k => fld proof (480 + 4 * k) 4

/-- Rewrap one slice for a destination (R416). -/
def State.exportSlice (s : State) (p : Partition) (t : Nat) (h proof : Bytes) : State :=
  match s.unwrap t h with
  | .key k =>
    let target := fld proof 8 8
    let salt := freeBytes s 16 (10 + t)
    let priv := BitVec.ofNat 384 (Config.freeBits s.free (200 + t))
    let wk := kdf (Config.ecdh priv ((proof.drop 545).take 96)) "ZX.SLIDE.EXPORT" (leBytes 8 target ++ salt) 256
    let w := wrapRecord 2 (fld h 4104 8) target salt (freeBytes s 12 (100 + t)) wk (uncompressed priv) k (headerTag k t h)
      (sha384 (proof.take 752))
    let x := slideBase s p t
    (s.writeLogical p (x + 4096) w).writeLogical p (x + 10) [BitVec.ofNat 8 (fld (setWrap h 2) 10 1)]
  | _ => s

/-- EXPORT. -/
def execExportSlides (e : Envelope) (proof : Met Bytes) (chainLength : BitVec 16) (chain : Bytes) (s : State) :
    Host.Outcome State Fault Refusal :=
  .next (runCmd s e ⟨0x0403, 756 + chainLength.toNat, { bound := true, pf := false, owner := true, openOnly := true, other := false },
      .part, .export_, false, false⟩ fun s t =>
    match t with
    | none => reply s stBadArg
    | some pid => match s.part pid with
      | none => reply s stBadArg
      | some p =>
        let m := s.resolve p proof.rd
        let hs := slideHeads m.1 p
        let todo := hs.zipIdx.filter fun h => fld h.1 10 1 / 4 % 4 == 1
        let flags := fld proof.val 26 1
        let target := fld proof.val 8 8
        -- a slice that this export has already rewritten names the same destination
        let foreign (h : Bytes) : Bool :=
          let w := fld h 10 1 / 4 % 4
          (w == 1 && fld h 4104 8 != s.id.serial.toNat) || (w == 2 && fld h 4112 8 != target) || w == 3
        if chainLength = 0 ∨ 3308 < chainLength.toNat ∨ chain.length ≠ chainLength.toNat ∨ proof.val.length ≠ 752 then reply s stBadArg
        else if p.slideValid = false ∨ slideShapeOk p hs = false then reply s stDenied
        else
        let rs := m.1.localRanges p ((List.range p.tiles.length).map fun t => (slideBase s p t, 8192))
        let fin := m.1.readEnds rs m.2
        let s := (m.1.checkpointTraffic pid rs).rangesEvents pid rs fin
        if readFails fin then reply s stIntegrity
        else if hs.any (fun h => fld h 10 1 / 4 % 4 == 0) then reply s stBadArg
        else if hs.any foreign ∨ todo = [] then reply s stDenied
        else if proofGenuine proof.val chain = false then reply s stIntegrity
        else if bit flags 0 = false ∨ bit flags 4 = false then reply s stDenied
        else if (proofDpis proof.val).contains (fld (hs.headD []) 12 4) = false then reply s stMismatch
        else if todo.any (fun h => s.unwrap h.2 h.1 == .bad) then reply s stIntegrity
        else
          let u := todo.foldl (fun (u : State) h => u.exportSlice p h.2 h.1 proof.val) (s.checkpointTraffic pid rs)
          reply { u with free := u.free + 1 } stOk (leBytes 8 target ++ leBytes 2 todo.length ++ zeroes 2))

end Sys2Proof.Machine
end

