-- ==== Sys2Proof/Machine/Agreement.lean ====
section
/-! DEFINITION. DEVELOP, RESUME and the agreement of job keys (08 R234 to R236, 13 R363, 15 R410 to R412, 16 R441 R442). An
agreement message leaves as one service packet of the fabric, routed by bank 0 of the Negative's hop tables, and arrives in a
firmware buffer; a command says that the firmware of its partition reads it (entry 40). -/

namespace Sys2Proof.Machine

/-! ### Messages (R412) -/

/-- The 16 bytes that every agreement message begins with. -/
def agreeHead (type sender : Nat) (n : Neg) : Bytes :=
  leBytes 1 type ++ [0] ++ leBytes 2 sender ++ zeroes 4 ++ leBytes 8 n.jobId.toNat

/-- table_digest over bank 0 of a Negative that is not installed yet (R411). -/
def State.negTables (s : State) (p : Partition) (n : Neg) : Bytes :=
  let dies := s.fabDies p
  sha384 ((s.portsOf p).zipIdx.flatMap (fun q => sha384 ((fmGetD n.slots0 q.2 []).flatMap SlotEnt.bytes)) ++
    dies.zipIdx.flatMap fun d =>
      sha384 (((fmGetD n.hops0 d.2 []).map (hopLocal s.model p.tiles)).flatMap (HopEnt.bytes · dies)))

/-- The nonce of a HELLO's Proof (item 3 of R411). -/
def helloNonce (n : Neg) (pub : Bytes) : Bytes := (sha384 (leBytes 8 n.jobId.toNat ++ pub)).take 32

/-- The HELLO of a partition under an ephemeral private key. -/
def State.helloMsg (s : State) (p : Partition) (n : Neg) (priv : BitVec 384) : Bytes × State :=
  let pub := uncompressed priv
  let head := s.proofHead p (helloNonce n pub) 2 (some n) (proofJob n 0 (s.negTables p n))
  let r := s.sign head
  (agreeHead 1 n.ownPart n ++ pub ++ zeroes 3 ++ head ++ r.1 ++ leBytes 2 s.id.chain.length ++ s.id.chain, r.2)

/-- The rank that the JOB section gives a part_id. -/
def Neg.rankOf (n : Neg) (part : Nat) : Nat := n.members.findIdx fun m => m.1 == part

/-- R411: the reason for which a HELLO fails, if it does. -/
def helloFails (n : Neg) (m : Bytes) : Option Nat :=
  let proof := (m.drop 116).take 752
  let chain := (m.drop 870).take (fld m 868 2)
  let flags := fld proof 26 1
  let sender := fld m 2 2
  if proofGenuine proof chain = false ∨ (proof.drop 32).take 32 ≠ helloNonce n ((m.drop 16).take 97) ∨
      6144 < fld m 868 2 then some 1
  else if bit flags 0 = false ∨ bit flags 4 = false then some 2
  else if fld proof 456 8 ≠ n.jobId.toNat ∨ (proof.drop 408).take 48 ≠ n.jobDigest ∨ fld proof 466 2 ≠ n.jobParts then some 3
  else if fld proof 468 2 ≠ sender ∨ fld proof 464 2 ≠ n.rankOf sender then some 4
  else none

/-- The job wrap key between the leader and a member (R402). -/
def jobWrapKey (priv : BitVec 384) (pub : Bytes) (n : Neg) (member : Nat) : Bytes :=
  kdf (Config.ecdh priv (pub.drop 1)) "ZX.JOB.WRAP" (leBytes 8 n.jobId.toNat ++ leBytes 2 n.master ++ leBytes 2 member) 256

/-- The KEY message for a member. -/
def keyMsg (n : Neg) (priv : BitVec 384) (member : Nat) (pub nonce g : Bytes) : Bytes :=
  let head := agreeHead 2 n.master n ++ leBytes 2 member ++ zeroes 6 ++ nonce
  let k := jobWrapKey priv pub n member
  let ct := gcmCrypt k nonce g
  head ++ ct ++ gcmTag k nonce head ct

/-- The REJECT message. -/
def rejectMsg (n : Neg) (reason : Nat) : Bytes := agreeHead 3 n.master n ++ leBytes 1 reason

/-! ### Service packets (09 R246, R410) -/

/-- A message as a service packet: class 1, in clear, under bank 0, with the sequence of its port (09 R241 to R243). -/
def servicePacket (n : Neg) (dest q seq : Nat) (msg : Bytes) : Packet :=
  ⟨leBytes 8 (2 ^ 48 * dest + 2 ^ 61 + 2 ^ 62) ++ leBytes 2 msg.length ++ leBytes 2 n.ownPart ++ leBytes 2 n.jobTag.toNat ++
    zeroes 10 ++ leBytes 8 (seq + 2 ^ 58 * q), msg, []⟩

/-- The port by which a die's agreement sends to a part: that of its hop table. -/
def Die.agreePort (d : Die) (dest : Nat) : Option Nat :=
  match d.agree with
  | some (_, _, hops) => match hops[dest]? with
    | some h => if h.out_.toNat < 64 then some h.out_.toNat else none
    | none => none
  | none => none

/-- Firmware sends a message to a member: from the partition's first fabric die that knows a way (entry 40). A message without a
way stays in the part. -/
def State.sendService (s : State) (p : Partition) (n : Neg) (dest : Nat) (msg : Bytes) : State :=
  let s := s.emit (.agreement dest msg)
  match (s.fabDies p).findSome? fun f => (s.die f).agreePort dest with
  | some q => s.updTx q fun t => { t with service := t.service ++ [servicePacket n dest q t.seq msg], seq := t.seq + 1 }
  | none => s

/-- Firmware reads a message: the packet that brought it leaves its buffer. -/
def State.readService (s : State) (msg : Bytes) : State := { s with service := s.service.eraseP fun k => k.body == msg }

/-- The fabric dies of a partition route the service packets of a job by bank 0 of a Negative's hop tables (R410). -/
def State.routeAgree (s : State) (p : Partition) (n : Neg) : State :=
  (s.fabDies p).zipIdx.foldl (fun (s : State) d => s.updDie d.1 fun x => { x with
    agree := some (n.jobTag.toNat, n.ownPart, (fmGetD n.hops0 d.2 []).map (hopLocal s.model p.tiles)) }) s

/-- They end it. -/
def State.endAgree (s : State) (p : Partition) : State :=
  (s.fabDies p).foldl (fun (s : State) f => s.updDie f fun x => { x with agree := none }) s

/-! ### The ends of DEVELOP and of RESUME with a Negative -/

/-- What the requester of the command in check 15 learns of a refusal. -/
def refusalResp (resume : Bool) (r : LoadStop) : Bytes :=
  if resume then resumeResp r.bytes [] 0 else developResp r.bytes []

/-- Check 16, the slices of a RESUME, and the answer: status and response. -/
def State.finishDevelop (s : State) (pid : Nat) (n : Neg) (hazOn hazStop : Bool) (secret : Option (BitVec 256))
    (resume : Option (Nat × Nat × StreamEnd)) : State × Byte × Bytes :=
  let s := (s.updPart pid fun p => { p with busy := none, jobSecret := secret }).installNeg pid n hazOn hazStop
  match resume with
  | none => (s, stOk, developResp [] n.digest)
  | some r => s.resumeSlices pid r.2.2

/-- Check 15 fails (R410): the event, TAINTED, and the answer to the command. -/
def State.failAgree (s : State) (pid : Nat) (status : Byte) (entry reason : Nat) : State :=
  match s.part pid with
  | none => s
  | some p => match p.busy with
    | some (.agree route _ resume _) =>
      let mark := s.log.next
      let r : LoadStop := { check := 15, status := status, entry := entry, field := reason }
      let s := ((s.endAgree p).logEv 0x0803 pid noUnit 0).taint pid
      let s := if resume.isSome then s else s.logRefusal pid r
      s.complete route mark status (refusalResp resume.isSome r)
    | _ => s

/-- Check 15 succeeds. -/
def State.passAgree (s : State) (pid : Nat) (secret : BitVec 256) : State :=
  match s.part pid with
  | none => s
  | some p => match p.busy with
    | some (.agree route n resume _) =>
      let mark := s.log.next
      let r := s.finishDevelop pid n false false (some secret) resume
      r.1.complete route mark r.2.1 r.2.2
    | _ => s

/-- The leader has heard every member (step 3 of R410). -/
def State.leaderDecides (s : State) (pid : Nat) (p : Partition) (n : Neg) (a : Agree) : State :=
  match a.hellos.find? fun h => h.2.2.isSome with
  | some (member, _, reason) =>
    let r := reason.getD 0
    let s := a.hellos.foldl (fun (s : State) h => s.sendService p n h.1 (rejectMsg n r)) s
    s.failAgree pid stDenied member r
  | none =>
    let g := freeBytes s 32 0
    let s := a.hellos.foldl (fun (s : State) h =>
      let own := s.helloMsg p n a.priv
      let nonce := freeBytes own.2 12 (1 + h.1)
      (own.2.sendService p n h.1 own.1).sendService p n h.1 (keyMsg n a.priv h.1 h.2.1 nonce g))
      { s with free := s.free + 1 }
    ({ s with free := s.free + 1 }).passAgree pid (BitVec.ofNat 256 (leNat g))

/-- Check 15 begins (R410): a job of one member draws its secret at once; the answer where there is one already. -/
def State.startAgree (s : State) (pid : Nat) (route : Route) (n : Neg) (resume : Option (Nat × Nat × StreamEnd)) :
    State × Option (Byte × Bytes) :=
  if n.jobParts ≤ 1 then
    let g := leNat (freeBytes s 32 0)
    let r := ({ s with free := s.free + 1 }).finishDevelop pid n false false (some (BitVec.ofNat 256 g)) resume
    (r.1, some r.2)
  else
    let priv := BitVec.ofNat 384 (Config.freeBits s.free 0)
    let leader := n.isMaster
    let a : Agree := { leader := leader, priv := priv, hellos := [], lead := none }
    let s := ({ s with free := s.free + 1 }).updPart pid fun p => { p with busy := some (.agree route n resume a) }
    match s.part pid with
    | none => (s, none)
    | some p =>
      let s := s.routeAgree p n
      if leader then (s, none)
      else
        let m := s.helloMsg p n priv
        (m.2.sendService p n n.master m.1, none)

/-! ### DEVELOP and RESUME -/

/-- Checks 2 to 16 after the staging range is known good: the answer, if the command ends now. -/
def State.runLoader (s : State) (pid : Nat) (p : Partition) (route : Route) (base len : Nat) (hazOn hazStop : Bool)
    (rd : StreamEnd) (resume : Option (Nat × Nat × StreamEnd)) : State × Option (Byte × Bytes) :=
  let refuse (s : State) (r : LoadStop) : State × Option (Byte × Bytes) :=
    (if resume.isSome then s else s.logRefusal pid r, some (r.status, refusalResp resume.isSome r))
  let m := s.resolve p rd
  let rs := m.1.localRanges p [(base, len)]
  let fin := m.1.readEnds rs m.2
  let s := m.1.rangesEvents pid rs fin
  match s.loadNegative pid p base len (readFails fin) with
  | .error r => refuse s r
  | .ok x =>
    let n := x.1
    let t := s.loadImages pid n x.2
    match t.2 with
    | some i => refuse (t.1.taint pid) { check := 14, status := stIntegrity, type := 0x21, entry := i, field := 24 }
    | none =>
      if p.dark then t.1.startAgree pid route n resume
      else
        let r := t.1.finishDevelop pid n hazOn hazStop none resume
        (r.1, some r.2)

/-- DEVELOP (R234, R441). -/
def execDevelop (e : Envelope) (base : BitVec 64) (length : Met (BitVec 64)) (options : Byte) (s : State) :
    Host.Outcome State Fault Refusal :=
  .next (runCmd s e ⟨0x0301, 24, { bound := true, pf := false, owner := true, openOnly := true, other := false }, .part, .develop,
      false, false⟩ fun s t =>
    match t with
    | none => reply s stBadArg
    | some pid => match s.part pid with
      | none => reply s stBadArg
      | some p =>
        let haz := options.getLsbD 0
        let stop := options.getLsbD 1
        let refuse (s : State) (r : LoadStop) : Answer := reply (s.logRefusal pid r) r.status (refusalResp false r)
        if p.state ≠ .ready then refuse s { check := 1, status := stWrongState }
        else if 3 < options.toNat ∨ (stop = true ∧ haz = false) then refuse s { check := 1, status := stBadArg, field := 16 }
        else if haz = true ∧ (p.dark = true ∨ s.lockout = true) then
          refuse (if s.lockout then s.logHourly 0x0804 pid pid noUnit 0 else s) { check := 1, status := stDenied, field := 16 }
        else s.runLoader pid p e.route base.toNat length.val.toNat haz stop length.rd none)

/-- RESUME (R363, R442). -/
def execResume (e : Envelope) (form : Byte) (base length : BitVec 64) (rd : StreamEnd) (s : State) :
    Host.Outcome State Fault Refusal :=
  .next (runCmd s e ⟨0x0402, 24, { bound := true, pf := false, owner := true, openOnly := true, other := false }, .part, .resume,
      false, false⟩ fun s t =>
    match t with
    | none => reply s stBadArg
    | some pid => match s.part pid with
      | none => reply s stBadArg
      | some p =>
        let refuse (check field : Nat) (st : Byte) : Answer :=
          reply s st (refusalResp true { check := check, status := st, field := field })
        if 1 < form.toNat then refuse 0x81 0 stBadArg
        else if form = 0 ∧ base ≠ 0 then refuse 0x81 8 stBadArg
        else if form = 0 ∧ length ≠ 0 then refuse 0x81 16 stBadArg
        else if form = 0 then
          if ¬ (p.state = .developed ∨ p.state = .halted) then reply s stWrongState
          else if p.slideValid = false then refuse 0x81 0xFFFFFFFF stBadArg
          else (s.updPart pid fun p => { p with busy := some (.restore (some e.route) rd) }, none)
        else if p.state ≠ .ready then refuse 1 0xFFFFFFFF stWrongState
        else
          match stagingBad (s.site pid p base.toNat length.toNat) with
          | some f => refuse 1 (8 + f) stBadArg
          | none => s.runLoader pid p e.route base.toNat length.toNat false false .good (some (base.toNat, length.toNat, rd)))

/-! ### The messages arrive -/

/-- A message of the running agreement: its type, its job and a sender among the other members. -/
def agreeMsgOk (n : Neg) (type : Nat) (m : Bytes) : Bool :=
  fld m 0 1 == type && fld m 8 8 == n.jobId.toNat && (n.members.any fun x => x.1 == fld m 2 2) && fld m 2 2 != n.ownPart

/-- HELLO (R410, R411): the leader gathers the members' HELLOs, a member checks the leader's. -/
def execHello (part : Nat) (msg : Bytes) (s : State) : Host.Outcome State Fault Refusal :=
  .next (
    let s := s.readService msg
    match s.part part with
    | none => s
    | some p => match p.busy with
      | some (.agree route n resume a) =>
        let sender := fld msg 2 2
        let pub := (msg.drop 16).take 97
        if !agreeMsgOk n 1 msg then s
        else if a.leader then
          let hs := (a.hellos.filter fun h => h.1 != sender) ++ [(sender, pub, helloFails n msg)]
          let b : Agree := { a with hellos := hs }
          let s := s.updPart part fun p => { p with busy := some (.agree route n resume b) }
          if hs.length + 1 < n.jobParts then s else s.leaderDecides part p n b
        else if sender = n.master then
          (match helloFails n msg with
           | some r => s.failAgree part stIntegrity n.master r
           | none => s.updPart part fun p => { p with busy := some (.agree route n resume { a with lead := some (pub, none) }) })
        else s
      | _ => s)

/-- KEY (step 4 of R410). -/
def execKey (part : Nat) (msg : Bytes) (s : State) : Host.Outcome State Fault Refusal :=
  .next (
    let s := s.readService msg
    match s.part part with
    | none => s
    | some p => match p.busy with
      | some (.agree _ n _ a) =>
        match a.lead with
        | none => s
        | some (pub, _) =>
          if a.leader || !agreeMsgOk n 2 msg || fld msg 2 2 != n.master || fld msg 16 2 != n.ownPart then s
          else
            let k := jobWrapKey a.priv pub n n.ownPart
            let nonce := (msg.drop 24).take 12
            let ct := (msg.drop 36).take 32
            if (msg.drop 68).take 16 = gcmTag k nonce (msg.take 36) ct then
              s.passAgree part (BitVec.ofNat 256 (leNat (gcmCrypt k nonce ct)))
            else s.failAgree part stIntegrity n.master 1
      | _ => s)

/-- REJECT (R410). -/
def execReject (part : Nat) (msg : Bytes) (s : State) : Host.Outcome State Fault Refusal :=
  .next (
    let s := s.readService msg
    match s.part part with
    | none => s
    | some p => match p.busy with
      | some (.agree _ n _ a) =>
        if a.leader || !agreeMsgOk n 3 msg || fld msg 2 2 != n.master then s
        else s.failAgree part stDenied n.master (fld msg 16 1)
      | _ => s)

/-- KEY_AGREEMENT_TIMEOUT (R410): the 60 s of the leader, or the 120 s of a member. -/
def execKeyAgreementTimeout (part : Nat) (s : State) : Host.Outcome State Fault Refusal :=
  .next (match s.part part with
    | none => s
    | some p => match p.busy with
      | some (.agree _ n _ a) =>
        let s := if a.leader then a.hellos.foldl (fun (s : State) h => s.sendService p n h.1 (rejectMsg n 5)) s else s
        s.failAgree part stBusy 0xFFFFFFFF 5
      | _ => s)

/-- HELLO_RESEND (R410). -/
def execHelloResend (part : Nat) (s : State) : Host.Outcome State Fault Refusal :=
  .next (match s.part part with
    | none => s
    | some p => match p.busy with
      | some (.agree _ n _ a) =>
        if a.leader then s
        else
          let m := s.helloMsg p n a.priv
          m.2.sendService p n n.master m.1
      | _ => s)

end Sys2Proof.Machine
end

