-- ==== Sys2Proof/Machine/Bundle.lean ====
section
/-! DEFINITION. Bundles as bundle memory holds them (05 R122 to R124): the operation that each slot spells, and the issue of
the stored stream of a block that no command drives (04 R109, 05 R126, entry 126). -/

namespace Sys2Proof.Machine

/-! ### Fields of a slot -/

/-- Field [hi:lo] of a slot as a bit vector of its width. -/
def fieldBits (n w hi lo : Nat) : BitVec n := BitVec.ofNat n (bits w hi lo)

/-- The issue of an operation whose slot ends at bit `top`: a set bit above it is a reserved field that is not 0 (R124). -/
def issueTo (i : Issue) (w top : Nat) : Issue := { i with rsvd := decide (w / 2 ^ top ≠ 0) }

/-- The issue of a slot with a reserved opcode (R124). -/
def badIssue (i : Issue) : Issue := { i with rsvd := true }

/-! ### The slots (R133, R138, R153, R155, R163, R170) -/

/-- The C slot (R133): none for NOP. -/
def decodeC (i : Issue) (w : Nat) : Option Instr :=
  match bits w 7 0 with
  | 0x00 => if w = 0 then none else some (.waitcy (badIssue i) 0)
  | 0x01 => some (.loop (issueTo i w 32) (fieldBits 13 w 20 8) (fieldBits 11 w 31 21))
  | 0x02 => some (.loopAr (issueTo i w 25) (fieldBits 13 w 20 8) (fieldBits 4 w 24 21))
  | 0x03 => some (.waitcy (issueTo i w 28) (fieldBits 20 w 27 8))
  | 0x04 => some (.waittick (issueTo i w 8))
  | 0x05 => some (.bundleHalt (issueTo i w 16) (fieldBits 8 w 15 8))
  | 0x06 => some (.tankBase (issueTo i w 22) (fieldBits 4 w 11 8) (fieldBits 10 w 21 12))
  | 0x07 => some (.chkflag (issueTo i w 25) (fieldBits 16 w 23 8) (bit w 24))
  | 0x08 => some (.syncPost (issueTo i w 22) (fieldBits 10 w 17 8) (fieldBits 4 w 21 18))
  | 0x09 => some (.syncChk (issueTo i w 25) (fieldBits 16 w 23 8) (bit w 24))
  | 0x0A => some (.pset (issueTo i w 32) (fieldBits 3 w 10 8) (fieldBits 3 w 13 11) (fieldBits 18 w 31 14))
  | 0x0B => some (.arSetlo (issueTo i w 28) (fieldBits 4 w 11 8) (fieldBits 16 w 27 12))
  | 0x0C => some (.arSethi (issueTo i w 28) (fieldBits 4 w 11 8) (fieldBits 16 w 27 12))
  | 0x0D => some (.arAddi (issueTo i w 32) (fieldBits 4 w 11 8) (fieldBits 4 w 15 12) (fieldBits 16 w 31 16))
  | 0x0E => some (.arAdd (issueTo i w 20) (fieldBits 4 w 11 8) (fieldBits 4 w 15 12) (fieldBits 4 w 19 16))
  | _ => some (.waitcy (badIssue i) 0)

/-- Fields of MMA (R138). -/
def mmaFields (w : Nat) : MmaF :=
  { cells := fieldBits 4 w 9 6, fmtA := fieldBits 4 w 13 10, fmtB := fieldBits 4 w 17 14, arA := fieldBits 4 w 21 18
    arB := fieldBits 4 w 25 22, arSA := fieldBits 4 w 29 26, arSB := fieldBits 4 w 33 30, inc := bit w 34, dodge := bit w 35
    strip := bit w 36, row := fieldBits 7 w 43 37, arSt := fieldBits 4 w 47 44, t2pos := fieldBits 3 w 50 48
    t2size := fieldBits 3 w 53 51 }

/-- Fields of MMA.DODGE (R145). -/
def dodgeFields (w : Nat) : DodgeF :=
  { cells := fieldBits 4 w 9 6, fmtW := fieldBits 4 w 13 10, arA := fieldBits 4 w 17 14, arW := fieldBits 4 w 21 18
    arS := fieldBits 4 w 25 22, group := fieldBits 3 w 28 26, inc := bit w 29 }

/-- Fields of TANK.READ (R146). -/
def readFields (w : Nat) : TankReadF :=
  { cells := fieldBits 4 w 9 6, fmt := fieldBits 4 w 13 10, raw := bit w 14, arD := fieldBits 4 w 18 15, sigma := bit w 19
    arSigma := fieldBits 4 w 23 20, inc := bit w 24 }

/-- The M slot (R138). -/
def decodeM (i : Issue) (w : Nat) : Option Instr :=
  match bits w 5 0 with
  | 0x00 => if w = 0 then none else some (.stripCheck (badIssue i) 0 0 0)
  | 0x01 => some (.mma (issueTo i w 54) (mmaFields w) .good)
  | 0x02 => some (.mmaDodge (issueTo i w 30) (dodgeFields w) .good)
  | 0x03 => some (.tankRead (issueTo i w 25) (readFields w) .good false)
  | 0x04 => some (.tankMerge (issueTo i w 15) (fieldBits 4 w 9 6) (fieldBits 4 w 13 10) (bit w 14) .good false)
  | 0x05 => some (.dodgeSet (issueTo i w 23) (fieldBits 4 w 9 6) (fieldBits 4 w 13 10) (fieldBits 9 w 22 14) .good)
  | 0x06 => some (.stripCheck (issueTo i w 25) (fieldBits 4 w 9 6) (fieldBits 7 w 16 10) (fieldBits 8 w 24 17))
  | _ => some (.stripCheck (badIssue i) 0 0 0)

/-- Fields of a V operation (R153). -/
def vecFields (w : Nat) : VecF :=
  { vd := fieldBits 6 w 13 8, va := fieldBits 6 w 19 14, vb := fieldBits 6 w 25 20, vc := fieldBits 6 w 31 26
    type := fieldBits 4 w 35 32, km := fieldBits 3 w 38 36, func := fieldBits 8 w 47 40, imm := fieldBits 16 w 63 48 }

/-- Fields of LD and ST (R162). -/
def ldstFields (w : Nat) : LdStF :=
  { vd := fieldBits 6 w 13 8, ar := fieldBits 4 w 17 14, cells := fieldBits 4 w 21 18, off := fieldBits 12 w 33 22 }

/-- The V operation of an opcode on the fields of R153 (R155, R158); none for a reserved one, LD and ST. -/
def vecOp (op : Nat) : Option (Issue → VecF → Instr) :=
  match op with
  | 0x01 => some .add | 0x02 => some .sub | 0x03 => some .mul | 0x04 => some .fma | 0x05 => some .min | 0x06 => some .max
  | 0x07 => some .abs | 0x08 => some .neg | 0x09 => some .adds | 0x0A => some .and | 0x0B => some .or | 0x0C => some .xor
  | 0x0D => some .shl | 0x0E => some .shr | 0x0F => some .cmp | 0x10 => some .sel | 0x11 => some .mov | 0x12 => some .movi
  | 0x13 => some .iota | 0x14 => some .perm | 0x15 => some .klogic | 0x18 => some .div | 0x19 => some .sqrt
  | 0x20 => some .exp | 0x21 => some .exp2 | 0x22 => some .log | 0x23 => some .log2 | 0x24 => some .rcp | 0x25 => some .rsqrt
  | 0x26 => some .sin | 0x27 => some .cos | 0x28 => some .tanh | 0x29 => some .sigmoid | 0x2A => some .erf
  | 0x30 => some .cvt | 0x31 => some .cvtSr | 0x32 => some .quant | 0x33 => some .deq
  | 0x38 => some .rsum | 0x39 => some .rmax | 0x3A => some .rmin | 0x40 => some .draw
  | _ => none

/-- The V slot (R153, R155). -/
def decodeV (i : Issue) (w : Nat) : Option Instr :=
  match bits w 7 0 with
  | 0x00 => if w = 0 then none else some (.mov (badIssue i) (vecFields 0))
  | 0x50 => some (.ld (issueTo i w 34) (ldstFields w) .good)
  | 0x51 => some (.st (issueTo i w 34) (ldstFields w))
  | op => match vecOp op with
    | some f => some (f { i with rsvd := bit w 39 } (vecFields w))
    | none => some (.mov (badIssue i) (vecFields 0))

/-- Fields of COPY.RC and COPY.CR (R163). -/
def copyFields (w : Nat) : CopyF :=
  { port := fieldBits 2 w 7 6, cell := fieldBits 2 w 9 8, arC := fieldBits 4 w 13 10, arR := fieldBits 4 w 17 14
    n := fieldBits 13 w 30 18, inc := bit w 31 }

/-- Fields of COPY.RR (R163). -/
def rrFields (w : Nat) : CopyRRF :=
  { port := fieldBits 2 w 7 6, dest := fieldBits 3 w 10 8, route := fieldBits 2 w 12 11, arS := fieldBits 4 w 16 13
    arD := fieldBits 4 w 20 17, n := fieldBits 13 w 33 21, inc := bit w 34 }

/-- Fields of STREAM.IN and STREAM.OUT (R166). -/
def streamFields (w : Nat) : StreamF :=
  { pf := fieldBits 2 w 7 6, entry := fieldBits 10 w 17 8, arH := fieldBits 4 w 21 18, arR := fieldBits 4 w 25 22
    flag := fieldBits 4 w 29 26, setFlag := bit w 30, inc := bit w 31 }

/-- The S slot (R163). -/
def decodeS (i : Issue) (w : Nat) : Option Instr :=
  match bits w 5 0 with
  | 0x00 => if w = 0 then none else some (.copyRc (badIssue i) (copyFields 0) .good)
  | 0x01 => some (.copyRc (issueTo i w 32) (copyFields w) .good)
  | 0x02 => some (.copyCr (issueTo i w 32) (copyFields w) .good)
  | 0x03 => some (.streamIn (issueTo i w 32) (streamFields w))
  | 0x04 => some (.streamOut (issueTo i w 32) (streamFields w))
  | 0x05 => some (.copyRr (issueTo i w 35) (rrFields w) false .good)
  | _ => some (.copyRc (badIssue i) (copyFields 0) .good)

/-- Fields of COMMIT (R172). -/
def commitFields (w : Nat) : CommitF :=
  { port := fieldBits 2 w 7 6, entry := fieldBits 14 w 21 8, space := bit w 22, cell := fieldBits 2 w 24 23
    arSrc := fieldBits 4 w 28 25, inc := bit w 29 }

/-- Fields of CSFILL (R175). -/
def csfillFields (w : Nat) : CsfillF :=
  { sheet := fieldBits 6 w 11 6, cell := fieldBits 2 w 13 12, rowSpace := bit w 14, arList := fieldBits 4 w 18 15
    arRows := fieldBits 4 w 22 19, arDin := fieldBits 4 w 26 23, arDrows := fieldBits 4 w 30 27, arDout := fieldBits 4 w 34 31 }

/-- The X slot (R170). -/
def decodeX (i : Issue) (w : Nat) : Option Instr :=
  match bits w 5 0 with
  | 0x00 => if w = 0 then none else some (.chkarr (badIssue i) 0 0 false)
  | 0x01 => some (.commit (issueTo i w 30) (commitFields w) .good)
  | 0x02 => some (.chkarr (issueTo i w 15) (fieldBits 4 w 9 6) (fieldBits 4 w 13 10) (bit w 14))
  | 0x03 => some (.csfill (issueTo i w 35) (csfillFields w) .good)
  | _ => some (.chkarr (badIssue i) 0 0 false)

/-- The operations of a bundle, in the order in which they take effect (R122, R123, R125): a slot whose valid bit is 0 is not
decoded. -/
def decodeBundle (part block cycle : Nat) (w : BitVec 256) : List Instr :=
  let x := w.toNat
  let i : Issue := ⟨part, block, cycle, fieldBits 3 x 7 5, .good, false⟩
  (if bit x 0 then (decodeC i (bits x 39 8)).toList else []) ++
  (if bit x 1 then (decodeM i (bits x 95 40)).toList else []) ++
  (if bit x 2 then (decodeV i (bits x 159 96)).toList else []) ++
  (if bit x 3 then (decodeS i (bits x 207 160)).toList else []) ++
  (if bit x 4 then (decodeX i (bits x 255 208)).toList else [])

/-! ### What an operation of a bundle does -/

/-- The effect of a V operation on the fields of R153; none for another command. -/
def runVecOp (c : Instr) (s : State) : Option Out :=
  match c with
  | .add i f => some (execAdd i f s) | .sub i f => some (execSub i f s) | .mul i f => some (execMul i f s)
  | .fma i f => some (execFma i f s) | .min i f => some (execMin i f s) | .max i f => some (execMax i f s)
  | .abs i f => some (execAbs i f s) | .neg i f => some (execNeg i f s) | .adds i f => some (execAdds i f s)
  | .and i f => some (execAnd i f s) | .or i f => some (execOr i f s) | .xor i f => some (execXor i f s)
  | .shl i f => some (execShl i f s) | .shr i f => some (execShr i f s) | .cmp i f => some (execCmp i f s)
  | .sel i f => some (execSel i f s) | .mov i f => some (execMov i f s) | .movi i f => some (execMovi i f s)
  | .iota i f => some (execIota i f s) | .perm i f => some (execPerm i f s) | .klogic i f => some (execKlogic i f s)
  | .div i f => some (execDiv i f s) | .sqrt i f => some (execSqrt i f s) | .exp i f => some (execExp i f s)
  | .exp2 i f => some (execExp2 i f s) | .log i f => some (execLog i f s) | .log2 i f => some (execLog2 i f s)
  | .rcp i f => some (execRcp i f s) | .rsqrt i f => some (execRsqrt i f s) | .sin i f => some (execSin i f s)
  | .cos i f => some (execCos i f s) | .tanh i f => some (execTanh i f s) | .sigmoid i f => some (execSigmoid i f s)
  | .erf i f => some (execErf i f s) | .cvt i f => some (execCvt i f s) | .cvtSr i f => some (execCvtSr i f s)
  | .quant i f => some (execQuant i f s) | .deq i f => some (execDeq i f s) | .rsum i f => some (execRsum i f s)
  | .rmax i f => some (execRmax i f s) | .rmin i f => some (execRmin i f s) | .draw i f => some (execDraw i f s)
  | _ => none

/-- The effect of an operation of a bundle: that of the command of the same name. -/
def runOp (c : Instr) (s : State) : Out :=
  match c with
  | .loop i e n => execLoop i e n s
  | .loopAr i e ar => execLoopAr i e ar s
  | .waitcy i n => execWaitcy i n s
  | .waittick i => execWaittick i s
  | .bundleHalt i code => execBundleHalt i code s
  | .tankBase i cells base => execTankBase i cells base s
  | .chkflag i mask clear => execChkflag i mask clear s
  | .syncPost i target token => execSyncPost i target token s
  | .syncChk i mask clear => execSyncChk i mask clear s
  | .pset i d fn ops => execPset i d fn ops s
  | .arSetlo i d imm => execArSetlo i d imm s
  | .arSethi i d imm => execArSethi i d imm s
  | .arAddi i d src imm => execArAddi i d src imm s
  | .arAdd i d a b => execArAdd i d a b s
  | .mma i f rd => execMma i f rd s
  | .mmaDodge i f rd => execMmaDodge i f rd s
  | .tankRead i f rd parity => execTankRead i f rd parity s
  | .tankMerge i cells ar inc rd parity => execTankMerge i cells ar inc rd parity s
  | .dodgeSet i cells ar n rd => execDodgeSet i cells ar n rd s
  | .stripCheck i cells row entry => execStripCheck i cells row entry s
  | .ld i f rd => execLd i f rd s
  | .st i f => execSt i f s
  | .copyRc i f rd => execCopyRc i f rd s
  | .copyCr i f rd => execCopyCr i f rd s
  | .copyRr i f late rd => execCopyRr i f late rd s
  | .streamIn i f => execStreamIn i f s
  | .streamOut i f => execStreamOut i f s
  | .commit i f rd => execCommit i f rd s
  | .chkarr i counter ar clear => execChkarr i counter ar clear s
  | .csfill i f rd => execCsfill i f rd s
  | c => (runVecOp c s).getD (.next s)

/-- The state after an operation of a bundle. -/
def State.afterOp (s : State) (c : Instr) : State :=
  match runOp c s with
  | .next t => t
  | _ => s

/-! ### The stored stream of a block that no command drives (R109, R126, entry 126) -/

/-- The bundle at an address of bundle memory; a block without a stream holds one WAITTICK (R109). -/
def Block.bundleAt (b : Block) : BitVec 256 := if b.bundles.isEmpty then 0x401 else b.bundles.getD b.addr 0

/-- The bundle at which a block stands issues, and the sequencer moves on (R126, R130, R151). -/
def issueStored (s : State) (pid bix : Nat) : State :=
  match s.part pid with
  | none => s
  | some p =>
    let b := s.block bix
    if b.streamLen ≤ b.addr then
      (s.blockFatal pid bix 0x1406 (illegalDetail 0x12 0 b.addr) b.cycle).updBlock bix fun b => { b with atTick := true }
    else
      let s := (decodeBundle pid (p.logicalOf bix) b.cycle b.bundleAt).foldl State.afterOp s
      let b := s.block bix
      if b.atTick then s.setBlock bix { b with driven := false }
      else
        let n := seqNext b
        if 8191 < n.addr then
          (s.blockFatal pid bix 0x1406 (illegalDetail 0x0B 0 b.addr) b.cycle).updBlock bix fun b => { b with driven := false, atTick := true }
        else s.setBlock bix { n with driven := false }

/-- The block whose stored bundle issues next, and that comes by the cycles `upto` of the logical regions: no command drives
it, and no fault has stopped it. `all` takes in the blocks that hold no stream. -/
def nextStored (s : State) (p : Partition) (upto : Nat → Nat) (all : Bool) : Option Nat :=
  let ready := p.blockList.zipIdx.filter fun x =>
    let b := s.block x.1
    !b.driven && !b.atTick && (all || !b.bundles.isEmpty) && decide (b.cycle ≤ upto (x.2 / 6)) &&
      (match p.frame.fatal with | some r => decide (b.cycle ≤ r.time) | none => true)
  (ready.foldl (fun (acc : Option (Nat × Nat)) x =>
    let c := (s.block x.1).cycle
    match acc with
    | some a => if c < a.1 then some (c, x.1) else acc
    | none => some (c, x.1)) none).map (·.2)

/-- Stored bundles issue in the order of their cycles. -/
def runStored : Nat → State → Nat → (Nat → Nat) → Bool → State
  | 0, s, _, _, _ => s
  | fuel + 1, s, pid, upto, all =>
    match s.part pid with
    | none => s
    | some p =>
      if p.state ≠ .running ∨ p.frame.started = false then s
      else match nextStored s p upto all with
        | some bix => runStored fuel (issueStored s pid bix) pid upto all
        | none => s

/-- The blocks of a partition that no command drives run their stored streams up to the cycles `upto` of its logical
regions (R126, entry 126). -/
def State.runStreams (s : State) (pid : Nat) (upto : Nat → Nat) (all : Bool) : State :=
  match s.part pid with
  | none => s
  | some p =>
    let most := (List.range (6 * p.tiles.length)).foldl (fun acc r => Nat.max acc (upto r)) 0
    runStored (p.blockList.length * (most + 2)) s pid upto all

end Sys2Proof.Machine
end

