-- ==== Sys2Proof/Machine/Frame.lean ====
section
/-! DEFINITION. EXPOSE, the sampling of posts and the Shutter: completeness, commit, overrun, rollback, epoch switch, halts,
Darkslide takes, step changes, launch and the start of an Exposure (02, 09 R258, 11 R314 R315 R324 R325, 13 R353 R361 R366
to R368, 14 R374 R375, 16 R441, 19 R503). -/

namespace Sys2Proof.Machine

/-! ### EXPOSE (R441, R237, R325, R343) -/

/-- Fixed-mode conditions of R237. -/
def Partition.mayLaunch (s : State) (p : Partition) : Bool :=
  let n := p.negative
  !n.fixed || (sealHolds s n && p.tiles.length == n.tileCount)

/-- The sampling point of the announced launch Shutter has passed (R325). -/
def Partition.missed (p : Partition) : Bool :=
  match p.ftime with
  | none => false
  | some f => match f.launch with
    | none => false
    | some g => decide (g ≤ f.grid) || (p.frame.late && g == f.grid + 1)

/-- EXPOSE. -/
def execExpose (e : Envelope) (flags : Byte) (frames tReq : BitVec 64) (seed : BitVec 128) (s : State) :
    Host.Outcome State Fault Refusal :=
  .next (runCmd s e ⟨0x0302, 40, { bound := true, pf := false, owner := true, openOnly := true, other := false }, .part, .expose,
      false, false⟩ fun s t =>
    match t with
    | none => reply s stBadArg
    | some pid => match s.part pid with
      | none => reply s stBadArg
      | some p =>
        let n := p.negative
        let timed := flags.getLsbD 0
        let seeded := flags.getLsbD 1
        let now_ := (s.auditNow.1).toNat
        if 3 < flags.toNat ∨ (timed = false ∧ tReq ≠ 0) ∨ (seeded = false ∧ seed ≠ 0) then reply s stBadArg
        else if ¬ (p.state = .developed ∨ p.cleanHalt = true) then reply s stWrongState
        else if seeded ≠ n.seedAtExpose then reply s stBadArg
        else if Partition.mayLaunch s p = false then reply s stMismatch
        else if timed = true ∧ n.isMaster = false then reply s stBadArg
        else if timed = true ∧ s.time.state = 0 then reply s stWrongState
        else if timed = true ∧ now_ + 2592000000000000 < tReq.toNat then reply s stBadArg
        else if n.isMaster = false ∧ p.missed = true then reply (s.logEv 0x1214 pid noUnit 0) stWrongState
        else
          let x : ExposeReq := ⟨e.route, frames.toNat, seed, if timed then some tReq.toNat else none, false, p.frame.late⟩
          let s := s.updPart pid fun p => { p with expose := some x }
          let due := !timed || decide (tReq.toNat ≤ now_ + 20000000)
          ((if n.isMaster && due then s.takeUp pid else s), none))

/-! ### Beacons (11 R315, R316) -/

/-- The carried bytes of a beacon on a port. -/
def beaconBytes (n : Neg) (f : FTime) (q : Port) (interim : Bool) : Bytes :=
  let locked := decide (f.state = .locked)
  let master := n.isMaster
  leBytes 1 2 ++ [0] ++ leBytes 2 n.jobTag.toNat ++ leBytes 2 n.ownPart ++ leBytes 2 n.master ++ leBytes 1 f.hops ++
    leBytes 1 (boolNat locked + 2 * boolNat (f.state == .holdover) + 4 * boolNat interim + 8 * boolNat f.launch.isSome) ++
    zeroes 2 ++ leBytes 4 f.time ++
    (match q.heard with
     | some h => leBytes 4 h.msg.txStamp.toNat ++ leBytes 4 h.rx.toNat
     | none => zeroes 8) ++
    leBytes 4 (BitVec.ofInt 32 (if master then 0 else f.theta)).toNat ++ leBytes 4 n.frameCount ++ leBytes 8 f.grid ++
    leBytes 8 (f.launch.getD 0) ++ leBytes 4 (BitVec.ofInt 32 (if master then 0 else f.rate)).toNat ++ zeroes 188

/-- A partition's fabric dies send a beacon on every port whose verdict is MATCH or MATCH_FAR; they go on after a partition
reset (R326). -/
def State.sendBeacons (s : State) (pid : Nat) (interim : Bool) : State :=
  match s.part pid with
  | none => s
  | some p =>
    match p.ftime, p.fab with
    | some f, some n =>
      let s := (s.portsOf p).foldl (fun (s : State) q =>
        let x := s.port q
        if x.verdict = .match_ ∨ x.verdict = .matchFar then s.sendLink q 2 (beaconBytes n f x interim) else s) s
      s.updPart pid fun p => { p with ftime := p.ftime.map fun f => { f with sinceBeacon := 0 } }
    | _, _ => s

/-- INTERIM_BEACON: 1 ms of fabric time without a beacon (R315). -/
def execInterimBeacon (part : Nat) (s : State) : Host.Outcome State Fault Refusal := .next (s.sendBeacons part true)

/-! ### INPUT_POST_SAMPLE (02 R57, 17 R465, 13 R361) -/

/-- Whether the coming Shutter is one at which a partition may take a post: it runs, is to leave a hold, to launch or to
rejoin there. -/
def Partition.mayTake (p : Partition) : Bool :=
  let next := p.frame.shutter.toNat + 1
  match p.state with
  | .running => (match p.slide with
    | none => true
    | some o => o.phase == .pending || (o.phase == .held && o.sr == next))
  | .developed => launchNext
  | .halted => launchNext || (p.frame.rollback == .waiting && next % 2 ^ p.negative.rejoinLog2 == 0)
  | _ => false
where
  launchNext : Bool := p.expose.isSome && (match p.ftime with
    | some f => f.launch == some (f.grid + 1)
    | none => false)

/-- INPUT_POST_SAMPLE: the point 1 µs before a partition's next Shutter. -/
def execInputPostSample (part : Nat) (s : State) : Host.Outcome State Fault Refusal :=
  .next (match s.part part with
    | none => s
    | some p =>
      let f := s.func p.hostDie p.fn
      let take := f.post && f.postWaits == 0 && p.mayTake
      let s := s.updFunc p.hostDie p.fn fun x => { x with postWaits := x.postWaits - 1 }
      let s := s.updFrame part fun x => { x with sampled := take, late := true }
      match p.slide with
      | some o =>
        if o.phase = .writing ∧ o.sr ≠ 0 ∧ o.sr = p.frame.shutter.toNat + 1 then
          (s.logEv 0x1A41 part noUnit 0).updPart part fun p => { p with slide := some { o with phase := .lateEnd } }
        else s
      | none => s)

/-! ### Completeness (R50, R493) -/

/-- First index of a list at which a test holds. -/
def firstIdx {α : Type} (f : α → Bool) (l : List α) : Option Nat := l.findIdx? f

/-- Whether a port still has departures of this frame, or debt (condition 4). -/
def PortTx.incomplete (x : PortTx) : Bool :=
  decide (0 < x.debt) || (x.table.drop x.depIdx).any fun e => e.kind != .reserved

/-- The first condition of R50 that fails, with what the detail word of 0x1201 says of it. -/
def State.incomplete (s : State) (p : Partition) : Option (Nat × Nat) :=
  match p.frame.fatal with
  | some r => some (1, r.code.toNat)
  | none =>
    match firstIdx (fun b => !(s.block b).atTick || decide (p.lastCycle (p.logicalOf b / 6) < (s.block b).lastDone)) p.blockList with
    | some b => some (2, b)
    | none =>
      let es := p.blockList.flatMap fun b => (s.block b).streams.map (·.entry)
      match es with
      | e :: rest => some (3, rest.foldl Nat.min e)
      | [] =>
        match firstIdx (fun q => (s.txOf q).incomplete) (s.portsOf p) with
        | some q => some (4, q)
        | none => if p.frame.arrived = p.negative.arrivalTotal.toNat then none else some (5, 0xFFFF)

/-! ### What an ending Exposure leaves -/

/-- The counter record of a block (R503). -/
def Block.counterRecord (b : Block) (exposure : Nat) (committed : Bool) (stretch : Nat) : List Nat :=
  let p := b.perf
  let cap (n : Nat) : Nat := Nat.min n (2 ^ 64 - 1)
  [exposure % 2 ^ 63 + (if committed then 2 ^ 63 else 0), cap p.issued, cap p.waited, cap p.tickCycle, cap p.mmaBusy, cap p.mOther,
    cap p.vIssued, cap p.special, cap p.portF, cap p.preempted, cap p.copies, cap p.streams, p.slackMin.getD (2 ^ 64 - 1),
    cap p.xIssued, stretch, 0]

/-- An ending Shutter counts for a prof stream of one of the partition's blocks (R500). -/
def State.profShutter (s : State) (p : Partition) : State :=
  match s.mon.prof with
  | some (b, k, left) =>
    if p.tiles.contains (b / 36) then { s with mon := { s.mon with prof := some (b, k, left - 1) } } else s
  | none => s

/-- COUNTER_SNAPSHOT (R503). -/
def State.snapshot (s : State) (pid : Nat) (committed : Bool) : State :=
  match s.part pid with
  | none => s
  | some p => p.blockList.zipIdx.foldl (fun (s : State) b => s.updBlock b.1 fun x => { x with
      perfSnap := (if p.frame.perfOff then { x with perf := {} } else x).counterRecord p.frame.exposure.toNat committed (fmGetD p.frame.stretchNs (b.2 / 6) 0) }) (s.profShutter p)

/-- Digests of the Exposure before that were late (R367). -/
def State.lateDigests (s : State) (pid : Nat) (obs : ShutterObs) : State :=
  match s.part pid with
  | none => s
  | some p =>
    let e := p.frame.exposure.toNat - 1
    if !(obs.lateIn || obs.lateOut) || !p.negative.fixed || p.frame.exposure == 0 || !(p.ring.any fun x => x.index == e) then s
    else (s.updPart pid fun p => { p with ring := p.ring.map fun x =>
      if x.index = e then { x with
        cdIn := if obs.lateIn then List.replicate 48 0 else x.cdIn, cdOut := if obs.lateOut then List.replicate 48 0 else x.cdOut
        missed := true } else x }).logEv 0x0A42 pid noUnit 0

/-- The tick offset of the frame that ends (R324, R47). -/
def State.tickOffset (s : State) (pid : Nat) : State :=
  match s.part pid with
  | none => s
  | some p => match p.ftime with
    | none => s
    | some f =>
      let n := p.negative
      if n.isMaster then s
      else
        let blind := f.state = .holdover ∧ f.measured = false
        let v := if blind then 0xFFFFFFFF else f.theta.natAbs + f.rate.natAbs * p.periodNs / 1000000000
        let exceeded := decide (n.tickSkew < 2 * v)
        let s := s.updFrame pid fun x => { x with tickMax := Nat.max x.tickMax (Nat.min v 0xFFFFFFFF), tickOver := x.tickOver || exceeded }
        if exceeded then s.logEv 0x0204 pid noUnit 0 else s

/-! ### Commit (R56, R58, R368, R470) -/

/-- The commit record. -/
def commitRecord (f : Frame) (shutter : Nat) (inBuf : Bool) (audit : BitVec 64) : Bytes :=
  let n := f.commits.toNat + 1
  let stretch := f.stretchNs.foldl (fun acc q => Nat.max acc q.2) 0
  leBytes 8 shutter ++ leBytes 8 f.exposure.toNat ++ leBytes 4 n ++ leBytes 1 (boolNat (!f.outBuf)) ++ leBytes 1 (boolNat inBuf) ++
    leBytes 1 (boolNat f.repeated + 2 * boolNat f.retryOver + 4 * boolNat f.stretchOver + 8 * boolNat f.tickOver +
      16 * boolNat f.afterRollback) ++ [0] ++ leBytes 4 f.retryMax ++ leBytes 4 stretch ++
    leBytes 4 (Nat.min (f.slackMin.getD 0xFFFFFFFF) 0xFFFFFFFF) ++ leBytes 4 f.tickMax ++ leBytes 8 audit.toNat ++
    leBytes 4 f.dropped.toNat ++ leBytes 4 f.deferred.toNat ++ leBytes 4 n ++ zeroes 4

/-- The Print ring takes the Exposure that was committed (R368): a rerun takes the place of its index. -/
def State.ringEntry (s : State) (pid : Nat) (e : PrintEnt) : State :=
  match s.part pid with
  | none => s
  | some p =>
    match p.ring.find? fun x => x.index == e.index with
    | none => s.updPart pid fun p =>
        let r := p.ring ++ [e]
        { p with ring := r.drop (r.length - 16384) }
    | some old =>
      let dOut := old.cdOut != e.cdOut
      let dIn := old.cdIn != e.cdIn
      let x : PrintEnt := { e with
        reruns := old.reruns + 1, diverged := old.diverged || dOut, inputChanged := old.inputChanged || dIn
        missed := false, origin := old.origin }
      let s := s.updPart pid fun p => { p with ring := p.ring.map fun y => if y.index = e.index then x else y }
      let s := if dOut then s.logEv 0x0A43 pid noUnit 0 else s
      if dIn then s.logEv 0x0A44 pid noUnit 0 else s

/-- EXPOSURE_COMMIT: step 2 of R35 for a complete Exposure. -/
def State.commitExposure (s : State) (pid : Nat) : State :=
  match s.part pid with
  | none => s
  | some p => match p.ftime with
    | none => s
    | some t =>
      let n := p.negative
      let f := p.frame
      let inBuf := if f.sampled then !f.inBuf else f.inBuf
      let cdIn := if n.fixed then s.cdIn p else []
      let counts := List.zipWith (· - ·) (s.countSums p) f.countBase
      let s := s.updPart pid fun p => { p with frame := { f with
        outBuf := !f.outBuf, commits := f.commits + 1, exposure := f.exposure + 1, afterRollback := false
        goodRun := f.goodRun + 1
        attempts := if n.attempts ≠ 0 ∧ 2 * 2 ^ n.rejoinLog2 ≤ f.goodRun + 1 then n.attempts else f.attempts } }
      let s := s.writeLogical p n.commitAddr (commitRecord f f.shutter.toNat inBuf t.capture)
      let s := s.updFunc p.hostDie p.fn fun x => { x with commit := f.commits + 1 }
      let s := s.partCause pid 1
      if !n.fixed then s
      else
        match s.part pid with
        | none => s
        | some q =>
          s.ringEntry pid {
            index := f.exposure.toNat, cdIn := cdIn, cdOut := s.cdOut q, missed := false, diverged := false, inputChanged := false
            reruns := 0, startTime := f.startTime, startState := f.startState, endTime := t.capture, endState := t.capState
            counts := counts, poisoned := f.poisoned, precision := f.precision, dropped := f.dropped.toNat
            deferred := f.deferred.toNat, repeated := f.repeated, seed := p.seed, origin := p.origins.length - 1 }

/-! ### Overrun and rollback (R53, R54, R55) -/

/-- Halts that wait for step 5: the count-limited one, a command's, a bundle's and a TDI's. -/
def Partition.haltDue (p : Partition) : Bool := p.frame.haltCmd || p.frame.haltReq || p.frame.tdiHalt

/-- FRAME_OVERRUN, and AUTOMATIC_ROLLBACK or ROLLBACK_EXHAUSTED. -/
def State.overrun (s : State) (pid cond x : Nat) : State :=
  match s.part pid with
  | none => s
  | some p =>
    let n := p.negative
    let mark := s.log.next
    let s := s.stopUnits pid
    let s := (s.portsOf p).foldl (fun (s : State) q => s.updTx q fun t => { t with staging := [] }) s
    let s := s.logEv 0x1201 pid noUnit (cond + 65536 * x)
    let s := match p.slide with
      | some o => s.complete o.route mark stWrongState []
      | none => s
    -- a request of the last µs waits for the Shutter after this one (R55)
    let s := p.frame.haltRoutes.foldl (fun (s : State) r => s.complete r mark stOk []) s
    let enabled := decide (n.attempts ≠ 0)
    let roll := enabled && p.slideValid && decide (p.frame.attempts ≠ 0) && !p.haltDue
    let exhausted := enabled && decide (p.frame.attempts = 0)
    let s := if exhausted then s.logEv 0x1208 pid noUnit 0 else s
    let s := s.updPart pid fun p => { p with
      state := .halted, haltSource := if exhausted then 6 else 3, haltCode := 0, haltBlock := 0xFFFF, slide := none
      busy := if roll then some (.restore none .good) else p.busy
      frame := { p.frame with
        partialState := true, started := false, haltRoutes := [], haltCmd := false, haltReq := false, tdiHalt := false
        goodRun := 0
        rollback := if roll then .restoring else .idle
        attempts := if roll then p.frame.attempts - 1 else p.frame.attempts } }
    s.partCause pid 3

/-- What port F and the region banks have served is in the stores before the next Exposure begins. -/
def State.flushStores (s : State) (p : Partition) : State :=
  let s := p.blockList.foldl (fun (s : State) b =>
    if (s.block b).entering.isEmpty then s
    else (s.block b).entering.foldl (fun (s : State) e => s.write e.addr e.data) s) s
  (p.tiles.flatMap fun d => (List.range 6).map (6 * d + ·)).foldl (fun (s : State) r =>
    (s.region r).entering.foldl (fun (s : State) e => s.write e.addr e.data) s) s

/-- An Exposure has run to its Shutter: every block and region stands at its last cycle, and what the frame measured is known. -/
def State.runOut (s : State) (pid : Nat) (obs : ShutterObs) : State :=
  match s.part pid with
  | none => s
  | some p =>
    let s := s.runStreams pid p.lastCycle true
    let s := (List.range (6 * p.tiles.length)).foldl (fun (s : State) r => advanceRegion s pid (6 * p.region r) (p.lastCycle r)) s
    ((s.flushStores p).lateDigests pid obs).tickOffset pid

/-- Steps 1 and 2 of R35 for a partition that ran an Exposure. -/
def State.endExposure (s : State) (pid : Nat) (obs : ShutterObs) : State :=
  let s := s.runOut pid obs
  match s.part pid with
  | none => s
  | some q =>
    if q.state ≠ .running then s
    else match s.incomplete q with
    | none => (s.snapshot pid true).commitExposure pid
    | some (cond, x) => (s.snapshot pid false).overrun pid cond x

/-! ### Steps 3 and 4 -/

/-- Step 3 (R57, R465): a sampled post is taken. -/
def State.takePost (s : State) (pid : Nat) : State :=
  match s.part pid with
  | none => s
  | some p =>
    if p.state = .faulted then s else
    let s := s.updFrame pid fun f => { f with inBuf := if f.sampled then !f.inBuf else f.inBuf, repeated := !f.sampled, sampled := false }
    if p.frame.sampled then
      (s.updFunc p.hostDie p.fn fun x => { x with post := false, taken := x.taken + 1 }).partCause pid 4
    else s

/-- Step 4 (09 R258): EPOCH_SWITCH or EPOCH_SWITCH_MISSED. -/
def State.switchEpoch (s : State) (pid : Nat) : State :=
  match s.part pid with
  | none => s
  | some p =>
    if p.switchAt ≠ some p.frame.shutter.toNat then s
    else if p.switchLate then
      (s.logEv 0x060B pid noUnit 0).updPart pid fun p => { p with switchAt := none, switchLate := false }
    else
      let e := p.epoch + 1
      let s := (s.fabDies p).foldl (fun (s : State) f => s.updDie f fun x => { x with bank := e.getLsbD 0 }) s
      let s := (s.portsOf p).foldl (fun (s : State) q => s.updTx q fun x => { x with bank := e.getLsbD 0 }) s
      s.updPart pid fun p => { p with
        epoch := e, bank := .retiring, switchAt := none
        switchedAt := match p.ftime with | some f => f.time | none => 0
        switches := p.switches ++ [(p.frame.exposure.toNat, e.toNat)] }

/-! ### The start of an Exposure (R36, R127, R171, R174, R375) -/

/-- A block at cycle 0: registers and counters of 03 R78 stay, and so do the landings and host transfers that wait for port F,
with their D (06 R174). -/
def startBlock (b : Block) : Block :=
  let b := landVecs b lastCycle
  { pf := (b.pf.filter (!·.own)).map fun q => { q with ready := 0, owner := false }
    bundles := b.bundles, arBase := arNow b lastCycle, vregs := b.vregs, masks := b.masks, convClip := b.convClip
    perfSnap := b.perfSnap, atTick := false }

/-- A cell at cycle 0. -/
def startCell (c : Cell) : Cell :=
  { c with
    engFree := 0, lastLand := none, mops := [], t2 := none, wb := [], wback := [], past := [], hist := [], forced := [] }

/-- A region at cycle 0. -/
def startRegion (g : Region) : Region :=
  { reqs := (g.reqs.filter (!·.own)).map fun q => { q with first := 0 } }

/-- Step 7 of R35: an Exposure starts at a step, after a stop of the generators for `stop` ns. -/
def State.beginExposure (s : State) (pid step stop : Nat) : State :=
  match s.part pid with
  | none => s
  | some p =>
    let s := if p.frame.repeated then s.logEv 0x0205 pid noUnit 0 else s
    let base := s.countSums p
    let s := { s with
      blocks := p.blockList.foldl (fun (m : FMap Block) b => fmSet m b (startBlock (fmGetD m b {}))) s.blocks
      cells := s.cells.map (fun (q : Nat × Cell) => if p.tiles.contains (q.1 / 144) then (q.1, startCell q.2) else q)
      regions := s.regions.map (fun (q : Nat × Region) => if p.tiles.contains (q.1 / 6) then (q.1, startRegion q.2) else q)
      saves := s.saves.filter fun q => !p.tiles.contains (q.1 / 36)
      free := s.free + 1
      log := { s.log with once := s.log.once.filter fun k => k.1 != pid }
      power := { s.power with gated := s.power.gated.filter fun r => !p.tiles.contains (r / 6) } }
    let s := s.updPart pid fun p => { p with
      state := .running, step := step, haltSource := 0, haltCode := 0, haltBlock := 0xFFFF
      hazard := { p.hazard with seen := 0, drops := [] }
      landing := p.landing.map fun l => { l with window := none }, tokens := 0
      frame := { p.frame with
        fatal := none, failing := [], starts := s.free, stepped := decide (stop ≠ 0), retryOver := false, stretchOver := false, tickOver := false, stretchNs := [], limited := false
        slackMin := none, retryMax := 0, tickMax := 0, dropped := 0, deferred := 0, arrived := 0, precision := false
        starting := none, started := true, poisoned := false, countBase := base, perfOff := s.lockout
        startTime := (match p.ftime with | some f => f.capture | none => 0)
        startState := (match p.ftime with | some f => f.capState | none => 0) } }
    if stop = 0 then s
    else (p.tiles.flatMap fun d => (List.range 6).map (6 * d + ·)).foldl (fun (s : State) r => s.addStretch r stop) s

/-- STEP_BELOW_FLOOR (R49). -/
def State.belowFloor (s : State) (pid : Nat) : State :=
  match s.part pid with
  | none => s
  | some p =>
    ((s.logEv 0x1207 pid noUnit 0).updFunc p.hostDie p.fn fun x => { x with pwrEvents := x.pwrEvents ||| 8 }).haltPart pid 4 0 0xFFFF

/-- Step 5, the clock step, and what step 7 is to start (R49, R353, R374, R375). `moved` says that the partition ran until
now, so that another step is a step change. -/
def State.nextExposure (s : State) (pid : Nat) (obs : ShutterObs) (moved : Bool) : State :=
  match s.part pid with
  | none => s
  | some p =>
    let g := s.governor pid p
    match g.2 with
    | none => g.1.belowFloor pid
    | some f =>
      let n := p.negative
      let changed := match n.sealRec with | some r => n.fixed && r.2.2 != s.power.cls | none => false
      if changed then (g.1.logEv 0x1A40 pid noUnit 0).haltPart pid 5 0 0xFFFF
      else if moved ∧ f ≠ p.step then
        -- the generators relock for a time that the spec bounds by 3 µs
        let d := g.1.draw 12 3
        d.2.updFrame pid fun x => { x with starting := some (f, 1 + d.1 % 3000, obs.relocked) }
      else g.1.updFrame pid fun x => { x with starting := some (f, 0, true) }

/-- Step 7: the Exposure that the earlier steps have decided on starts (R35, R375). -/
def State.stepSeven (s : State) (pid : Nat) : State :=
  match s.part pid with
  | none => s
  | some p => match p.frame.starting with
    | none => s
    | some (step, stop, relocked) =>
      let s := s.beginExposure pid step stop
      if relocked then s else s.generatorFault (p.region 0)

/-! ### Step 5 of a RUNNING partition (R55, R361, R362, R441) -/

/-- Code and block of the bundle HALT of the lowest logical block (R132). -/
def bundleHalt (s : State) (p : Partition) : Byte × BitVec 16 :=
  match firstIdx (fun b => (s.block b).haltCode.isSome) p.blockList with
  | some b => (((s.block (p.blockIx b)).haltCode).getD 0, BitVec.ofNat 16 b)
  | none => (0, 0xFFFF)

/-- The halt that step 5 applies: its source, and the code and block of a bundle HALT (R132, R439). -/
def haltNow (s : State) (p : Partition) : Option (Nat × Byte × BitVec 16) :=
  let f := p.frame
  let code := f.heldCode.getD (bundleHalt s p)
  if f.haltCmd then some (1, code)
  else if f.haltReq then some (2, code)
  else if f.tdiHalt then some (9, 0, 0xFFFF)
  else match f.stopAt with
    | some k => if k ≤ f.exposure.toNat then some (8, 0, 0xFFFF) else none
    | none => none

/-- Step 5 for a RUNNING partition that is not in a hold. -/
def State.stepFive (s : State) (pid : Nat) (obs : ShutterObs) : State :=
  match s.part pid with
  | none => s
  | some p =>
    let h := haltNow s p
    match p.slide with
    | some o =>
      if o.phase = .pending ∧ o.st ≤ p.frame.shutter.toNat then
        let time := match p.ftime with | some f => f.capture | none => 0
        (s.beginSlide pid { o with phase := .writing, halt := h, shutter := p.frame.shutter.toNat, time := time }).updFrame pid fun f =>
          { f with started := false }
      else (match h with
        | some x => s.haltPart pid x.1 x.2.1 x.2.2
        | none => s.nextExposure pid obs true)
    | none => (match h with
      | some x => s.haltPart pid x.1 x.2.1 x.2.2
      | none => s.nextExposure pid obs true)

/-- A Shutter in a hold (R361): the Exposure of the saved index starts at s_r. -/
def State.holdShutter (s : State) (pid : Nat) (o : SlideOp) (obs : ShutterObs) : State :=
  match s.part pid with
  | none => s
  | some p =>
    if o.sr = 0 ∨ o.sr ≠ p.frame.shutter.toNat then s
    else match o.phase with
      | .held => ((s.takePost pid).updPart pid fun p => { p with slide := none }).nextExposure pid obs true
      | .writing => (s.logEv 0x1A41 pid noUnit 0).updPart pid fun p => { p with slide := some { o with phase := .lateEnd } }
      | _ => s

/-! ### Launch (R325, R237) and rejoin (R54) -/

/-- A launch is refused at its Shutter. -/
def State.refuseLaunch (s : State) (pid mark : Nat) (x : ExposeReq) (st : Byte) : State :=
  (s.complete x.route mark st []).updPart pid fun p => { p with expose := none }

/-- LAUNCH or LAUNCH_MISSED at g_L. -/
def State.tryLaunch (s : State) (pid : Nat) : State :=
  match s.part pid with
  | none => s
  | some p =>
    match p.expose, p.ftime with
    | some x, some f =>
      let mark := s.log.next
      let n := p.negative
      if f.launch ≠ some f.grid then s
      else if x.late = true ∨ f.state ≠ .locked then (s.logEv 0x1214 pid noUnit 0).refuseLaunch pid mark x stWrongState
      else if Partition.mayLaunch s p = false then s.refuseLaunch pid mark x stMismatch
      else
        match s.launchStep p with
        | none => ((s.belowFloor pid).refuseLaunch pid mark x stWrongState)
        | some step =>
          let i0 := p.frame.exposure.toNat
          let s := s.complete x.route mark stOk (leBytes 8 f.capture.toNat ++ leBytes 8 i0)
          let s := (s.takePost pid).updPart pid fun p => { p with
            expose := none, seed := if n.seedAtExpose then x.seed else p.seed
            frame := { p.frame with
              shutter := 0, inExpose := true, rollback := .idle, haltCmd := false, haltReq := false, tdiHalt := false
              stopAt := if x.frames = 0 then none else some (i0 + x.frames), starting := some (step, 0, true) } }
          s
    | _, _ => s

/-- A halt of the last µs before an overrun takes effect at the Shutter after it: the partition stays HALTED, and its automatic
rollback ends (R55). -/
def State.lateHalt (s : State) (pid : Nat) : State :=
  match s.part pid with
  | none => s
  | some p =>
    if p.state = .halted ∧ p.haltDue = true then
      let mark := s.log.next
      (p.frame.haltRoutes.foldl (fun (s : State) r => s.complete r mark stOk []) s).updPart pid fun p => { p with
        busy := match p.busy with | some (.restore none _) => none | b => b
        frame := { p.frame.noHalts with rollback := .idle } }
    else s

/-- ROLLBACK_REJOIN. -/
def State.tryRejoin (s : State) (pid : Nat) (obs : ShutterObs) : State :=
  match s.part pid with
  | none => s
  | some p =>
    if p.state = .halted ∧ p.frame.rollback = .waiting ∧ p.frame.inExpose = true ∧
        p.frame.shutter.toNat % 2 ^ p.negative.rejoinLog2 = 0 then
      ((s.takePost pid).updPart pid fun p => { p with
        state := .running, frame := { p.frame with rollback := .idle, afterRollback := true } }).nextExposure pid obs false
    else s

/-! ### SHUTTER (R35) -/

/-- Frame period of the tables that a partition's fabric dies hold, ns: they tick on after a partition reset (09 R253). -/
def Partition.gridNs (p : Partition) : Nat := 10 * (match p.fab with | some n => n.frameCount | none => 0)

/-- The tick itself: the grid moves on, audit time is captured, and the Shutter number rises within an EXPOSE (R33, R314,
R341). -/
def State.tick (s : State) (pid : Nat) (p : Partition) (f : FTime) : State :=
  let at_ := (f.grid + 1) * p.gridNs
  let s := if f.time < at_ then s.elapse (cdiv (at_ - f.time) 10) else s
  let a := s.auditNow
  s.updPart pid fun p => { p with
    ftime := p.ftime.map fun f => { f with grid := f.grid + 1, capture := a.1, capState := a.2 }
    frame := { p.frame with
      starting := none, shutter := if p.frame.inExpose then p.frame.shutter + 1 else p.frame.shutter
      shutterTime := (f.grid + 1) * p.gridNs } }

/-- g_L has come (R325). -/
def FTime.launchPassed (f : FTime) : Bool := match f.launch with | some g => decide (g ≤ f.grid) | none => false

/-- What every Shutter leaves: staging laid out anew and debts at zero (R43, R171), slot times counted from here on, those of
packets in transit too (09 R251), a new window of part-level traffic (07 R196); requests of the last microsecond wait for the
next one (R55). -/
def State.afterShutter (s : State) (pid : Nat) : State :=
  match s.part pid with
  | none => s
  | some p =>
    let slots : Int := frameSlots (match p.fab with | some n => n.frameCount | none => 0)
    let s := (s.portsOf p).foldl (fun (s : State) q => s.updTx q fun t => { t with
      depIdx := 0, staging := [], debt := 0, debtAdded := 0, exceeded := false, slotNow := 0, pos := 0, wireFree := 0
      held := false, transit := t.transit.map fun x => { x with arrived := x.arrived - slots } }) s
    let s := { s with power := { s.power with lines := s.power.lines.filter fun l => !p.tiles.contains (l.1 / 2) } }
    let code := bundleHalt s p
    s.updPart pid fun p => { p with
      switchLate := false
      expose := p.expose.map fun x => { x with late := false }
      ftime := p.ftime.map fun f => { f with
        measured := false, launch := if p.negative.isMaster && f.launchPassed then none else f.launch }
      frame := { p.frame with
        sampled := false, late := false
        haltCmd := p.frame.haltCmd || p.frame.haltLate, haltReq := p.frame.haltReq || p.frame.reqLate
        tdiHalt := p.frame.tdiHalt || p.frame.tdiLate, haltRoutes := p.frame.haltRoutes ++ p.frame.lateRoutes
        heldCode := if p.frame.reqLate then some code else p.frame.heldCode
        haltLate := false, reqLate := false, tdiLate := false, lateRoutes := []
        arrived := if p.frame.started then p.frame.arrived else 0 } }

/-- Steps 1 to 5 for the state that a partition is in. -/
def State.shutterSteps (s : State) (pid : Nat) (obs : ShutterObs) : State :=
  match s.part pid with
  | none => s
  | some p =>
    if p.state = .running then
      match p.slide with
      | some o =>
        if o.phase = .pending then
          let s := ((s.endExposure pid obs).takePost pid).switchEpoch pid
          (match s.part pid with
           | some q => if q.state = .running then s.stepFive pid obs else s
           | none => s)
        else (s.switchEpoch pid).holdShutter pid o obs
      | none =>
        let s := ((s.endExposure pid obs).takePost pid).switchEpoch pid
        (match s.part pid with
         | some q => if q.state = .running then s.stepFive pid obs else s
         | none => s)
    else
      let s := ((s.switchEpoch pid).lateHalt pid).tryRejoin pid obs
      s.tryLaunch pid

/-- SHUTTER. -/
def execShutter (part : Nat) (obs : ShutterObs) (s : State) : Host.Outcome State Fault Refusal :=
  .next (match s.part part with
    | none => s
    | some p => match p.ftime, p.fab with
      | some f, some _ =>
        let s := { s with power := { s.power with a1 := obs.a1 } }
        let s := s.tick part p f
        let s := s.shutterSteps part obs
        let s := (s.afterShutter part).sendBeacons part false
        s.stepSeven part
      | _, _ => s)

end Sys2Proof.Machine
end

