-- ==== Sys2Proof/Machine/Link.lean ====
section
/-! DEFINITION. The Golre link layer (10): flow units, credits, acknowledgement and replay, spill, training, remap; and the
verdict of the identity check (11 R310, R311). -/

namespace Sys2Proof.Machine

/-! ### Retry debt (02 R43, R44) -/

/-- The port's owner, if it runs. -/
def State.portRunner (s : State) (q : Nat) : Option (Nat × Partition) :=
  match (s.die (q / 4)).owner with
  | none => none
  | some pid => match s.part pid with
    | some p => if p.state = .running then some (pid, p) else none
    | none => none

/-- Event 0x0202, once per port and frame (02 R44). -/
def State.overBudget (s : State) (pid q : Nat) : State :=
  if (s.txOf q).exceeded then s
  else ((s.updTx q fun t => { t with exceeded := true }).updFrame pid fun f => { f with retryOver := true }).logEv 0x0202 pid
    (s.portUnitOf q) 0

/-- Add flow-unit times to a port's retry debt (02 R43, R44). -/
def State.addDebt (s : State) (q n : Nat) : State :=
  if n = 0 then s
  else
    let s := s.updTx q fun t => { t with debt := t.debt + n, debtAdded := t.debtAdded + n }
    match s.portRunner q with
    | none => s
    | some (pid, p) =>
      let slots := cdiv (s.txOf q).debtAdded 36
      let s := s.updFrame pid fun f => { f with retryMax := Nat.max f.retryMax slots }
      if p.negative.allowance.getD (s.portUnitOf q).logical 0 < slots then s.overBudget pid q else s

/-- A PACKET unit leaves a port. -/
def State.sendUnit (s : State) (q : Nat) (u : TxUnit) (seq : Nat) : State :=
  let x := s.port q
  (s.updPort q fun x => { x with rotate := x.rotate + 1 }).emit (.flowUnit q (x.wire u seq))

/-! ### The replay buffer and its spill (R279, R284, R285) -/

/-- Units sent and not yet acknowledged. -/
def Port.outstanding (x : Port) : Nat := x.replay.length

/-- Units that the port may hold (R279, R284). -/
def Port.capacity (x : Port) : Nat := Nat.min 32767 (2048 + x.spillUnits)

/-- New PACKET units stop: the buffers are full, or a spill write has passed its D (R285, 07 R206). -/
def Port.stopped (x : Port) (now_ : Nat) : Bool := decide (x.capacity ≤ x.outstanding) || x.queued.any fun e => decide (e.2 < now_)

/-- The event of such a stop, once per port and Exposure (R285). -/
def State.stopEvent (s : State) (q : Nat) : State := s.linkEv q (if (s.port q).spillUnits = 0 then 0x070A else 0x0307) 0

/-- Part-local address of an entry of a port's spill ring (07 R205). -/
def State.spillEntry (s : State) (q entry : Nat) : Option (Nat × Nat) :=
  match (s.die (q / 4)).owner with
  | none => none
  | some pid => match s.part pid with
    | none => none
    | some p => match p.fab with
      | none => none
      | some n => match fmGet n.spills (s.portUnitOf q).logical with
        | none => none
        | some a => (p.toLocal s.model (a.1 + 256 * entry) 256).map fun l => (pid, l)

/-- The oldest on-die unit moves to the spill queue, reserves the next entry of the ring and asks for its write at part-level
rank 0, with D 2 µs from now (R284, 07 R195, R206). -/
def State.spillOne (s : State) (q : Nat) : State :=
  let x := s.port q
  match s.spillEntry q (x.ringNext % Nat.max 1 x.spillUnits) with
  | none => s
  | some (_, l) =>
    let s := s.updPort q fun x => { x with
      spilled := x.spilled + 1, ringNext := x.ringNext + 1, queued := x.queued ++ [(l, s.now + 2000)]
      cnt := { x.cnt with spilled := x.cnt.spilled + 1 } }
    let r : PartReq := ⟨.spill, some (s.now + 2000), (hbmChannel s.model l).1, 1, some q⟩
    { s with power := { s.power with waiting := s.power.waiting ++ [r] } }

/-- The oldest write of a port's spill queue is granted: its unit lies in the ring (R284). What the ring holds of a unit beside
its carried bytes is left open. -/
def State.spillGranted (s : State) (q : Nat) : State :=
  let x := s.port q
  match x.queued, x.replay[x.ringAt.length]? with
  | (l, _) :: rest, some u =>
    let d := s.draw 128 9
    (d.2.hbmWrite l (u.carried ++ leBytes 16 d.1)).updPort q fun x => { x with ringAt := x.ringAt ++ [l], queued := rest }
  | _, _ => s

/-- A new PACKET unit is sent and kept for replay; where the on-die buffer is full, its oldest unit makes room first (R279,
R284). -/
def State.sendNew (s : State) (q : Nat) (u : TxUnit) : State :=
  let x := s.port q
  let s := if x.spilled + 2048 ≤ x.replay.length then s.spillOne q else s
  (s.sendUnit q u x.nextSeq.toNat).updPort q fun x => { x with
    nextSeq := x.nextSeq + 1, replay := x.replay ++ [u]
    cnt := { x.cnt with maxOutstanding := Nat.max x.cnt.maxOutstanding (x.replay.length + 1) } }

/-- The port may carry new packets of a class (10 R294, 11 R310). -/
def Port.carries (x : Port) (service : Bool) : Bool :=
  (x.verdict == .match_ || x.verdict == .matchFar) &&
    (x.state == .up || x.state == .remapping || (service && x.state == .degraded))

/-- Units of packets that have begun to depart are sent until the port has to stop (R285). -/
def State.pump (q : Nat) : Nat → State → State
  | 0, s => s
  | fuel + 1, s =>
    let x := s.port q
    match x.toSend with
    | [] => s
    | u :: rest =>
      if !x.carries u.service then s
      else if x.stopped s.now then s.stopEvent q
      else pump q fuel ((s.updPort q fun x => { x with toSend := rest }).sendNew q u)

/-- Sending goes on where it had stopped. -/
def State.resumeSend (s : State) (q : Nat) : State := State.pump q (s.port q).toSend.length s

/-- The part-level arbiter grants what waits on a partition's stacks: spill writes reach their rings, and their ports go on
(07 R195, R196, R206). -/
def State.servePart (s : State) (pid : Nat) : State :=
  let r := State.partGrants pid (s.power.waiting.length + 64) (s, [])
  r.2.foldl (fun (s : State) q => (s.spillGranted q).resumeSend q) r.1

/-! ### Packets on the wire (R241, R242) -/

def Packet.dest (k : Packet) : Nat := fld k.head 0 8
/-- dest_addr. -/
def Packet.destAddr (k : Packet) : Nat := bits k.dest 47 0
/-- dest_part. -/
def Packet.destPart (k : Packet) : Nat := bits k.dest 59 48
def Packet.epoch (k : Packet) : Bool := bit k.dest 60
def Packet.service (k : Packet) : Bool := bit k.dest 61
def Packet.last (k : Packet) : Bool := bit k.dest 62
def Packet.enc (k : Packet) : Bool := bit k.dest 63
def Packet.length (k : Packet) : Nat := bits (fld k.head 8 2) 13 0
def Packet.src (k : Packet) : Nat := bits (fld k.head 10 2) 11 0
def Packet.jobTag (k : Packet) : Nat := fld k.head 12 2
def Packet.keyIndex (k : Packet) : Nat := fld k.head 14 1
def Packet.validCount (k : Packet) : Nat := fld k.head 15 1
def Packet.frameTag (k : Packet) : Nat := fld k.head 20 2
def Packet.seq (k : Packet) : Nat := fld k.head 24 8

/-- Flow units of a packet (R242). -/
def Packet.units (k : Packet) : Nat := cdiv (32 + k.length + (if k.enc then 16 else 0)) 240

/-- The flow units that carry a packet on a channel. -/
def Packet.cut (k : Packet) (vc : Nat) : List TxUnit :=
  let all := k.head ++ k.body ++ k.tag
  (List.range k.units).map fun i =>
    let b := (all.drop (240 * i)).take 240
    ⟨i == 0, vc, k.service, if i = 0 then k.units else 0, b ++ List.replicate (240 - b.length) 0⟩

/-- The packet in the carried bytes of its flow units. -/
def readPacket (b : Bytes) : Packet :=
  let n := bits (fld b 8 2) 13 0
  ⟨b.take 32, (b.drop 32).take n, if bit (fld b 0 8) 63 then (b.drop (32 + n)).take 16 else []⟩

/-- A packet leaves a port: its credits are consumed and its units sent (R290). -/
def State.sendPacket (s : State) (q : Nat) (k : Packet) (vc : Nat) : State :=
  let v := (s.port q).channel k.service vc
  (s.updPort q fun x => { x.consume k.service v k.units with toSend := x.toSend ++ k.cut v }).resumeSend q

/-! ### Errors, acknowledgements and rewinds (R277 to R283) -/

/-- LINK_PROTOCOL_ERROR (R296). -/
def State.protocolError (s : State) (q : Nat) : State := (s.linkEv q 0x070D 0).startRetrain q 2

/-- The receiver asks for its next unit (R278). -/
def State.sendNak (s : State) (q : Nat) : State :=
  (s.updPort q fun x => { x with cnt := { x.cnt with naksSent := x.cnt.naksSent + 1 } }).sendLink q 1
    (linkBytes ([1, 0] ++ leBytes 2 (s.port q).expect.toNat))

/-- Every unit before A is acknowledged and freed wherever it lies, or A is not valid (R280, R284). -/
def State.acknowledge (s : State) (q : Nat) (a : BitVec 16) : Option State :=
  let x := s.port q
  let d := (a - x.ackBase).toNat
  let gone := Nat.min x.queued.length (d - x.ringAt.length)
  if d ≤ x.outstanding then
    some ({ s with power := { s.power with waiting := dropWrites q gone s.power.waiting } }.updPort q fun x => { x with
      ackBase := a, replay := x.replay.drop d, spilled := x.spilled - d, ringAt := x.ringAt.drop d, queued := x.queued.drop gone })
  else none
where
  dropWrites (q : Nat) : Nat → List PartReq → List PartReq
    | 0, l => l
    | _, [] => []
    | n + 1, r :: rest => if r.port = some q then dropWrites q n rest else r :: dropWrites q (n + 1) rest

/-- A unit as a rewind sends it: what lies in the ring is read back from HBM (R284). -/
def State.replayed (s : State) (x : Port) (u : TxUnit × Nat) : TxUnit :=
  match x.ringAt[u.2]? with
  | some l => { u.1 with carried := s.readMem l 240 }
  | none => u.1

/-- A failed read of the spill ring (07 R191, R202): Exposure-fatal where the port's partition runs, or a wrong tag. -/
def State.ringFails (s : State) (pid a : Nat) (fin : StreamEnd) : State :=
  if fin = .uncorrectable ∧ (s.part pid).any (fun p => p.state == .running) = true then
    s.raiseFatal pid 0x1302 (channelUnit s.model a) 0 (s.presentCycle pid)
  else s.readEvents pid a 256 fin

/-- Reads of the spill ring by a rewind, part-level traffic at rank 0 that is due at once (07 R195, R206): how many of its units
they deliver, from the oldest. `ring` is what some line of the ring met; which one is left open (entry 139). -/
def State.ringReads (s : State) (q : Nat) (ring : StreamEnd) : State × Nat :=
  let ls := (s.port q).ringAt
  match (s.die (q / 4)).owner with
  | none => (s, ls.length)
  | some pid => match s.part pid with
    | none => (s, ls.length)
    | some p =>
      if ls.isEmpty then (s, 0)
      else
        let s := ls.foldl (fun (s : State) l => s.partTraffic pid .spill (some s.now) l 256) s
        let m := s.resolve p ring
        match ls.findIdx? fun l => m.1.poisoned l 256 with
        | some k => (m.1.ringFails pid (ls.getD k 0) .uncorrectable, k)
        | none =>
          let d := m.1.draw 32 14
          let k := d.1 % ls.length
          (match m.2 with
           | .good => (m.1, ls.length)
           | .corrected => (d.2.hbmCorrected pid (ls.getD k 0), ls.length)
           | bad => (d.2.ringFails pid (ls.getD k 0) bad, k))

/-- The sender rewinds to ack_base (R282, R283): every unit held is sent again, up to one that the spill ring does not deliver.
How long a replay waits for spill reads is left open. -/
def State.rewind (s : State) (q : Nat) (ring : StreamEnd) : State :=
  let x := s.port q
  if x.outstanding = 0 then s
  else
    let r := s.ringReads q ring
    let n := if r.2 < x.ringAt.length then r.2 else x.outstanding
    let s := (x.replay.take n).zipIdx.foldl (fun (s : State) u => s.sendUnit q (s.replayed x u) (x.ackBase.toNat + u.2)) r.1
    let recent := x.rewinds.filter fun t => decide (s.now < t + 100000)
    let s := s.updPort q fun x => { x with
      rewinds := recent ++ [s.now]
      cnt := { x.cnt with
        rewinds := x.cnt.rewinds + 1, resent := x.cnt.resent + n, spillReads := x.cnt.spillReads + r.2 } }
    let s := s.linkEv q 0x0701 0
    let s := if x.remapTx then s
      else if x.ringAt.isEmpty then s.addDebt q n
      else let d := s.draw 16 9; d.2.addDebt q (n + d.1)
    if 64 < recent.length + 1 then s.startRetrain q 3 else s

/-- Ports whose link layer acts: fitted and not in a patch (09 R254). -/
def State.livePort (s : State) (q : Nat) : Bool := s.hasPort q && (s.port q).patch.isNone

/-- The states in which a port accepts PACKET units and sends NAKs; a REMAPPING port's receiving direction is the affected
one (R277, R294). -/
def Port.receives (x : Port) : Bool := x.state == .up || x.state == .degraded

/-- NAK (R280, R282). -/
def execNak (port : Nat) (e : Met (BitVec 16)) (s : State) : Host.Outcome State Fault Refusal :=
  .next (if s.livePort port ∧ (s.port port).inUse then
    let s := s.updPort port fun x => { x with cnt := { x.cnt with naksReceived := x.cnt.naksReceived + 1 } }
    match s.acknowledge port e.val with
    | some s => (s.rewind port e.rd).resumeSend port
    | none => s.protocolError port
  else if s.livePort port then s else s.passOn port (.nak port e))

/-- NAK_TIMER (R281). -/
def execNakTimer (port : Nat) (s : State) : Host.Outcome State Fault Refusal :=
  .next (if s.livePort port ∧ (s.port port).receives ∧ (s.port port).nakState then s.sendNak port else s)

/-- REPLAY_TIMEOUT (R282). -/
def execReplayTimeout (port : Met Nat) (s : State) : Host.Outcome State Fault Refusal :=
  .next (if s.livePort port.val ∧ (s.port port.val).inUse then s.rewind port.val port.rd else s)

/-! ### FLOW_UNIT_RECEIVE (R277, R289, R291, R302) -/

/-- The credit return of an accepted unit (R289). -/
def State.takeCredit (s : State) (q ctl : Nat) : State :=
  if !bit ctl 24 then s
  else
    let key := poolKey (bit ctl 25) (bit ctl 26) (bits ctl 29 27)
    let c := fmGetD (s.port q).credits key {}
    let r := BitVec.ofNat 16 (bits ctl 47 32)
    if (r - c.returned).toNat ≤ (c.consumed - c.returned).toNat then
      s.updPort q fun x => { x with credits := fmSet x.credits key { c with returned := r } }
    else s.protocolError q

/-- What every accepted unit delivers: its ack and its credit return (R277, R280). -/
def State.deliver (s : State) (q ctl : Nat) : State :=
  match s.acknowledge q (BitVec.ofNat 16 (bits ctl 23 8)) with
  | some s => (s.resumeSend q).takeCredit q ctl
  | none => s.protocolError q

/-- CREDIT_OVERFLOW (R291). -/
def State.creditOverflow (s : State) (q : Nat) : State :=
  let s := s.updPort q fun x => { x with asm := none }
  let s := match (s.die (q / 4)).owner with
    | some pid => s.raiseFatal pid 0x1705 (s.portUnitOf q) 0 (s.presentCycle pid)
    | none => s.logEv 0x1705 0xFF (portUnit q) 0
  s.startRetrain q 2

/-- A packet unit joins its packet; a whole packet goes to the receive buffer (R288, R291, R302). -/
def State.assemble (s : State) (q ctl : Nat) (carried : Bytes) : State :=
  let x := s.port q
  let whole (s : State) (a : Assembly) : State :=
    if a.got.length = 240 * a.units then
      s.updPort q fun x => { x with asm := none, rx := x.rx ++ [(readPacket a.got, a.vc, a.units)] }
    else s.updPort q fun x => { x with asm := some a }
  if bit ctl 2 then
    let u := bits ctl 55 48
    let service := bit ctl 6
    let vc := bits ctl 5 3
    if u = 0 ∨ 35 < u ∨ (fmGetD x.pools (poolKey false service vc) {}).free < 1 ∨
        (fmGetD x.pools (poolKey true service vc) {}).free < u then s.creditOverflow q
    else whole (s.updPort q fun x => x.reserve service vc u) ⟨vc, service, u, carried⟩
  else match x.asm with
    | some a => whole s { a with got := a.got ++ carried }
    | none => s

/-- An invalid unit is discarded whole, and the first one sends a NAK (R277, R281). -/
def State.invalidUnit (s : State) (q : Nat) (nak : Bool) : State :=
  let s := s.updPort q fun x => { x with cnt := { x.cnt with invalid := x.cnt.invalid + 1 } }
  if nak && (s.port q).receives && !(s.port q).nakState then
    (s.updPort q fun x => { x with nakState := true }).sendNak q
  else s

/-! ### Forward error correction (R270) -/

/-- The decoder corrects up to 15 symbols of a codeword. -/
def codewordFails (w : Codeword) : Bool := decide (15 < w.wrong.eraseDups.length)

/-- Lane of a symbol of a codeword: active lane i mod 8, which is the spare where that lane has been remapped. -/
def Port.laneOfSymbol (x : Port) (i : Nat) : Nat := if x.spareRx = some (i % 8) then 8 else i % 8

/-- Counters that come with every unit (R303): symbols corrected by lane, codewords flagged, each once. -/
def Port.countUnit (x : Port) (o : UnitObs) : Port :=
  let new := o.words.filter (!·.seen)
  let fixed := (new.filter (fun w => !codewordFails w)).flatMap (·.wrong.eraseDups)
  { x with cnt := { x.cnt with
    fecCorrected := fixed.foldl (fun (m : FMap Nat) i => fmUpd m (x.laneOfSymbol i) 0 (· + 1)) x.cnt.fecCorrected
    uncorrectable := x.cnt.uncorrectable + (new.filter codewordFails).length
    idleAdded := x.cnt.idleAdded + o.idleAdded
    idleDeleted := x.cnt.idleDeleted + o.idleDeleted } }

/-- FLOW_UNIT_RECEIVE. -/
def execFlowUnitReceive (port : Nat) (unit : Bytes) (obs : UnitObs) (s : State) : Host.Outcome State Fault Refusal :=
  .next (if s.livePort port = false then s.passOn port (.flowUnitReceive port unit obs)
    else if (s.port port).state = .off then s
    else
      let x := s.port port
      let s := s.updPort port fun x => x.countUnit obs
      let body := unit.take 248
      let crc := fld unit 248 8
      let ctl := fld unit 240 8
      let kind := ctl % 4
      let inTurn := decide ((unitCrc x.expect.toNat body).toNat = crc)
      let free := decide ((unitCrc 0xFFFF body).toNat = crc)
      if obs.words.any codewordFails ∨ unit.length ≠ 256 then s.invalidUnit port true
      else if inTurn ∧ kind = 1 then
        if x.receives then
          ((s.updPort port fun x => { x with expect := x.expect + 1, nakState := false }).assemble port ctl (unit.take 240)).deliver
            port ctl
        else s.invalidUnit port false
      else if free ∧ (kind = 0 ∨ kind = 2) then
        let type := fld unit 0 1
        let s := if kind = 2 ∧ (type = 0 ∨ 4 < type) then
            s.updPort port fun x => { x with cnt := { x.cnt with reservedTypes := x.cnt.reservedTypes + 1 } }
          else s
        s.deliver port ctl
      else if kind = 3 ∧ (inTurn ∨ free) then s.protocolError port
      else s.invalidUnit port true)

/-! ### The identity check (11 R310, R311) -/

/-- The plan entry of a port. -/
def State.planPort (s : State) (q : Nat) : Option PlanPort :=
  match s.nvm.plan with
  | some p => p.ports[q]?
  | none => none

/-- Planned identities of a port. -/
def planIds : Option PlanPort → List (BitVec 64 × Nat)
  | some e => if e.linked then
      (e.nbSerial, e.nbPort) :: (match e.far with | some f => [(f.2.2, f.2.1)] | none => [])
    else []
  | none => []

/-- A cabling event (11 R327). -/
def State.cableEv (s : State) (q code detail : Nat) : State :=
  s.logEv code ((s.die (q / 4)).owner.getD 0xFF) (s.portUnitOf q) detail

/-- The port with which a port is swapped (11 R311). -/
def State.swapPartner (s : State) (q : Nat) : Option Nat :=
  let x := s.port q
  (List.range 64).find? fun o =>
    let y := s.port o
    o != q && y.verdict == .mismatch &&
      (planIds (s.planPort o)).contains (x.seenSerial, x.seenPort) && (planIds (s.planPort q)).contains (y.seenSerial, y.seenPort)

/-- IDENTITY_VERDICT: the identity received at the last training against the plan. How the entry of a swap names its second
port is left open. -/
def State.judge (s : State) (q : Nat) : State :=
  let x := s.port q
  let gen : BitVec 32 := match s.nvm.plan with | some p => p.generation | none => 0
  let give (s : State) (q : Nat) (v : Verdict) (o : Option Nat) : State :=
    s.updPort q fun x => { x with verdict := v, partner := o, planGen := gen }
  match s.planPort q with
  | none => (give s q .unplanned none).cableEv q 0x0622 0
  | some e =>
    if e.linked = false then (give s q .unplanned none).cableEv q 0x0622 0
    else if x.seenSerial = e.nbSerial ∧ x.seenPort = e.nbPort then give s q .match_ none
    else if e.far.any (fun f => f.2.2 == x.seenSerial && f.2.1 == x.seenPort) then give s q .matchFar none
    else
      match s.swapPartner q with
      | none => give s q .mismatch none
      | some o =>
        let d := s.draw 32 9
        (give (give d.2 q .swapped (some o)) o .swapped (some q)).cableEv q 0x0621 d.1

/-- CABLE_MISMATCH: 50 ms after the verdict (11 R311). -/
def execCableMismatch (port : Nat) (s : State) : Host.Outcome State Fault Refusal :=
  .next (if s.livePort port ∧ (s.port port).verdict = .mismatch then s.cableEv port 0x0620 0 else s)

/-! ### Training (R295 to R299, R301) -/

/-- LOOPBACK_DETECTED (R297). -/
def State.loopback (s : State) (q : Nat) : State :=
  (s.updPort q fun x => { x with state := .down, verdict := .loopback, partner := none, reason := none }).linkEv q 0x070C 0

/-- RETRAIN_REQUEST: an end in use retrains too; of two ends that started one, the lower identity leads (R296, R297). -/
def execRetrainRequest (port : Nat) (serial : BitVec 64) (far reason : Nat) (s : State) : Host.Outcome State Fault Refusal :=
  .next (
    let x := s.port port
    if s.livePort port = false then s.passOn port (.retrainRequest port serial far reason)
    else if x.inUse then s.updPort port fun x => x.retraining reason false
    else if x.state = .retraining ∧ x.leader then
      let own := s.id.serial.toNat * 64 + port
      let other := serial.toNat * 64 + far
      if own = other then s.loopback port
      else if own < other then s
      else (s.linkEv port 0x0708 0).updPort port fun x => { x with leader := false, reason := some reason }
    else s)

/-- RETRAIN_REQUEST_REPEAT (R278). -/
def execRetrainRequestRepeat (port : Nat) (s : State) : Host.Outcome State Fault Refusal :=
  .next (
    let x := s.port port
    match x.reason with
    | some r => if s.livePort port ∧ x.state = .retraining ∧ x.leader then
        s.sendLink port 3 (retrainMsg s.id.serial port r) else s
    | none => s)

/-- Entries of a pool that packets in the receive buffer and a partly accepted one hold (R288, R295). -/
def Port.heldEntries (x : Port) (data service : Bool) (vc : Nat) : Nat :=
  let need (v : Nat) (sv : Bool) (u : Nat) : Nat := if v = vc ∧ sv = service then (if data then u else 1) else 0
  x.rx.foldl (fun acc r => acc + need r.2.1 r.1.service r.2.2) (match x.asm with | some a => need a.vc a.service a.units | none => 0)

/-- What a receiver keeps across a training with n channels: whole scheduled packets, and a partly accepted one unless the
training is fresh; a training frees the service buffers (R287, R293, R295). -/
def Port.keepRx (x : Port) (n : Nat) (fresh : Bool) : Port :=
  { x with
    vcs := n
    rx := (x.rx.filter fun r => !r.1.service).map fun r => (r.1, r.2.1 % n, r.2.2)
    asm := if fresh then none else x.asm.map fun a => { a with vc := if a.service then n - 1 else a.vc % n } }

/-- Pools of a receiver after a training: entries in use stay so, and the cumulative counts start again (R288, R295). -/
def Port.freshPools (x : Port) (n : Nat) : FMap RxPool :=
  (rotation n).foldl (fun (m : FMap RxPool) r =>
    fmSet m (poolKey r.1 r.2.1 r.2.2) { size := poolSize n r.1 r.2.1 r.2.2, used := x.heldEntries r.1 r.2.1 r.2.2, freed := 0 }) []

/-- Pools of a sender from what the other end advertises (R288, R295). -/
def trainCredits (m : TrainMsg) (n : Nat) : FMap CreditPool :=
  (rotation n).foldl (fun (f : FMap CreditPool) r =>
    let a := if r.2.1 then m.serv else m.sched.getD r.2.2 (0, 0)
    fmSet f (poolKey r.1 r.2.1 r.2.2) { advertised := if r.1 then a.2 else a.1 }) []

/-- The TRAIN message of this end, which offers its own count and advertises the pools of the n channels that run (R287, R288,
R295). How its time stamps stand to the fabric time is left open. -/
def trainBytes (x : Port) (serial : BitVec 64) (q own n : Nat) (lanes : BitVec 9) (pools : FMap RxPool) (stamps : Nat) : Bytes :=
  let free (data service : Bool) (v : Nat) : Bytes := leBytes 2 (fmGetD pools (poolKey data service v) {}).free
  linkBytes ([4] ++ leBytes 1 (boolNat x.fresh + 2 * boolNat x.leader) ++ leBytes 2 (if x.fresh then 0 else x.expect.toNat) ++
    leBytes 1 own ++ [0] ++ leBytes 2 lanes.toNat ++ leBytes 8 serial.toNat ++ leBytes 1 q ++ zeroes 3 ++ leBytes 12 stamps ++
    (List.range 8).flatMap (fun v => free false false v ++ free true false v) ++
    free false true (n - 1) ++ free true true (n - 1))

/-- Data lanes missing from a lane map. -/
def missing (m : BitVec 9) : List Nat := (List.range 8).filter fun k => !m.getLsbD k

/-- A direction runs at full width: no data lane is missing, or one that the spare carries (R298). -/
def fullWidth (m : BitVec 9) : Bool := (missing m).isEmpty || ((missing m).length == 1 && m.getLsbD 8)

/-- State of a port after a training by what each direction receives (R294, R299). -/
def trainedState (x : Port) (rx tx : BitVec 9) : LinkState :=
  if (if x.halved then rx &&& tx == 0x1FF else fullWidth rx && fullWidth tx) then .up
  else if 4 ≤ ((List.range 9).filter fun k => (rx &&& tx).getLsbD k).length then .degraded
  else .down

/-- TRAIN. -/
def execTrain (port : Nat) (msg : TrainMsg) (rtt : Nat) (lanes : Met (BitVec 9)) (s : State) : Host.Outcome State Fault Refusal :=
  .next (
    let x := s.port port
    if s.livePort port = false then s.passOn port (.train port msg rtt lanes)
    else if ¬ (x.state = .training ∨ x.state = .retraining) then s
    else if msg.serial = s.id.serial ∧ msg.port = port then s.loopback port
    else
      let own := configuredVcs s.model s.nvm.plan port
      let n := Nat.max 1 (Nat.min own msg.vcOffer)
      let fresh := x.fresh || msg.fresh
      let kept := x.keepRx n fresh
      let pools := kept.freshPools n
      let d := s.draw 96 9
      let s := (d.2.updPort port fun _ => { kept with pools := pools, rotate := 0 }).sendLink port 4
        (trainBytes x s.id.serial port own n lanes.val pools d.1)
      let s := if n < own then s.linkEv port 0x070F 0 else s
      let lost := if fresh then x.replay.length else 0
      let s := if lost = 0 then s else s.linkEv port 0x070E 0
      let state := trainedState x lanes.val msg.laneMap
      let s := s.updPort port fun x => { x with
        state := state, credits := trainCredits msg n, rtt := rtt
        fresh := false, seenSerial := msg.serial, seenPort := msg.port, trained := true, trainedAt := s.auditNow.1
        nextSeq := if fresh then 0 else x.nextSeq, ackBase := if fresh then 0 else x.ackBase
        replay := if fresh then [] else x.replay, spilled := if fresh then 0 else x.spilled
        ringAt := if fresh then [] else x.ringAt, queued := if fresh then [] else x.queued
        toSend := if fresh then [] else x.toSend
        expect := if fresh then 0 else x.expect, nakState := !fresh && x.nakState
        failedRx := missing lanes.val, spareRx := (missing lanes.val).head?, spareTx := (missing msg.laneMap).head?
        spareBad := !lanes.val.getLsbD 8, halved := state == .degraded, wantRetrain := false, reason := none
        remapRx := none, remapTx := false
        cnt := { x.cnt with retrains := match x.reason with
          | some r => fmUpd x.cnt.retrains r 0 (· + 1)
          | none => x.cnt.retrains } }
      let s := if state = .degraded ∧ x.halved = false then s.linkEv port 0x0704 0 else s
      if state = .down then (s.updPort port fun x => { x with verdict := .none_ }).linkEv port 0x0703 0
      else
        let s := if x.state = .retraining then s.linkEv port 0x0709 (x.reason.getD 0) else s
        let s := s.judge port
        if fresh then s
        else match s.acknowledge port msg.expect with
          | some s => (s.rewind port lanes.rd).resumeSend port
          | none => s.protocolError port)

/-- LINK_DOWN: a training or retrain misses its bound (R296). -/
def execLinkDown (port : Nat) (s : State) : Host.Outcome State Fault Refusal :=
  .next (
    let x := s.port port
    if s.livePort port ∧ (x.state = .training ∨ x.state = .retraining) then
      (s.updPort port fun x => { x with state := .down, verdict := .none_, partner := none, reason := none }).linkEv port 0x0703 0
    else s)

/-- TRAINING_ATTEMPT: every 1 ms from DOWN, a loop-back apart (R294, R296). -/
def execTrainingAttempt (port : Nat) (s : State) : Host.Outcome State Fault Refusal :=
  .next (
    let x := s.port port
    if s.livePort port ∧ x.state = .down ∧ x.verdict ≠ .loopback then s.updPort port fun x => { x with state := .training } else s)

/-! ### Lane-control words (R271) -/

/-- One bit of the CRC-16 register. -/
def crc16Step : Nat → BitVec 16 → BitVec 16
  | 0, r => r
  | n + 1, r => crc16Step n (if r.getLsbD 15 then (r <<< 1) ^^^ 0x1021#16 else r <<< 1)

/-- CRC-16 with polynomial 0x1021 from 0xFFFF, each byte most significant bit first (entry 86). -/
def crc16 (b : Bytes) : BitVec 16 :=
  b.foldl (fun r x => crc16Step 8 (r ^^^ ((x.setWidth 16 : BitVec 16) <<< (8 : Nat)))) (BitVec.allOnes 16)

/-- The check of a lane-control word over its bits [15:0], low byte first. -/
def laneCheck (low : Nat) : Nat := (crc16 (leBytes 2 low)).toNat

/-- A lane-control word: signal, lane, and the count of words, one of which leaves every 64 ns. -/
def laneWord (signal lane now_ : Nat) : BitVec 32 :=
  let low := signal + 16 * lane + 256 * (now_ / 64 % 256)
  BitVec.ofNat 32 (low + 65536 * laneCheck low)

/-- Signal and lane of a word that arrives: none where its check fails or its signal is reserved. -/
def readLaneWord (w : BitVec 32) : Option (Nat × Nat) :=
  let low := w.toNat % 65536
  if w.toNat / 65536 ≠ laneCheck low ∨ 2 < low % 16 then none else some (low % 16, low / 16 % 16)

/-! ### Lanes (R272, R286, R298, R299) -/

/-- A direction of a port loses its second lane (R299). -/
def State.secondLane (s : State) (q lane : Nat) : State :=
  let s := s.updPort q fun x => { x with failedRx := x.failedRx ++ [lane], halved := true }
  (s.linkEv q 0x0704 0).startRetrain q 5

/-- The dies that a bond link joins (01 R21): tile links 0 to 15, compute mesh 16 to 39, fabric mesh 40 to 63, host links 64 to
67, control links 68 to 71. The table gives the groups and their counts; the numbers are the model's (entry 138). -/
inductive DieName where
  | compute (d : Nat) | fabric (f : Nat) | host (h : Nat) | control (b : Bool)
  deriving DecidableEq, Repr

/-- Ends of link k of a 4 × 4 mesh: 12 along the rows, then 12 along the columns. -/
def meshEnds (k : Nat) : Nat × Nat :=
  if k < 12 then (4 * (k / 3) + k % 3, 4 * (k / 3) + k % 3 + 1) else (k - 12, k - 8)

def bondEnds (b : Nat) : DieName × DieName :=
  if b < 16 then (.compute b, .fabric b)
  else if b < 40 then (.compute (meshEnds (b - 16)).1, .compute (meshEnds (b - 16)).2)
  else if b < 64 then (.fabric (meshEnds (b - 40)).1, .fabric (meshEnds (b - 40)).2)
  else if b < 68 then (.host ((b - 64) / 2), .compute (4 * (b - 64)))
  else (.control (decide (70 ≤ b)), .compute (4 * (b - 68) + 3))

/-- Whether a die is fitted (00 R3). -/
def DieName.fitted (v : Variant) : DieName → Bool
  | .fabric f => (variantFabric v).testBit f
  | _ => true

/-- Partition that a die serves. -/
def State.dieOwner (s : State) : DieName → Option Nat
  | .compute d => s.ownerOf d
  | .fabric f => (s.die f).owner
  | _ => none

/-- Partition that a bond link's entries name: that of both its dies, or of the tile where the other end is a host or control
die. -/
def State.bondPart (s : State) (b : Nat) : Nat :=
  let e := bondEnds b
  let x := s.dieOwner e.1
  let y := s.dieOwner e.2
  if b < 64 then (if x = y then y.getD 0xFF else 0xFF) else y.getD 0xFF

/-- A bond link exists where both its dies are fitted. -/
def hasBond (v : Variant) (b : Nat) : Bool := decide (b < 72) && (bondEnds b).1.fitted v && (bondEnds b).2.fitted v

/-- A lane of a bond link fails (R286): the spares carry two in each direction. -/
def State.bondLane (s : State) (b lane : Nat) : State :=
  let x := fmGetD s.bonds b {}
  if !hasBond s.model b ∨ 132 ≤ lane ∨ x.failed.contains lane then s
  else
    let mine := (x.failed.filter fun k => k / 66 == lane / 66).length
    let s := { s with bonds := fmSet s.bonds b { x with failed := x.failed ++ [lane] } }
    if mine < 2 then s.logHourly 0x0711 (s.bondPart b) (64 + b) ⟨8, b, 0xFFFF⟩ 0
    else s.partFatal 0x370B 0xFF ⟨8, b, 0xFFFF⟩ 0

/-! ### Flow units on bond links (R286) -/

/-- Units that a bond direction may have outstanding, and its credits: headers and data units by class. -/
def bondOutstanding : Nat := 256
def bondCredits (service : Bool) : Nat × Nat := if service then (8, 128) else (32, 1024)

/-- Credits in use by class. -/
def BondDir.inUse (d : BondDir) (service : Bool) : Nat × Nat := if service then d.serv else d.sched

/-- Whether a packet of u units may be sent: 256 units outstanding at most, and credit for it (R286, R290). -/
def BondDir.room (d : BondDir) (service : Bool) (u : Nat) : Bool :=
  decide (d.replay.length + u ≤ bondOutstanding) && decide ((d.inUse service).1 + 1 ≤ (bondCredits service).1) &&
    decide ((d.inUse service).2 + u ≤ (bondCredits service).2)

/-- The sender sends the units of a packet and keeps them. -/
def BondDir.send (d : BondDir) (service : Bool) (us : List TxUnit) : BondDir :=
  let use (x : Nat × Nat) : Nat × Nat := (x.1 + 1, x.2 + us.length)
  { d with
    nextSeq := d.nextSeq + BitVec.ofNat 16 us.length, replay := d.replay ++ us
    sched := if service then d.sched else use d.sched, serv := if service then use d.serv else d.serv }

/-- The receiver's answer to a unit under its implicit sequence number: accepted in turn, else invalid (R277). -/
def BondDir.receive (d : BondDir) (seq : BitVec 16) : BondDir × Bool :=
  if seq = d.expect then ({ d with expect := d.expect + 1 }, true) else (d, false)

/-- The receiver takes every unit kept, in turn. -/
def BondDir.takeAll (d : BondDir) : BondDir :=
  (List.range d.replay.length).foldl (fun (d : BondDir) k => (d.receive (d.ackBase + BitVec.ofNat 16 k)).1) d

/-- An acknowledgement of every unit before A, or NAK(A) (R280): what is left is sent again. -/
def BondDir.acknowledge (d : BondDir) (a : BitVec 16) : Option BondDir :=
  let n := (a - d.ackBase).toNat
  if n ≤ d.replay.length then some { d with ackBase := a, replay := d.replay.drop n } else none

/-- The packet leaves the receiving buffer, and its credits return (R288). -/
def BondDir.leave (d : BondDir) (service : Bool) (u : Nat) : BondDir :=
  let give (x : Nat × Nat) : Nat × Nat := (x.1 - 1, x.2 - u)
  { d with sched := if service then d.sched else give d.sched, serv := if service then give d.serv else d.serv }

/-- A packet crosses one direction of a bond link: sent, accepted in turn, acknowledged by the reverse direction, passed on. -/
def BondDir.carry (d : BondDir) (service : Bool) (us : List TxUnit) : BondDir :=
  if !d.room service us.length then d
  else
    let d := (d.send service us).takeAll
    ((d.acknowledge d.expect).getD d).leave service us.length

/-- Bond link between two dies, and whether the way from the first to the second is its forth direction. -/
def bondBetween (a b : DieName) : Option (Nat × Bool) :=
  match (List.range 72).find? fun k => bondEnds k == (a, b) with
  | some k => some (k, true)
  | none => ((List.range 72).find? fun k => bondEnds k == (b, a)).map fun k => (k, false)

/-- A packet goes along dies of the package. -/
def State.crossBonds (s : State) (service : Bool) (us : List TxUnit) : List DieName → State
  | a :: b :: rest =>
    let s := match bondBetween a b with
      | some (k, forth) => { s with bonds := fmUpd s.bonds k {} fun x =>
          if forth then { x with forth := x.forth.carry service us } else { x with back := x.back.carry service us } }
      | none => s
    s.crossBonds service us (b :: rest)
  | _ => s

/-- Indices of one row or column of the grid from i to j, both included. -/
def gridWalk (i j step : Nat) : List Nat :=
  if i ≤ j then (List.range ((j - i) / step + 1)).map fun k => i + step * k
  else (List.range ((i - j) / step + 1)).map fun k => i - step * k

/-- Route between two fabric dies (09 R252): along the row, on the ZX-940 through the tile links and the compute mesh, then along
the column. -/
def fabricRoute (v : Variant) (f g : Nat) : List DieName :=
  let mid := 4 * (f / 4) + g % 4
  let row : List DieName := if f = mid then [.fabric f]
    else if v = .zx940 then [.fabric f] ++ (gridWalk f mid 1).map .compute ++ [.fabric mid]
    else (gridWalk f mid 1).map .fabric
  row ++ ((gridWalk mid g 4).drop 1).map .fabric

/-- Route from a fabric die to a tile that it serves (R252). -/
def tileRoute (f d : Nat) : List DieName := [.fabric f] ++ (gridWalk f d 1).map .compute

/-- LANE_FAILURE. -/
def execLaneFailure (link : LinkId) (lane : Nat) (s : State) : Host.Outcome State Fault Refusal :=
  .next (match link with
    | .bond b => s.bondLane b lane
    | .port q =>
      let x := s.port q
      if s.livePort q = false ∨ ¬ (x.state = .up ∨ x.state = .remapping) ∨ 8 < lane ∨ x.failedRx.contains lane then s
      else if lane = 8 then
        if x.spareBad then s
        else if x.spareRx.isSome ∨ x.remapRx.isSome then
          (s.updPort q fun x => { x with spareBad := true }).secondLane q 8
        else (s.updPort q fun x => { x with spareBad := true }).linkEv q 0x0710 0
      else if x.spareRx.isSome ∨ x.remapRx.isSome ∨ x.spareBad then s.secondLane q lane
      else (s.updPort q fun x => { x with
        failedRx := x.failedRx ++ [lane], remapRx := some lane, state := .remapping }).emit (.laneControl q (laneWord 1 lane s.now)))

/-- REMAP_REQUEST, at the sender: the first word that passes its check puts lane k's symbols on the spare (R271, R298 step 2). -/
def execRemapRequest (port : Nat) (word : BitVec 32) (s : State) : Host.Outcome State Fault Refusal :=
  .next (
    let x := s.port port
    if s.livePort port = false then s.passOn port (.remapRequest port word)
    else match readLaneWord word with
      | some (1, lane) =>
        if (x.state = .up ∨ x.state = .remapping) ∧ x.spareTx = none ∧ lane < 8 then
          (s.updPort port fun x => { x with spareTx := some lane, remapTx := true }).emit (.laneControl port (laneWord 2 lane s.now))
        else s
      | _ => s)

/-- A remap is complete at this end (R298). -/
def State.remapped (s : State) (q : Nat) : State :=
  (s.updPort q fun x => { x with cnt := { x.cnt with remaps := x.cnt.remaps + 1 } }).linkEv q 0x0702 0

/-- REMAP_DONE (R298 step 3): the receiver sends its NAK; a sender charges the time it lost. -/
def execRemapDone (port : Nat) (fin : RemapEnd) (s : State) : Host.Outcome State Fault Refusal :=
  .next (
    let x := s.port port
    if s.livePort port = false then s.passOn port (.remapDone port fin)
    else if x.state = .remapping ∧ x.remapRx.isSome ∧ readLaneWord fin.word = x.remapRx.map fun k => (2, k) then
      ((s.updPort port fun x => { x with
        state := .up, spareRx := x.remapRx, remapRx := none, nakState := true }).remapped port).sendNak port
    else if x.remapTx then ((s.updPort port fun x => { x with remapTx := false }).remapped port).addDebt port fin.lost
    else s)

/-! ### Credit timers and spill (R206, R285, R292, R293) -/

/-- CREDIT_TIMEOUT: a scheduled packet has waited 10 µs for a pool with no credit (R292). -/
def execCreditTimeout (port vc : Nat) (s : State) : Host.Outcome State Fault Refusal :=
  .next (
    let x := s.port port
    let dry := (List.range 36).any fun u => !x.hasCredit false vc u
    if s.livePort port ∧ x.state = .up ∧ vc < x.vcs ∧ dry then (s.linkEv port 0x0706 0).startRetrain port 1 else s)

/-- Less than half of the advertised service credit is available, in headers or in data (R293). -/
def Port.serviceLow (x : Port) : Bool :=
  [false, true].any fun d =>
    let c := fmGetD x.credits (poolKey d true (x.vcs - 1)) {}
    decide (2 * c.available < c.advertised)

/-- SERVICE_WINDOW_LOW (R293). -/
def execServiceWindowLow (port : Nat) (s : State) : Host.Outcome State Fault Refusal :=
  .next (if s.livePort port ∧ (s.port port).inUse ∧ (s.port port).serviceLow then
    let s := s.linkEv port 0x0707 0
    if (s.die (port / 4)).owner.isNone then s.startRetrain port 4
    else s.updPort port fun x => { x with wantRetrain := true }
  else s)

/-- SPILL_STALL (07 R206, R285): the oldest spill write has passed its D ungranted, or the ring is full, and new sends stop for
a number of flow-unit times. -/
def execSpillStall (port stall : Nat) (s : State) : Host.Outcome State Fault Refusal :=
  .next (
    let x := s.port port
    if s.livePort port ∧ x.spillUnits ≠ 0 ∧ (x.queued.isEmpty = false ∨ x.capacity ≤ x.outstanding) then
      ((s.updPort port fun x => { x with queued := match x.queued with
        | (l, d) :: rest => (l, Nat.min d (s.now - 1)) :: rest
        | [] => [] }).linkEv port 0x0307 0).addDebt port stall
    else s)

end Sys2Proof.Machine
end

