-- ==== Sys2Proof/Machine/Fabric.lean ====
section
/-! DEFINITION. Scheduled transfers (09): departure at a slot time, arrival and remote writes, transit, landing, retirement of
an epoch bank, packet encryption. -/

namespace Sys2Proof.Machine

/-! ### Packet encryption (R264, R265, 15 R402) -/

/-- Job key i of a partition (15 R402). -/
def jobKey (secret : BitVec 256) (n : Neg) (i : Nat) : Bytes :=
  kdf (leBytes 32 secret.toNat) "ZX.JOB.KEY" (leBytes 8 n.jobId.toNat ++ leBytes 2 n.jobTag.toNat ++ leBytes 1 i) 256

/-- Nonce of a packet (R264). -/
def Packet.nonce (k : Packet) : Bytes := leBytes 2 k.src ++ [0, 0] ++ leBytes 8 k.seq

/-- A header and a payload under a job key, or in clear. -/
def sealPacket (key : Option Bytes) (head body : Bytes) : Packet :=
  match key with
  | none => ⟨head, body, []⟩
  | some key =>
    let nonce := (⟨head, body, []⟩ : Packet).nonce
    let ct := gcmCrypt key nonce body
    ⟨head, ct, gcmTag key nonce head ct⟩

/-! ### Arrival (R248, R249, R263, R267) -/

/-- A fault of the fabric against a partition (R268). -/
def State.fabricFault (s : State) (pid q code : Nat) : State :=
  s.raiseFatal pid code (s.portUnitOf q) 0 (s.presentCycle pid)

/-- Landing window of a first payload byte, by its index (06 R174). -/
def Partition.landingIx (p : Partition) (x : Nat) : Option Nat :=
  p.negative.landing.findIdx? fun w => decide (w.base ≤ x) && decide (x < w.limit)

/-- Units of 256 bytes of a payload. -/
def payloadUnits (bs : Bytes) : List Bytes := chunks 256 (cdiv bs.length 256) bs

/-- One piece of a landing asks for its store: port F of its cell, the banks of its region store, or command slots of HBM
(R249, 04 R107, R110). It reaches the compute die in the cycle that its region has come to (entry 127). -/
def State.fileLanding (s : State) (id a : Nat) (bs : Bytes) : State :=
  let r := regionOf a
  let now_ := (s.region r).served
  if 0x900000000000 ≤ a then
    let ix := (a - 0x900000000000) / 0x100000
    s.updBlock (ix / 4) fun b => { b with pf := b.pf ++ [{
      kind := .landing, cell := BitVec.ofNat 2 ix, d := now_ + 256, rank := 3, ready := now_, total := cdiv bs.length 256, done := 0
      src := 0, dst := a, issue := id, stated := 0xFFFFFFFF, turn := 0, owner := false, writer := 0xFFFF, tag := id, data := bs }] }
  else
    s.updRegion r fun g => { g with reqs := g.reqs ++ [{
      kind := .landing, rank := 2, idx := 0, d := now_ + 256, first := now_ + 1, total := cdiv bs.length 256, done := 0, addr := a
      block := 0, issue := id, tag := id, stated := 0xFFFFFFFF, writer := 0xFFFF, data := (payloadUnits bs).map fun u => (0, u) }] }

/-- The pieces of a landing ask for their stores. -/
def State.fileLandings (s : State) (id : Nat) : List (Nat × Nat) → Bytes → State
  | [], _ => s
  | q :: rest, bs => (s.fileLanding id q.1 (bs.take q.2)).fileLandings id rest (bs.drop q.2)

/-- A packet passes every check: it counts in its frame and waits for its landing (R249, R263, R267, 02 R51). A flagged packet
of length 0 writes into no window and counts for none (entry 137: DESIGN CHOICE). It crosses the part by the route of R252. -/
def State.acceptPacket (s : State) (pid q : Nat) (p : Partition) (k : Packet) (at_ : Nat) (data : Bytes) : State :=
  let n := k.length
  let ix := if n = 0 then none else p.landingIx k.destAddr
  let window := match ix with
    | some i => (p.negative.landing[i]?).map fun w => (p.blockIx w.block, w.counter)
    | none => none
  let pieces := if n = 0 then [] else if isHbm k.destAddr then p.localPieces s.model k.destAddr n else [(at_, n)]
  let l : Landed := ⟨pieces, data, window, k.validCount, k.epoch, p.landings⟩
  let route := match pieces with
    | [] => []
    | x :: _ =>
      let tile := regionOf x.1 / 6
      let g := fabricDie s.model tile
      fabricRoute s.model (q / 4) g ++ (tileRoute g tile).drop 1
  ((s.crossBonds false (k.cut 0) route).fileLandings p.landings pieces data).updPart pid fun p => { p with
    landing := p.landing ++ [l], landings := p.landings + 1, tokens := p.tokens + k.validCount
    flagged := match ix with | some i => if k.last then fmUpd p.flagged i 0 (· + 1) else p.flagged | none => p.flagged
    frame := { p.frame with arrived := p.frame.arrived + n } }

/-- Checks 5 to 10 of R248, for a scheduled packet of this part. -/
def State.checkArrival (s : State) (pid q : Nat) (k : Packet) : State :=
  match s.part pid with
  | none => s
  | some p =>
    if p.state ≠ .running then
      let grid := match p.ftime with | some f => f.grid | none => 0
      (s.logOnce 0x060A pid grid (s.portUnitOf q) 0).updPart pid fun p => { p with discarded := p.discarded + 1 }
    else if k.frameTag ≠ p.frame.shutter.toNat % 65536 then s.fabricFault pid q 0x1605
    else if k.enc ≠ p.dark ∨ (p.dark = true ∧ (4 ≤ k.keyIndex ∨ p.jobSecret.isNone)) then s.fabricFault pid q 0x1606
    else match p.toLocal s.model k.destAddr k.length with
      | none => s.fabricFault pid q 0x1601
      | some at_ =>
        match (if p.dark then p.jobSecret else none) with
        | none => s.acceptPacket pid q p k at_ k.body
        | some g =>
          let key := jobKey g p.negative k.keyIndex
          if gcmTag key k.nonce k.head k.body ≠ k.tag then s.fabricFault pid q 0x1607
          else s.acceptPacket pid q p k at_ (gcmCrypt key k.nonce k.body)

/-- The bank of a die that an epoch bit names. -/
def Die.hops (d : Die) (bank : Bool) : List HopEnt := if bank then d.hop1 else d.hop0

/-- Check 3 (R251): a packet for another part goes to the transit buffer of its output port. -/
def State.transit (s : State) (pid q slot : Nat) (k : Packet) : State :=
  match ((s.die (q / 4)).hops k.epoch)[k.destPart]? with
  | none => s.fabricFault pid q 0x1603
  | some h =>
    let o := h.out_.toNat
    if 64 ≤ o then s.fabricFault pid q 0x1603
    else if 8 ≤ (s.txOf o).transit.length then s.fabricFault pid q 0x1608
    else (s.crossBonds k.service (k.cut 0) (fabricRoute s.model (q / 4) (o / 4))).updTx o fun t => { t with
      transit := t.transit ++ [⟨k, h.vc.toNat, slot⟩] }

/-- Whether a bank is active or retiring in a partition (check 2). -/
def Partition.bankLive (p : Partition) (bank : Bool) : Bool :=
  bank == p.epoch.getLsbD 0 || p.bank == .retiring

/-- A packet arrives at a die without a Negative and is counted at its port (R240). -/
def State.dropBare (s : State) (q : Nat) : State :=
  s.updPort q fun x => { x with cnt := { x.cnt with droppedBare := x.cnt.droppedBare + 1 } }

/-- A service packet of this part lands in a buffer of the control die (R246). -/
def State.toFirmware (s : State) (k : Packet) : State := { s with service := s.service ++ [k] }

/-- A service packet of a job whose keys are being agreed: its dies route it by bank 0 of the Negative's hop tables (15 R410). -/
def State.agreeRoute (s : State) (f : Nat) (k : Packet) : Option State :=
  match (s.die f).agree with
  | none => none
  | some (tag, own, _) =>
    if k.service = false ∨ k.jobTag ≠ tag then none
    else if k.destPart = own then some (s.toFirmware k)
    else ((s.die f).agreePort k.destPart).map fun o =>
      (s.crossBonds true (k.cut 0) (fabricRoute s.model f (o / 4))).updTx o fun t => { t with service := t.service ++ [k] }

/-- Checks 1 to 4 of R248 at the first fabric die that a packet enters. -/
def State.enter (s : State) (q slot : Nat) (k : Packet) : State :=
  let f := q / 4
  let x := s.port q
  let d := s.die f
  match (if x.verdict = .match_ ∨ x.verdict = .matchFar then s.agreeRoute f k else none), d.owner with
  | some s, _ => s
  | none, none => s.dropBare q
  | none, some pid => match s.part pid with
    | none => s.dropBare q
    | some p =>
      if x.state = .degraded ∧ k.service = false then
        s.updPort q fun x => { x with cnt := { x.cnt with droppedDegraded := x.cnt.droppedDegraded + 1 } }
      else if ¬ (x.verdict = .match_ ∨ x.verdict = .matchFar) then s
      else if d.jobTag ≠ some (BitVec.ofNat 16 k.jobTag) then s.fabricFault pid q 0x1604
      else if p.bankLive k.epoch = false then s.fabricFault pid q 0x1602
      else if k.destPart ≠ (match p.fab with | some n => n.ownPart | none => 0x1000) then s.transit pid q slot k
      else if k.service then s.toFirmware k
      else s.checkArrival pid q k

/-- PACKET_ARRIVAL: the oldest whole packet of the receive buffer leaves it and frees its credits (R248, 10 R288). -/
def execPacketArrival (port slot : Nat) (s : State) : Host.Outcome State Fault Refusal :=
  .next (match (s.port port).rx with
    | [] => s
    | (k, vc, u) :: rest =>
      (s.updPort port fun x => { x with rx := rest }.release k.service vc u).enter port slot k)

/-! ### FABRIC_LANDING (R249, 06 R174) -/

/-- The units of one piece of a landing that are not yet granted are granted now, and its request ends. -/
def State.landPiece (s : State) (pid id a : Nat) (bs : Bytes) (cyc : Nat) : State :=
  if 0x900000000000 ≤ a then
    let bix := (a - 0x900000000000) / 0x100000 / 4
    let mine (q : PfReq) : Bool := decide (q.kind = .landing) && q.tag == id && q.dst == a
    match (s.block bix).pf.find? mine with
    | some q => (s.storeWrite (a + 256 * q.done) (bs.drop (256 * q.done)) cyc q.d 0xFFFFFFFF).updBlock bix fun b => { b with
        pf := b.pf.filter fun x => !mine x }
    | none => s
  else
    let mine (q : RsReq) : Bool := decide (q.kind = .landing) && q.tag == id && q.addr == a
    match (s.region (regionOf a)).reqs.find? mine with
    | some q =>
      let left := bs.drop (256 * q.done)
      let s := if a < 0x800000000000 then s.landHbm pid (a + 256 * q.done) left cyc else s.write (a + 256 * q.done) left
      s.updRegion (regionOf a) fun g => { g with reqs := g.reqs.filter fun x => !mine x }
    | none => s

/-- The pieces of a landing become readable. -/
def State.landPieces (s : State) (pid id cyc : Nat) : List (Nat × Nat) → Bytes → State
  | [], _ => s
  | q :: rest, bs => (s.landPiece pid id q.1 (bs.take q.2) cyc).landPieces pid id cyc rest (bs.drop q.2)

/-- The stores of a landing have come to its cycle, where its partition runs. -/
def State.reachLanding (s : State) (pid cycle : Nat) (p : Partition) (l : Landed) : State :=
  if p.state == .running && p.frame.started then
    l.pieces.foldl (fun (s : State) q => advanceRegion s pid (6 * regionOf q.1) cycle) (s.runStreams pid (fun _ => cycle) false)
  else s

/-- FABRIC_LANDING: in this cycle the last byte of the oldest landing becomes readable. What the arbiters have not granted by
then is granted now (entry 127). -/
def execFabricLanding (part cycle : Nat) (s : State) : Host.Outcome State Fault Refusal :=
  .next (match s.part part with
    | none => s
    | some p => match p.landing with
      | [] => s
      | l :: rest =>
        let s := (s.updPart part fun p => { p with landing := rest }).reachLanding part cycle p l
        let s := s.landPieces part l.id cycle l.pieces l.data
        match l.window with
        | none => s
        | some w => s.updBlock w.1 fun b => { b with
            arrival := fmUpd b.arrival w.2 0 fun (c : BitVec 32) => satAdd c l.data.length })

/-! ### EPOCH_RETIRE (R258) -/

/-- Packets of an epoch bit that the partition's fabric dies hold. -/
def State.heldOf (s : State) (p : Partition) (bank : Bool) : Bool :=
  ((s.portsOf p).any fun q => (s.txOf q).transit.any fun t => t.pkt.epoch == bank) || p.landing.any fun l => l.epoch == bank

/-- EPOCH_RETIRE. -/
def execEpochRetire (part : Nat) (s : State) : Host.Outcome State Fault Refusal :=
  .next (match s.part part with
    | none => s
    | some p =>
      let now_ := match p.ftime with | some f => f.time | none => 0
      let old := !p.epoch.getLsbD 0
      if p.bank ≠ .retiring ∨ now_ < p.switchedAt + 20000 ∨ s.heldOf p old = true then s
      else (s.writeBank p old [] []).updPart part fun p => { p with bank := .empty })

/-! ### Departure (R243 to R246, R265) -/

/-- Wall time of a slot from the Shutter with the port's debt, in tenths of ns (02 R38, R43). -/
def slotWall (slot debt : Nat) : Nat := 435 * (36 * slot + debt) / 36

/-- Blocks that may still bring data to an entry of a port. -/
def State.feeders (s : State) (p : Partition) (q e : Nat) : List Nat :=
  (s.blocks.filter fun b => p.tiles.contains (b.1 / 36) && fabricDie s.model (b.1 / 36) == q / 4 &&
    (!b.2.fills.isEmpty || b.2.commits.any fun c => c.port == q && c.entry == e)).map (·.1)

/-- Bring the blocks that feed an entry up to a wall time, and answer whether its commit is complete then (06 R172, R173). -/
def State.commitDone (s : State) (pid q e wall : Nat) : State × Bool :=
  match s.part pid with
  | none => (s, false)
  | some p =>
    let s := (s.feeders p q e).foldl (fun (s : State) b => advanceRegion s pid b (p.cycleAt (p.logicalOf b / 6) wall)) s
    match fmGet (s.txOf q).staging e with
    | none => (s, false)
    | some st => match st.ready with
      | none => (s, false)
      | some c => (s, decide (c ≤ p.cycleAt (p.logicalOf st.block / 6) wall))

/-- The header of a departing packet (R241, R243). -/
def departHead (p : Partition) (n : Neg) (q seq : Nat) (bank : Bool) (e : SlotEnt) (valid : Nat) : Bytes :=
  leBytes 8 (e.destAddr.toNat + 2 ^ 48 * e.destPart.toNat + 2 ^ 60 * boolNat bank + 2 ^ 62 * boolNat e.last + 2 ^ 63 * boolNat p.dark) ++
    leBytes 2 e.len ++ leBytes 2 n.ownPart ++ leBytes 2 n.jobTag.toNat ++ [e.keyIndex] ++ leBytes 1 valid ++ leBytes 4 e.slot ++
    leBytes 2 p.frame.shutter.toNat ++ zeroes 2 ++ leBytes 8 (seq + 2 ^ 58 * q)

/-- Why a packet that is due cannot leave: nothing, the link is not up, no credit, or a stopped replay buffer (10 R285, R290,
R300). -/
inductive Hold where
  | go | link | credit | replay
  deriving DecidableEq, Repr

/-- Whether a packet of u units can leave on a channel: units of the one before it come first. -/
def Port.holdOf (x : Port) (now_ : Nat) (service : Bool) (vc u : Nat) : Hold :=
  if !x.carries service then .link
  else if x.stopped now_ || !x.toSend.isEmpty then .replay
  else if !x.hasCredit service (x.channel service vc) u then .credit
  else .go

/-- A port waits for one slot time: for credit or for the replay buffer this adds to the debt (10 R285, R290). -/
def State.waitOne (s : State) (q vc : Nat) (h : Hold) : State :=
  match h with
  | .credit =>
    (s.updPort q fun x => { x with cnt := { x.cnt with
      creditWait := fmUpd x.cnt.creditWait (poolKey false false (x.channel false vc)) 0 (· + 36) } }).addDebt q 36
  | .replay => (s.stopEvent q).addDebt q 36
  | _ => s

/-- The packet of an entry leaves, or is delivered inside the part (R243, R245, R264, R265). -/
def State.depart (s : State) (pid q : Nat) (p : Partition) (n : Neg) (e : SlotEnt) (st : Staged) : State :=
  let t := s.txOf q
  let key := if p.dark then p.jobSecret.map fun g => jobKey g n e.keyIndex.toNat else none
  let k := sealPacket key (departHead p n q t.seq t.bank e st.validCount) (st.data.take e.len)
  let s := s.updTx q fun t => { t with seq := t.seq + 1 }
  let s := if e.destPart.toNat = n.ownPart then s.checkArrival pid q k else s.sendPacket q k e.vc
  if t.seq + 1 = 2 ^ 58 - 1 then s.partitionFatal pid 0x2609 (s.portUnitOf q) 0 [] else s

/-- Flow-unit time from the Shutter at which a port reaches its next position: late by the debt, and not before the packet
ahead of it has left (02 R43, 10 R273). -/
def PortTx.reach (t : PortTx) : Nat := Nat.max (36 * t.pos + t.debt) t.wireFree

/-- What comes of a position: the port goes on to the next one, or stays at it. -/
abbrev AtPos := State × Bool

/-- An idle or RESERVED position repays debt and sends nothing (02 R43). -/
def State.repay (s : State) (q : Nat) : State := s.updTx q fun t => { t with debt := t.debt - 36 }

/-- A packet begins to leave at a flow-unit time: the next one starts no sooner than a slot time later (10 R273). -/
def State.useWire (s : State) (q at_ : Nat) : State := s.updTx q fun t => { t with wireFree := at_ + 36, held := false }

/-- A RESERVED position without debt: the oldest transit packet that has waited its 8 slot times, else one service packet (R244,
R246, R251). A scheduled one that lacks credit or finds the replay buffer full keeps the position. -/
def State.reservedAt (s : State) (q at_ : Nat) : AtPos :=
  let t := s.txOf q
  let x := s.port q
  match t.transit.head?.filter fun y => decide (y.arrived + 8 ≤ (t.pos : Int)) with
  | some y =>
    match x.holdOf s.now y.pkt.service y.vc y.pkt.units with
    | .go => (((s.updTx q fun t => { t with transit := t.transit.drop 1 }).sendPacket q y.pkt y.vc).useWire q at_, true)
    | .link => (s, true)
    | h => if y.pkt.service then (s, true) else ((s.waitOne q y.vc h).updTx q fun t => { t with held := true }, false)
  | none => match t.service with
    | k :: rest =>
      if x.holdOf s.now true 0 k.units = .go then
        (((s.updTx q fun t => { t with service := rest }).sendPacket q k 0).useWire q at_, true)
      else (s, true)
    | [] => (s, true)

/-- A scheduled position: the packet whose commit is complete leaves; an incomplete one is an underrun (R244, 06 R173); one
that cannot leave holds those behind it (10 R290, R300). -/
def State.packetAt (s : State) (pid q slot i at_ : Nat) (p : Partition) (n : Neg) (e : SlotEnt) : AtPos :=
  let t := s.txOf q
  let own := decide (e.destPart.toNat = n.ownPart)
  let u := cdiv (32 + e.len + (if p.dark then 16 else 0)) 240
  match if own then Hold.go else (s.port q).holdOf s.now false e.vc u with
  | .link => (s.updTx q fun t => { t with wireFree := 36 * (slot + 1) }, false)
  | .go =>
    let r := s.commitDone pid q i (435 * at_ / 36)
    let s := if 36 * n.retryLag < t.debt then r.1.overBudget pid q else r.1
    match r.2, fmGet (s.txOf q).staging i with
    | true, some st =>
      let s := (s.depart pid q p n e st).updTx q fun t => { t with depIdx := i + 1 }
      (if own then s else s.useWire q at_, true)
    | _, st =>
      let unit := match st with
        | some x => s.blockUnit x.block (p.logicalOf x.block)
        | none => s.portUnitOf q
      (s.raiseFatal pid 0x1430 unit 0 (s.presentCycle pid), true)
  | h => (s.waitOne q e.vc h, false)

/-- What a port does at its next position. Slot 0 carries the beacon (02 R38). A partition that does not run an Exposure, or
whose Exposure has failed, sends no PACKET or SHEET entry (R244). -/
def State.atPosition (s : State) (pid q slot : Nat) (p : Partition) : AtPos :=
  let t := s.txOf q
  if t.pos = 0 then (s, true)
  else match t.table.zipIdx.find? fun e => e.1.slot == t.pos with
    | none => (s.repay q, true)
    | some (e, i) =>
      if e.kind = .reserved then
        (if t.debt ≠ 0 ∧ t.held = false then ((s.repay q).updTx q fun t => { t with depIdx := i + 1 }, true)
         else
           let r := s.reservedAt q t.reach
           (r.1.updTx q fun t => { t with depIdx := if r.2 then i + 1 else t.depIdx }, r.2))
      else match p.neg with
        | some n =>
          if p.state = .running ∧ p.frame.started = true ∧ p.frame.fatal = none ∧ t.seq < 2 ^ 58 - 1 then
            s.packetAt pid q slot i t.reach p n e
          else (s, true)
        | none => (s, true)

/-- First tick-guard slot of a frame (02 R38). -/
def Neg.guardFrom (n : Neg) : Nat := frameSlots n.frameCount - guardSlots n.tickSkew

/-- A port goes through the positions that it reaches within a slot time; the tick guard carries nothing (02 R38, R244). -/
def State.passPositions (pid q slot : Nat) : Nat → State → State
  | 0, s => s
  | fuel + 1, s =>
    match s.part pid with
    | none => s
    | some p => match p.fab with
      | none => s
      | some n =>
        let at_ := (s.txOf q).reach
        if 36 * (slot + 1) ≤ at_ ∨ 36 * n.guardFrom ≤ at_ then s
        else
          let r := s.atPosition pid q slot p
          passPositions pid q slot fuel (if r.2 then r.1.updTx q fun t => { t with pos := t.pos + 1 } else r.1)

/-- The part's clock is at least at a slot time of a partition's frame (02 R38). -/
def State.reachSlot (s : State) (p : Partition) (slot : Nat) : State :=
  match p.ftime with
  | some f => s.elapse ((p.frame.shutterTime + 435 * slot / 10 - f.time) / 10)
  | none => s

/-- A port without slot tables sends service packets in any slot time (15 R410). -/
def State.bareSlot (s : State) (q : Nat) : State :=
  match (s.txOf q).service with
  | k :: rest =>
    if (s.port q).holdOf s.now true 0 k.units = .go then (s.updTx q fun t => { t with service := rest }).sendPacket q k 0 else s
  | [] => s

/-- The state in which a port comes to its positions of a slot time: the part-level arbiter has served the partition's stacks,
units held back go on or add to the debt (10 R285), and the Exposure has come to that time. -/
def State.slotReached (s : State) (pid q slot : Nat) (p : Partition) : State :=
  let s := (((s.reachSlot p slot).servePart pid).resumeSend q).updTx q fun t => { t with slotNow := slot }
  let x := s.port q
  let s := if !x.toSend.isEmpty && x.carries false && x.stopped s.now then s.waitOne q 0 .replay else s
  if p.state = .running ∧ p.frame.started = true then
    s.runStreams pid (fun r => p.cycleAt r (slotWall slot (s.txOf q).debt)) false
  else s

/-- What a port of a partition does in a slot time: it goes through its positions. -/
def State.tableSlot (s : State) (pid q slot : Nat) (p : Partition) : State :=
  let s := s.slotReached pid q slot p
  s.passPositions pid q slot (slot + 4 - (s.txOf q).pos)

/-- SLOT_TIME: a port acts on the positions of its active table (R244, R253), and sends at least one IDLE unit (10 R273,
R289). -/
def execSlotTime (port slot : Nat) (s : State) : Host.Outcome State Fault Refusal :=
  .next (if s.livePort port = false then s
    else
      let s := match (s.die (port / 4)).owner with
        | none => s.bareSlot port
        | some pid => match s.part pid with
          | none => s
          | some p => s.tableSlot pid port slot p
      if (s.port port).inUse then s.sendIdle port else s)

end Sys2Proof.Machine
end

