-- ==== Sys2Proof/Machine/Topology.lean ====
section
/-! DEFINITION. Cable plans (11 R306 to R312) and fabric time by beacons (11 R313 to R325). -/

namespace Sys2Proof.Machine

/-! ### CABLEPLAN (R307 to R309, 16 R443) -/

/-- A port entry of a plan against R308 and R309; a link of the larger variants has 2 to 8 channels (R2, 10 R287,
entry 98: DEDUCED). -/
def planEntryBad (v : Variant) (fitted : Bool) (e : Bytes) : Bool :=
  let use := fld e 0 1
  if use = 0 then false
  else
    let far := fld e 5 1
    let farPart := fld e 6 2
    decide (use ≠ 1) || !fitted || decide (8 < fld e 1 1) || (decide (v = .zx910) && decide (1 < fld e 1 1)) ||
      (decide (v ≠ .zx910) && fld e 1 1 == 1) ||
      decide (0xFFF < fld e 2 2) || decide (63 < fld e 4 1) || (far != 0xFF && decide (63 < far)) ||
      (farPart != 0xFFFF && decide (0xFFF < farPart)) || (far == 0xFF) != (farPart == 0xFFFF) ||
      (far == 0xFF && fld e 16 8 != 0) || fld e 26 6 != 0

/-- A 16-bit field as a signed number. -/
def signed16 (n : Nat) : Int := (BitVec.ofNat 16 n).toInt

/-- A port entry as the part keeps it. -/
def readPlanPort (e : Bytes) : PlanPort :=
  { linked := fld e 0 1 == 1, vc := fld e 1 1, nbPart := BitVec.ofNat 12 (fld e 2 2), nbPort := fld e 4 1
    nbSerial := BitVec.ofNat 64 (fld e 8 8)
    far := if fld e 5 1 = 0xFF then none else some (BitVec.ofNat 12 (fld e 6 2), fld e 5 1, BitVec.ofNat 64 (fld e 16 8))
    asym := signed16 (fld e 24 2) }

/-- Port entries of a plan image. -/
def planEntries (b : Bytes) : List Bytes := (List.range 64).map fun q => (b.drop (64 + 32 * q)).take 32

/-- The refusals of R309 that answer BAD_ARG. -/
def planBad (s : State) (b : Bytes) : Bool :=
  let jump := fld b 20 4
  fld b 0 2 != 1 || decide (0xFFF < fld b 2 2) || fld b 6 2 != 0 || fld b 8 8 != s.id.serial.toNat ||
    !(jump == 0 || (decide (50 ≤ jump) && decide (jump ≤ 10000))) || fld b 24 2 != 64 || (firstNz b 26 38).isSome ||
    (planEntries b).zipIdx.any fun e => planEntryBad s.model (s.hasPort e.2) e.1

/-- The plan in an image. -/
def readPlan (b : Bytes) : Plan :=
  { partId := BitVec.ofNat 12 (fld b 2 2), pod := BitVec.ofNat 16 (fld b 4 2), generation := BitVec.ofNat 32 (fld b 16 4)
    jump := if fld b 20 4 = 0 then 200 else fld b 20 4, ports := (planEntries b).map readPlanPort }

/-- Every port that is UP gets a new verdict; a port held for a loop-back trains again (R294, R309). -/
def State.newVerdicts (s : State) : State :=
  let live := (List.range 64).filter fun q => s.livePort q
  let s := live.foldl (fun (s : State) q => s.updPort q fun x =>
    if x.verdict = .loopback then { x with state := .training, verdict := .none_ }
    else if x.inUse then { x with verdict := .none_, partner := none } else x) s
  live.foldl (fun (s : State) q => if (s.port q).inUse ∧ (s.port q).verdict = .none_ then s.judge q else s) s

/-- CABLEPLAN. -/
def execCableplan (e : Envelope) (plan : Bytes) (nvm : Bool) (s : State) : Host.Outcome State Fault Refusal :=
  .next (runCmd s e ⟨0x0701, 2112, ownerOnly, .none_, .plain, false, false⟩ fun s _ =>
    if s.parts.any fun p => p.2.state == .developed || p.2.state == .running || p.2.state == .halted then reply s stWrongState
    else if planBad s plan then reply s stBadArg
    else if s.parts.any fun p => p.2.inAgree then reply s stBusy
    else
      let x := readPlan plan
      let r := s.commitNvm nvm fun n => { n with plan := some x }
      if r.2 then
        let s := r.1.newVerdicts
        reply s stOk (leBytes 4 x.generation.toNat ++ (List.range 64).flatMap fun q => leBytes 1 (s.port q).verdict.code)
      else reply r.1 stIntegrity)

/-! ### Beacons received (R317 to R320, R322) -/

/-- Beacon interval of a frame period, ns (R315). -/
def beaconInterval (n : Neg) : Nat := Nat.min 1000000 (10 * n.frameCount)

/-- Difference of two 32-bit stamps (R318). -/
def stampDiff (a b : BitVec 32) : Int := (a - b).toInt

/-- Path delay of a beacon (R318), where it echoes one of this port. -/
def pathDelay (m : BeaconMsg) (rx : BitVec 32) (asym : Int) : Option Int :=
  if m.echoStamp = 0 then none else some ((stampDiff rx m.echoStamp - stampDiff m.txStamp m.echoRx + asym) / 2)

/-- A path delay differs from the mean of the port's last 16 by more than 10 ns (R318). -/
def delayOff (ds : List Int) (d : Int) : Bool :=
  let sum := ds.foldl (· + ·) 0
  !ds.isEmpty && decide (10 * (ds.length : Int) < ((d * ds.length - sum).natAbs : Int))

/-- What a port can take its time from: sender, its message and offset, heard within 3 beacon intervals (R319, R320). -/
def State.candidates (s : State) (p : Partition) (n : Neg) (f : FTime) : List (Nat × BeaconMsg × Int) :=
  (s.portsOf p).filterMap fun q => match (s.port q).heard with
    | none => none
    | some h => match h.theta with
      | none => none
      | some th =>
        if h.msg.locked ∧ f.time < h.at_ + 3 * beaconInterval n ∧ (f.state ≠ .locked ∨ h.msg.hops.toNat < f.hops) then
          some (q, h.msg, th)
        else none

/-- Whether one candidate comes before another: hops, then src_part, then port (R319). -/
def better (a b : Nat × BeaconMsg × Int) : Bool :=
  let x := (a.2.1.hops.toNat * 4096 + a.2.1.srcPart.toNat) * 64 + a.1
  let y := (b.2.1.hops.toNat * 4096 + b.2.1.srcPart.toNat) * 64 + b.1
  decide (x ≤ y)

/-- The parent (R319). -/
def chooseParent : List (Nat × BeaconMsg × Int) → Option (Nat × BeaconMsg × Int)
  | [] => none
  | a :: rest => match chooseParent rest with
    | none => some a
    | some b => some (if better a b then a else b)

/-- TICK_HOLDOVER (R320). -/
def State.loseParent (s : State) (pid : Nat) : State :=
  (s.updPart pid fun p => { p with ftime := p.ftime.map fun f => { f with
    state := .holdover, hops := 0xFF, parent := none, good := 0, bad := 0, slew := 0 } }).logEv 0x0211 pid noUnit 0

/-- An offset to the parent is applied or refused (R320, R322). How a part measures its rate against the master's is left
open, within 40 ppm (R324). -/
def State.applyOffset (s : State) (pid : Nat) (f : FTime) (c : Nat × BeaconMsg × Int) (jump : Nat) (period : Nat) (running : Bool) :
    State :=
  let th := c.2.2
  let m := c.2.1
  let fr := s.draw 17 9
  let s := fr.2
  let rate : Int := ((fr.1 % 80001 : Nat) : Int) - 40000
  let put (s : State) (g : FTime → FTime) : State := s.updPart pid fun p => { p with ftime := p.ftime.map g }
  let s := put s fun f => { f with
    theta := th + m.masterOffset.toInt, measured := true, parent := some c.1, rate := rate }
  match f.state with
  | .acquiring =>
    if f.stepped = false ∧ running = false then
      let t := ((f.time : Int) - th).toNat
      put s fun f => { f with time := t, stepped := true, slew := 0, grid := if period = 0 then f.grid else t / period
                              theta := m.masterOffset.toInt }
    else
      let good := if th.natAbs ≤ 5 then f.good + 1 else 0
      if 8 ≤ good then put s fun f => { f with state := .locked, hops := m.hops.toNat + 1, good := 0, bad := 0, slew := -th }
      else put s fun f => { f with good := good, slew := -th }
  | _ =>
    if jump < th.natAbs then
      -- the member tries the next parent, until this one is heard again
      let s := s.updPort c.1 fun x => { x with heard := x.heard.map fun h => { h with theta := none } }
      let s := put s fun f => { f with refused := f.refused + 1, bad := f.bad + 1 }
      let s := if running then s.logOnce 0x0210 pid 0 noUnit 0 else s.logHourly 0x0210 pid pid noUnit 0
      if f.state = .locked ∧ 8 ≤ f.bad + 1 then s.loseParent pid else s
    else put s fun f => { f with state := .locked, hops := m.hops.toNat + 1, bad := 0, slew := -th }

/-- A member copies the announced launch from its parent's beacons (R325). -/
def State.copyLaunch (s : State) (pid : Nat) (m : BeaconMsg) : State :=
  s.updPart pid fun p => { p with ftime := p.ftime.map fun f => { f with
    launch := if m.launchValid then some m.launch.toNat else none } }

/-- What the listening master hears of a member that is LOCKED or in HOLDOVER (R321). -/
def hearMember (f : FTime) (m : BeaconMsg) (th : Option Int) : FTime :=
  match th with
  | none => f
  | some th =>
    let src := m.srcPart.toNat
    let lower := match f.heard with | some h => decide (src ≤ h.1) | none => true
    if f.listening && (m.locked || m.holdover) && lower then { f with heard := some (src, th + m.masterOffset.toInt) } else f

/-- BEACON. -/
def execBeacon (port : Nat) (msg : BeaconMsg) (rx : BitVec 32) (s : State) : Host.Outcome State Fault Refusal :=
  .next (if s.livePort port = false then s.passOn port (.beacon port msg rx)
    else match (s.die (port / 4)).owner with
    | none => s
    | some pid => match s.part pid with
      | none => s
      | some p => match p.ftime, p.fab, s.planPort port with
        | some f, some n, some e =>
          let known := e.linked && (msg.srcPart == e.nbPart || e.far.any fun x => x.1 == msg.srcPart)
          let running := p.state == .running
          if msg.jobTag ≠ n.jobTag ∨ known = false then
            s.updPort port fun x => { x with cnt := { x.cnt with beaconsIgnored := x.cnt.beaconsIgnored + 1 } }
          else if msg.frameCount.toNat ≠ n.frameCount then s.logOnce 0x0213 pid (64 * f.grid + port) (s.portUnitOf port) 0
          else if msg.masterPart.toNat ≠ n.master then s.logOnce 0x0212 pid (64 * f.grid + port) (s.portUnitOf port) 0
          else
            let d := pathDelay msg rx e.asym
            let bad := match d with | some d => delayOff (s.port port).delays d | none => false
            let th : Option Int := if bad then none else d.map fun d => stampDiff rx msg.txStamp - (d - e.asym)
            let s := s.updPort port fun x => { x with
              heard := some ⟨msg, rx, th, f.time⟩
              delays := (match d with
                | some d => if bad then x.delays else (x.delays ++ [d]).drop (x.delays.length + 1 - 16)
                | none => x.delays)
              cnt := if bad then { x.cnt with delaysDiscarded := x.cnt.delaysDiscarded + 1 } else x.cnt }
            if n.isMaster then s.updPart pid fun p => { p with ftime := p.ftime.map fun f => hearMember f msg th }
            else
              match chooseParent (s.candidates p n f) with
              | none => s
              | some c =>
                if c.1 = port then
                  (s.applyOffset pid f c (match s.nvm.plan with | some x => x.jump | none => 200) p.gridNs running).copyLaunch pid msg
                else s
        | _, _, _ => s)

/-- TICK_HOLDOVER: a LOCKED member has no usable parent for 3 beacon intervals (R320). -/
def execTickHoldover (part : Nat) (s : State) : Host.Outcome State Fault Refusal :=
  .next (match s.part part with
    | none => s
    | some p => match p.ftime, p.fab with
      | some f, some n =>
        if f.state = .locked ∧ n.isMaster = false ∧ (s.candidates p n f).isEmpty = true then s.loseParent part else s
      | _, _ => s)

/-- MASTER_LISTEN_END: the 2 ms of a listening master are over (R321). -/
def execMasterListenEnd (part : Nat) (s : State) : Host.Outcome State Fault Refusal :=
  .next (match s.part part with
    | none => s
    | some p => match p.ftime with
      | none => s
      | some f =>
        if f.listening = false then s
        else
          let t := match f.heard with
            | some h => ((f.time : Int) - h.2).toNat
            | none => f.time
          let period := p.gridNs
          let g : FTime := { f with
            time := t, listening := false, heard := none, state := .locked, hops := 0
            grid := if f.heard.isNone || period == 0 then f.grid else t / period }
          s.updPart part fun p => { p with ftime := some g })

end Sys2Proof.Machine
end

