-- ==== Sys2Proof/Machine/Spdm.lean ====
section
/-! DEFINITION. The SPDM responder, IDE key management and TDISP (15 R405 to R408, R420). The spec names the requests, what
they may do and what some of them return; message codes and layouts are PRESUMED from the standards it names, and what
those leave to the responder is left open (entry 60). -/

namespace Sys2Proof.Machine

/-! ### Messages -/

/-- Error codes of the ERROR response. -/
def errInvalid : Nat := 0x01
def errBusy : Nat := 0x03
def errUnexpected : Nat := 0x04
def errDecrypt : Nat := 0x06
def errUnsupported : Nat := 0x07
def errSession : Nat := 0x0B
def errLarge : Nat := 0x0F
def errVersion : Nat := 0x41

/-- An ERROR response. -/
def spdmError (r : SpdmReq) (code data : Nat) : Bytes := [r.version] ++ leBytes 1 0x7F ++ leBytes 1 code ++ leBytes 1 data

/-- A response with its header. -/
def spdmResp (r : SpdmReq) (code p1 p2 : Nat) (body : Bytes) : Bytes :=
  [r.version] ++ leBytes 1 code ++ leBytes 1 p1 ++ leBytes 1 p2 ++ body

/-- A response of the session in which a request travels, if it is open. -/
def Endpoint.session (e : Endpoint) (r : SpdmReq) : Option SpdmSession :=
  match r.session with
  | some i => e.sessions.find? fun x => x.id == i
  | none => none

/-- An answer of the responder: the state and the response. -/
abbrev SpdmAnswer := State × Bytes

/-- Run a request on an endpoint that can answer: its header is checked, and a response too large for the requester waits to
be fetched in chunks (R405). -/
def State.spdm (s : State) (r : SpdmReq) (body : State → Endpoint → SpdmAnswer) : State :=
  let e := s.endpoint r.h
  if ¬ (r.h < 2 ∧ s.serves = true ∧ e.enabled = true ∧ e.linkUp = true) then s
  else if (r.session.isSome && ((e.session r).isNone || !r.good)) then s.emit (.spdm r.h (spdmError r errDecrypt 0))
  else
    let a := body s e
    if e.dataSize ≠ 0 ∧ e.dataSize < a.2.length ∧ a.2.getD 1 0 ≠ 0x06 then
      let h := (e.chunkHandle + 1) % 256
      (a.1.updEp r.h fun e => { e with chunkHandle := h, chunkSeq := 0, chunkOut := a.2 }).emit
        (.spdm r.h (spdmError r errLarge 0 ++ leBytes 1 h))
    else a.1.emit (.spdm r.h a.2)

/-- Requests that need the connection to have reached a state, under a negotiated version. -/
def State.spdmAt (s : State) (r : SpdmReq) (c : SpdmConn) (body : State → Endpoint → SpdmAnswer) : State :=
  s.spdm r fun s e =>
    if r.version ≠ 0x12 ∧ r.version ≠ 0x13 then (s, spdmError r errVersion 0)
    else if e.spdm ≠ c then (s, spdmError r errUnexpected 0)
    else body s e

/-- Requests that travel in an open session only. -/
def State.spdmIn (s : State) (r : SpdmReq) (body : State → Endpoint → SpdmSession → SpdmAnswer) : State :=
  s.spdmAt r .negotiated fun s e => match e.session r with
    | some x => if x.open_ then body s e x else (s, spdmError r errUnexpected 0)
    | none => (s, spdmError r errSession 0)

/-- `n` bytes that the standard leaves to the responder. -/
def State.filler (s : State) (n : Nat) : Bytes × State :=
  let d := s.draw (8 * n) 11
  (leBytes n d.1, d.2)

/-- A signature over a transcript that the model does not keep. -/
def State.signTranscript (s : State) : Bytes × State :=
  let d := s.filler 48
  (Config.ecdsaSign s.id.idKey d.1 d.2.free, { d.2 with free := d.2.free + 1 })

/-! ### Version, capabilities, algorithms (R405) -/

/-- GET_VERSION: 1.2 and 1.3; the connection begins anew. -/
def execGetVersion (r : SpdmReq) (s : State) : Host.Outcome State Fault Refusal :=
  .next (s.spdm r fun s _ =>
    if r.session.isSome then (s, spdmError r errUnexpected 0)
    else (s.updEp r.h fun e => { e with
        spdm := .version, sessions := [], dataSize := 0, chunkSeq := 0, chunkIn := [], chunkOut := [] },
      [0x10, 0x04, 0, 0, 0, 2, 0, 0x12, 0, 0x13]))

/-- GET_CAPABILITIES: the requester's message size is kept. -/
def execGetCapabilities (r : SpdmReq) (s : State) : Host.Outcome State Fault Refusal :=
  .next (s.spdmAt r .version fun s _ =>
    let d := s.filler 16
    (d.2.updEp r.h fun e => { e with spdm := .capabilities, dataSize := fld r.body 8 4 }, spdmResp r 0x61 0 0 d.1))

/-- NEGOTIATE_ALGORITHMS: ECDSA P-384, SHA-384, secp384r1, AES-256-GCM. -/
def execNegotiateAlgorithms (r : SpdmReq) (s : State) : Host.Outcome State Fault Refusal :=
  .next (s.spdmAt r .capabilities fun s _ =>
    (s.updEp r.h fun e => { e with spdm := .negotiated },
      spdmResp r 0x63 4 0 (leBytes 2 52 ++ [1, 2] ++ leBytes 4 0x80 ++ leBytes 4 0x80 ++ leBytes 4 2 ++ zeroes 16 ++
        leBytes 4 0x00102002 ++ leBytes 4 0x00022003 ++ zeroes 8)))

/-! ### Identity (R405, R406) -/

/-- GET_DIGESTS: slot 0. -/
def execGetDigests (r : SpdmReq) (s : State) : Host.Outcome State Fault Refusal :=
  .next (s.spdmAt r .negotiated fun s _ => (s, spdmResp r 0x01 0 1 (sha384 s.id.chain)))

/-- GET_CERTIFICATE: slot 0 only, from an offset. -/
def execGetCertificate (r : SpdmReq) (s : State) : Host.Outcome State Fault Refusal :=
  .next (s.spdmAt r .negotiated fun s _ =>
    let off := fld r.body 0 2
    if r.p1 ≠ 0 ∨ s.id.chain.length < off then (s, spdmError r errInvalid 0)
    else
      let part := (s.id.chain.drop off).take (fld r.body 2 2)
      (s, spdmResp r 0x02 0 0 (leBytes 2 part.length ++ leBytes 2 (s.id.chain.length - off - part.length) ++ part)))

/-- CHALLENGE: signed with the identity key. -/
def execChallenge (r : SpdmReq) (s : State) : Host.Outcome State Fault Refusal :=
  .next (s.spdmAt r .negotiated fun s _ =>
    if r.p1 ≠ 0 then (s, spdmError r errInvalid 0)
    else
      let n := s.filler 32
      let g := n.2.signTranscript
      (g.2, spdmResp r 0x03 0 1 (sha384 s.id.chain ++ n.1 ++ g.1)))

/-! ### Measurements (R420) -/

/-- A measurement block: index, value type and value. -/
def measureBlock (ix type : Nat) (v : Bytes) : Bytes :=
  leBytes 1 ix ++ [1] ++ leBytes 2 (v.length + 3) ++ leBytes 1 type ++ leBytes 2 v.length ++ v

/-- The measurement block of an index, if there is one. -/
def State.measurement (s : State) (ix h : Nat) : Option Bytes :=
  if ix = 1 then some (measureBlock 1 0 s.id.romDigest)
  else if ix = 2 then some (measureBlock 2 1 s.active.digest)
  else if ix = 3 then some (measureBlock 3 1 (match s.staged with | some i => i.2.digest | none => zeroes 48))
  else if ix = 4 then some (measureBlock 4 3 s.nvm.settings.digest)
  else if ix = 5 then
    some (measureBlock 5 0x82 (leBytes 8 s.id.serial.toNat ++ leBytes 2 (variantNumber s.model) ++ leBytes 2 (variantFabric s.model) ++
      leBytes 1 s.dpis.length ++ s.dpis.flatMap fun d => leBytes 4 d.1.toNat))
  else if 0x11 ≤ ix ∧ ix ≤ 0x20 then
    match s.boundTo h (ix - 0x10) with
    | none => none
    | some pid => match s.part pid with
      | none => none
      | some p => some (measureBlock ix 0x84 (s.proofOf p (zeroes 32)))
  else none

/-- Indices that can have a block. -/
def measureIndices : List Nat := [1, 2, 3, 4, 5] ++ (List.range 16).map (0x11 + ·)

/-- GET_MEASUREMENTS: their number, all of them, or one; signed on request. -/
def execGetMeasurements (r : SpdmReq) (s : State) : Host.Outcome State Fault Refusal :=
  .next (s.spdmAt r .negotiated fun s _ =>
    let all := measureIndices.filterMap fun i => s.measurement i r.h
    let some_ : Option (List Bytes) :=
      if r.p2 = 0 then some [] else if r.p2 = 0xFF then some all
      else match s.measurement r.p2.toNat r.h with | some b => some [b] | none => none
    match some_ with
    | none => (s, spdmError r errInvalid 0)
    | some bs =>
      let record := bs.flatMap id
      let n := s.filler 32
      let g := if bit r.p1.toNat 0 then n.2.signTranscript else ([], n.2)
      (g.2, spdmResp r 0x60 (if r.p2 = 0 then all.length else 0) 0
        (leBytes 1 bs.length ++ leBytes 3 record.length ++ record ++ n.1 ++ leBytes 2 0 ++ g.1)))

/-! ### Sessions (R405) -/

/-- KEY_EXCHANGE: at most four sessions; the exchange is on secp384r1. -/
def execKeyExchange (r : SpdmReq) (s : State) : Host.Outcome State Fault Refusal :=
  .next (s.spdmAt r .negotiated fun s e =>
    if r.p2 ≠ 0 ∨ r.session.isSome then (s, spdmError r errInvalid 0)
    else if 4 ≤ e.sessions.length then (s, spdmError r errBusy 0)
    else
      let d := s.draw 384 12
      let priv := BitVec.ofNat 384 d.1
      let secret := BitVec.ofNat 384 (leNat (Config.ecdh priv ((r.body.drop 36).take 96)))
      let id := fld r.body 0 2 + 65536 * ((e.opened + 1) % 65536)
      let n := d.2.filler 32
      let g := n.2.signTranscript
      (g.2.updEp r.h fun e => { e with
          opened := e.opened + 1, sessions := e.sessions ++ [⟨id, false, secret, 0⟩] },
        spdmResp r 0x64 0 0 (leBytes 2 ((e.opened + 1) % 65536) ++ [0, 0] ++ n.1 ++ Config.ecPublic priv ++ leBytes 2 0 ++ g.1)))

/-- Change one session of an endpoint. -/
def State.updSession (s : State) (h id : Nat) (f : SpdmSession → SpdmSession) : State :=
  s.updEp h fun e => { e with sessions := e.sessions.map fun x => if x.id = id then f x else x }

/-- FINISH: the handshake of the session is complete. -/
def execFinish (r : SpdmReq) (s : State) : Host.Outcome State Fault Refusal :=
  .next (s.spdmAt r .negotiated fun s e => match e.session r with
    | none => (s, spdmError r errSession 0)
    | some x =>
      if x.open_ then (s, spdmError r errUnexpected 0)
      else (s.updSession r.h x.id fun x => { x with open_ := true }, spdmResp r 0x65 0 0 []))

/-- HEARTBEAT. -/
def execSpdmHeartbeat (r : SpdmReq) (s : State) : Host.Outcome State Fault Refusal :=
  .next (s.spdmIn r fun s _ _ => (s, spdmResp r 0x68 0 0 []))

/-- KEY_UPDATE: 1 and 2 update keys, 3 verifies. -/
def execKeyUpdate (r : SpdmReq) (s : State) : Host.Outcome State Fault Refusal :=
  .next (s.spdmIn r fun s _ x =>
    if r.p1 = 1 ∨ r.p1 = 2 then
      (s.updSession r.h x.id fun x => { x with updates := x.updates + 1 }, spdmResp r 0x69 r.p1.toNat r.p2.toNat [])
    else if r.p1 = 3 then (s, spdmResp r 0x69 3 r.p2.toNat [])
    else (s, spdmError r errInvalid 0))

/-- END_SESSION: the session and its keys are gone (R402). -/
def execEndSession (r : SpdmReq) (s : State) : Host.Outcome State Fault Refusal :=
  .next (s.spdmIn r fun s _ x =>
    (s.updEp r.h fun e => { e with sessions := e.sessions.filter fun y => y.id != x.id }, spdmResp r 0x6C 0 0 []))

/-- SPDM_UNSUPPORTED_REQUEST. -/
def execSpdmUnsupportedRequest (r : SpdmReq) (s : State) : Host.Outcome State Fault Refusal :=
  .next (s.spdm r fun s _ => (s, spdmError r errUnsupported 0))

/-! ### Chunks (R405) -/

/-- The state that a request leaves. -/
def nextOf (s : State) (o : Host.Outcome State Fault Refusal) : State :=
  match o with
  | .next t => t
  | _ => s

/-- A large request runs by its code, like one that came whole. -/
def runLarge (r : SpdmReq) (msg : Bytes) (s : State) : State :=
  let q : SpdmReq := { r with
    version := msg.getD 0 0, p1 := msg.getD 2 0, p2 := msg.getD 3 0, body := msg.drop 4 }
  nextOf s (match (msg.getD 1 0).toNat with
    | 0x81 => execGetDigests q s
    | 0x82 => execGetCertificate q s
    | 0x83 => execChallenge q s
    | 0x84 => execGetVersion q s
    | 0xE0 => execGetMeasurements q s
    | 0xE1 => execGetCapabilities q s
    | 0xE3 => execNegotiateAlgorithms q s
    | 0xE4 => execKeyExchange q s
    | 0xE5 => execFinish q s
    | 0xE8 => execSpdmHeartbeat q s
    | 0xE9 => execKeyUpdate q s
    | 0xEC => execEndSession q s
    | _ => execSpdmUnsupportedRequest q s)

/-- The response that a large request has sent, and the state without it. -/
def State.takeResponse (s : State) : State × Bytes :=
  match s.out with
  | .spdm _ b :: rest => ({ s with out := rest }, b)
  | _ => (s, [])

/-- CHUNK_SEND: chunks arrive in order under one handle; the last one runs the large request and brings its answer. -/
def execChunkSend (r : SpdmReq) (s : State) : Host.Outcome State Fault Refusal :=
  .next (s.spdmAt r .negotiated fun s e =>
    let seq := fld r.body 0 2
    let n := fld r.body 4 4
    let data := (r.body.drop (if seq = 0 then 12 else 8)).take n
    let wrong := (seq ≠ 0 ∧ (r.p2.toNat ≠ e.chunkHandle ∨ seq ≠ e.chunkSeq)) ∨ data.length ≠ n
    if wrong then (s.updEp r.h fun e => { e with chunkIn := [], chunkSeq := 0 }, spdmError r errInvalid 0)
    else
      let got := if seq = 0 then data else e.chunkIn ++ data
      if bit r.p1.toNat 0 then
        let a := (runLarge r got (s.updEp r.h fun e => { e with chunkIn := [], chunkSeq := 0 })).takeResponse
        (a.1, spdmResp r 0x05 0 r.p2.toNat (leBytes 2 seq ++ a.2))
      else
        (s.updEp r.h fun e => { e with chunkHandle := r.p2.toNat, chunkSeq := seq + 1, chunkIn := got },
          spdmResp r 0x05 0 r.p2.toNat (leBytes 2 seq)))

/-- CHUNK_GET: the next chunk of the large response that waits. -/
def execChunkGet (r : SpdmReq) (s : State) : Host.Outcome State Fault Refusal :=
  .next (s.spdmAt r .negotiated fun s e =>
    let seq := fld r.body 2 2
    if e.chunkOut.isEmpty ∨ r.p2.toNat ≠ e.chunkHandle ∨ seq ≠ e.chunkSeq then (s, spdmError r errInvalid 0)
    else
      let head := if seq = 0 then 16 else 12
      let room := Nat.max 1 (e.dataSize - head)
      let part := e.chunkOut.take room
      let rest := e.chunkOut.drop room
      (s.updEp r.h fun e => { e with chunkOut := rest, chunkSeq := seq + 1 },
        spdmResp r 0x06 (boolNat rest.isEmpty) r.p2.toNat (leBytes 2 seq ++ [0, 0] ++ leBytes 4 part.length ++
          (if seq = 0 then leBytes 4 e.chunkOut.length else []) ++ part)))

/-! ### IDE_KM (R407) -/

/-- A vendor-defined response of the PCI-SIG: protocol 0 IDE_KM or 1 TDISP, and its payload. -/
def vendorResp (r : SpdmReq) (protocol : Nat) (payload : Bytes) : Bytes :=
  spdmResp r 0x7E 0 0 (leBytes 2 3 ++ [2] ++ leBytes 2 1 ++ leBytes 2 (payload.length + 1) ++ leBytes 1 protocol ++ payload)

/-- The six combinations of direction and sub-stream. -/
def subCount : Nat := 6

/-- Streams that have a key. -/
def Endpoint.streams (e : Endpoint) : List Nat := (e.ide.map (·.stream)).eraseDups

/-- A stream is in the secure state when every direction and sub-stream has an active key set. -/
def Endpoint.isSecure (e : Endpoint) (stream : Nat) : Bool :=
  (List.range subCount).all fun k => e.ide.any fun x => x.stream == stream && x.sub == k && x.active

/-- The list of secure streams follows the keys. -/
def State.settleStream (s : State) (h stream : Nat) : State :=
  s.updEp h fun e => { e with
    secure := if e.isSecure stream then (if e.secure.contains stream then e.secure else e.secure ++ [stream])
      else e.secure.filter (· != stream) }

/-- A stream has left the secure state: the TDIs bound to it enter ERROR (R408). -/
def State.streamLost (s : State) (h stream : Nat) : State :=
  (List.range 17).foldl (fun (s : State) k => if (s.func h k).stream = some stream then s.tdiError h k else s) s

/-- QUERY: what the standard reports of a port is left open. -/
def execQuery (r : SpdmReq) (s : State) : Host.Outcome State Fault Refusal :=
  .next (s.spdmIn r fun s _ _ =>
    let d := s.filler 4
    (d.2, vendorResp r 0 ([1] ++ d.1)))

/-- KEY_PROG: 32 selective streams for each endpoint, key sets K0 and K1 for each direction and sub-stream; the acknowledgement
says whether the key was taken. -/
def execKeyProg (r : SpdmReq) (stream : Nat) (set_ : Bool) (sub : Nat) (key : BitVec 256) (iv : BitVec 64) (s : State) :
    Host.Outcome State Fault Refusal :=
  .next (s.spdmIn r fun s e _ =>
    let ack (st : Nat) : Bytes := vendorResp r 0 ([3, 0, 0] ++ leBytes 1 stream ++ leBytes 1 st ++ leBytes 1 (boolNat set_ + 2 * sub))
    let same (x : IdeKey) : Bool := x.stream == stream && x.set_ == set_ && x.sub == sub
    if 255 < stream ∨ subCount ≤ sub then (s, ack 3)
    else if (e.streams.contains stream = false ∧ 32 ≤ e.streams.length) ∨ e.ide.any (fun x => same x && x.active) = true then (s, ack 4)
    else (s.updEp r.h fun e => { e with ide := e.ide.filter (fun x => !same x) ++ [⟨stream, set_, sub, key, iv, false⟩] }, ack 0))

/-- K_SET_GO: the key set becomes the active one of its direction and sub-stream. -/
def execKSetGo (r : SpdmReq) (stream : Nat) (set_ : Bool) (sub : Nat) (s : State) : Host.Outcome State Fault Refusal :=
  .next (s.spdmIn r fun s e _ =>
    let ack := vendorResp r 0 ([6, 0, 0] ++ leBytes 1 stream ++ leBytes 1 (boolNat set_ + 2 * sub))
    if e.ide.any fun x => x.stream == stream && x.set_ == set_ && x.sub == sub then
      ((s.updEp r.h fun e => { e with ide := e.ide.map fun x =>
        if x.stream = stream ∧ x.sub = sub then { x with active := x.set_ == set_ } else x }).settleStream r.h stream, ack)
    else (s, ack))

/-- K_SET_STOP: the key set is invalid; a stream that was secure leaves that state. -/
def execKSetStop (r : SpdmReq) (stream : Nat) (set_ : Bool) (sub : Nat) (s : State) : Host.Outcome State Fault Refusal :=
  .next (s.spdmIn r fun s e _ =>
    let was := e.secure.contains stream
    let s := (s.updEp r.h fun e => { e with ide := e.ide.filter fun x =>
      !(x.stream == stream && x.set_ == set_ && x.sub == sub) }).settleStream r.h stream
    let s := if was && !(s.endpoint r.h).secure.contains stream then s.streamLost r.h stream else s
    (s, vendorResp r 0 ([6, 0, 0] ++ leBytes 1 stream ++ leBytes 1 (boolNat set_ + 2 * sub))))

/-! ### TDISP (R408) -/

/-- A TDISP message: version 1.0, type, interface, payload. -/
def tdispResp (r : SpdmReq) (type fn : Nat) (payload : Bytes) : Bytes :=
  vendorResp r 1 ([0x10] ++ leBytes 1 type ++ [0, 0] ++ leBytes 4 fn ++ zeroes 8 ++ payload)

/-- TDISP_ERROR. -/
def tdispError (r : SpdmReq) (fn code : Nat) : Bytes := tdispResp r 0x7F fn (leBytes 4 code ++ leBytes 4 0)

/-- Run a TDISP request on the TDI of a virtual function; the physical function is none. -/
def State.tdisp (s : State) (r : SpdmReq) (fn : Nat) (body : State → Func → SpdmAnswer) : State :=
  s.spdmIn r fun s _ _ =>
    if fn = 0 ∨ s.fnEnabled r.h fn = false then (s, tdispError r fn 0x0101) else body s (s.func r.h fn)

/-- GET_TDISP_VERSION: 1.0. -/
def execGetTdispVersion (r : SpdmReq) (fn : Nat) (s : State) : Host.Outcome State Fault Refusal :=
  .next (s.tdisp r fn fun s _ => (s, tdispResp r 0x01 fn [1, 0x10]))

/-- GET_TDISP_CAPABILITIES: what the standard reports is left open. -/
def execGetTdispCapabilities (r : SpdmReq) (fn : Nat) (s : State) : Host.Outcome State Fault Refusal :=
  .next (s.tdisp r fn fun s _ =>
    let d := s.filler 28
    (d.2, tdispResp r 0x02 fn d.1))

/-- LOCK_INTERFACE_REQUEST: from CONFIG_UNLOCKED, on a stream in the secure state; the answer carries a new nonce. -/
def execLockInterfaceRequest (r : SpdmReq) (fn : Nat) (stream : Nat) (s : State) : Host.Outcome State Fault Refusal :=
  .next (s.tdisp r fn fun s f =>
    if f.tdi ≠ .unlocked then (s, tdispError r fn 0x0004)
    else if (s.endpoint r.h).secure.contains stream = false then (s, tdispError r fn 0x0001)
    else
      let n := s.filler 32
      (n.2.updFunc r.h fn fun f => { f with tdi := .locked, stream := some stream, nonce := n.1 }, tdispResp r 0x03 fn n.1))

/-- The interface report: the mailbox and doorbell pages and BAR2 as TEE ranges, the rest of BAR0 as a non-TEE range, and base,
size and enable of the eight queues (R408, 17 R463, R475). -/
def interfaceReport (f : Func) : Bytes :=
  let range (page pages : Nat) (nonTee : Bool) (bar : Nat) : Bytes :=
    leBytes 8 page ++ leBytes 4 pages ++ leBytes 2 (4 * boolNat nonTee) ++ leBytes 2 bar
  let queues : Bytes := (List.range 8).flatMap fun q =>
    let x := fmGetD f.queues q {}
    leBytes 8 x.base.toNat ++ leBytes 1 x.size.toNat ++ leBytes 1 (boolNat x.enable)
  zeroes 12 ++ leBytes 4 3 ++ range 0 2 false 0 ++ range 2 14 true 0 ++ range 0 0x400000 false 2 ++ leBytes 4 queues.length ++ queues

/-- GET_DEVICE_INTERFACE_REPORT: a portion of the report, in CONFIG_LOCKED or RUN. -/
def execGetDeviceInterfaceReport (r : SpdmReq) (fn : Nat) (offset length : Nat) (s : State) : Host.Outcome State Fault Refusal :=
  .next (s.tdisp r fn fun s f =>
    let b := interfaceReport f
    if ¬ (f.tdi = .locked ∨ f.tdi = .run) then (s, tdispError r fn 0x0004)
    else if b.length ≤ offset then (s, tdispError r fn 0x0001)
    else
      let part := (b.drop offset).take length
      (s, tdispResp r 0x04 fn (leBytes 2 part.length ++ leBytes 2 (b.length - offset - part.length) ++ part)))

/-- Code of a TDI state. -/
def TdiState.code : TdiState → Nat
  | .unlocked => 0
  | .locked => 1
  | .run => 2
  | .error => 3

/-- GET_DEVICE_INTERFACE_STATE. -/
def execGetDeviceInterfaceState (r : SpdmReq) (fn : Nat) (s : State) : Host.Outcome State Fault Refusal :=
  .next (s.tdisp r fn fun s f => (s, tdispResp r 0x05 fn (leBytes 1 f.tdi.code)))

/-- START_INTERFACE_REQUEST: from CONFIG_LOCKED, with the nonce of the lock. -/
def execStartInterfaceRequest (r : SpdmReq) (fn : Nat) (nonce : Bytes) (s : State) : Host.Outcome State Fault Refusal :=
  .next (s.tdisp r fn fun s f =>
    if f.tdi ≠ .locked then (s, tdispError r fn 0x0004)
    else if nonce ≠ f.nonce then (s, tdispError r fn 0x0102)
    else (s.updFunc r.h fn fun f => { f with tdi := .run, nonce := [] }, tdispResp r 0x06 fn []))

/-- STOP_INTERFACE_REQUEST: back to CONFIG_UNLOCKED; a Darkroom partition that is not EMPTY is reset. -/
def execStopInterfaceRequest (r : SpdmReq) (fn : Nat) (s : State) : Host.Outcome State Fault Refusal :=
  .next (s.tdisp r fn fun s _ =>
    let s := s.updFunc r.h fn fun f => { f with tdi := .unlocked, stream := none, nonce := [] }
    let s := match s.boundTo r.h fn with
      | none => s
      | some pid => match s.part pid with
        | none => s
        | some p => if p.dark ∧ p.state ≠ .empty then s.resetPartition pid 3 else s
    (s, tdispResp r 0x07 fn []))

end Sys2Proof.Machine
end

