-- ==== Sys2Proof/Machine/Boot.lean ====
section
/-! DEFINITION. Power-on, bring-up and warm reset (18 R478 to R485, 16 R451 to R455, 20 R513 to R517), EASEL_FAULT (16 R428,
18 R488), the committing of the log (18 R491), patrol scrubbing and failed pseudo-channels (07 R193, R194). -/

namespace Sys2Proof.Machine

/-! ### The log in NVM (18 R491) -/

/-- The ring overwrites its oldest entries beyond 131,072 records; `n` is the number of records in the list. -/
def trimRing : Nat → List LogEntry → List LogEntry
  | _, [] => []
  | n, e :: rest => if n ≤ 131072 then e :: rest else trimRing (n - e.size) rest

/-- The buffered entries are committed, and LOG_OVERFLOW then counts those that were lost (R491, R493). -/
def State.commitLog (s : State) : State :=
  let all := s.log.ring ++ s.log.buf
  let s := { s with log := { s.log with ring := trimRing (all.foldl (fun acc e => acc + e.size) 0) all, buf := [] } }
  if s.log.lost = 0 then s
  else
    let n := s.log.lost
    ({ s with log := { s.log with lost := 0 } }).logEv 0x000E 0xFF controlUnit (Nat.min n 0xFFFFFFFF)

/-- LOG_COMMIT (R491). -/
def execLogCommit (s : State) : Host.Outcome State Fault Refusal :=
  .next (if s.boot.standby && decide (3 ≤ s.boot.step) && !s.boot.easelDead then s.commitLog else s)

/-- The index after the highest one found in NVM (R491). -/
def Log.afterRing (l : Log) : Nat :=
  match l.ring.getLast? with
  | some e => e.index + e.size
  | none => 0

/-! ### Reset of the whole part (18 R479, R480, R482) -/

/-- A recorded partition before its restoration (R480). -/
def PartRecord.skeleton (r : PartRecord) : Partition :=
  { tiles := r.tiles, hostDie := r.hostDie, fn := r.fn, dark := r.dark, created := r.created
    state := if r.faulted then .faulted else .tainted
    busy := if r.scrubbing then some (.scrub none) else none }

/-- A port of an unpowered fabric die; what its identity record and its counters keep over a warm reset (10 R303, 11 R312,
18 R479). -/
def Port.unpowered (p : Port) (cold : Bool) : Port :=
  if cold then { state := .off }
  else { state := .off, cnt := p.cnt, trained := p.trained, trainedAt := p.trainedAt, seenSerial := p.seenSerial, seenPort := p.seenPort,
         rtt := p.rtt }

/-- What a reset of the whole part leaves: NVM, what manufacture fixed, pins driven from outside, and after a warm reset the
port counters, the sensors and the JTAG port (R479, 20 R516, R517). Contents of the stores and of HBM become undefined; no
access reaches them before SCRUB. -/
def State.cleared (s : State) (cold : Bool) : State :=
  let keepPerst (h : Nat) : Endpoint := { linkUp := false, perstReleased := (s.endpoint h).perstReleased }
  let hot := s.power.temps.any fun q => match (keyClass q.1).2.2.1 with
    | some l => decide (l ≤ q.2)
    | none => false
  { State.reset with
    model := s.model, id := s.id, nvm := s.nvm, staged := s.staged, active := s.active, activeB := s.activeB
    parts := fmMap (fun _ (r : PartRecord) => r.skeleton) s.nvm.records
    ports := (List.range 64).map fun q => (q, (s.port q).unpowered cold)
    eps := [(0, keepPerst 0), (1, keepPerst 1)]
    power := if cold then { millivolts := s.power.millivolts }
      else { cls := s.power.cls, millivolts := s.power.millivolts, temps := s.power.temps, warn := s.power.warn, limit := s.power.limit }
    boot := { step := 0, held := s.boot.held, supply48 := s.boot.supply48, failing := s.boot.failing }
    mon := { enabled := false }
    jtag := if cold then {} else s.jtag
    pins := { pwrOk := false, fault := false, therm := !cold && hot, phyReset := true, phyLink := s.pins.phyLink }
    log := { next := if cold then s.log.afterRing else s.log.next, ring := s.log.ring }
    free := s.free, firmware := s.firmware, now := s.now, out := s.out, pending := s.pending }

/-- The JTAG instruction register holds the part in reset (19 R507). -/
def State.jtagHolds (s : State) : Bool := s.jtag.ir == 0x00 || s.jtag.ir == 0x04 || s.jtag.ir == 0x05

/-- Steps 1 to 6 of a warm reset (R482); kind 1 by pin, 2 by command (R493). -/
def State.warmDown (s : State) (kind : Nat) : State :=
  let s := s.logEv 0x000C 0xFF noUnit kind
  s.commitLog.commitLog.cleared false

/-! ### Bring-up (18 R481) -/

/-- A line of the boot ROM or of the monitor (19 R498, R499). -/
def State.print (s : State) (word : String) (nums : List Int) : State := s.emit (.line word nums)

/-- The banner (19 R498): model, serial, stepping, JEP106 identity, MON; the version stands before MON where an image is
selected. -/
def State.banner (s : State) (cold : Bool) : State :=
  let fw : List Int := if cold then [] else [match (if s.nvm.selectB then s.nvm.imageB else s.nvm.imageA) with
    | some i => i.version.toNat
    | none => 0]
  s.print (if cold then "SAFELIGHT FW=NONE" else "SAFELIGHT") ([(variantNumber s.model : Int), s.id.serial.toNat, s.id.stepping.toNat] ++ fw ++
    [(s.id.jep106.toNat : Int), boolNat s.mon.enabled])

/-- A step misses its bound (R481, 19 R498). -/
def State.bringupFailed (s : State) (n : Nat) : State :=
  (s.print "BOOT FAILED" [n, 0x300D]).partFatal 0x300D 0xFF controlUnit n

/-- The image of a slot exists and verifies (16 R453, R455). -/
def State.verifies (s : State) (b : Bool) (obs : BootObs) : Bool :=
  match (if b then s.nvm.imageB else s.nvm.imageA) with
  | some i => i.genuine && (if b then obs.imageOk.2 else obs.imageOk.1)
  | none => false

/-- The image of a slot runs; a staged image that runs is staged no more (15 R419, 16 R455). -/
def State.runImage (s : State) (b : Bool) : State :=
  match (if b then s.nvm.imageB else s.nvm.imageA) with
  | some i => { s with
      active := i, activeB := b
      staged := match s.staged with | some (c, _) => if c = b then none else s.staged | none => none }
  | none => s

/-- Step 2: the firmware image is selected and verified (16 R451, R455). The flag says that the selected image failed. -/
def State.selectImage (s : State) (obs : BootObs) : Option (State × Bool) :=
  let b := s.nvm.selectB
  if s.verifies b obs then some (s.runImage b, false)
  else if s.verifies (!b) obs then some (s.runImage (!b), true)
  else none

/-- Step 3: firmware loads what NVM keeps (16 R451, R452, R455, 14 R388, 18 R481, R488). -/
def State.startFirmware (s : State) (cold fallback : Bool) (obs : BootObs) : State :=
  let set := s.nvm.settings
  let old := s.power.cls
  let s := { s with
    settings := set
    power := { s.power with cls := set.capClass.toNat }
    time := { s.time with jump := set.jump.toNat } }
  let s := (List.range (Nat.min obs.torn 1024)).foldl (fun (s : State) _ => s.logEv 0x0008 0xFF controlUnit 0) s
  let s := if s.nvm.easelFault then
      ({ s with nvm := { s.nvm with easelFault := false } }).logEv 0x300B 0xFF controlUnit 0
    else s
  let s := if fallback then
      ((s.commitNvm obs.nvm fun n => { n with selectB := s.activeB }).1).logEv 0x0006 0xFF controlUnit 0 (digestConts s.active.digest)
    else s
  let s := if cold then s.logEv 0x000C 0xFF noUnit 0 else s
  if cold ∨ old = set.capClass.toNat then s else s.logEv 0x0904 0xFF controlUnit 0

/-- Step 4: the enabled endpoints train (17 R458, 20 R516). -/
def State.startHosts (s : State) : State :=
  [0, 1].foldl (fun (s : State) h => s.updEp h fun e =>
    let en := s.settings.endpoints.getLsbD h
    { e with enabled := en, linkUp := en && e.perstReleased }) s

/-- Step 5: the fitted ports begin training (10 R294). -/
def State.startPorts (s : State) : State :=
  { s with ports := (List.range 64).map fun q =>
      (q, if s.hasPort q then { s.port q with state := .training, fresh := true } else s.port q) }

/-- A pseudo-channel fails (07 R194). -/
def State.failChannel (s : State) (stack channel : Nat) : State :=
  let key := 64 * stack + channel
  if !(variantStacks s.model).testBit stack || decide (32 ≤ stack) || decide (64 ≤ channel) || s.power.failedChannels.contains key then s
  else
    let s := ({ s with power := { s.power with failedChannels := s.power.failedChannels ++ [key] } }).degrade [stack / 2]
    s.faultEach (s.ownerOf (stack / 2)).toList 0x2304 ⟨5, key, 0xFFFF⟩ 0

/-- Logical block that a position carries, within the partition that owns its tile (04 R118, 18 R492). -/
def State.carriedBlock (s : State) (region pos : Nat) : Nat :=
  let b : Option Nat := match fmGet s.nvm.remap region with
    | some k => if pos = 6 then some k else if pos = k then none else some pos
    | none => if pos = 6 then none else some pos
  match b, s.regionOwner region with
  | some b, some (_, lr) => 6 * lr + b
  | _, _ => 0xFFFF

/-- Step 7: self-test of all seven positions of every region (04 R119). -/
def State.selfTest (s : State) (failing : List (Nat × Nat)) : State :=
  let found := ((List.range 96).flatMap fun r => (List.range 7).map fun k => (r, k)).filter fun x => failing.contains x
  let s := { s with boot := { s.boot with failing := found } }
  let s := found.foldl (fun (s : State) x =>
    s.logEv 0x0450 ((s.ownerOf (x.1 / 6)).getD 0xFF) ⟨2, 7 * x.1 + x.2, s.carriedBlock x.1 x.2⟩ 0) s
  s.degrade ((List.range 16).filter fun d => (List.range 6).any fun k =>
    decide (2 ≤ (found.filter fun x => x.1 == 6 * d + k).length))

/-- Step 8 for one partition (R480, 15 R426). The generation of a FAULTED one is not recorded. -/
def State.restorePart (s : State) (pid : Nat) : State :=
  match s.part pid with
  | none => s
  | some p =>
    let s := { s with power := { s.power with tilesOn := s.power.tilesOn ++ p.tiles } }
    if p.state = .faulted then
      let fr := s.draw 32 8
      fr.2.updPart pid fun p => { p with gen := BitVec.ofNat 32 fr.1 }
    else
      let g := s.drawGen pid
      match g.2 with
      | none => g.1.faultPart pid s.log.next
      | some gen =>
        let t := g.1.updPart pid fun p => { p with gen := gen, keys := p.inScrub }
        (if p.inScrub then t.logEv 0x0806 pid noUnit 0 else t).recordPart pid

/-- Step 9: the mailboxes accept commands and PTP starts if it is enabled (12 R336, R339). -/
def State.ready (s : State) : State :=
  (({ s with pins := { s.pins with pwrOk := true, phyReset := false } }).applyPtp 0).print "READY" []

/-- What a step of R481 does when it keeps its bound. -/
def State.stepEffect (s : State) (obs : BootObs) (n : Nat) : State :=
  match n with
  | 4 => s.startHosts
  | 5 => s.startPorts
  | 6 => obs.channels.foldl (fun (s : State) x => s.failChannel x.1 x.2) s
  | 7 => s.selfTest obs.failing
  | 8 => (s.parts.map (·.1)).foldl State.restorePart s
  | 9 => s.ready
  | _ => s

/-- One step from 4 on. -/
def State.lateStep (s : State) (obs : BootObs) (n : Nat) : State :=
  if s.boot.step + 1 ≠ n ∨ s.boot.fatal.isSome = true then s
  else if n = 4 ∧ s.boot.supply48 = false then s.print "BOOT WAIT 48V" [4]
  else
    let s := s.print "BOOT" [n]
    if obs.missed = some n then s.bringupFailed n
    else
      let s := s.stepEffect obs n
      { s with boot := { s.boot with step := n } }

/-- Steps 4 to 9. -/
def State.lateSteps (s : State) (obs : BootObs) : State :=
  [4, 5, 6, 7, 8, 9].foldl (fun (s : State) n => s.lateStep obs n) s

/-- Steps 2 and 3, then the rest. -/
def State.earlySteps (s : State) (cold : Bool) (obs : BootObs) : State :=
  let s := s.print "BOOT" [2]
  if obs.missed = some 2 then s.bringupFailed 2
  else match s.selectImage obs with
    | none => s.bringupFailed 2
    | some (s, fallback) =>
      let s := ({ s with boot := { s.boot with step := 2 } }).print "BOOT" [3]
      if obs.missed = some 3 then s.bringupFailed 3
      else
        let s := s.startFirmware cold fallback obs
        ({ s with boot := { s.boot with step := 3 } }).lateSteps obs

/-- The input supply as bring-up meets it: where that says more than the last measurement, the voltage is left open. -/
def State.meetSupply (s : State) (ok : Bool) : State :=
  let s := { s with boot := { s.boot with supply48 := ok } }
  let inRange := decide (40000 ≤ s.power.millivolts) && decide (s.power.millivolts ≤ 60000)
  if ok = inRange then s
  else
    let fr := s.draw 32 9
    let mv := if ok then 40000 + fr.1 % 20001 else fr.1 % 40000
    { fr.2 with power := { fr.2.power with millivolts := mv } }

/-- The straps are sampled, the banner is printed, and power-on goes on from step 2 (R482 step 7, 20 R515). -/
def State.resumeBoot (s : State) (cold : Bool) (obs : BootObs) : State :=
  let s := (({ s with mon := { enabled := obs.monEn }, boot := { s.boot with step := 1 } }).meetSupply obs.supply48).banner cold
  if obs.factory then s
  else if obs.missed = some 1 ∧ cold = true then s.bringupFailed 1
  else if cold = true ∧ obs.kat = false then s.partFatal 0x3809 0xFF controlUnit 0
  else s.earlySteps cold obs

/-- POWER_ON (R481). -/
def execPowerOn (obs : BootObs) (s : State) : Host.Outcome State Fault Refusal :=
  .next (
    let t := s.cleared true
    let t := { t with boot := { t.boot with held := false } }
    t.resumeBoot true obs)

/-- SUPPLY_48V_IN_RANGE (R481, 20 R513): a part that waits at step 4 goes on. -/
def execSupply48vInRange (obs : BootObs) (s : State) : Host.Outcome State Fault Refusal :=
  .next (
    if s.boot.standby = true ∧ s.boot.step = 3 ∧ s.boot.fatal = none ∧ s.boot.supply48 = false then
      (s.meetSupply true).lateSteps obs
    else s.meetSupply true)

/-- WARM_RESET (R478, R482): one that meets another is merged with it. -/
def execWarmReset (pin : Bool) (obs : BootObs) (s : State) : Host.Outcome State Fault Refusal :=
  .next (
    if s.boot.standby = false ∨ s.boot.held = true then s
    else if s.jtagHolds then { s with boot := { s.boot with held := pin } }
    else if pin then
      let t := s.warmDown 1
      { t with boot := { t.boot with held := true } }
    else if s.boot.warmPending then (s.warmDown 2).resumeBoot false obs
    else s)

/-- WARM_RESET_N_RELEASE (R482 step 7, 20 R515). -/
def execWarmResetNRelease (obs : BootObs) (s : State) : Host.Outcome State Fault Refusal :=
  .next (
    if s.boot.held = false then s
    else
      let s := { s with boot := { s.boot with held := false } }
      if s.jtagHolds then s else s.resumeBoot false obs)

/-! ### EASEL_FAULT (16 R428, 18 R488) -/

/-- EASEL_FAULT: the fault is kept in NVM for the next bring-up, every domain goes off and nothing answers any more. -/
def execEaselFault (core : Nat) (s : State) : Host.Outcome State Fault Refusal :=
  .next (
    if s.boot.easelDead = true ∨ 3 < core ∨ s.boot.step < 3 then s
    else
      let s := s.partDown 0x300B s.log.next
      { s with nvm := { s.nvm with easelFault := true }, boot := { s.boot with easelDead := true } })

/-! ### Memory (07 R193, R194) -/

/-- PATROL_SCRUB (R193): a patrol read of one 64-byte line. How the detail word carries the address is left open. -/
def execPatrolScrub (addr : Nat) (rd : Ecc) (s : State) : Host.Outcome State Fault Refusal :=
  .next (
    let tile := addr / 0x4000000000
    let stack := (hbmChannel s.model addr).1
    if 15 < tile ∨ (variantStacks s.model).testBit stack = false ∨ (variantStacks s.model).testBit 1 = false ∧ addr.testBit 37 = true ∨
        s.boot.step < 6 ∨ s.boot.fatal.isSome = true then s
    else
      let u := channelUnit s.model addr
      let pid := (s.ownerOf tile).getD 0xFF
      let s := s.partTraffic pid .patrol none (addr / 64 * 64) 64
      match rd with
      | .good => s
      | .corrected => s.hbmCorrected pid (addr / 64 * 64)
      | .uncorrectable =>
        let s := if s.poison.contains (addr / 64) then s else { s with poison := (addr / 64) :: s.poison }
        let fr := s.draw 32 10
        fr.2.logEv 0x0303 pid u fr.1)

/-- HBM_CHANNEL_FAILED (R194). -/
def execHbmChannelFailed (stack channel : Nat) (s : State) : Host.Outcome State Fault Refusal :=
  .next (if s.boot.step < 6 ∨ s.boot.fatal.isSome = true then s else s.failChannel stack channel)

end Sys2Proof.Machine
end

