-- ==== Sys2Proof/Machine/Monitor.lean ====
section
/-! DEFINITION. The Safelight monitor and the JTAG port (19 R496 to R507; 15 R421 to R423). -/

namespace Sys2Proof.Machine

/-! ### The monitor (R499 to R502) -/

/-- A line of an answer: its keyword and its numbers. -/
abbrev MonOut := String × List Int

/-- Send one line, or drop it where the buffer lacks room (R502). -/
def State.say (s : State) (fits : Bool) (l : MonOut) : State :=
  if !fits then { s with mon := { s.mon with dropped := s.mon.dropped + 1 } }
  else
    let s := if s.mon.dropped = 0 then s
      else ({ s with mon := { s.mon with dropped := 0 } }).print "DROPPED" [(s.mon.dropped : Int)]
    s.print l.1 l.2

/-- Send the lines of an answer. -/
def State.sayAll : List Bool → List MonOut → State → State
  | _, [], s => s
  | fits, l :: rest, s => State.sayAll (fits.drop 1) rest (s.say (fits.headD true) l)

/-- The monitor reads commands: it is enabled and the part is READY; EASEL_FAULT silences it (R497, R499, R502). -/
def State.monReads (s : State) : Bool := s.mon.enabled && decide (9 ≤ s.boot.step) && !s.boot.easelDead

def okLine : MonOut := ("OK", [])
def errSyntax : MonOut := ("ERR SYNTAX", [])
def errLength : MonOut := ("ERR LENGTH", [])
def errLocked : MonOut := ("ERR LOCKED", [])

/-- A refusal under the debug lockout is logged once per hour (15 R423). -/
def State.debugRefused (s : State) (key : Nat) : State := s.logHourly 0x0804 0xFF key noUnit 0

/-- Answer a command line: none where its arguments are wrong (R499). -/
def State.answer (s : State) (l : MonLine) (body : State → Option (State × List MonOut)) : State :=
  if !s.monReads then s
  else
    let s := s.print "ECHO" [(l.len : Int)]
    if 80 < l.len then State.sayAll l.fits [errLength] s
    else match body s with
      | some (t, lines) => State.sayAll l.fits lines t
      | none => State.sayAll l.fits [errSyntax] s

/-- An answer that only shows something. -/
def shows (s : State) (ok : Bool) (lines : List MonOut) : Option (State × List MonOut) :=
  if ok then some (s, lines ++ [okLine]) else none

/-- Bytes as numbers on a line. -/
def byteNums (b : Bytes) : List Int := b.map fun (x : Byte) => (x.toNat : Int)

/-- MONITOR_HELP (R500). -/
def execMonitorHelp (l : MonLine) (s : State) : Host.Outcome State Fault Refusal :=
  .next (s.answer l fun s => shows s (l.args == [])
    (["help", "ident", "status", "log [n]", "link [q]", "ports [q]", "temp", "power", "errors", "perf <block>",
      "prof <block> <k>", "prof off"].map fun w => (w, [])))

/-- MONITOR_IDENT: the fields of IDENTIFY (R500, 16 R438). -/
def execMonitorIdent (l : MonLine) (s : State) : Host.Outcome State Fault Refusal :=
  .next (s.answer l fun s => shows s (l.args == []) [("ident", byteNums (identifyResp s))])

/-- One partition of `status`: index, state, tiles, mode flags, Shutter number and Exposure index (R500). -/
def partLine (s : State) (q : Nat × Partition) : MonOut :=
  if s.lockout && q.2.inAgree then ("DEVELOPING", [(q.1 : Int)])
  else ("part", [(q.1 : Int), q.2.state.code, maskOf q.2.tiles, boolNat q.2.dark + 2 * boolNat q.2.negative.fixed,
    q.2.frame.shutter.toNat, q.2.frame.exposure.toNat])

/-- MONITOR_STATUS (R500). -/
def execMonitorStatus (l : MonLine) (s : State) : Host.Outcome State Fault Refusal :=
  .next (s.answer l fun s => shows s (l.args == [])
    (("status", [(s.boot.step : Int), s.time.state.toNat, (s.auditNow.1).toNat, s.owner.getD 0, s.power.cls]) :: s.parts.map (partLine s)))

/-- The last n of a list. -/
def lastN {α : Type} (n : Nat) (l : List α) : List α := l.drop (l.length - n)

/-- An entry of the log on one line, in the fields of 18 R492, filtered as for a physical function (18 R494). -/
def logLine (s : State) (e : LogEntry) : MonOut := ("log", byteNums (entryRecords s false e).flatten)

/-- MONITOR_LOG: the last n entries, at most 64; without n, 64 (R500). -/
def execMonitorLog (l : MonLine) (s : State) : Host.Outcome State Fault Refusal :=
  .next (s.answer l fun s => shows s (decide (l.args.length ≤ 1))
    ((lastN (Nat.min 64 (l.args.headD 64)) (s.log.ring ++ s.log.buf)).map (logLine s)))

/-- An optional port argument: the ports to show. -/
def portArg : List Nat → Option (List Nat)
  | [] => some (List.range 64)
  | [q] => if q < 64 then some [q] else none
  | _ => none

/-- MONITOR_LINK: state, verdict and identity record (R500, 11 R312). -/
def execMonitorLink (l : MonLine) (s : State) : Host.Outcome State Fault Refusal :=
  .next (s.answer l fun s => shows s (portArg l.args).isSome
    (((portArg l.args).getD []).map fun (q : Nat) => ("link", byteNums (identityRecord s q))))

/-- Flagged packets of each landing window of a partition (09 R263). -/
def flaggedLine (q : Nat × Partition) : List MonOut :=
  q.2.flagged.map fun w => ("flagged", [(q.1 : Int), (w.1 : Int), (w.2 : Int)])

/-- MONITOR_PORTS (R500, 10 R303): without a port also the flagged packets, which R263 has the monitor show and R500 gives to no
command (entry 19). -/
def execMonitorPorts (l : MonLine) (s : State) : Host.Outcome State Fault Refusal :=
  .next (s.answer l fun s => shows s (portArg l.args).isSome
    ((((portArg l.args).getD []).map fun (q : Nat) =>
        ("ports", ((q :: (s.port q).cnt.nums).map fun (n : Nat) => (n : Int)))) ++
      (if l.args = [] then s.parts.flatMap flaggedLine else [])))

/-- The hottest die of a kind. -/
def hottest (temps : FMap Int) (kind : Nat) : Option Int :=
  (temps.filter fun (q : Nat × Int) => q.1 / 64 == kind).foldl (fun (acc : Option Int) (q : Nat × Int) =>
    match acc with
    | some t => some (if t < q.2 then q.2 else t)
    | none => some q.2) none

/-- Round down to a multiple of 5 °C (14 R395). -/
def coarseTemp (t : Int) : Int := t - t % 5

/-- MONITOR_TEMP (R500): during the lockout the hottest of each kind only, coarsened. -/
def execMonitorTemp (l : MonLine) (s : State) : Host.Outcome State Fault Refusal :=
  .next (s.answer l fun s =>
    let top : List MonOut := (List.range 4).filterMap fun (k : Nat) => (hottest s.power.temps k).map fun (t : Int) =>
      ("hottest", [(k : Int), if s.lockout then coarseTemp t else t])
    let all : List MonOut := s.power.temps.map fun (q : Nat × Int) => ("temp", [(q.1 / 64 : Int), (q.1 % 64 : Int), q.2])
    shows s (l.args == []) (top ++ (if s.lockout then [] else all)))

/-- Step and throttle state of a partition (14 R395). -/
def stepLine (q : Nat × Partition) : MonOut :=
  ("step", [(q.1 : Int), q.2.step, boolNat q.2.throttled])

/-- MONITOR_POWER (R500): during the lockout the 1 s average, which no other rule follows, as a free multiple of 50 W, whole
volts, and the steps of Open partitions. -/
def execMonitorPower (l : MonLine) (s : State) : Host.Outcome State Fault Refusal :=
  .next (s.answer l fun s =>
    if s.lockout then
      let fr := s.draw 8 11
      shows fr.2 (l.args == []) (("power", [(50 * fr.1 : Int), (s.power.millivolts / 1000 : Int)]) ::
        (s.parts.filter fun q => !q.2.dark).map stepLine)
    else shows s (l.args == []) (("power", [(s.power.a20 : Int), s.power.a1, s.power.millivolts]) :: s.parts.map stepLine))

/-- MONITOR_ERRORS: the last 16 entries of severity 1 and above (R500). -/
def execMonitorErrors (l : MonLine) (s : State) : Host.Outcome State Fault Refusal :=
  .next (s.answer l fun s => shows s (l.args == [])
    ((lastN 16 ((s.log.ring ++ s.log.buf).filter fun e => decide (0x1000 ≤ e.code.toNat))).map (logLine s)))

/-- The counter record of a block as R503 gives it. -/
def recordNums (s : State) (b : Nat) : List Int := (s.block b).perfSnap.map fun (n : Nat) => (n : Int)

/-- MONITOR_PERF (R500, R503). -/
def execMonitorPerf (l : MonLine) (s : State) : Host.Outcome State Fault Refusal :=
  .next (s.answer l fun s => match l.args with
    | [b] => if 575 < b then none
        else if s.lockout then some (s.debugRefused 0x100, [errLocked])
        else some (s, [("perf", recordNums s b), okLine])
    | _ => none)

/-- MONITOR_PROF (R500, R501). -/
def execMonitorProf (l : MonLine) (s : State) : Host.Outcome State Fault Refusal :=
  .next (s.answer l fun s => match l.args with
    | [b, k] => if 575 < b ∨ k = 0 ∨ 65535 < k then none
        else if s.lockout then some (s.debugRefused 0x100, [errLocked])
        else if (s.ownerOf (b / 36)).isNone then some (s, [errLocked])
        else some ({ s with mon := { s.mon with prof := some (b, k, k) } }, [okLine])
    | _ => none)

/-- MONITOR_PROF_OFF (R500). -/
def execMonitorProfOff (l : MonLine) (s : State) : Host.Outcome State Fault Refusal :=
  .next (s.answer l fun s =>
    if l.args = [] then some ({ s with mon := { s.mon with prof := none } }, [okLine]) else none)

/-- MONITOR_PROF_PRINT (R500 to R502): the stream prints after k ending Shutters, and ends at a lockout or where its block lies
in no partition. -/
def execMonitorProfPrint (room : Bool) (s : State) : Host.Outcome State Fault Refusal :=
  .next (
    if !s.monReads then s
    else match s.mon.prof with
      | none => s
      | some (b, k, left) =>
        if s.lockout || (s.ownerOf (b / 36)).isNone then ({ s with mon := { s.mon with prof := none } }).say room errLocked
        else if left = 0 then ({ s with mon := { s.mon with prof := some (b, k, k) } }).say room ("perf", recordNums s b)
        else s)

/-! ### The JTAG port (R505 to R507) -/

/-- Codes that act as WARM_RESET_N held low (R507). -/
def holdCode (code : Byte) : Bool := code == 0x00 || code == 0x04 || code == 0x05

/-- Update-IR loads a code: EXTEST, CLAMP and HIGHZ hold the part in warm reset, and another instruction after them lets it go
on from step 7 of R482 (R507). -/
def State.loadIr (s : State) (code : Byte) (obs : BootObs) : State :=
  let was := s.jtagHolds
  let s := { s with jtag := { s.jtag with ir := code } }
  if s.boot.held || was == holdCode code then s
  else if was then s.resumeBoot false obs
  else s.warmDown 1

/-- An instruction that the lockout bars loads as BYPASS (R506, 15 R423). -/
def State.barred (s : State) (obs : BootObs) : State := (s.loadIr 0xFF obs).debugRefused 0x101

/-- What a data register captures, and shifts out (R506). -/
def State.capture (s : State) (v : BitVec 1024) : State :=
  ({ s with jtag := { s.jtag with dr := v } }).emit (.tdo v.toNat)

/-- No observation: EXTEST, CLAMP and HIGHZ start no bring-up. -/
def noObs : BootObs :=
  { kat := true, imageOk := (true, true), torn := 0, failing := [], channels := [], nvm := true, monEn := false, factory := false,
    missed := none, supply48 := true }

/-- EXTEST, CLAMP and HIGHZ (R506, R507). -/
def State.loadHold (s : State) (code : Byte) : State :=
  if !s.boot.standby then s
  else if s.lockout then s.barred noObs
  else s.loadIr code noObs

/-- The device identification register (R506). -/
def idcodeValue (s : State) : Nat :=
  let m := match s.model with
    | .zx960 => 0x0960
    | .zx940 => 0x0940
    | .zx920 => 0x0920
    | .zx910 => 0x0910
  s.id.stepping.toNat % 16 * 2 ^ 28 + m * 2 ^ 12 + s.id.jep106.toNat * 2 + 1

/-- TAP_RESET (R505). -/
def execTapReset (obs : BootObs) (s : State) : Host.Outcome State Fault Refusal :=
  .next (if s.boot.standby then s.loadIr 0x01 obs else s)

/-- EXTEST (R506, R507). -/
def execExtest (s : State) : Host.Outcome State Fault Refusal := .next (s.loadHold 0x00)

/-- IDCODE (R506). -/
def execIdcode (obs : BootObs) (s : State) : Host.Outcome State Fault Refusal :=
  .next (if s.boot.standby then (s.loadIr 0x01 obs).capture (BitVec.ofNat 1024 (idcodeValue s)) else s)

/-- SAMPLE/PRELOAD (R506). -/
def execSamplePreload (pins : BitVec 64) (obs : BootObs) (s : State) : Host.Outcome State Fault Refusal :=
  .next (if s.boot.standby then (s.loadIr 0x02 obs).capture (pins.setWidth 1024) else s)

/-- CLAMP (R506, R507). -/
def execClamp (s : State) : Host.Outcome State Fault Refusal := .next (s.loadHold 0x04)

/-- HIGHZ (R506, R507). -/
def execHighz (s : State) : Host.Outcome State Fault Refusal := .next (s.loadHold 0x05)

/-- DEBUG_SELECT (R506): 576 or above selects nothing. -/
def execDebugSelect (value : BitVec 16) (obs : BootObs) (s : State) : Host.Outcome State Fault Refusal :=
  .next (
    if !s.boot.standby then s
    else if s.lockout then s.barred obs
    else
      let b := value.toNat % 1024
      let s := s.loadIr 0x20 obs
      { s with jtag := { s.jtag with select := if b < 576 then some b else none } })

/-- The 1,024 bits of a counter record, word 0 first (R503, R506). -/
def recordBits (l : List Nat) : BitVec 1024 :=
  BitVec.ofNat 1024 (l.foldr (fun (w acc : Nat) => w % 2 ^ 64 + 2 ^ 64 * acc) 0)

/-- DEBUG_READ (R506). -/
def execDebugRead (obs : BootObs) (s : State) : Host.Outcome State Fault Refusal :=
  .next (
    if !s.boot.standby then s
    else if s.lockout then s.barred obs
    else
      let s := s.loadIr 0x21 obs
      s.capture (match s.jtag.select with
        | some b => recordBits (s.block b).perfSnap
        | none => 0))

/-- BYPASS, or a code that loads as BYPASS: one that is not listed, or one that the lockout bars (R506). -/
def execBypass (code : Byte) (obs : BootObs) (s : State) : Host.Outcome State Fault Refusal :=
  .next (
    if !s.boot.standby then s
    else if s.lockout && (holdCode code || code == 0x20 || code == 0x21) then (s.barred obs).capture 0
    else (s.loadIr 0xFF obs).capture 0)

end Sys2Proof.Machine
end

