-- ==== Sys2Proof/Machine/Dispatch.lean ====
section
/-! DEFINITION. One arm for each command of the table, in its order. -/

namespace Sys2Proof.Machine

/-- The effect of a command on everything but the queue. -/
def exec (i : Instr) (s : State) : Host.Outcome State Fault Refusal :=
  match i with
  | .identify e => Sys2Proof.Machine.execIdentify e s
  | .partStatus e => Sys2Proof.Machine.execPartStatus e s
  | .logRead e source maxCount start => Sys2Proof.Machine.execLogRead e source maxCount start s
  | .reset e kind => Sys2Proof.Machine.execReset e kind s
  | .resetWarm e => Sys2Proof.Machine.execResetWarm e s
  | .own e => Sys2Proof.Machine.execOwn e s
  | .handover e target => Sys2Proof.Machine.execHandover e target s
  | .release e => Sys2Proof.Machine.execRelease e s
  | .heartbeat e => Sys2Proof.Machine.execHeartbeat e s
  | .credEnroll e role kind derLength cert nvm => Sys2Proof.Machine.execCredEnroll e role kind derLength cert nvm s
  | .credRemove e slot nvm => Sys2Proof.Machine.execCredRemove e slot nvm s
  | .partCreate e tiles hostDie fn flags => Sys2Proof.Machine.execPartCreate e tiles hostDie fn flags s
  | .partDestroy e => Sys2Proof.Machine.execPartDestroy e s
  | .scrub e => Sys2Proof.Machine.execScrub e s
  | .scrubPassComplete part fail => Sys2Proof.Machine.execScrubPassComplete part fail s
  | .remap e region block direction nvm => Sys2Proof.Machine.execRemap e region block direction nvm s
  | .develop e base length options => Sys2Proof.Machine.execDevelop e base length options s
  | .expose e flags frames tReq seed => Sys2Proof.Machine.execExpose e flags frames tReq seed s
  | .halt e => Sys2Proof.Machine.execHalt e s
  | .epochStage e source switch base length => Sys2Proof.Machine.execEpochStage e source switch base length s
  | .darkslide e st sr => Sys2Proof.Machine.execDarkslide e st sr s
  | .resume e form base length rd => Sys2Proof.Machine.execResume e form base length rd s
  | .exportSlides e proof chainLength chain => Sys2Proof.Machine.execExportSlides e proof chainLength chain s
  | .print e first last => Sys2Proof.Machine.execPrint e first last s
  | .proof e nonce => Sys2Proof.Machine.execProof e nonce s
  | .timeSet e value rate => Sys2Proof.Machine.execTimeSet e value rate s
  | .timeTrim e value rate => Sys2Proof.Machine.execTimeTrim e value rate s
  | .powerCap e cls => Sys2Proof.Machine.execPowerCap e cls s
  | .cableplan e plan nvm => Sys2Proof.Machine.execCableplan e plan nvm s
  | .settingsRead e copy => Sys2Proof.Machine.execSettingsRead e copy s
  | .settingsWrite e entries => Sys2Proof.Machine.execSettingsWrite e entries s
  | .store e nvm => Sys2Proof.Machine.execStore e nvm s
  | .fwStageBegin e offset total chunkLength => Sys2Proof.Machine.execFwStageBegin e offset total chunkLength s
  | .fwStageData e offset total chunkLength chunk => Sys2Proof.Machine.execFwStageData e offset total chunkLength chunk s
  | .fwStageEnd e offset total chunkLength => Sys2Proof.Machine.execFwStageEnd e offset total chunkLength s
  | .fwCommit e nvm => Sys2Proof.Machine.execFwCommit e nvm s
  | .sessionConnect chain handshake => Sys2Proof.Machine.execSessionConnect chain handshake s
  | .sessionClose n => Sys2Proof.Machine.execSessionClose n s
  | .sessionIdleTimeout n => Sys2Proof.Machine.execSessionIdleTimeout n s
  | .leaseExpiring => Sys2Proof.Machine.execLeaseExpiring s
  | .leaseExpired => Sys2Proof.Machine.execLeaseExpired s
  | .mbxHalt f value => Sys2Proof.Machine.execMbxHalt f value s
  | .hifPost f value tee landed => Sys2Proof.Machine.execHifPost f value tee landed s
  | .hifCauseMask f value => Sys2Proof.Machine.execHifCauseMask f value s
  | .registerWrite f off size value tee => Sys2Proof.Machine.execRegisterWrite f off size value tee s
  | .bar2Read f off n tee line => Sys2Proof.Machine.execBar2Read f off n tee line s
  | .bar2Write f off data tee => Sys2Proof.Machine.execBar2Write f off data tee s
  | .queueEnable f q => Sys2Proof.Machine.execQueueEnable f q s
  | .queueDisable f q data line => Sys2Proof.Machine.execQueueDisable f q data line s
  | .hifQdoorbell f q d tee => Sys2Proof.Machine.execHifQdoorbell f q d tee s
  | .queueConfigurationWrite f q reg value => Sys2Proof.Machine.execQueueConfigurationWrite f q reg value s
  | .dmaDescriptorComplete f q data host line d tee => Sys2Proof.Machine.execDmaDescriptorComplete f q data host line d tee s
  | .flrVf f => Sys2Proof.Machine.execFlrVf f s
  | .vfEnableClear h enable numVfs => Sys2Proof.Machine.execVfEnableClear h enable numVfs s
  | .flrPf h => Sys2Proof.Machine.execFlrPf h s
  | .hotReset h => Sys2Proof.Machine.execHotReset h s
  | .getVersion r => Sys2Proof.Machine.execGetVersion r s
  | .getCapabilities r => Sys2Proof.Machine.execGetCapabilities r s
  | .negotiateAlgorithms r => Sys2Proof.Machine.execNegotiateAlgorithms r s
  | .getDigests r => Sys2Proof.Machine.execGetDigests r s
  | .getCertificate r => Sys2Proof.Machine.execGetCertificate r s
  | .challenge r => Sys2Proof.Machine.execChallenge r s
  | .getMeasurements r => Sys2Proof.Machine.execGetMeasurements r s
  | .keyExchange r => Sys2Proof.Machine.execKeyExchange r s
  | .finish r => Sys2Proof.Machine.execFinish r s
  | .spdmHeartbeat r => Sys2Proof.Machine.execSpdmHeartbeat r s
  | .keyUpdate r => Sys2Proof.Machine.execKeyUpdate r s
  | .endSession r => Sys2Proof.Machine.execEndSession r s
  | .chunkSend r => Sys2Proof.Machine.execChunkSend r s
  | .chunkGet r => Sys2Proof.Machine.execChunkGet r s
  | .spdmUnsupportedRequest r => Sys2Proof.Machine.execSpdmUnsupportedRequest r s
  | .query r => Sys2Proof.Machine.execQuery r s
  | .keyProg r stream set_ sub key iv => Sys2Proof.Machine.execKeyProg r stream set_ sub key iv s
  | .kSetGo r stream set_ sub => Sys2Proof.Machine.execKSetGo r stream set_ sub s
  | .kSetStop r stream set_ sub => Sys2Proof.Machine.execKSetStop r stream set_ sub s
  | .getTdispVersion r fn => Sys2Proof.Machine.execGetTdispVersion r fn s
  | .getTdispCapabilities r fn => Sys2Proof.Machine.execGetTdispCapabilities r fn s
  | .lockInterfaceRequest r fn stream => Sys2Proof.Machine.execLockInterfaceRequest r fn stream s
  | .getDeviceInterfaceReport r fn offset length => Sys2Proof.Machine.execGetDeviceInterfaceReport r fn offset length s
  | .getDeviceInterfaceState r fn => Sys2Proof.Machine.execGetDeviceInterfaceState r fn s
  | .startInterfaceRequest r fn nonce => Sys2Proof.Machine.execStartInterfaceRequest r fn nonce s
  | .stopInterfaceRequest r fn => Sys2Proof.Machine.execStopInterfaceRequest r fn s
  | .hello part msg => Sys2Proof.Machine.execHello part msg s
  | .key part msg => Sys2Proof.Machine.execKey part msg s
  | .reject part msg => Sys2Proof.Machine.execReject part msg s
  | .keyAgreementTimeout part => Sys2Proof.Machine.execKeyAgreementTimeout part s
  | .shutter part obs => Sys2Proof.Machine.execShutter part obs s
  | .inputPostSample part => Sys2Proof.Machine.execInputPostSample part s
  | .darkslideWriteEnd part fin => Sys2Proof.Machine.execDarkslideWriteEnd part fin s
  | .restoreComplete part => Sys2Proof.Machine.execRestoreComplete part s
  | .timedLaunchTakeup part => Sys2Proof.Machine.execTimedLaunchTakeup part s
  | .loop iss e n => Sys2Proof.Machine.execLoop iss e n s
  | .loopAr iss e ar => Sys2Proof.Machine.execLoopAr iss e ar s
  | .waitcy iss n => Sys2Proof.Machine.execWaitcy iss n s
  | .waitcyExpiry part block cycle => Sys2Proof.Machine.execWaitcyExpiry part block cycle s
  | .waittick iss => Sys2Proof.Machine.execWaittick iss s
  | .bundleHalt iss code => Sys2Proof.Machine.execBundleHalt iss code s
  | .tankBase iss cells base => Sys2Proof.Machine.execTankBase iss cells base s
  | .chkflag iss mask clear => Sys2Proof.Machine.execChkflag iss mask clear s
  | .syncPost iss target token => Sys2Proof.Machine.execSyncPost iss target token s
  | .syncTokenArrival part block token cycle => Sys2Proof.Machine.execSyncTokenArrival part block token cycle s
  | .syncChk iss mask clear => Sys2Proof.Machine.execSyncChk iss mask clear s
  | .pset iss d fn ops => Sys2Proof.Machine.execPset iss d fn ops s
  | .arSetlo iss d imm => Sys2Proof.Machine.execArSetlo iss d imm s
  | .arSethi iss d imm => Sys2Proof.Machine.execArSethi iss d imm s
  | .arAddi iss d src imm => Sys2Proof.Machine.execArAddi iss d src imm s
  | .arAdd iss d a b => Sys2Proof.Machine.execArAdd iss d a b s
  | .mma iss f rd => Sys2Proof.Machine.execMma iss f rd s
  | .tankLanding part block cell cycle => Sys2Proof.Machine.execTankLanding part block cell cycle s
  | .mmaDodge iss f rd => Sys2Proof.Machine.execMmaDodge iss f rd s
  | .tankRead iss f rd parity => Sys2Proof.Machine.execTankRead iss f rd parity s
  | .tankMerge iss cells ar inc rd parity => Sys2Proof.Machine.execTankMerge iss cells ar inc rd parity s
  | .dodgeSet iss cells ar n rd => Sys2Proof.Machine.execDodgeSet iss cells ar n rd s
  | .stripCheck iss cells row entry => Sys2Proof.Machine.execStripCheck iss cells row entry s
  | .add iss f => Sys2Proof.Machine.execAdd iss f s
  | .sub iss f => Sys2Proof.Machine.execSub iss f s
  | .mul iss f => Sys2Proof.Machine.execMul iss f s
  | .fma iss f => Sys2Proof.Machine.execFma iss f s
  | .min iss f => Sys2Proof.Machine.execMin iss f s
  | .max iss f => Sys2Proof.Machine.execMax iss f s
  | .abs iss f => Sys2Proof.Machine.execAbs iss f s
  | .neg iss f => Sys2Proof.Machine.execNeg iss f s
  | .adds iss f => Sys2Proof.Machine.execAdds iss f s
  | .and iss f => Sys2Proof.Machine.execAnd iss f s
  | .or iss f => Sys2Proof.Machine.execOr iss f s
  | .xor iss f => Sys2Proof.Machine.execXor iss f s
  | .shl iss f => Sys2Proof.Machine.execShl iss f s
  | .shr iss f => Sys2Proof.Machine.execShr iss f s
  | .cmp iss f => Sys2Proof.Machine.execCmp iss f s
  | .sel iss f => Sys2Proof.Machine.execSel iss f s
  | .mov iss f => Sys2Proof.Machine.execMov iss f s
  | .movi iss f => Sys2Proof.Machine.execMovi iss f s
  | .iota iss f => Sys2Proof.Machine.execIota iss f s
  | .perm iss f => Sys2Proof.Machine.execPerm iss f s
  | .klogic iss f => Sys2Proof.Machine.execKlogic iss f s
  | .div iss f => Sys2Proof.Machine.execDiv iss f s
  | .sqrt iss f => Sys2Proof.Machine.execSqrt iss f s
  | .exp iss f => Sys2Proof.Machine.execExp iss f s
  | .exp2 iss f => Sys2Proof.Machine.execExp2 iss f s
  | .log iss f => Sys2Proof.Machine.execLog iss f s
  | .log2 iss f => Sys2Proof.Machine.execLog2 iss f s
  | .rcp iss f => Sys2Proof.Machine.execRcp iss f s
  | .rsqrt iss f => Sys2Proof.Machine.execRsqrt iss f s
  | .sin iss f => Sys2Proof.Machine.execSin iss f s
  | .cos iss f => Sys2Proof.Machine.execCos iss f s
  | .tanh iss f => Sys2Proof.Machine.execTanh iss f s
  | .sigmoid iss f => Sys2Proof.Machine.execSigmoid iss f s
  | .erf iss f => Sys2Proof.Machine.execErf iss f s
  | .cvt iss f => Sys2Proof.Machine.execCvt iss f s
  | .cvtSr iss f => Sys2Proof.Machine.execCvtSr iss f s
  | .quant iss f => Sys2Proof.Machine.execQuant iss f s
  | .deq iss f => Sys2Proof.Machine.execDeq iss f s
  | .rsum iss f => Sys2Proof.Machine.execRsum iss f s
  | .rmax iss f => Sys2Proof.Machine.execRmax iss f s
  | .rmin iss f => Sys2Proof.Machine.execRmin iss f s
  | .draw iss f => Sys2Proof.Machine.execDraw iss f s
  | .ld iss f rd => Sys2Proof.Machine.execLd iss f rd s
  | .st iss f => Sys2Proof.Machine.execSt iss f s
  | .writeBufferDrain part block cell bank cycle => Sys2Proof.Machine.execWriteBufferDrain part block cell bank cycle s
  | .arbiterWake part block cell cycle => Sys2Proof.Machine.execArbiterWake part block cell cycle s
  | .copyRc iss f rd => Sys2Proof.Machine.execCopyRc iss f rd s
  | .copyCr iss f rd => Sys2Proof.Machine.execCopyCr iss f rd s
  | .copyRr iss f late rd => Sys2Proof.Machine.execCopyRr iss f late rd s
  | .streamIn iss f => Sys2Proof.Machine.execStreamIn iss f s
  | .streamOut iss f => Sys2Proof.Machine.execStreamOut iss f s
  | .streamComplete part block pf fin cycle => Sys2Proof.Machine.execStreamComplete part block pf fin cycle s
  | .commit iss f rd => Sys2Proof.Machine.execCommit iss f rd s
  | .chkarr iss counter ar clear => Sys2Proof.Machine.execChkarr iss counter ar clear s
  | .csfill iss f rd => Sys2Proof.Machine.execCsfill iss f rd s
  | .slotTime port slot => Sys2Proof.Machine.execSlotTime port slot s
  | .packetArrival port slot => Sys2Proof.Machine.execPacketArrival port slot s
  | .fabricLanding part cycle => Sys2Proof.Machine.execFabricLanding part cycle s
  | .epochRetire part => Sys2Proof.Machine.execEpochRetire part s
  | .flowUnitReceive port unit obs => Sys2Proof.Machine.execFlowUnitReceive port unit obs s
  | .nak port e => Sys2Proof.Machine.execNak port e s
  | .nakTimer port => Sys2Proof.Machine.execNakTimer port s
  | .replayTimeout port => Sys2Proof.Machine.execReplayTimeout port s
  | .retrainRequest port serial far reason => Sys2Proof.Machine.execRetrainRequest port serial far reason s
  | .train port msg rtt lanes => Sys2Proof.Machine.execTrain port msg rtt lanes s
  | .cableMismatch port => Sys2Proof.Machine.execCableMismatch port s
  | .linkDown port => Sys2Proof.Machine.execLinkDown port s
  | .trainingAttempt port => Sys2Proof.Machine.execTrainingAttempt port s
  | .laneFailure link lane => Sys2Proof.Machine.execLaneFailure link lane s
  | .remapRequest port word => Sys2Proof.Machine.execRemapRequest port word s
  | .remapDone port fin => Sys2Proof.Machine.execRemapDone port fin s
  | .creditTimeout port vc => Sys2Proof.Machine.execCreditTimeout port vc s
  | .serviceWindowLow port => Sys2Proof.Machine.execServiceWindowLow port s
  | .spillStall port stall => Sys2Proof.Machine.execSpillStall port stall s
  | .beacon port msg rx => Sys2Proof.Machine.execBeacon port msg rx s
  | .interimBeacon part => Sys2Proof.Machine.execInterimBeacon part s
  | .tickHoldover part => Sys2Proof.Machine.execTickHoldover part s
  | .masterListenEnd part => Sys2Proof.Machine.execMasterListenEnd part s
  | .timInc value => Sys2Proof.Machine.execTimInc value s
  | .timStep value => Sys2Proof.Machine.execTimStep value s
  | .extensionUpdate => Sys2Proof.Machine.execExtensionUpdate s
  | .ptpAnnounce identity rank domain logSync utcOffset utcValid => Sys2Proof.Machine.execPtpAnnounce identity rank domain logSync utcOffset utcValid s
  | .ptpSync identity t1 => Sys2Proof.Machine.execPtpSync identity t1 s
  | .ptpFollowUp identity t1 => Sys2Proof.Machine.execPtpFollowUp identity t1 s
  | .ptpDelayReqSent => Sys2Proof.Machine.execPtpDelayReqSent s
  | .ptpDelayResp identity t4 => Sys2Proof.Machine.execPtpDelayResp identity t4 s
  | .auditHoldover => Sys2Proof.Machine.execAuditHoldover s
  | .slewEnd => Sys2Proof.Machine.execSlewEnd s
  | .fastLimiter a20 => Sys2Proof.Machine.execFastLimiter a20 s
  | .limiterStop a20 ns => Sys2Proof.Machine.execLimiterStop a20 ns s
  | .reservationExpiry part => Sys2Proof.Machine.execReservationExpiry part s
  | .thermalSample readings => Sys2Proof.Machine.execThermalSample readings s
  | .supplyDroop region percent periods low => Sys2Proof.Machine.execSupplyDroop region percent periods low s
  | .domainFault d => Sys2Proof.Machine.execDomainFault d s
  | .inputSupplyFault millivolts micros => Sys2Proof.Machine.execInputSupplyFault millivolts micros s
  | .standbyLoss => Sys2Proof.Machine.execStandbyLoss s
  | .clockWake region started => Sys2Proof.Machine.execClockWake region started s
  | .clockGeneratorFault region => Sys2Proof.Machine.execClockGeneratorFault region s
  | .regionIdleStop region => Sys2Proof.Machine.execRegionIdleStop region s
  | .hbmRefresh stack celsius => Sys2Proof.Machine.execHbmRefresh stack celsius s
  | .patrolScrub addr rd => Sys2Proof.Machine.execPatrolScrub addr rd s
  | .hbmChannelFailed stack channel => Sys2Proof.Machine.execHbmChannelFailed stack channel s
  | .powerOn obs => Sys2Proof.Machine.execPowerOn obs s
  | .supply48vInRange obs => Sys2Proof.Machine.execSupply48vInRange obs s
  | .warmReset pin obs => Sys2Proof.Machine.execWarmReset pin obs s
  | .computeReset part block => Sys2Proof.Machine.execComputeReset part block s
  | .easelFault core => Sys2Proof.Machine.execEaselFault core s
  | .logCommit => Sys2Proof.Machine.execLogCommit s
  | .monitorHelp l => Sys2Proof.Machine.execMonitorHelp l s
  | .monitorIdent l => Sys2Proof.Machine.execMonitorIdent l s
  | .monitorStatus l => Sys2Proof.Machine.execMonitorStatus l s
  | .monitorLog l => Sys2Proof.Machine.execMonitorLog l s
  | .monitorLink l => Sys2Proof.Machine.execMonitorLink l s
  | .monitorPorts l => Sys2Proof.Machine.execMonitorPorts l s
  | .monitorTemp l => Sys2Proof.Machine.execMonitorTemp l s
  | .monitorPower l => Sys2Proof.Machine.execMonitorPower l s
  | .monitorErrors l => Sys2Proof.Machine.execMonitorErrors l s
  | .monitorPerf l => Sys2Proof.Machine.execMonitorPerf l s
  | .monitorProf l => Sys2Proof.Machine.execMonitorProf l s
  | .monitorProfOff l => Sys2Proof.Machine.execMonitorProfOff l s
  | .monitorProfPrint room => Sys2Proof.Machine.execMonitorProfPrint room s
  | .tapReset obs => Sys2Proof.Machine.execTapReset obs s
  | .extest => Sys2Proof.Machine.execExtest s
  | .idcode obs => Sys2Proof.Machine.execIdcode obs s
  | .samplePreload pins obs => Sys2Proof.Machine.execSamplePreload pins obs s
  | .clamp => Sys2Proof.Machine.execClamp s
  | .highz => Sys2Proof.Machine.execHighz s
  | .debugSelect value obs => Sys2Proof.Machine.execDebugSelect value obs s
  | .debugRead obs => Sys2Proof.Machine.execDebugRead obs s
  | .bypass code obs => Sys2Proof.Machine.execBypass code obs s
  | .warmResetNRelease obs => Sys2Proof.Machine.execWarmResetNRelease obs s
  | .perstNRelease h => Sys2Proof.Machine.execPerstNRelease h s
  | .mgmtPhyInt up => Sys2Proof.Machine.execMgmtPhyInt up s
  | .msixVectorUnmask f vector => Sys2Proof.Machine.execMsixVectorUnmask f vector s
  | .tdispConfigurationChange f => Sys2Proof.Machine.execTdispConfigurationChange f s
  | .helloResend part => Sys2Proof.Machine.execHelloResend part s
  | .retrainRequestRepeat port => Sys2Proof.Machine.execRetrainRequestRepeat port s

end Sys2Proof.Machine
end

