-- ==== Sys2Proof/Machine/Step.lean ====
section
/-! DEFINITION. One step of the block: the command at the front of the queue, or one tick of the time reference. -/

namespace Sys2Proof.Machine

/-- An empty queue: 10 ns of the time reference pass while the time unit runs (12 R328); in reset and without standby nothing
happens. -/
def State.idle (s : State) : State := if 1 ≤ s.boot.step then s.elapse 1 else s

/-- Take the command at the front of the queue. -/
def step (s : State) : Host.Outcome State Fault Refusal :=
  match s.pending with
  | [] => .next s.idle
  | c :: rest => exec c { s with pending := rest }

/-- Put the command that a word spells at the front of the queue. -/
def State.withFetchWord (s : State) (nbits w : Nat) : State :=
  match decodeTableWord nbits w with
  | some c => { s with pending := c :: s.pending }
  | none => s

end Sys2Proof.Machine
end

