-- ==== Sys2Proof/Machine/Registers.lean ====
section
/-! DEFINITION. What a host read of BAR0 returns (17 R461 to R476, 16 R431, 14 R395, 12 R328 to R333; 00 R9, R13): reads have no side
effect, reserved offsets and fields read 0, a WO register reads 0. -/

namespace Sys2Proof.Machine

/-- A number as a register value. -/
def reg32 (n : Nat) : BitVec 32 := BitVec.ofNat 32 n

/-- The mailbox page (16 R431): header, response, and what the requester wrote there. -/
def Mbox.page (m : Mbox) (off : Nat) : Byte :=
  let state := match m.state with | .idle => 0 | .running => 1 | .done => 2
  let seq := m.lastSeq.getD 0
  let head : Bytes := leBytes 4 seq.toNat ++ leBytes 2 m.command.toNat ++ leBytes 2 m.length.toNat ++ [m.status] ++ leBytes 1 state ++
    leBytes 2 m.target.toNat ++ leBytes 2 m.resp.length ++ leBytes 2 0 ++ leBytes 8 m.tag.toNat ++ leBytes 4 m.fault.toNat ++
    leBytes 4 m.logIndex.toNat
  if m.lastSeq.isNone then 0
  else match (head ++ m.resp)[off]? with
    | some b => b
    | none => if off < 32 + m.length.toNat then BitVec.ofNat 8 (Config.pageByte seq off) else 0

/-- HIF_STATUS of a virtual function (R464). -/
def State.hifStatus (s : State) (f : FnId) : Nat :=
  match s.boundTo f.h f.k with
  | none => 0
  | some pid => match s.part pid with
    | none => 0
    | some p =>
      let tdi := match (s.func f.h f.k).tdi with | .unlocked => 0 | .locked => 1 | .run => 2 | .error => 3
      p.state.code + 8 + 16 * pid + 256 * boolNat p.dark + 512 * boolNat p.negative.fixed + 1024 * boolNat p.expose.isSome +
        2048 * boolNat p.overrunHalt + 4096 * (if p.dark then tdi else 0)

/-- The queue registers (R471). -/
def Queue.read (q : Queue) (reg : Nat) : BitVec 32 :=
  match reg with
  | 0x00 => q.base.setWidth 32
  | 0x04 => (q.base >>> 32).setWidth 32
  | 0x08 => q.size.setWidth 32
  | 0x0C => reg32 (boolNat q.enable + 2 * boolNat q.cur.isSome + 4 * boolNat q.phase)
  | 0x14 => q.head.setWidth 32
  | 0x18 => q.done
  | _ => 0

/-- PWR_STATUS (14 R395). -/
def State.pwrStatus (s : State) (f : FnId) : Nat :=
  let own := if f.k = 0 then none else (s.boundTo f.h f.k).bind s.part
  let mine := match own with
    | some p =>
      if p.state = .running then stepIndex p.step * 4096 + 65536 + 131072 * boolNat p.throttled else 0
    | none => 0
  s.power.cls + 16 * stepIndex (classStep s.power.cls) + 256 * stepIndex (classCeiling s.power.cls) + mine + 262144 * boolNat s.lockout

/-- PWR_INPUT: the 1 s average that coarse readings show is what the part has measured (14 R395). -/
def State.pwrInput (s : State) : Nat :=
  if s.lockout then 50 * Config.secondAverage s.now % 65536 + 65536 * (10 * (s.power.millivolts / 1000))
  else s.power.a1 % 65536 + 65536 * (s.power.millivolts / 100)

/-- One byte of PWR_TEMP. -/
def State.tempByte (s : State) (kind : Nat) : Nat :=
  match hottest s.power.temps kind with
  | some t => (BitVec.ofInt 8 (if s.lockout then coarseTemp t else t)).toNat
  | none => 0

/-- TIM_STATUS (12 R332). -/
def State.timStatus (s : State) : Nat :=
  let u := s.time
  let stale := decide (2 ^ 31 ≤ (s.timNs + 2 ^ 32 - u.extLo.toNat) % 2 ^ 32)
  u.state.toNat + 8 * boolNat stale + 16 * boolNat u.slewing + 32 * boolNat u.jumpRefused + 64 * boolNat u.utcValid + 65536 * u.utcOffset.toNat

/-- An entry of the MSI-X table, and the pending bits (R462, R468). -/
def Func.tableRead (x : Func) (k off : Nat) : BitVec 32 :=
  let v := (off - 0x7000) / 16
  if (if k = 0 then 2 else 16) ≤ v then 0
  else match off % 16 with
    | 0 => (fmGetD x.msixAddr v 0).setWidth 32
    | 4 => (fmGetD x.msixAddr v 0 >>> 32).setWidth 32
    | 8 => fmGetD x.msixData v 0
    | _ => reg32 (boolNat (x.vecMask.getLsbD v))

/-- Value of the 32-bit register at an aligned BAR0 offset (R462): registers for virtual functions read 0 in a physical one. -/
def State.read32 (s : State) (f : FnId) (off : Nat) : BitVec 32 :=
  let x := s.func f.h f.k
  let vf (v : BitVec 32) : BitVec 32 := if f.k = 0 then 0 else v
  if off < 0x1000 then reg32 (leNat ((List.range 4).map fun i => x.mbox.page (off + i)))
  else if 0x3000 ≤ off ∧ off < 0x3200 then (s.queue f.h f.k ((off - 0x3000) / 0x40)).read (off % 0x40)
  else if 0x7000 ≤ off ∧ off < 0x7100 then x.tableRead f.k off
  else match off with
    | 0x1004 => vf (reg32 (boolNat x.post + 65536 * x.taken.toNat))
    | 0x1008 => vf (x.window.setWidth 32)
    | 0x2000 => reg32 (f.k + 256 * f.h + 65536)
    | 0x2004 => if f.k = 0 then 0 else reg32 (s.hifStatus f)
    | 0x200C => vf x.commit
    | 0x2010 => x.cause
    | 0x2014 => x.mask
    | 0x2018 => x.err
    | 0x201C => x.errCount
    | 0x4000 => reg32 s.timNs
    | 0x4004 => reg32 s.timStatus
    | 0x4008 => s.time.extSeq
    | 0x400C => s.time.extLo
    | 0x4010 => s.time.extHi
    | 0x5000 => reg32 s.log.next
    | 0x5004 => reg32 (s.log.next / 2 ^ 32)
    | 0x5008 => vf (x.partLast.setWidth 32)
    | 0x500C => vf x.partCount
    | 0x6000 => reg32 (s.pwrStatus f)
    | 0x6004 => reg32 s.pwrInput
    | 0x6008 => reg32 (s.tempByte 0 + 256 * s.tempByte 1 + 65536 * s.tempByte 2 + 16777216 * s.tempByte 3)
    | 0x600C => x.pwrEvents.setWidth 32
    | 0x7800 => x.pba.setWidth 32
    | _ => 0

/-- A read of BAR0 of any size (R461): what the host gets, and the state, in which only a read of the wrong size or alignment
leaves its mark. -/
def State.readBar0 (s : State) (f : FnId) (off size : Nat) : Bytes × State :=
  if size = 4 ∧ off % 4 = 0 then (leBytes 4 (s.read32 f off).toNat, s)
  else if size = 8 ∧ off % 8 = 0 then (leBytes 4 (s.read32 f off).toNat ++ leBytes 4 (s.read32 f (off + 4)).toNat, s)
  else (List.replicate size 0xFF, s.hifErr f.h f.k 5)

end Sys2Proof.Machine
end

