-- ==== Sys2Proof/Safety.lean ====
section
/-! DEFINITION. What claims say of a run: the invariant of the state, a part that works, and the conditions under which a
mailbox command is accepted and a bundle operation issues. -/

namespace Sys2Proof.Machine

/-- Memory has its canonical form and the log buffer keeps to its 4,096 entries (18 R491). -/
def State.Inv (s : State) : Prop := memWf s.mem = true ∧ s.log.used ≤ 4096

/-- The part takes commands: bring-up is over, the Easel cores answer and no part-fatal fault stands (18 R481, R488). -/
def State.Working (s : State) : Prop := s.serves = true ∧ s.boot.fatal = none

/-- No partition has met a partition-fatal fault (18 R487). -/
def State.Safe (s : State) : Prop := s.Working ∧ ∀ q ∈ s.parts, q.2.state ≠ .faulted

/-! ### Mailbox commands (16 R431 to R437) -/

/-- The state in which a mailbox command has entered its page, or none where its doorbell is ignored or refused (16 R432,
R446; 17 R463). A frame of the owner renews its lease (16 R449). -/
def State.admitted (s : State) (e : Envelope) (code : Nat) : Option State :=
  if !s.serves then none
  else match s.mboxOf e.route with
    | none => none
    | some m => match e.route with
      | .fn h k =>
        if s.teeFails h k e.tee then none
        else if m.state = .running ∨ e.doorbell ≠ e.seq ∨ m.lastSeq = some e.seq then none
        else some (s.setMbox e.route (acceptMbox m e code))
      | .session n =>
        let s := if s.owner = some n then { s with leaseAt := s.now } else s
        if m.state = .running then none else some (s.setMbox e.route (acceptMbox m e code))

/-- A mailbox command is accepted in state `s1` with target `t`, and nothing turns it away before its own checks. -/
def Accepts (s : State) (e : Envelope) (c : CmdSpec) (s1 : State) (t : Option Nat) : Prop :=
  s.admitted e c.code = some s1 ∧ precheck s1 e c = .inr t

/-- What a command's body leaves: its answer completes the command, or a later event does. -/
def finish (e : Envelope) (mark : Nat) (r : Answer) : State :=
  match r.2 with
  | some (st, resp) => r.1.complete e.route mark st resp
  | none => r.1

/-! ### Bundle operations (05 R124 to R129) -/

/-- An operation of the C, V, S or X slot issues under a true predicate: `c` says where, and `s1` is the state brought up to
its cycle. -/
def Issues (s : State) (i : Issue) (slot : Nat) (c : Ctx) (s1 : State) : Prop :=
  ∃ s0, openIssue s i slot = (s0, some c) ∧ s1 = hazPred s0 c c.t ∧ predOn s1 c = true

/-- The same for the operations that issue whatever their predicate is (05 R128). -/
def IssuesAlways (s : State) (i : Issue) (slot : Nat) (c : Ctx) (s1 : State) : Prop := openIssue s i slot = (s1, some c)

/-! ### What reporting leaves alone -/

/-- A block but for the streams that a fatal fault cancels (02 R52). -/
def Block.still (b : Block) : Block := { b with streams := [] }

/-- A region but for the requests of its streams, which a fatal fault cancels (02 R52). -/
def Region.still (g : Region) : Region := { g with reqs := g.reqs.filter fun q => decide (q.kind ≠ .stream) }

/-- A partition but for what reports write: its hazard ring, its last fault, its pending fatal fault and the blocks it names. -/
def Partition.quiet (p : Partition) : Partition :=
  { p with hazard := {}, lastFault := 0, frame := { p.frame with fatal := none, failing := [] } }

/-- From `s` to `t` nothing happened but reports: log entries, hazard records, interrupts, a fatal fault of an Exposure. -/
structure Reports (s t : State) : Prop where
  same : { t with parts := s.parts, blocks := s.blocks, regions := s.regions, eps := s.eps, log := s.log, out := s.out } = s
  block : ∀ x, (t.block x).still = (s.block x).still
  region : ∀ r, (t.region r).still = (s.region r).still
  part : ∀ p, (t.part p).map Partition.quiet = (s.part p).map Partition.quiet


/-! ### Results of the vector unit (06 R154 to R156) -/

/-- Lane `l` of a register of a block, for lanes of a type. -/
def Block.lane (b : Block) (type : BitVec 4) (r : BitVec 6) (l : Nat) : Nat := field (laneBits type) (b.vreg r).toNat l

/-- From `s1` to `s2` the operation sends one result on its way to register vd, due in cycle `due`: of the `n` lanes of `w`
bits, those that the mask leaves on carry `lane` and are written, the others are not; neither is what lies above them. -/
def Sends (s1 s2 : State) (c : Ctx) (vd : BitVec 6) (due n w : Nat) (mask : BitVec 512) (lane : Nat → Nat) : Prop :=
  ∃ v : VPend, (s2.block c.bix).vpend = (s1.block c.bix).vpend ++ [v] ∧ v.due = due ∧ v.issue = c.t ∧ v.reg = vd ∧
    (∀ l < n, ∀ j < w / 8, v.en.getLsbD (w / 8 * l + j) = mask.getLsbD l) ∧
    (∀ k, w / 8 * n ≤ k → v.en.getLsbD k = false) ∧
    ∀ l < n, mask.getLsbD l = true → field w v.val.toNat l = lane l % 2 ^ w

/-- What an operation of a block leaves alone: everything outside its block but reports and the count of free values, and in
its block whatever `core` keeps. -/
structure OwnFrame (core : Block → Block) (s1 s2 : State) (c : Ctx) : Prop where
  same : { s2 with
    parts := s1.parts, blocks := s1.blocks, regions := s1.regions, eps := s1.eps, log := s1.log, out := s1.out, free := s1.free } = s1
  others : ∀ x, x ≠ c.bix → (s2.block x).still = (s1.block x).still
  own : core (s2.block c.bix) = core (s1.block c.bix)
  region : ∀ r, (s2.region r).still = (s1.region r).still
  part : ∀ p, (s2.part p).map Partition.quiet = (s1.part p).map Partition.quiet

/-- A block but for what a vector operation that writes a register may change: results on their way, the special unit, the
conversion count, the draw counter and the performance counters. -/
def Block.besidesV (b : Block) : Block :=
  { b.still with vpend := [], specialFree := 0, convClip := 0, draw := 0, perf := {} }

abbrev VectorFrame (s1 s2 : State) (c : Ctx) : Prop := OwnFrame Block.besidesV s1 s2 c

end Sys2Proof.Machine
end

