-- ==== Sys2Proof/Certificates/Slice0/Obligations.lean ====
section
/-! DEFINITION. The statements for the provers. Helper definitions stand in the namespace Claims; each statement names the
rules it rests on, or the log entry where it rests on a choice of the model. -/

namespace Sys2Proof.Claims

open Sys2Proof Sys2Proof.Machine

/-- Where the bundle issues and `ok` holds of its fields, the operation completes: it sends `lane` of the registers that it
reads to vd with latency `lat`, under its lane mask, and changes nothing else. -/
def Lanes (ins : Issue → VecF → Instr) (ok : VecF → Prop) (lat : VecF → Nat) (lane : Block → VecF → Nat → Nat) : Prop :=
  ∀ (s s1 : State) (i : Issue) (f : VecF) (c : Ctx), Issues s i 3 c s1 → ok f →
    ∃ s2, exec (ins i f) s = .next s2 ∧
      Sends s1 s2 c f.vd (c.t + lat f) (laneCount f.type) (laneBits f.type) ((s1.block c.bix).mask f.km)
        (lane (s1.block c.bix) f) ∧
      VectorFrame s1 s2 c

/-- The fields that an operation with two sources, one, or none does not use are 0. -/
def plain2 (f : VecF) : Prop := f.vc = 0 ∧ f.func = 0 ∧ f.imm = 0
def plain1 (f : VecF) : Prop := f.vb = 0 ∧ plain2 f
def floatType (f : VecF) : Prop := f.type = 7 ∨ f.type = 8 ∨ f.type = 9
def laneType (f : VecF) : Prop := floatType f ∨ f.type = 10

/-- A lane as a 32-bit integer, and as a float of its type. -/
def i32 (b : Block) (r : BitVec 6) (l : Nat) : BitVec 32 := BitVec.ofNat 32 (b.lane 10 r l)
def flt (b : Block) (f : VecF) (r : BitVec 6) (l : Nat) : Val := decodeElem f.type (b.lane f.type r l)

/-- Latency of additions on floats. -/
def floatLat (f : VecF) : Nat := if f.type = 9 then 4 else 3

/-- A signed integer clamped to 32 bits. -/
def clamp32 (x : Int) : BitVec 32 :=
  if 2147483647 < x then 0x7FFFFFFF else if x < -2147483648 then 0x80000000 else BitVec.ofInt 32 x

end Sys2Proof.Claims

open Sys2Proof Sys2Proof.Machine Sys2Proof.Claims in
/-- ADD, SUB, MUL, MIN, MAX, ABS, NEG and ADDS on I32 lanes: modulo 2^32 but for ABS and ADDS, which saturate; latency
2, MUL 4. Lanes that the mask leaves off keep their value, and nothing but the result on its way changes. -/
def Obligations.IntegerLanes : Prop :=
  Lanes .add (fun f => f.type = 10 ∧ plain2 f) (fun _ => 2) (fun b f l => (i32 b f.va l + i32 b f.vb l).toNat) ∧
  Lanes .sub (fun f => f.type = 10 ∧ plain2 f) (fun _ => 2) (fun b f l => (i32 b f.va l - i32 b f.vb l).toNat) ∧
  Lanes .mul (fun f => f.type = 10 ∧ plain2 f) (fun _ => 4) (fun b f l => (i32 b f.va l * i32 b f.vb l).toNat) ∧
  Lanes .min (fun f => f.type = 10 ∧ plain2 f) (fun _ => 2)
    (fun b f l => (if (i32 b f.va l).slt (i32 b f.vb l) then i32 b f.va l else i32 b f.vb l).toNat) ∧
  Lanes .max (fun f => f.type = 10 ∧ plain2 f) (fun _ => 2)
    (fun b f l => (if (i32 b f.va l).slt (i32 b f.vb l) then i32 b f.vb l else i32 b f.va l).toNat) ∧
  Lanes .abs (fun f => f.type = 10 ∧ plain1 f) (fun _ => 2) (fun b f l => (clamp32 (i32 b f.va l).toInt.natAbs).toNat) ∧
  Lanes .neg (fun f => f.type = 10 ∧ plain1 f) (fun _ => 2) (fun b f l => (-(i32 b f.va l)).toNat) ∧
  Lanes .adds (fun f => f.type = 10 ∧ plain2 f) (fun _ => 2) (fun b f l => (clamp32 ((i32 b f.va l).toInt + (i32 b f.vb l).toInt)).toNat)

open Sys2Proof Sys2Proof.Machine Sys2Proof.Claims in
/-- ADD, SUB, MUL, FMA, MIN, MAX, ABS and NEG on FP32, BF16 and FP16 lanes: the exact result of the decoded lanes,
rounded once into the lane format; ABS and NEG of a NaN give the canonical NaN and of anything else act on the sign
bit alone. Latency 4 for FP32 and 3 for the 16-bit types. -/
def Obligations.FloatLanes : Prop :=
  Lanes .add (fun f => floatType f ∧ plain2 f) floatLat (fun b f l => encVal (laneFmt f.type) (addVal (flt b f f.va l) (flt b f f.vb l))) ∧
  Lanes .sub (fun f => floatType f ∧ plain2 f) floatLat (fun b f l => encVal (laneFmt f.type) (addVal (flt b f f.va l) (negVal (flt b f f.vb l)))) ∧
  Lanes .mul (fun f => floatType f ∧ plain2 f) floatLat (fun b f l => encVal (laneFmt f.type) (mulVal (flt b f f.va l) (flt b f f.vb l))) ∧
  Lanes .fma (fun f => floatType f ∧ f.func = 0 ∧ f.imm = 0) floatLat
    (fun b f l => encVal (laneFmt f.type) (addVal (mulVal (flt b f f.va l) (flt b f f.vb l)) (flt b f f.vc l))) ∧
  Lanes .min (fun f => floatType f ∧ plain2 f) floatLat (fun b f l => encVal (laneFmt f.type) (minVal (flt b f f.va l) (flt b f f.vb l))) ∧
  Lanes .max (fun f => floatType f ∧ plain2 f) floatLat (fun b f l => encVal (laneFmt f.type) (maxVal (flt b f f.va l) (flt b f f.vb l))) ∧
  Lanes .abs (fun f => floatType f ∧ plain1 f) floatLat (fun b f l => if isNanVal (flt b f f.va l) then (laneFmt f.type).nanCode
    else b.lane f.type f.va l % 2 ^ ((laneFmt f.type).width - 1)) ∧
  Lanes .neg (fun f => floatType f ∧ plain1 f) floatLat (fun b f l => if isNanVal (flt b f f.va l) then (laneFmt f.type).nanCode
    else b.lane f.type f.va l ^^^ 2 ^ ((laneFmt f.type).width - 1))

open Sys2Proof Sys2Proof.Machine Sys2Proof.Claims in
/-- AND, OR, XOR, SHL, SHR, SEL, MOV, MOVI, IOTA and PERM: the lanes R155 gives, with its latencies. SHR follows
func[0], MOVI widens a BF16 pattern for FP32 and sign-extends for I32, PERM takes the lane number modulo the lane
count. -/
def Obligations.BitLanes : Prop :=
  Lanes .and (fun f => laneType f ∧ plain2 f) (fun _ => 2) (fun b f l => b.lane f.type f.va l &&& b.lane f.type f.vb l) ∧
  Lanes .or (fun f => laneType f ∧ plain2 f) (fun _ => 2) (fun b f l => b.lane f.type f.va l ||| b.lane f.type f.vb l) ∧
  Lanes .xor (fun f => laneType f ∧ plain2 f) (fun _ => 2) (fun b f l => b.lane f.type f.va l ^^^ b.lane f.type f.vb l) ∧
  Lanes .shl (fun f => f.type = 10 ∧ f.vb = 0 ∧ f.vc = 0 ∧ f.func = 0 ∧ f.imm.toNat < 32) (fun _ => 2)
    (fun b f l => (i32 b f.va l <<< f.imm.toNat).toNat) ∧
  Lanes .shr (fun f => f.type = 10 ∧ f.vb = 0 ∧ f.vc = 0 ∧ f.func.toNat < 2 ∧ f.imm.toNat < 32) (fun _ => 2)
    (fun b f l => (if f.func = 1 then (i32 b f.va l).sshiftRight f.imm.toNat else i32 b f.va l >>> f.imm.toNat).toNat) ∧
  Lanes .sel (fun f => laneType f ∧ f.vc = 0 ∧ f.func.toNat < 8 ∧ f.imm = 0) (fun _ => 2)
    (fun b f l => if (b.mask (f.func.setWidth 3)).getLsbD l then b.lane f.type f.va l else b.lane f.type f.vb l) ∧
  Lanes .mov (fun f => laneType f ∧ plain1 f) (fun _ => 1) (fun b f l => b.lane f.type f.va l) ∧
  Lanes .movi (fun f => laneType f ∧ f.va = 0 ∧ f.vb = 0 ∧ f.vc = 0 ∧ f.func = 0) (fun _ => 1)
    (fun _ f _ => if f.type = 9 then (f.imm.toNat <<< 16) else if f.type = 10 then (f.imm.signExtend 32).toNat else f.imm.toNat) ∧
  Lanes .iota (fun f => f.type = 10 ∧ f.va = 0 ∧ f.vb = 0 ∧ f.vc = 0 ∧ f.func = 0) (fun _ => 1)
    (fun _ f l => (BitVec.ofNat 32 l + f.imm.signExtend 32).toNat) ∧
  Lanes .perm (fun f => laneType f ∧ plain2 f) (fun _ => 4)
    (fun b f l => b.lane f.type f.va (b.lane f.type f.vb l % laneCount f.type))

namespace Sys2Proof.Claims

open Sys2Proof Sys2Proof.Machine

/-- As `Lanes`, for an operation of the special unit: it issues where the unit is free, and holds it for `occ` cycles. -/
def SpecialLanes (ins : Issue → VecF → Instr) (ok : VecF → Prop) (lat occ : State → Ctx → VecF → Nat)
    (lane : State → Ctx → VecF → Nat → Nat) : Prop :=
  ∀ (s s1 : State) (i : Issue) (f : VecF) (c : Ctx), Issues s i 3 c s1 → ok f → (s1.block c.bix).specialFree ≤ c.t →
    ∃ s2, exec (ins i f) s = .next s2 ∧
      Sends s1 s2 c f.vd (c.t + lat s1 c f) (laneCount f.type) (laneBits f.type) ((s1.block c.bix).mask f.km) (lane s1 c f) ∧
      (s2.block c.bix).specialFree = c.t + occ s1 c f ∧
      VectorFrame s1 s2 c

/-- The partition of an operation computes with the reference set of transcendentals (03 R86). -/
def refSet (s : State) (c : Ctx) : Bool :=
  match s.part c.pid with
  | some p => p.negative.refSet || p.negative.fixed
  | none => true

/-- Latency and occupancy of a transcendental (06 R158). -/
def trLat (s : State) (c : Ctx) (f : VecF) : Nat :=
  if refSet s c then (if f.type = 7 then 49 else 48) else (if f.type = 7 then 13 else 12)
def trOcc (s : State) (c : Ctx) (f : VecF) : Nat :=
  if refSet s c then (if f.type = 7 then 8 else 4) else (if f.type = 7 then 2 else 1)

/-- A transcendental operation: FP32 lanes take the function's result, BF16 lanes that result of the widened lane rounded
once more; the fast set is the firmware's. -/
def TrLanes (ins : Issue → VecF → Instr) (fn : TFn) : Prop :=
  SpecialLanes ins (fun f => (f.type = 7 ∨ f.type = 9) ∧ plain1 f) trLat trOcc fun s c f l =>
    let fast := if refSet s c then none else some s.firmware
    if f.type = 7 then
      encVal fmtBF16 (decodeFloat fmtFP32 (trFp32 fn fast (BitVec.ofNat 32 ((s.block c.bix).lane 7 f.va l * 65536))))
    else trFp32 fn fast (BitVec.ofNat 32 ((s.block c.bix).lane 9 f.va l))

/-- Lane words of Grain (06 R161). -/
def word (s : State) (c : Ctx) (e w : Nat) : BitVec 32 :=
  match s.part c.pid with
  | some p => grainWord p c.lg e w
  | none => 0

end Sys2Proof.Claims

open Sys2Proof Sys2Proof.Machine Sys2Proof.Claims in
/-- DIV and SQRT are correctly rounded with latency 16 and hold the special unit for 4 cycles on FP32 and 8 on 16-bit
types. EXP, EXP2, LOG, LOG2, RCP, RSQRT, SIN, COS, TANH, SIGMOID and ERF take the latency and occupancy of R158 for
the partition's set. Where the special unit is still held, the bundle of any of them is illegal with cause 0x21. -/
def Obligations.SpecialUnit : Prop :=
  SpecialLanes .div (fun f => floatType f ∧ plain2 f) (fun _ _ _ => 16) (fun _ _ f => if f.type = 9 then 4 else 8)
    (fun s c f l => divFloat (laneFmt f.type) (flt (s.block c.bix) f f.va l) (flt (s.block c.bix) f f.vb l)) ∧
  SpecialLanes .sqrt (fun f => floatType f ∧ plain1 f) (fun _ _ _ => 16) (fun _ _ f => if f.type = 9 then 4 else 8)
    (fun s c f l => sqrtFloat (laneFmt f.type) (flt (s.block c.bix) f f.va l)) ∧
  TrLanes .exp .exp ∧ TrLanes .exp2 .exp2 ∧ TrLanes .log .log ∧ TrLanes .log2 .log2 ∧ TrLanes .rcp .rcp ∧
  TrLanes .rsqrt .rsqrt ∧ TrLanes .sin .sin ∧ TrLanes .cos .cos ∧ TrLanes .tanh .tanh ∧ TrLanes .sigmoid .sigmoid ∧
  TrLanes .erf .erf ∧
  ∀ (ins : Issue → VecF → Instr), ins ∈ [Instr.sqrt, Instr.exp, Instr.exp2, Instr.log, Instr.log2, Instr.rcp, Instr.rsqrt,
      Instr.sin, Instr.cos, Instr.tanh, Instr.sigmoid, Instr.erf] →
    ∀ (s s1 : State) (i : Issue) (f : VecF) (c : Ctx), Issues s i 3 c s1 → (f.type = 7 ∨ f.type = 9) → plain1 f →
      c.t < (s1.block c.bix).specialFree → exec (ins i f) s = .next (illegal s1 c 0x21)

namespace Sys2Proof.Claims

open Sys2Proof Sys2Proof.Machine

/-- Truth of the condition of a CMP on two lanes (06 R157). -/
def truth (type : BitVec 4) (cond x y : Nat) : Prop :=
  if type = 10 then
    let a := (BitVec.ofNat 32 x).toInt
    let b := (BitVec.ofNat 32 y).toInt
    match cond with
    | 0 => a = b | 1 => a ≠ b | 2 => a < b | 3 => a ≤ b | 4 => a > b | 5 => a ≥ b | _ => False
  else
    let a := decodeElem type x
    let b := decodeElem type y
    let nan := a = .nan ∨ b = .nan
    match cond with
    | 0 => ¬nan ∧ eqVal a b = true | 1 => nan ∨ eqVal a b = false
    | 2 => ¬nan ∧ ltVal a b = true | 3 => ¬nan ∧ (ltVal a b = true ∨ eqVal a b = true)
    | 4 => ¬nan ∧ ltVal b a = true | 5 => ¬nan ∧ (ltVal b a = true ∨ eqVal a b = true)
    | _ => nan

/-- A block but for what a mask operation may change. -/
def besidesMask (b : Block) : Block := { b.still with mpend := [], predLog := [], perf := {} }

end Sys2Proof.Claims

open Sys2Proof Sys2Proof.Machine Sys2Proof.Claims in
/-- CMP sends to kd, in two cycles, the truth of its condition in every lane that km leaves on and 0 in all other
bits, and with imm[3] writes pd with any or every lane. KLOGIC sends ka op kb to kd in one cycle. Nothing else
changes. A CMP or KLOGIC that names k0 as its destination is illegal with cause 0x22. -/
def Obligations.MaskWrites : Prop :=
  (∀ (s s1 : State) (i : Issue) (f : VecF) (c : Ctx), Issues s i 3 c s1 → laneType f → f.vd = 0 → f.vc = 0 →
    f.func.toNat < 64 → f.imm.toNat < 32 → f.func.toNat % 8 ≠ 7 → f.func.toNat / 8 ≠ 0 →
    (f.imm.getLsbD 3 = true → f.imm.toNat % 8 ≠ 0) →
    let km := (s1.block c.bix).mask f.km
    let on (l : Nat) : Prop := l < laneCount f.type ∧ km.getLsbD l = true
    let hit (l : Nat) : Prop := truth f.type (f.func.toNat % 8) ((s1.block c.bix).lane f.type f.va l) ((s1.block c.bix).lane f.type f.vb l)
    ∃ s2 v, exec (.cmp i f) s = .next s2 ∧ OwnFrame besidesMask s1 s2 c ∧
      (s2.block c.bix).mpend = (s1.block c.bix).mpend ++ [v] ∧ v.due = c.t + 2 ∧ v.issue = c.t ∧ v.kd.toNat = f.func.toNat / 8 ∧
      (∀ l, v.val.getLsbD l = true ↔ on l ∧ hit l) ∧
      (f.imm.getLsbD 3 = false → (s2.block c.bix).predLog = (s1.block c.bix).predLog) ∧
      (f.imm.getLsbD 3 = true → ∃ p, (s2.block c.bix).predLog = (s1.block c.bix).predLog ++ [p] ∧ p.due = c.t + 2 ∧
        p.issue = c.t ∧ p.pd.toNat = f.imm.toNat % 8 ∧
        (p.val = true ↔ if f.imm.getLsbD 4 then ∀ l, on l → hit l else ∃ l, on l ∧ hit l))) ∧
  (∀ (s s1 : State) (i : Issue) (f : VecF) (c : Ctx), Issues s i 3 c s1 → f.vd = 0 → f.va = 0 → f.vb = 0 → f.vc = 0 →
    f.type = 0 → f.km = 0 → f.func.toNat < 64 → f.imm.toNat < 64 → f.imm.getLsbD 3 = false → f.imm.toNat % 8 ≠ 0 →
    let x := (s1.block c.bix).mask (f.func.setWidth 3)
    let y := (s1.block c.bix).mask ((f.func >>> 3).setWidth 3)
    ∃ s2 v, exec (.klogic i f) s = .next s2 ∧ OwnFrame besidesMask s1 s2 c ∧
      (s2.block c.bix).mpend = (s1.block c.bix).mpend ++ [v] ∧ v.due = c.t + 1 ∧ v.issue = c.t ∧ v.kd.toNat = f.imm.toNat % 8 ∧
      (s2.block c.bix).predLog = (s1.block c.bix).predLog ∧
      v.val = (match f.imm.toNat / 16 with
        | 0 => x &&& y | 1 => x ||| y | 2 => x ^^^ y | _ => x &&& ~~~y)) ∧
  (∀ (s s1 : State) (i : Issue) (f : VecF) (c : Ctx), Issues s i 3 c s1 → laneType f → f.vd = 0 → f.vc = 0 → f.func.toNat < 7 →
    f.imm = 0 → exec (.cmp i f) s = .next (illegal s1 c 0x22)) ∧
  (∀ (s s1 : State) (i : Issue) (f : VecF) (c : Ctx), Issues s i 3 c s1 → f.vd = 0 → f.va = 0 → f.vb = 0 → f.vc = 0 →
    f.type = 0 → f.km = 0 → f.func.toNat < 64 → f.imm = 0 → exec (.klogic i f) s = .next (illegal s1 c 0x22))

namespace Sys2Proof.Claims

open Sys2Proof Sys2Proof.Machine

/-- Bits of an element that CVT reads or writes, and the lanes of a conversion (06 R159). -/
def elemBits (fmt : BitVec 4) : Nat := if fmt = 5 ∨ fmt = 6 then 8 else if fmt = 7 ∨ fmt = 8 then 16 else 32
def convLanes (a b : BitVec 4) : Nat := if a = 9 ∨ a = 10 ∨ b = 9 ∨ b = 10 then 256 else 512

/-- One element under 03 R85 and R524: FP32 takes any narrower value exactly, an integer stays itself, everything else
saturates; and whether it was clipped. -/
def convert (src dst : BitVec 4) (r : Rnd) (x : Nat) : Nat × Bool :=
  if dst = 10 ∧ src = 10 then (x, false)
  else if dst = 10 then encodeInt 32 (2 ^ 31) (2 ^ 31 - 1) r (decodeElem src x)
  else if dst = 9 then (encVal fmtFP32 (decodeElem src x), false)
  else encodeSat ((floatFmt dst).getD fmtFP32) r (decodeElem src x)

/-- The clip count of a block after k more clips (03 R78): it saturates. -/
def clipsAfter (b : Block) (k : Nat) : Nat := Nat.min (b.convClip.toNat + k) (2 ^ 32 - 1)

/-- Formats that CVT takes (06 R159): FP32, BF16, FP16, F8E4, F8E5 and I32. -/
def convFormat (x : Nat) : Prop := 5 ≤ x ∧ x ≤ 10

/-- A conversion of lanes: results, clip count and frame. -/
def Converts (s1 s2 : State) (c : Ctx) (f : VecF) (lat : Nat) (rnd : Nat → Rnd) : Prop :=
  let src : BitVec 4 := f.func.setWidth 4
  let b := s1.block c.bix
  let res (l : Nat) := convert src f.type (rnd l) (field (elemBits src) (b.vreg f.va).toNat l)
  Sends s1 s2 c f.vd (c.t + lat) (convLanes src f.type) (elemBits f.type) (b.mask f.km) (fun l => (res l).1) ∧
  (s2.block c.bix).convClip.toNat = clipsAfter b
    (((List.range (convLanes src f.type)).filter fun l => (b.mask f.km).getLsbD l && (res l).2).length) ∧
  VectorFrame s1 s2 c

end Sys2Proof.Claims

open Sys2Proof Sys2Proof.Machine Sys2Proof.Claims in
/-- CVT converts its lanes, to nearest even or toward zero, with latency 4; CVT.SR rounds stochastically with the
Grain word of the block's draw counter, with latency 16, holds the special unit for one cycle and advances the draw
counter by 256. Both count clips. A CVT to a format other than I32 with imm[0] set is illegal with cause 0x01, and a
format outside the list with cause 0x20. -/
def Obligations.Conversions : Prop :=
  (∀ (s s1 : State) (i : Issue) (f : VecF) (c : Ctx), Issues s i 3 c s1 → f.vb = 0 → f.vc = 0 → f.func.toNat < 16 →
    f.imm.toNat < 2 → (f.imm = 1 → f.type = 10) → convFormat f.type.toNat → convFormat f.func.toNat →
    ∃ s2, exec (.cvt i f) s = .next s2 ∧ Converts s1 s2 c f 4 (fun _ => if f.imm = 1 then .zero else .near) ∧
      (s2.block c.bix).draw = (s1.block c.bix).draw) ∧
  (∀ (s s1 : State) (i : Issue) (f : VecF) (c : Ctx), Issues s i 3 c s1 → f.vb = 0 → f.vc = 0 → f.func = 9 →
    f.imm.toNat < 4 → convFormat f.type.toNat → f.type ≠ 9 → f.type ≠ 10 → (s1.block c.bix).specialFree ≤ c.t →
    ∃ s2, exec (.cvtSr i f) s = .next s2 ∧
      Converts s1 s2 c f 16 (fun l => .stoch (word s1 c ((s1.block c.bix).draw.toNat + l) f.imm.toNat)) ∧
      (s2.block c.bix).draw = (s1.block c.bix).draw + 256 ∧ (s2.block c.bix).specialFree = c.t + 1) ∧
  (∀ (s s1 : State) (i : Issue) (f : VecF) (c : Ctx), Issues s i 3 c s1 → f.vb = 0 → f.vc = 0 → f.func.toNat < 16 →
    f.imm = 1 → f.type ≠ 10 → exec (.cvt i f) s = .next (illegal s1 c 0x01)) ∧
  (∀ (s s1 : State) (i : Issue) (f : VecF) (c : Ctx), Issues s i 3 c s1 → f.vb = 0 → f.vc = 0 → f.func.toNat < 11 →
    f.imm = 0 → f.type.toNat < 11 → ¬(convFormat f.type.toNat ∧ convFormat f.func.toNat) →
    exec (.cvt i f) s = .next (illegal s1 c 0x20))

namespace Sys2Proof.Claims

open Sys2Proof Sys2Proof.Machine

/-- Element bytes and scale bytes of a QUANT or DEQ (06 R159): eight blocks, or one T2 group of g. -/
def planeBytes (fmt : BitVec 4) (g : Nat) : Nat × Nat :=
  if fmt = 3 then ((32 * g + 4) / 5, g) else if fmt = 2 then (96, 8) else if fmt = 0 ∨ fmt = 1 then (128, 8) else (256, 8)

/-- The byte offsets stay within a register, and the group size suits the format. -/
def planesFit (fmt : BitVec 4) (f : VecF) : Prop :=
  let g := f.imm.toNat / 256 % 8
  32 * (f.imm.toNat % 256) + (planeBytes fmt g).1 ≤ 1024 ∧ 8 * (f.func.toNat / 16) + (planeBytes fmt g).2 ≤ 1024 ∧
    (fmt = 3 → 1 ≤ g ∧ g ≤ 5)

/-- Blocks of a QUANT or DEQ. -/
def blocksOf (fmt : BitVec 4) (f : VecF) : Nat := if fmt = 3 then f.imm.toNat / 256 % 8 else 8

/-- Block k of a QUANT: scale byte, element fields and clips (03 R66). -/
def quantOf (s : State) (c : Ctx) (f : VecF) (fmt : BitVec 4) (k : Nat) : Byte × List Nat × Nat :=
  quantBlock fmt ((List.range 32).map fun j => decodeFloat fmtFP32 ((s.block c.bix).lane 9 f.va (32 * k + j)))
    ((List.range 32).map fun j => if f.imm.getLsbD 11
      then .stoch (word s c ((s.block c.bix).draw.toNat + 32 * k + j) (f.imm.toNat / 4096 % 4)) else .near)

/-- Field j of block k in an element plane: packed elements, or base-3 digits of a T2 group (03 R63, R64). -/
def planeElem (fmt : BitVec 4) (plane k j : Nat) : Nat :=
  if fmt = 3 then field 8 plane ((32 * k + j) / 5) / 3 ^ ((32 * k + j) % 5) % 3
  else if fmt = 2 then field 3 (plane / 2 ^ (96 * k)) j
  else if fmt = 0 ∨ fmt = 1 then field 4 (plane / 2 ^ (128 * k)) j
  else field 8 (plane / 2 ^ (256 * k)) j

/-- A result on its way that writes exactly the bytes [o, o + n). -/
def writesBytes (v : VPend) (c : Ctx) (due : Nat) (reg : BitVec 6) (o n : Nat) : Prop :=
  v.due = due ∧ v.issue = c.t ∧ v.reg = reg ∧ ∀ k < 1024, v.en.getLsbD k = decide (o ≤ k ∧ k < o + n)

end Sys2Proof.Claims

open Sys2Proof Sys2Proof.Machine Sys2Proof.Claims in
/-- QUANT quantises eight blocks of FP32 lanes, or g blocks into one T2 group, and sends the element plane to its
bytes of vd and the scale bytes to those of vc, in 8 cycles, or 16 with Grain, which also advances the draw counter
and holds the special unit for one cycle. DEQ expands the blocks into FP32 lanes in 4 cycles. Both count clips, and
offsets past a register are illegal with cause 0x24. -/
def Obligations.Quantisation : Prop :=
  (∀ (s s1 : State) (i : Issue) (f : VecF) (c : Ctx), Issues s i 3 c s1 →
    let fmt : BitVec 4 := f.func.setWidth 4
    let st := f.imm.getLsbD 11
    let eo := 32 * (f.imm.toNat % 256)
    let so := 8 * (f.func.toNat / 16)
    f.vb = 0 → f.type = 0 → f.km = 0 → f.imm.toNat < 0x4000 → fmt.toNat ≤ 4 → planesFit fmt f →
    (st = true → (s1.block c.bix).specialFree ≤ c.t) →
    ∃ s2 v w, exec (.quant i f) s = .next s2 ∧ VectorFrame s1 s2 c ∧
      (s2.block c.bix).vpend = (s1.block c.bix).vpend ++ [v, w] ∧
      writesBytes v c (c.t + if st then 16 else 8) f.vd eo (planeBytes fmt (f.imm.toNat / 256 % 8)).1 ∧
      writesBytes w c (c.t + if st then 16 else 8) f.vc so (planeBytes fmt (f.imm.toNat / 256 % 8)).2 ∧
      (∀ k < blocksOf fmt f, field 8 w.val.toNat (so + k) = (quantOf s1 c f fmt k).1.toNat ∧
        ∀ j < 32, planeElem fmt (v.val.toNat / 2 ^ (8 * eo)) k j =
          (quantOf s1 c f fmt k).2.1.getD j 0 % (if fmt = 3 then 3 else if fmt = 2 then 8 else if fmt = 0 ∨ fmt = 1 then 16 else 256)) ∧
      (s2.block c.bix).convClip.toNat = clipsAfter (s1.block c.bix)
        ((List.range (blocksOf fmt f)).foldl (fun acc k => acc + (quantOf s1 c f fmt k).2.2) 0) ∧
      (s2.block c.bix).draw = (if st then (s1.block c.bix).draw + 256 else (s1.block c.bix).draw) ∧
      (s2.block c.bix).specialFree = (if st then c.t + 1 else (s1.block c.bix).specialFree)) ∧
  (∀ (s s1 : State) (i : Issue) (f : VecF) (c : Ctx), Issues s i 3 c s1 →
    let fmt : BitVec 4 := f.func.setWidth 4
    let g := f.imm.toNat / 256 % 8
    let elems := regBytes ((s1.block c.bix).vreg f.va) (32 * (f.imm.toNat % 256)) (planeBytes fmt g).1
    let scales := regBytes ((s1.block c.bix).vreg f.vb) (8 * (f.func.toNat / 16)) (planeBytes fmt g).2
    let row (k : Nat) : List (Nat × Bool) := if fmt = 3 then deqBlock fmt elems k (scales.getD k 0)
      else deqBlock fmt ((elems.drop ((planeBytes fmt g).1 / 8 * k)).take ((planeBytes fmt g).1 / 8)) 0 (scales.getD k 0)
    f.vc = 0 → f.type = 0 → f.km = 0 → f.imm.toNat < 0x800 → fmt.toNat ≤ 6 → planesFit fmt f →
    ∃ s2 v, exec (.deq i f) s = .next s2 ∧ VectorFrame s1 s2 c ∧
      (s2.block c.bix).vpend = (s1.block c.bix).vpend ++ [v] ∧ writesBytes v c (c.t + 4) f.vd 0 (128 * blocksOf fmt f) ∧
      (∀ k < blocksOf fmt f, ∀ j < 32, field 32 v.val.toNat (32 * k + j) = ((row k).getD j (0, false)).1 % 2 ^ 32) ∧
      (s2.block c.bix).convClip.toNat = clipsAfter (s1.block c.bix)
        ((List.range (blocksOf fmt f)).foldl (fun acc k => acc + ((row k).filter (·.2)).length) 0)) ∧
  (∀ (s s1 : State) (i : Issue) (f : VecF) (c : Ctx), Issues s i 3 c s1 → f.vb = 0 → f.type = 0 → f.km = 0 →
    f.imm.toNat < 0x4000 → (f.func.toNat % 16 ≤ 4) →
    ¬planesFit (f.func.setWidth 4) f → exec (.quant i f) s = .next (illegal s1 c 0x24))

namespace Sys2Proof.Claims

open Sys2Proof Sys2Proof.Machine

/-- The lanes of a source that a mask leaves on, as FP32 codes (03 R88). -/
def present (s : State) (c : Ctx) (f : VecF) : List (Option Nat) :=
  (List.range (laneCount f.type)).map fun l => if ((s.block c.bix).mask f.km).getLsbD l
    then some (if f.type = 9 then (s.block c.bix).lane 9 f.va l else encVal fmtFP32 (flt (s.block c.bix) f f.va l)) else none

/-- A reduction writes one FP32 result into every lane of vd that km leaves on. -/
def Reduces (ins : Issue → VecF → Instr) (op : Val → Val → Val) (none_ : Nat) : Prop :=
  ∀ (s s1 : State) (i : Issue) (f : VecF) (c : Ctx), Issues s i 3 c s1 → floatType f → plain1 f →
    ∃ s2, exec (ins i f) s = .next s2 ∧ VectorFrame s1 s2 c ∧
      Sends s1 s2 c f.vd (c.t + if f.type = 9 then 36 else 40) 256 32 ((s1.block c.bix).mask f.km) fun _ =>
        (laneReduce (fun x y => encVal fmtFP32 (op (decodeFloat fmtFP32 x) (decodeFloat fmtFP32 y)))
          (if f.type = 9 then 8 else 9) (present s1 c f)).getD none_

end Sys2Proof.Claims

open Sys2Proof Sys2Proof.Machine Sys2Proof.Claims in
/-- RSUM, RMAX and RMIN reduce the present lanes by the pairwise tree of R88, in FP32, with latency 36 or 40, and give
the identity when no lane is present. DRAW writes words or uniform values of Grain with latency 14 and holds the
special unit for one cycle; the counter source advances the draw counter by 256, the register source leaves it. -/
def Obligations.Reductions : Prop :=
  Reduces .rsum addVal 0 ∧ Reduces .rmax maxVal 0xFF800000 ∧ Reduces .rmin minVal 0x7F800000 ∧
  ∀ (s s1 : State) (i : Issue) (f : VecF) (c : Ctx), Issues s i 3 c s1 → (f.type = 9 ∨ f.type = 10) → f.vb = 0 → f.vc = 0 →
    f.func = 0 → f.imm.toNat < 0x800 → (s1.block c.bix).specialFree ≤ c.t →
    let reg := f.imm.getLsbD 10
    let w (l : Nat) := word s1 c (if reg then (s1.block c.bix).lane f.type f.va l + (f.imm.toNat % 256) * 2 ^ 32
      else (s1.block c.bix).draw.toNat + l) (f.imm.toNat / 256 % 4)
    ∃ s2, exec (.draw i f) s = .next s2 ∧ VectorFrame s1 s2 c ∧
      Sends s1 s2 c f.vd (c.t + 14) 256 32 ((s1.block c.bix).mask f.km)
        (fun l => if f.type = 9 then uniformOf (w l) else (w l).toNat) ∧
      (s2.block c.bix).specialFree = c.t + 1 ∧
      (s2.block c.bix).draw = if reg then (s1.block c.bix).draw else (s1.block c.bix).draw + 256

namespace Sys2Proof.Claims

open Sys2Proof Sys2Proof.Machine

/-- A block but for what LD and ST may change. -/
def besidesLd (b : Block) : Block :=
  { b.still with vpend := [], due := [], loads := [], timed := [], perf := {} }

/-- Offset of an LD or ST in its cell stores (06 R162). -/
def ldAddr (s : State) (c : Ctx) (f : LdStF) : Nat := (arOf (arNow (s.block c.bix) c.t) f.ar).toNat + 256 * f.off.toNat

/-- An LD or ST may issue: its offset is aligned, its range lies in the stores, and no other due access holds port F. -/
def ldFits (s : State) (c : Ctx) (f : LdStF) (cells : List Nat) (len cycles : Nat) : Prop :=
  ldAddr s c f % 256 = 0 ∧ ldAddr s c f + len ≤ 0x100000 ∧
    ∀ x ∈ (s.block c.bix).due, x.cell.toNat ∈ cells → ¬(c.t ≤ x.cycle ∧ x.cycle < c.t + cycles)

end Sys2Proof.Claims

open Sys2Proof Sys2Proof.Machine Sys2Proof.Claims in
/-- With all four cells, an LD whose reads deliver data sends bytes 256c to 256c + 255 of vd from the store of cell c,
to land six cycles after issue; one of which a read fails (R99, R100, R120) sends nothing and is an Exposure-fatal
fault. ST sends them there with stated completion at issue + 6. With one cell, LD claims port F for four cycles and
reads from then on, and ST sends all 1,024 bytes with stated completion at issue + 9. Any other cell mask, a
misaligned offset or a range past the store is illegal with cause 0x23. Memory itself does not change at issue. -/
def Obligations.LoadsAndStores : Prop :=
  (∀ (s s1 : State) (i : Issue) (f : LdStF) (rd : Ecc) (c : Ctx), Issues s i 3 c s1 → f.cells = 15 →
    ldFits s1 c f [0, 1, 2, 3] 256 1 → memWf s1.mem = true → rd ≠ .uncorrectable →
    (∀ k < 4, dueReadFails s1 c.bix (BitVec.ofNat 2 k) (ldAddr s1 c f) c.t = none) →
    ∃ s2 v, exec (.ld i f rd) s = .next s2 ∧ (rd = .good → OwnFrame besidesLd s1 s2 c) ∧
      (s2.block c.bix).vpend = (s1.block c.bix).vpend ++ [v] ∧ v.due = c.t + 6 ∧ v.issue = c.t ∧ v.reg = f.vd ∧
      v.en = BitVec.allOnes 1024 ∧
      ∀ k < 4, ∀ j < 256, field 8 v.val.toNat (256 * k + j) = (memGet s1.mem (cellBase (4 * c.bix + k) + ldAddr s1 c f + j)).toNat) ∧
  (∀ (s s1 : State) (i : Issue) (f : LdStF) (rd : Ecc) (c : Ctx), Issues s i 3 c s1 → f.cells = 15 →
    ldFits s1 c f [0, 1, 2, 3] 256 1 →
    (rd = .uncorrectable ∨ ∃ k < 4, dueReadFails s1 c.bix (BitVec.ofNat 2 k) (ldAddr s1 c f) c.t ≠ none) →
    ∃ s2, exec (.ld i f rd) s = .next s2 ∧ (s2.block c.bix).vpend = (s1.block c.bix).vpend ∧
      ((∀ p, s1.part c.pid = some p → p.state = .running ∧ p.frame.fatal = none) → ∀ p, s1.part c.pid = some p →
        ∃ q, s2.part c.pid = some q ∧ q.frame.fatal ≠ none)) ∧
  (∀ (s s1 : State) (i : Issue) (f : LdStF) (rd : Ecc) (c : Ctx) (k : Nat), Issues s i 3 c s1 → k < 4 → f.cells.toNat = 2 ^ k →
    ldFits s1 c f [k] 1024 4 →
    ∃ s2 q, exec (.ld i f rd) s = .next s2 ∧ (rd = .good → OwnFrame besidesLd s1 s2 c) ∧
      (s2.block c.bix).loads = (s1.block c.bix).loads ++ [q] ∧ q.reg = f.vd ∧ q.cellIx = 4 * c.bix + k ∧
      q.off = ldAddr s1 c f ∧ q.issue = c.t ∧ q.got = [] ∧ (q.failed = true ↔ rd = .uncorrectable) ∧
      ∀ u < 4, (⟨c.t + u, BitVec.ofNat 2 k, ldAddr s1 c f + 256 * u, true⟩ : DueAcc) ∈ (s2.block c.bix).due) ∧
  (∀ (s s1 : State) (i : Issue) (f : LdStF) (c : Ctx), Issues s i 3 c s1 → f.cells = 15 → ldFits s1 c f [0, 1, 2, 3] 256 1 →
    ∃ s2 ws, exec (.st i f) s = .next s2 ∧ OwnFrame besidesLd s1 s2 c ∧ s2.mem = s1.mem ∧
      (s2.block c.bix).timed = (s1.block c.bix).timed ++ ws ∧ ws.length = 4 ∧
      ∀ k < 4, ∃ w, ws[k]? = some w ∧ w.due = c.t + 6 ∧ w.addr = cellBase (4 * c.bix + k) + ldAddr s1 c f ∧ w.data.length = 256 ∧
        ∀ j < 256, (w.data.getD j 0).toNat = field 8 ((s1.block c.bix).vreg f.vd).toNat (256 * k + j)) ∧
  (∀ (s s1 : State) (i : Issue) (f : LdStF) (c : Ctx) (k : Nat), Issues s i 3 c s1 → k < 4 → f.cells.toNat = 2 ^ k →
    ldFits s1 c f [k] 1024 4 →
    ∃ s2 w, exec (.st i f) s = .next s2 ∧ OwnFrame besidesLd s1 s2 c ∧ s2.mem = s1.mem ∧
      (s2.block c.bix).timed = (s1.block c.bix).timed ++ [w] ∧ w.due = c.t + 9 ∧
      w.addr = cellBase (4 * c.bix + k) + ldAddr s1 c f ∧ w.data.length = 1024 ∧
      ∀ j < 1024, (w.data.getD j 0).toNat = field 8 ((s1.block c.bix).vreg f.vd).toNat j) ∧
  (∀ (s s1 : State) (i : Issue) (f : LdStF) (rd : Ecc) (c : Ctx), Issues s i 3 c s1 →
    (f.cells.toNat ∉ [1, 2, 4, 8, 15] ∨ ldAddr s1 c f % 256 ≠ 0 ∨
      0x100000 < ldAddr s1 c f + (if f.cells = 15 then 256 else 1024)) →
    exec (.ld i f rd) s = .next (illegal s1 c 0x23) ∧ exec (.st i f) s = .next (illegal s1 c 0x23))

open Sys2Proof Sys2Proof.Machine Sys2Proof.Claims in
/-- When a block is brought to a cycle, each result due by then writes the bytes it enables into its register and
leaves the others; of two results on one register the later due wins and in one cycle the one issued later; a register
to which nothing is due keeps its value. Mask results do the same; k0 reads all ones whatever lands. -/
def Obligations.ResultsLand : Prop :=
  (∀ (b : Block) (t : Nat) (r : BitVec 6), (∀ v ∈ b.vpend, v.reg = r → t < v.due) → (landVecs b t).vreg r = b.vreg r) ∧
  (∀ (b : Block) (t : Nat) (v : VPend), v ∈ b.vpend → v.due ≤ t →
    (∀ u ∈ b.vpend, u ≠ v → u.reg = v.reg → u.due ≤ t → u.due < v.due ∨ (u.due = v.due ∧ u.issue < v.issue)) →
    b.vpend.count v = 1 →
    ∀ k < 1024, v.en.getLsbD k = true → field 8 ((landVecs b t).vreg v.reg).toNat k = field 8 v.val.toNat k) ∧
  (∀ (b : Block) (t : Nat) (r : BitVec 6), ∀ k < 1024,
    (∀ v ∈ b.vpend, v.reg = r → v.due ≤ t → v.en.getLsbD k = false) →
    field 8 ((landVecs b t).vreg r).toNat k = field 8 (b.vreg r).toNat k) ∧
  (∀ (b : Block) (t : Nat), ∀ v, v ∈ (landVecs b t).vpend ↔ v ∈ b.vpend ∧ t < v.due) ∧
  (∀ (b : Block) (t : Nat) (v : MPend), v ∈ b.mpend → v.due ≤ t → v.kd ≠ 0 →
    (∀ u ∈ b.mpend, u ≠ v → u.kd = v.kd → u.due ≤ t → u.due < v.due ∨ (u.due = v.due ∧ u.issue < v.issue)) →
    b.mpend.count v = 1 → (landVecs b t).mask v.kd = v.val) ∧
  ∀ b : Block, b.mask 0 = BitVec.allOnes 512

namespace Sys2Proof.Claims

open Sys2Proof Sys2Proof.Machine

/-- A block but for its recent address-register operations, and but for its recent predicate writes. -/
def besidesAr (b : Block) : Block := { b.still with arLog := [] }
def besidesPred (b : Block) : Block := { b.still with predLog := [] }

/-- Value of an address register at the start of a cycle. -/
def ar (b : Block) (t : Nat) (k : BitVec 4) : BitVec 32 := arOf (arNow b t) k

/-- Register operations of a block stand in the order of their cycles. -/
def arOrdered (b : Block) : Prop := b.arLog.Pairwise fun x y => x.cycle ≤ y.cycle

/-- An AR operation: from the next cycle on, its destination holds `val` of the registers at the start of its cycle, and every
other register holds what it would hold without it. -/
def SetsAr (ins : Issue → Instr) (d : BitVec 4) (val : (BitVec 4 → BitVec 32) → BitVec 32) : Prop :=
  ∀ (s s1 : State) (i : Issue) (c : Ctx), Issues s i 1 c s1 → arOrdered (s1.block c.bix) →
    ∃ s2, exec (ins i) s = .next s2 ∧ OwnFrame besidesAr s1 s2 c ∧
      (d ≠ 0 → ar (s2.block c.bix) (c.t + 1) d = val (ar (s1.block c.bix) c.t)) ∧
      (∀ k, k ≠ d → ar (s2.block c.bix) (c.t + 1) k = ar (s1.block c.bix) (c.t + 1) k) ∧
      ar (s2.block c.bix) (c.t + 1) 0 = 0

end Sys2Proof.Claims

open Sys2Proof Sys2Proof.Machine Sys2Proof.Claims in
/-- Each AR operation gives its destination, from the next cycle on, the value R133 names, computed from the registers
at the start of its cycle; a write to ar0 is ignored and ar0 reads 0; no other register changes through it. -/
def Obligations.AddressRegisters : Prop :=
  ∀ (d a b : BitVec 4) (imm : BitVec 16),
    SetsAr (.arSetlo · d imm) d (fun r => (r d).extractLsb' 16 16 ++ imm) ∧
    SetsAr (.arSethi · d imm) d (fun r => imm ++ (r d).extractLsb' 0 16) ∧
    SetsAr (.arAddi · d a imm) d (fun r => r a + imm.signExtend 32) ∧
    SetsAr (.arAdd · d a b) d (fun r => r a + r b)

namespace Sys2Proof.Claims

open Sys2Proof Sys2Proof.Machine

/-- Bits [hi:lo] of a control slot, for the operand bits [31:14] of a PSET (05 R137). -/
def slotBits (ops : BitVec 18) (hi lo : Nat) : Nat := ops.toNat / 2 ^ (lo - 14) % 2 ^ (hi + 1 - lo)

/-- Index of the loop at nesting depth k, the outermost at 0; 0 where no such loop is active. -/
def loopAt (b : Block) (k : Nat) : Nat := if k < b.loops.length then ((b.loops.reverse.map Loop.idx).getD k 0) else 0

/-- The value that a PSET writes (05 R137). -/
def psetTruth (b : Block) (t : Nat) (exposure : BitVec 64) (fn : Nat) (ops : BitVec 18) : Prop :=
  match fn with
  | 0 => slotBits ops 14 14 = 1
  | 1 => if slotBits ops 17 17 = 0 then loopAt b (slotBits ops 16 15) = slotBits ops 28 18
    else loopAt b (slotBits ops 16 15) < slotBits ops 28 18
  | 2 =>
    let x := predAt b t (BitVec.ofNat 3 (slotBits ops 16 14)) = true
    let y := predAt b t (BitVec.ofNat 3 (slotBits ops 19 17)) = true
    (match slotBits ops 21 20 with | 0 => x ∧ y | 1 => x ∨ y | 2 => ¬(x ↔ y) | _ => x ∧ ¬y)
  | _ => exposure.toNat % 2 ^ slotBits ops 18 14 = slotBits ops 31 19

end Sys2Proof.Claims

open Sys2Proof Sys2Proof.Machine Sys2Proof.Claims in
/-- PSET gives pd, from the next cycle on, the value of its function and leaves it as it was in its own cycle; no
other predicate and nothing else changes. A destination of 0 makes the bundle illegal, with cause 0x11 where nothing
is reserved; functions 4 to 7, a frame m above 13 and a non-zero unused operand bit with cause 0x01. p0 always reads
1. -/
def Obligations.PredicateWrites : Prop :=
  (∀ (s s1 : State) (i : Issue) (c : Ctx) (d fn : BitVec 3) (ops : BitVec 18) (p : Partition), Issues s i 1 c s1 →
    s1.part c.pid = some p → d ≠ 0 → fn.toNat < 4 → (fn = 0 → slotBits ops 31 15 = 0) →
    (fn = 1 → slotBits ops 14 14 = 0 ∧ slotBits ops 31 29 = 0) → (fn = 2 → slotBits ops 31 22 = 0) →
    (fn = 3 → slotBits ops 18 14 ≤ 13) → (∀ e ∈ (s1.block c.bix).predLog, e.pd = d → e.due ≤ c.t + 1) →
    ∃ s2, exec (.pset i d fn ops) s = .next s2 ∧ OwnFrame besidesPred s1 s2 c ∧
      (predAt (s2.block c.bix) (c.t + 1) d = true ↔ psetTruth (s1.block c.bix) c.t p.frame.exposure fn.toNat ops) ∧
      predAt (s2.block c.bix) c.t d = predAt (s1.block c.bix) c.t d ∧
      ∀ q t, q ≠ d → predAt (s2.block c.bix) t q = predAt (s1.block c.bix) t q) ∧
  (∀ (s s1 : State) (i : Issue) (c : Ctx), Issues s i 1 c s1 → exec (.pset i 0 0 0) s = .next (illegal s1 c 0x11)) ∧
  (∀ (s s1 : State) (i : Issue) (c : Ctx) (fn : BitVec 3) (ops : BitVec 18), Issues s i 1 c s1 →
    exec (.pset i 0 fn ops) s = .next (illegal s1 c 0x11) ∨ exec (.pset i 0 fn ops) s = .next (illegal s1 c 0x01)) ∧
  (∀ (s s1 : State) (i : Issue) (c : Ctx) (d fn : BitVec 3) (ops : BitVec 18), Issues s i 1 c s1 →
    (4 ≤ fn.toNat ∨ (fn = 3 ∧ 13 < slotBits ops 18 14) ∨ (fn = 0 ∧ slotBits ops 31 15 ≠ 0) ∨
      (fn = 1 ∧ slotBits ops 31 29 ≠ 0) ∨ (fn = 1 ∧ slotBits ops 14 14 ≠ 0) ∨ (fn = 2 ∧ slotBits ops 31 22 ≠ 0)) →
    exec (.pset i d fn ops) s = .next (illegal s1 c 0x01)) ∧
  ∀ (b : Block) (t : Nat), predAt b t 0 = true

namespace Sys2Proof.Claims

open Sys2Proof Sys2Proof.Machine

/-- A block but for the loop that its bundle opens, and but for the wait that it asks. -/
def besidesLoop (b : Block) : Block := { b.still with opening := none }
def besidesWait (b : Block) : Block := { b.still with wait := 0 }
def besidesTick (b : Block) : Block := { b.still with atTick := false, perf := {} }

/-- A loop may be opened: fewer than four are, and its end lies after its bundle and not beyond the enclosing loop's. -/
def loopFits (b : Block) (e : Nat) (a : Nat) : Prop := b.loops.length < 4 ∧ a < e ∧ ∀ l rest, b.loops = l :: rest → e ≤ l.endA

end Sys2Proof.Claims

open Sys2Proof Sys2Proof.Machine Sys2Proof.Claims in
/-- LOOP and LOOP.AR open a loop to their end address with their count, LOOP.AR with the count forecast 20 cycles
earlier; both issue whatever the predicate, as do WAITCY, which asks for its wait, and WAITTICK, which stops the
block. HALT keeps the first code of the block and sets the partition's halt request, in the last µs before the Shutter
the one for the Shutter after it (R55). A fifth level is illegal with cause 0x09, a bad end address with 0x0A, a
LOOP.AR count above 16,777,215 with 0x0E. -/
def Obligations.SequencerControls : Prop :=
  (∀ (s s1 : State) (i : Issue) (c : Ctx) (e : BitVec 13) (n : BitVec 11), IssuesAlways s i 1 c s1 →
    loopFits (s1.block c.bix) e.toNat c.addr →
    ∃ s2, exec (.loop i e n) s = .next s2 ∧ OwnFrame besidesLoop s1 s2 c ∧ (s2.block c.bix).opening = some (e.toNat, n.toNat)) ∧
  (∀ (s s1 : State) (i : Issue) (c : Ctx) (e : BitVec 13) (a : BitVec 4), IssuesAlways s i 1 c s1 →
    loopFits (s1.block c.bix) e.toNat c.addr →
    let n := (arOf (arForecast (s1.block c.bix) (c.t - 20) c.t) a).toNat
    n ≤ 16777215 →
    ∃ s2, exec (.loopAr i e a) s = .next s2 ∧ OwnFrame besidesLoop s1 s2 c ∧ (s2.block c.bix).opening = some (e.toNat, n)) ∧
  (∀ (s s1 : State) (i : Issue) (c : Ctx) (n : BitVec 20), IssuesAlways s i 1 c s1 →
    ∃ s2, exec (.waitcy i n) s = .next s2 ∧ OwnFrame besidesWait s1 s2 c ∧ (s2.block c.bix).wait = n.toNat) ∧
  (∀ (s s1 : State) (i : Issue) (c : Ctx), IssuesAlways s i 1 c s1 →
    ∃ s2, exec (.waittick i) s = .next s2 ∧ OwnFrame besidesTick s1 s2 c ∧ (s2.block c.bix).atTick = true) ∧
  (∀ (s s1 : State) (i : Issue) (c : Ctx) (code : BitVec 8), Issues s i 1 c s1 →
    ∃ s2, exec (.bundleHalt i code) s = .next s2 ∧
      (s2.block c.bix).haltCode = (match (s1.block c.bix).haltCode with | some k => some k | none => some code) ∧
      (∀ x, x ≠ c.bix → s2.block x = s1.block x) ∧ { s2.block c.bix with haltCode := none } = { s1.block c.bix with haltCode := none } ∧
      s2.part c.pid = (s1.part c.pid).map (fun p => { p with frame := if p.lastMicro (c.lg / 6) c.t
        then { p.frame with reqLate := true } else { p.frame with haltReq := true } }) ∧
      (∀ q, q ≠ c.pid → s2.part q = s1.part q) ∧ { s2 with blocks := s1.blocks, parts := s1.parts } = s1) ∧
  (∀ (s s1 : State) (i : Issue) (c : Ctx) (e : BitVec 13) (n : BitVec 11), IssuesAlways s i 1 c s1 →
    (4 ≤ (s1.block c.bix).loops.length → exec (.loop i e n) s = .next (illegal s1 c 0x09)) ∧
    ((s1.block c.bix).loops.length < 4 → ¬loopFits (s1.block c.bix) e.toNat c.addr →
      exec (.loop i e n) s = .next (illegal s1 c 0x0A))) ∧
  (∀ (s s1 : State) (i : Issue) (c : Ctx) (e : BitVec 13) (a : BitVec 4), IssuesAlways s i 1 c s1 →
    loopFits (s1.block c.bix) e.toNat c.addr → 16777215 < (arOf (arForecast (s1.block c.bix) (c.t - 20) c.t) a).toNat →
    exec (.loopAr i e a) s = .next (illegal s1 c 0x0E))

open Sys2Proof Sys2Proof.Machine Sys2Proof.Claims in
/-- From a bundle at address a that opens a loop of n ≥ 1 iterations to end address e, with outer loops ending beyond
e, the bundle at e + 1 issues 1 + n(e − a) cycles later with the loop closed; with n = 0 it issues in the next cycle.
A bundle that asks for a wait of w cycles is followed by the next one 1 + w cycles later. -/
def Obligations.LoopsTakeTheirCycles : Prop :=
  (∀ (b : Block) (e n : Nat), b.atTick = false → b.opening = some (e, n) → b.wait = 0 → 1 ≤ n → b.addr < e → e < 8191 →
    e + 1 < b.streamLen → (∀ l ∈ b.loops, e < l.endA) →
    let t := b.cycle + 1 + n * (e - b.addr)
    let r := seqTo (t - b.cycle + 1) b t
    r.2 = none ∧ r.1.addr = e + 1 ∧ r.1.cycle = t ∧ r.1.loops = b.loops ∧ r.1.opening = none) ∧
  (∀ (b : Block) (e : Nat), b.opening = some (e, 0) → b.wait = 0 → (∀ l ∈ b.loops, e < l.endA) →
    (seqNext b).addr = e + 1 ∧ (seqNext b).cycle = b.cycle + 1 ∧ (seqNext b).loops = b.loops) ∧
  ∀ b : Block, b.opening = none → b.loops = [] →
    (seqNext b).addr = b.addr + 1 ∧ (seqNext b).cycle = b.cycle + 1 + b.wait ∧ (seqNext b).wait = 0

open Sys2Proof Sys2Proof.Machine Sys2Proof.Claims in
/-- When the cycle after a wait is reached, the block stands at the next bundle, in that cycle, with no wait left. -/
def Obligations.WaitsExpire : Prop :=
  ∀ (s : State) (pid lg cycle bix : Nat), runningBlock s pid lg = some bix →
    let b := (advanceRegion s pid bix cycle).block bix
    b.atTick = false → b.opening = none → b.loops = [] → b.cycle + 1 + b.wait = cycle → b.addr + 1 < 8192 → b.addr + 1 < b.streamLen →
    ∃ s2, exec (.waitcyExpiry pid lg cycle) s = .next s2 ∧
      (s2.block bix).cycle = cycle ∧ (s2.block bix).addr = b.addr + 1 ∧ (s2.block bix).wait = 0 ∧ (s2.block bix).atTick = false ∧
      { s2 with blocks := [] } = { advanceRegion s pid bix cycle with blocks := [] }

namespace Sys2Proof.Claims

open Sys2Proof Sys2Proof.Machine

/-- A block but for its stream flags, and but for its sync tokens. -/
def besidesFlags (b : Block) : Block := { b.still with flags := 0 }
def besidesTokens (b : Block) : Block := { b.still with tokens := 0, tokensDue := [] }

/-- From s1 to s2 the partition has met an Exposure-fatal fault: it is its fault where none came earlier, or the log has it. -/
def FatalMet (s1 s2 : State) (pid code : Nat) : Prop :=
  ∀ p, s1.part pid = some p → p.state = .running → p.frame.fatal = none →
    ∃ q r, s2.part pid = some q ∧ q.frame.fatal = some r ∧ r.code.toNat = code

end Sys2Proof.Claims

open Sys2Proof Sys2Proof.Machine Sys2Proof.Claims in
/-- CHKFLAG and SYNC.CHK with all bits of their mask set clear them where the clear bit is set, and otherwise leave
the state; with one clear bit they raise 0x1503 or 0x140B. A SYNC.POST within its region sets its token under way to
arrive two cycles later, one to a block of another region to arrive in a cycle that the bounds of R169 leave open (the
model's free value, log entry 41), and a target on another die or outside the partition is illegal with cause 0x0F. -/
def Obligations.FlagsAndTokens : Prop :=
  (∀ (s s1 : State) (i : Issue) (c : Ctx) (m : BitVec 16) (cl : Bool), Issues s i 1 c s1 →
    (m &&& ~~~(s1.block c.bix).flags = 0 → ∃ s2, exec (.chkflag i m cl) s = .next s2 ∧ OwnFrame besidesFlags s1 s2 c ∧
      (s2.block c.bix).flags = if cl then (s1.block c.bix).flags &&& ~~~m else (s1.block c.bix).flags) ∧
    (m &&& ~~~(s1.block c.bix).flags ≠ 0 → ∃ s2, exec (.chkflag i m cl) s = .next s2 ∧ Reports s1 s2 ∧
      FatalMet s1 s2 c.pid 0x1503)) ∧
  (∀ (s s1 : State) (i : Issue) (c : Ctx) (m : BitVec 16) (cl : Bool), Issues s i 1 c s1 →
    (∀ x ∈ (s1.block c.bix).tokensDue, c.t < x.1) →
    (m &&& ~~~(s1.block c.bix).tokens = 0 → ∃ s2, exec (.syncChk i m cl) s = .next s2 ∧ OwnFrame besidesTokens s1 s2 c ∧
      (s2.block c.bix).tokens = if cl then (s1.block c.bix).tokens &&& ~~~m else (s1.block c.bix).tokens) ∧
    (m &&& ~~~(s1.block c.bix).tokens ≠ 0 → ∃ s2, exec (.syncChk i m cl) s = .next s2 ∧ Reports s1 s2 ∧
      FatalMet s1 s2 c.pid 0x140B)) ∧
  (∀ (s s1 : State) (i : Issue) (c : Ctx) (x : BitVec 10) (k : BitVec 4) (p : Partition), Issues s i 1 c s1 →
    s1.part c.pid = some p →
    (x.toNat < 36 * p.tiles.length → x.toNat / 36 = c.lg / 36 → ∃ s2, exec (.syncPost i x k) s = .next s2 ∧
      { s2 with blocks := [], saves := [], free := s1.free } = { s1 with blocks := [], saves := [] } ∧
      (∀ y, y ≠ p.blockIx x.toNat → s2.block y = s1.block y) ∧
      let b := s1.block (p.blockIx x.toNat)
      let bd := tokenBounds s1 c.pid p c.t (rrHops (c.bix / 6 % 6) (x.toNat / 6 % 6) 0)
      (x.toNat / 6 = c.lg / 6 →
        s2.block (p.blockIx x.toNat) = { b with tokensDue := b.tokensDue ++ [(c.t + 2, k)] }) ∧
      (x.toNat / 6 ≠ c.lg / 6 → ∃ due, bd.1 ≤ due ∧ (bd.1 ≤ bd.2 → due ≤ bd.2) ∧
        s2.block (p.blockIx x.toNat) = { b with
          tokensDue := b.tokensDue ++ [(due, k)], crossTokens := b.crossTokens ++ [(bd.2, k, c.addr)] })) ∧
    (36 * p.tiles.length ≤ x.toNat ∨ x.toNat / 36 ≠ c.lg / 36 → exec (.syncPost i x k) s = .next (illegal s1 c 0x0F))) ∧
  (∀ (b : Block) (t : Nat), (∀ x ∈ b.tokensDue, x.1 ≤ t → (b.takeTokens t).tokens.getLsbD x.2.toNat = true) ∧
    ∀ k < 16, b.tokens.getLsbD k = true → (b.takeTokens t).tokens.getLsbD k = true) ∧
  ∀ (s : State) (pid lg cycle bix : Nat) (k : BitVec 4), runningBlock s pid lg = some bix →
    let s1 := passTo s pid lg cycle
    (∃ x ∈ (s1.block bix).tokensDue, x.2 = k) →
    ∃ s2, exec (.syncTokenArrival pid lg k cycle) s = .next s2 ∧ { s2 with blocks := [] } = { s1 with blocks := [] } ∧
      (s2.block bix).tokens = (s1.block bix).tokens ||| (1#16 <<< k.toNat) ∧
      (s2.block bix).tokensDue.length + 1 = (s1.block bix).tokensDue.length ∧ ∀ y, y ≠ bix → s2.block y = s1.block y

open Sys2Proof Sys2Proof.Machine Sys2Proof.Claims in
/-- TANK.BASE sets the base exponent of each selected cell and clears its Tanks, poison bits, depth count, K cursor
and strip row; a mask of 0 changes nothing; the dodge list and latch, every other field and every other cell stay. A
selected cell whose engine is occupied, or to which a contribution is still due, makes the bundle illegal with cause
0x04. -/
def Obligations.TankBase : Prop :=
  (∀ (s s1 : State) (i : Issue) (c : Ctx) (m : BitVec 4) (base : BitVec 10), Issues s i 1 c s1 →
    (∀ k < 4, m.getLsbD k = true → let x := s1.cell (4 * c.bix + k)
      x.engFree ≤ c.t ∧ (∀ l, x.lastLand = some l → l < c.t) ∧ ∀ q ∈ x.mops, q.land ≠ none) →
    ∃ s2, exec (.tankBase i m base) s = .next s2 ∧ { s2 with cells := [] } = { s1 with cells := [] } ∧
      (∀ k < 4, m.getLsbD k = true → s2.cell (4 * c.bix + k) = { s1.cell (4 * c.bix + k) with
        base := base, tanks := [], poison := 0, depth := 0, kcur := 0, strip := [], stripReg := 0, stripRow := none }) ∧
      (∀ x, (∀ k < 4, m.getLsbD k = true → x ≠ 4 * c.bix + k) → s2.cell x = s1.cell x) ∧ (m = 0 → s2 = s1)) ∧
  ∀ (s s1 : State) (i : Issue) (c : Ctx) (m : BitVec 4) (base : BitVec 10) (k : Nat), Issues s i 1 c s1 → k < 4 →
    m.getLsbD k = true → (c.t < (s1.cell (4 * c.bix + k)).engFree ∨ (∃ l, (s1.cell (4 * c.bix + k)).lastLand = some l ∧ c.t ≤ l) ∨
      ∃ q ∈ (s1.cell (4 * c.bix + k)).mops, q.land = none) →
    exec (.tankBase i m base) s = .next (illegal s1 c 0x04)

open Sys2Proof Sys2Proof.Machine Sys2Proof.Claims in
/-- Where the predicate of its bundle is 0 in the issue cycle, an operation of the V slot, or one of the C slot that
follows the predicate, leaves the state as it was brought up to its cycle; an AR operation and a post-increment leave
every address register as it was. -/
def Obligations.SuppressedOperations : Prop :=
  ∀ (s s1 : State) (i : Issue) (c : Ctx) (slot : Nat), openIssue s i slot = (s1, some c) →
    let s2 := hazPred s1 c c.t
    predOn s2 c = false →
    (slot = 3 → ∀ f : VecF, f.type = 10 → plain2 f → exec (.add i f) s = .next s2 ∧ exec (.xor i f) s = .next s2) ∧
    (slot = 3 → ∀ (f : LdStF) (rd : Ecc), exec (.ld i f rd) s = .next s2 ∧ exec (.st i f) s = .next s2) ∧
    (slot = 1 → ∀ m cl, exec (.chkflag i m cl) s = .next s2 ∧ exec (.syncChk i m cl) s = .next s2) ∧
    (slot = 1 → ∀ m base, exec (.tankBase i m base) s = .next s2) ∧
    (slot = 1 → ∀ code, exec (.bundleHalt i code) s = .next s2) ∧
    (slot = 1 → ∀ d a b imm, ∀ ins ∈ [Instr.arSetlo i d imm, .arSethi i d imm, .arAddi i d a imm, .arAdd i d a b],
      ∃ s3, exec ins s = .next s3 ∧ OwnFrame besidesAr s2 s3 c ∧
        ∀ t k, ar (s3.block c.bix) t k = ar (s2.block c.bix) t k)

open Sys2Proof Sys2Proof.Machine Sys2Proof.Claims in
/-- An illegal bundle logs 0x1406 with its cause, slot and address, becomes the fatal fault of a running partition
that has none yet, and none of its operations issues: its block and cells go back to what was kept before its first
slot, what it has asked of the region arbiters and posted to other blocks is withdrawn, and everything else stays (log
entry 20). Every operation that issues does so on a kept bundle. A non-zero reserved field of the slot is illegal with
cause 0x01, and an uncorrectable fetch raises 0x1405. -/
def Obligations.IllegalBundles : Prop :=
  (∀ (s : State) (c : Ctx) (cause : Nat), cause < 256 → c.slot < 8 → c.addr < 8192 → s.log.used < 4096 →
    let s2 := illegal s c cause
    (∃ e, s2.log.buf = s.log.buf ++ [e] ∧ e.code = 0x1406 ∧ e.index = s.log.next ∧
      e.detail.toNat = cause + 256 * c.slot + 2048 * c.addr) ∧
    FatalMet s s2 c.pid 0x1406 ∧ s2.mem = s.mem ∧
    (∀ v, fmGet s.saves c.bix = some v → v.cycle = c.t → v.cells.length = 4 →
      (s2.block c.bix).still = v.block.still ∧
      (∀ k < 4, v.cells[k]? = some (s2.cell (4 * c.bix + k))) ∧
      (∀ x, x / 4 ≠ c.bix → s2.cell x = s.cell x) ∧
      (∀ x, x ≠ c.bix → (∀ q ∈ v.posts, q.1 ≠ x) → (s2.block x).still = (s.block x).still) ∧
      (∀ r q, q.kind ≠ .stream → (q ∈ (s2.region r).reqs ↔ q ∈ (s.region r).reqs ∧
        ¬(q.own = true ∧ q.block = c.bix ∧ q.issue = c.t))) ∧
      (v.staged = none → s2.tx = s.tx))) ∧
  (∀ (s s1 : State) (i : Issue) (slot : Nat) (c : Ctx), openIssue s i slot = (s1, some c) →
    ∃ v, fmGet s1.saves c.bix = some v ∧ v.cycle = c.t) ∧
  (∀ (s s1 : State) (i : Issue) (c : Ctx), i.rsvd = false → openIssue s i 3 = (s1, some c) → i.fetch = .good →
    ∀ f : VecF, exec (.add { i with rsvd := true } f) s = .next (illegal s1 c 0x01) ∧
      exec (.mov { i with rsvd := true } f) s = .next (illegal s1 c 0x01)) ∧
  ∀ (s s1 : State) (i : Issue) (c : Ctx), i.rsvd = false → openIssue s i 3 = (s1, some c) → i.fetch = .good →
    ∀ f : VecF, exec (.add { i with fetch := .uncorrectable } f) s = .next (s1.blockFatal c.pid c.bix 0x1405 0 c.t)

namespace Sys2Proof.Claims

open Sys2Proof Sys2Proof.Machine

/-- Keys of a table rise strictly. -/
def rising {α : Type} (m : List (Nat × α)) : Prop := m.Pairwise fun x y => x.1 < y.1

/-- Value that a contribution adds to element e (03 R70); none adds 0. -/
def addend (k : Contrib) (e : Nat) : Int := ((k.vals.filter fun v => v.1 == e).map (·.2)).sum

/-- Signed value of element e of the Tanks of a cell. -/
def tank (c : Cell) (e : Nat) : Int := (fmGetD c.tanks e 0).toInt

end Sys2Proof.Claims

open Sys2Proof Sys2Proof.Machine Sys2Proof.Claims in
/-- For the exact value v × 2^k in units of the base, the contribution has the sign of v and the magnitude of the
truncated value where that is at most 2^71 − 1; otherwise the magnitude 2^71 − 1, and the clamp is reported. A scaled
value below 1 adds 0. -/
def Obligations.TankContribution : Prop :=
  ∀ (v k : Int), let c := tankContribution v k
    let m : Nat := if 0 ≤ k then v.natAbs * 2 ^ k.toNat else v.natAbs / 2 ^ (-k).toNat
    (c.2 = true ↔ 2 ^ 71 - 1 < m) ∧ c.1.natAbs = Nat.min m (2 ^ 71 - 1) ∧ (v < 0 → c.1 ≤ 0) ∧ (0 ≤ v → 0 ≤ c.1) ∧
      (k < 0 → v.natAbs < 2 ^ (-k).toNat → c = (0, false))

open Sys2Proof Sys2Proof.Machine Sys2Proof.Claims in
/-- From clear Tanks, after at most 2^24 contributions whose values lie within ±(2^71 − 1), every Tank holds the exact
integer sum of what they add to its element, whatever their order; poison bits and the saturating clamp count do not
depend on the order either. -/
def Obligations.TankSumsAreExact : Prop :=
  ∀ (c : Cell) (ks : List Contrib), c.tanks = [] → ks.length ≤ 2 ^ 24 → (∀ k ∈ ks, rising k.vals) →
    (∀ k ∈ ks, ∀ v ∈ k.vals, v.2.natAbs ≤ 2 ^ 71 - 1) →
    (∀ e, tank (ks.foldl Cell.addContrib c) e = (ks.map fun k => addend k e).sum) ∧
    ∀ ks' : List Contrib, ks.Perm ks' →
      (∀ e, tank (ks'.foldl Cell.addContrib c) e = tank (ks.foldl Cell.addContrib c) e) ∧
      (ks'.foldl Cell.addContrib c).poison = (ks.foldl Cell.addContrib c).poison ∧
      (ks'.foldl Cell.addContrib c).clampCount = (ks.foldl Cell.addContrib c).clampCount

namespace Sys2Proof.Claims

open Sys2Proof Sys2Proof.Machine

/-- An operation of the M slot issues with its predicate on: `c` says where, `s1` is the state brought up to its cycle, and `r`
holds the forecast registers. -/
def IssuesM (s : State) (i : Issue) (fr : Nat → Int) (c : Ctx) (s1 : State) (r : FMap (BitVec 32)) : Prop :=
  openM s i fr = (s1, some (c, r, true))

/-- Offset in a cell store that a register names. -/
def at_ (r : FMap (BitVec 32)) (k : BitVec 4) : Nat := (arOf r k).toNat

/-- The cells that a mask selects. -/
def selected (c : Ctx) (m : BitVec 4) (x : Nat) : Prop := ∃ k < 4, m.getLsbD k = true ∧ x = 4 * c.bix + k

/-- Nothing stands against an M operation on the selected cells: their engines are free, no port is asked twice, the ranges
are aligned and within the stores. -/
structure MReady (s : State) (c : Ctx) (m : BitVec 4) (caps : Nat → List Cap) (ranges : List (Nat × Nat × Nat)) : Prop where
  engine : ∀ x, selected c m x → (s.cell x).engFree ≤ c.t
  ports : ∀ x, selected c m x → ∀ q ∈ (s.cell x).mops ++ (s.cell x).past, ∀ a ∈ q.caps, ∀ b ∈ caps (cellBase x),
    portClash b a = false
  fit : ∀ q ∈ ranges, q.1 % q.2.1 = 0 ∧ q.1 + q.2.2 ≤ 0x100000
  early : -4 ≤ firstRead c.t (caps 0)

/-- No selected cell has a T2 group in progress. -/
def noT2 (s : State) (c : Ctx) (m : BitVec 4) : Prop := ∀ x, selected c m x → (s.cell x).t2 = none

/-- A block but for what an operation of the M slot may change. -/
def besidesM (b : Block) : Block := { b.still with arLog := [], perf := {}, timed := [], lastDone := 0, faults := [] }

/-- What an M operation leaves alone: the memory, the cells it does not select, and of its block all but its register
history and counters; everything outside blocks and cells but reports. -/
structure MFrame (s1 s2 : State) (c : Ctx) (m : BitVec 4) (incs : List (BitVec 4 × Nat)) : Prop where
  same : { s2 with
    parts := s1.parts, blocks := s1.blocks, cells := s1.cells, regions := s1.regions, eps := s1.eps, log := s1.log
    out := s1.out } = s1
  cell : ∀ x, ¬selected c m x → s2.cell x = s1.cell x
  others : ∀ x, x ≠ c.bix → (s2.block x).still = (s1.block x).still
  own : besidesM (s2.block c.bix) = besidesM (s1.block c.bix)
  region : ∀ r, (s2.region r).still = (s1.region r).still
  part : ∀ p, (s2.part p).map Partition.quiet = (s1.part p).map Partition.quiet
  incs : (s2.block c.bix).arLog = (s1.block c.bix).arLog ++
    incs.map fun q => (⟨c.t, c.pred, true, .incr q.1 (BitVec.ofNat 32 q.2)⟩ : ArEv)

/-- Occupancy of an MMA step (03 R67), with its strip (05 R143). -/
def stepOcc (f : MmaF) : Option Nat :=
  (pairOcc f.fmtA f.fmtB).map fun o => if f.strip then (if o = 128 then 132 else 36) else o

/-- The last position of a T2 group, or a step outside one. -/
def lastStep (f : MmaF) : Prop := f.t2size = 0 ∨ f.t2pos.toNat + 1 = f.t2size.toNat

end Sys2Proof.Claims

open Sys2Proof Sys2Proof.Machine Sys2Proof.Claims in
/-- An MMA step that nothing stands against occupies the engine of each selected cell for the occupancy of its pair,
adds 1 to its depth count and its K cursor, and has its contribution land occupancy + 8 cycles after issue, in a T2
group with the last position; Tanks and memory stay until then. Registers are post-incremented as R139 says. A step on
a cell whose depth count is 2^24 is not performed and raises 0x1420. An occupied engine is illegal with cause 0x04, a
pair outside R67 with cause 0x03. -/
def Obligations.MmaIssues : Prop :=
  (∀ (s s1 : State) (i : Issue) (f : MmaF) (rd : Ecc) (c : Ctx) (r : FMap (BitVec 32)) (occ : Nat),
    IssuesM s i (fun t => firstRead t (mmaCaps f [] t 0)) c s1 r → stepOcc f = some occ → (f.strip = true → f.fmtA.toNat ≤ 3) →
    t2FieldsBad f = false → (∀ x, selected c f.cells x → t2SeqBad (s1.cell x) f = false) →
    (f.strip = true → ∀ x, selected c f.cells x → ∀ q, (s1.cell x).stripRow = some q → q = f.row) →
    MReady s1 c f.cells (mmaCaps f r c.t) (mmaRanges f r) → (∀ x, selected c f.cells x → (s1.cell x).depth.toNat < 2 ^ 24) →
    ∃ s2, exec (.mma i f rd) s = .next s2 ∧ MFrame s1 s2 c f.cells (mmaIncs f) ∧
      (s2.block c.bix).timed = (s1.block c.bix).timed ∧
      ∀ x, selected c f.cells x →
        (s2.cell x).engFree = c.t + occ ∧ (s2.cell x).depth.toNat = (s1.cell x).depth.toNat + 1 ∧
        (s2.cell x).kcur = (s1.cell x).kcur + 1 ∧ (s2.cell x).tanks = (s1.cell x).tanks ∧
        (s2.cell x).poison = (s1.cell x).poison ∧ (s2.cell x).base = (s1.cell x).base ∧
        (s2.cell x).stripRow = (if f.strip then some f.row else (s1.cell x).stripRow) ∧
        ∃ m ∈ (s2.cell x).mops, m.kind = .mma ∧ m.issue = c.t ∧ m.kblk = (s1.cell x).kcur ∧
          (lastStep f → m.land = some (c.t + occ + 8)) ∧ (¬lastStep f → m.land = none)) ∧
  (∀ (s s1 : State) (i : Issue) (f : MmaF) (rd : Ecc) (c : Ctx) (r : FMap (BitVec 32)) (x : Nat),
    IssuesM s i (fun t => firstRead t (mmaCaps f [] t 0)) c s1 r → f.fmtA.toNat ≤ 10 → f.fmtB.toNat ≤ 10 →
    (stepOcc f = none → exec (.mma i f rd) s = .next (illegal s1 c 0x03)) ∧
    (stepOcc f ≠ none → f.strip = false → selected c f.cells x → c.t < (s1.cell x).engFree →
      exec (.mma i f rd) s = .next (illegal s1 c 0x04))) ∧
  ∀ (s : State) (c : Ctx) (f : MmaF) (r : FMap (BitVec 32)) (rd : Ecc) (x : Nat), 2 ^ 24 ≤ (s.cell x).depth.toNat →
    Reports s (mmaCell s c f r rd x) ∧ FatalMet s (mmaCell s c f r rd x) c.pid 0x1420

namespace Sys2Proof.Claims

open Sys2Proof Sys2Proof.Machine

/-- First read of the M operations other than MMA. -/
def fr3 (t : Nat) : Int := (t : Int) - 3

end Sys2Proof.Claims

open Sys2Proof Sys2Proof.Machine Sys2Proof.Claims in
/-- MMA.DODGE occupies a cell for 128 cycles, adds 1 to its depth and lands at t + 136 without moving the K cursor;
TANK.MERGE occupies it for 2,048, adds the tile's depth count and writes back at t + 2056 what it sampled at t plus
the tile; DODGE.SET occupies it for (L + 128n) ÷ 128 + 8 cycles, 1 where n is 0, and its list applies then;
STRIP.CHECK occupies it for 16, samples Tanks and strip row and acts at t + 20. None changes Tanks or memory at issue.
A group, threshold entry or count out of range is illegal with cause 0x0D or 0x0E. -/
def Obligations.MatrixOperationsIssue : Prop :=
  (∀ (s s1 : State) (i : Issue) (f : DodgeF) (rd : Ecc) (c : Ctx) (r : FMap (BitVec 32)), IssuesM s i fr3 c s1 r →
    f.fmtW.toNat ≤ 3 → noT2 s1 c f.cells →
    MReady s1 c f.cells (dodgeCaps f r c.t)
      [(at_ r f.arA, 64, 4096), (at_ r f.arW, 64, slabBytes f.fmtW 1), (at_ r f.arS, 16, 256)] →
    (∀ x, selected c f.cells x → 32 * f.group.toNat < (s1.cell x).dodgeList.length ∧ (s1.cell x).depth.toNat < 2 ^ 24) →
    ∃ s2, exec (.mmaDodge i f rd) s = .next s2 ∧
      MFrame s1 s2 c f.cells (if f.inc then [(f.arA, 4096), (f.arW, slabBytes f.fmtW 1), (f.arS, 256)] else []) ∧
      (s2.block c.bix).timed = (s1.block c.bix).timed ∧
      ∀ x, selected c f.cells x → (s2.cell x).engFree = c.t + 128 ∧ (s2.cell x).kcur = (s1.cell x).kcur ∧
        (s2.cell x).depth.toNat = (s1.cell x).depth.toNat + 1 ∧ (s2.cell x).tanks = (s1.cell x).tanks ∧
        ∃ m ∈ (s2.cell x).mops, m.kind = .side ∧ m.issue = c.t ∧ m.group = f.group.toNat ∧ m.land = some (c.t + 136)) ∧
  (∀ (s s1 : State) (i : Issue) (m : BitVec 4) (a : BitVec 4) (inc : Bool) (rd : Ecc) (c : Ctx) (r : FMap (BitVec 32)),
    IssuesM s i fr3 c s1 r → noT2 s1 c m →
    MReady s1 c m (fun base => [pairCap c.t (base + at_ r a) 4096]) [(at_ r a, 1024, 0x40000)] →
    let n (x : Nat) := leNat (s1.cellReadAt x (at_ r a + 12) 4 ((c.t : Int) - 3)) % 2 ^ 25
    (∀ x, selected c m x → (s1.cell x).depth.toNat + n x ≤ 2 ^ 24) →
    ∃ s2, exec (.tankMerge i m a inc rd false) s = .next s2 ∧ MFrame s1 s2 c m (if inc then [(a, 0x40000)] else []) ∧
      (s2.block c.bix).timed = (s1.block c.bix).timed ∧
      ∀ x, selected c m x → (s2.cell x).engFree = c.t + 2048 ∧ (s2.cell x).depth.toNat = (s1.cell x).depth.toNat + n x ∧
        (s2.cell x).tanks = (s1.cell x).tanks ∧
        ∃ q ∈ (s2.cell x).mops, q.kind = .merge ∧ q.issue = c.t ∧ q.land = some (c.t + 2056) ∧ q.sample = (s1.cell x).tanks ∧
          q.samplePoison = (s1.cell x).poison) ∧
  (∀ (s s1 : State) (i : Issue) (m : BitVec 4) (a : BitVec 4) (n : BitVec 9) (rd : Ecc) (c : Ctx) (r : FMap (BitVec 32)),
    IssuesM s i fr3 c s1 r → noT2 s1 c m → n.toNat ≤ 256 →
    let len := alignUp (4 * n.toNat) 128 + 128 * n.toNat
    MReady s1 c m (fun base => [pairCap c.t (base + at_ r a) (len / 64)]) (if n = 0 then [] else [(at_ r a, 128, len)]) →
    ∃ s2, exec (.dodgeSet i m a n rd) s = .next s2 ∧ MFrame s1 s2 c m [] ∧ (s2.block c.bix).timed = (s1.block c.bix).timed ∧
      ∀ x, selected c m x → (s2.cell x).engFree = c.t + (if n = 0 then 1 else len / 128 + 8) ∧
        (s2.cell x).dodgeList = (s1.cell x).dodgeList ∧ (s2.cell x).tanks = (s1.cell x).tanks ∧
        ∃ q ∈ (s2.cell x).mops, q.kind = .dodgeSet ∧ q.issue = c.t ∧ q.n = n.toNat ∧ q.land = some (s2.cell x).engFree) ∧
  (∀ (s s1 : State) (i : Issue) (m : BitVec 4) (row : BitVec 7) (entry : BitVec 8) (c : Ctx) (r : FMap (BitVec 32)) (p : Partition),
    IssuesM s i fr3 c s1 r → noT2 s1 c m → MReady s1 c m (fun _ => []) [] → s1.part c.pid = some p →
    (∀ x, selected c m x → ∀ q, (s1.cell x).stripRow = some q → q = row) →
    (entry.toNat < p.negative.thresh.length →
      ∃ s2, exec (.stripCheck i m row entry) s = .next s2 ∧ MFrame s1 s2 c m [] ∧
        (s2.block c.bix).timed = (s1.block c.bix).timed ∧
        ∀ x, selected c m x → (s2.cell x).engFree = c.t + 16 ∧ (s2.cell x).stripRow = none ∧
          (s2.cell x).tanks = (s1.cell x).tanks ∧ (s2.cell x).strip = (s1.cell x).strip ∧
          ∃ q ∈ (s2.cell x).mops, q.kind = .check ∧ q.issue = c.t ∧ q.row = row ∧ q.entry = entry ∧ q.land = some (c.t + 20) ∧
            q.stripSample = (s1.cell x).strip) ∧
    (p.negative.thresh.length ≤ entry.toNat → exec (.stripCheck i m row entry) s = .next (illegal s1 c 0x0D)))

namespace Sys2Proof.Claims

open Sys2Proof Sys2Proof.Machine

/-- Bytes of an element of a readout format (05 R146). -/
def outBytes (fmt : BitVec 4) : Nat := if fmt = 9 ∨ fmt = 10 then 4 else if fmt = 7 ∨ fmt = 8 then 2 else 1

end Sys2Proof.Claims

open Sys2Proof Sys2Proof.Machine Sys2Proof.Claims in
/-- TANK.READ samples the Tanks at issue and leaves them; it occupies the cell for 64 cycles, raw for 256, and sends
each element, rounded once into its format with its optional scale, the word that stood in the store in cycle t − 3,
or the raw entries with depth count and poison bit, to the destination with stated completion at t + 70 or t + 262. A
poisoned element sets the poison flag, and clips are counted. A parity failure raises 0x1403 and no data leave the
cell. -/
def Obligations.TankReadWritesTheTile : Prop :=
  (∀ (s s1 : State) (i : Issue) (f : TankReadF) (rd : Ecc) (c : Ctx) (r : FMap (BitVec 32)), IssuesM s i fr3 c s1 r →
    noT2 s1 c f.cells → (if f.raw then f.fmt = 0 else 5 ≤ f.fmt.toNat ∧ f.fmt.toNat ≤ 10) →
    let occ := if f.raw then 256 else 64
    let size := if f.raw then 0x40000 else 16384 * outBytes f.fmt
    MReady s1 c f.cells
      (fun base => [{ mkCap c.t 1 1 (base + at_ r f.arSigma) 4 (boolNat f.sigma) 1 0 .scale with base := (c.t : Int) - 3 }])
      ([(at_ r f.arD, 1024, size)] ++ if f.sigma then [(at_ r f.arSigma, 4, 4)] else []) →
    (f.sigma = true → rd ≠ .uncorrectable ∧ ∀ x, selected c f.cells x →
      lateWrite (s1.block c.bix) (s1.cell x) (cellBase x + at_ r f.arSigma) (at_ r f.arSigma) 4 ((c.t : Int) - 3) = false) →
    ∃ s2, exec (.tankRead i f rd false) s = .next s2 ∧ MFrame s1 s2 c f.cells (if f.inc then [(f.arD, size)] else []) ∧
      ∀ x, selected c f.cells x →
        let sg := if f.sigma then some (decodeFloat fmtFP32
          (leNat (s1.cellReadAt x (at_ r f.arSigma) 4 ((c.t : Int) - 3)))) else none
        let out (e : Nat) := readoutElem f.fmt (tank (s1.cell x) e) (s1.cell x).base.toInt ((s1.cell x).poison.getLsbD e) sg
        (s2.cell x).engFree = c.t + occ ∧ (s2.cell x).tanks = (s1.cell x).tanks ∧ (s2.cell x).depth = (s1.cell x).depth ∧
        (∃ w ∈ (s2.block c.bix).timed, w.issue = c.t ∧ w.due = c.t + occ + 6 ∧ w.addr = cellBase x + at_ r f.arD ∧
          w.data.length = size ∧
          ∀ e < 16384, if f.raw
            then leNat ((w.data.drop (16 * e)).take 12) = (fmGetD (s1.cell x).tanks e 0).toNat ∧
              leNat ((w.data.drop (16 * e + 12)).take 4) =
                (s1.cell x).depth.toNat + (if (s1.cell x).poison.getLsbD e then 2 ^ 31 else 0)
            else (w.data.drop (outBytes f.fmt * e)).take (outBytes f.fmt) = leBytes (outBytes f.fmt) (out e).1) ∧
        (f.raw = false → ((s2.cell x).poisonFlag = true ↔ (s1.cell x).poisonFlag = true ∨ ∃ e < 16384, (out e).2.2 = true) ∧
          (s2.cell x).readClip.toNat = Nat.min ((s1.cell x).readClip.toNat +
            ((List.range 16384).filter fun e => (out e).2.1).length) (2 ^ 32 - 1))) ∧
  ∀ (s : State) (c : Ctx) (f : TankReadF) (rd : Ecc) (r : FMap (BitVec 32)) (x : Nat),
    (readCell f rd true r c s x).mem = s.mem ∧ (((readCell f rd true r c s x).block c.bix).timed = (s.block c.bix).timed) ∧
    (rd = .good → f.sigma = false → FatalMet s (readCell f rd true r c s x) c.pid 0x1403)

open Sys2Proof Sys2Proof.Machine Sys2Proof.Claims in
/-- When the landing cycle of an M operation is reached, it is no longer in progress. A main step adds the
contribution formed with the base and the dodge list of its issue to the Tanks, a merge writes back the sampled Tanks
plus the tile and ORs the poison bits, a DODGE.SET installs its list, and a strip check clears the strip row and
counts an alarm where the strip register exceeds the threshold exactly. -/
def Obligations.ContributionsLand : Prop :=
  (∀ (s : State) (pid lg cycle bix : Nat) (k : BitVec 2), runningBlock s pid lg = some bix →
    (fmGet s.blocks bix).isSome = true →
    ∃ s2, exec (.tankLanding pid lg k cycle) s = .next s2 ∧
      ∀ m ∈ (s2.cell (4 * bix + k.toNat)).mops, m.t2size = 0 → ∀ l, m.land = some l → cycle < l) ∧
  (∀ (s : State) (pid x : Nat) (m : Mop) (g : List Mop), m.kind = .mma → m.fmtA ≠ 3 → m.fmtB ≠ 3 → m.strip = false →
    rising (s.cell x).tanks →
    let k := (mmaContrib m (m.cap 0) (m.cap 1)).1
    rising k.vals →
    let t := landMop s pid x m g
    (∀ e, fmGetD (t.cell x).tanks e 0 = fmGetD (s.cell x).tanks e 0 + BitVec.ofInt 96 (addend k e)) ∧
      (t.cell x).poison = (s.cell x).poison ||| k.poison ∧ (t.cell x).base = (s.cell x).base ∧ t.mem = s.mem ∧
      ∀ y, y ≠ x → t.cell y = s.cell y) ∧
  (∀ (c : Cell) (m : Mop), rising m.sample → ∀ e,
    fmGetD (mergeLand c m).tanks e 0 = fmGetD m.sample e 0 + (if e < 16384 then
      BitVec.ofNat 96 (leNat (((m.cap 0).drop (16 * e)).take 12)) else 0)) ∧
  (∀ (s : State) (pid x : Nat) (m : Mop) (g : List Mop), m.kind = .dodgeSet →
    ((landMop s pid x m g).cell x).dodgeList.length = m.n ∧
    ∀ k < m.n, ((landMop s pid x m g).cell x).dodgeList[k]? =
      some (BitVec.ofNat 32 (leNat (((m.cap 0).drop (4 * k)).take 4)))) ∧
  ∀ (s : State) (pid x : Nat) (m : Mop) (g : List Mop), m.kind = .check →
    let t := (landMop s pid x m g).cell x
    t.strip = [] ∧ t.stripReg = 0 ∧ t.tanks = (s.cell x).tanks ∧
      ∀ p, s.part pid = some p → stripExceeds (s.cell x) m (p.negative.thresh.getD m.entry.toNat (0, false)).1 = true →
        t.precAlarm.toNat = Nat.min ((s.cell x).precAlarm.toNat + 1) (2 ^ 32 - 1)

namespace Sys2Proof.Claims

open Sys2Proof Sys2Proof.Machine

/-- Value of an address register in the issue cycle. -/
def off (s : State) (c : Ctx) (k : BitVec 4) : Nat := (ar (s.block c.bix) c.t k).toNat

/-- A range of a copy is aligned and lies within its store (06 R164). -/
def copyRange (o n limit : Nat) : Prop := o % 256 = 0 ∧ o + 256 * n ≤ limit

/-- A block but for what an operation of the S slot may change. -/
def besidesCopy (b : Block) : Block :=
  { b.still with portFree := [], arLog := [], pf := [], lastDone := 0, flags := 0, perf := {} }

/-- What an operation that files requests at region arbiters leaves alone: as OwnFrame, but for the requests and the copies
under way of the regions `rs`. -/
structure MoveFrame (core : Block → Block) (s1 s2 : State) (c : Ctx) (rs : List Nat) : Prop where
  same : { s2 with
    parts := s1.parts, blocks := s1.blocks, regions := s1.regions, eps := s1.eps, log := s1.log, out := s1.out, free := s1.free } = s1
  others : ∀ x, x ≠ c.bix → (s2.block x).still = (s1.block x).still
  own : core (s2.block c.bix) = core (s1.block c.bix)
  region : ∀ r, r ∉ rs → (s2.region r).still = (s1.region r).still
  stores : ∀ r, (s2.region r).served = (s1.region r).served ∧ (s2.region r).entering = (s1.region r).entering
  part : ∀ p, (s2.part p).map Partition.quiet = (s1.part p).map Partition.quiet

/-- A stream port is free (06 R164). -/
def portIdle (s : State) (c : Ctx) (port : BitVec 2) : Prop := fmGetD (s.block c.bix).portFree port.toNat 0 ≤ c.t

/-- Register increments of an operation, as its history records them. -/
def incsOf (c : Ctx) (l : List (BitVec 4 × Nat)) : List ArEv :=
  l.map fun q => ⟨c.t, c.pred, true, .incr q.1 (BitVec.ofNat 32 q.2)⟩

/-- A copy between the region store (`toCell` false: as destination) and a cell store. -/
def CopyIssues (ins : Issue → CopyF → Ecc → Instr) (toCell : Bool) : Prop :=
  (∀ (s s1 : State) (i : Issue) (f : CopyF) (rd : Ecc) (c : Ctx), Issues s i 4 c s1 → portIdle s1 c f.port →
    copyRange (off s1 c f.arC) f.n.toNat 0x100000 → copyRange (off s1 c f.arR) f.n.toNat 0x20000000 →
    let cellA := cellBase (4 * c.bix + f.cell.toNat) + off s1 c f.arC
    let regA := regionBase (c.bix / 6) + off s1 c f.arR
    ∃ s2, exec (ins i f rd) s = .next s2 ∧ (rd = .good → MoveFrame besidesCopy s1 s2 c [c.bix / 6]) ∧ s2.mem = s1.mem ∧
      fmGetD (s2.block c.bix).portFree f.port.toNat 0 = (if f.n = 0 then c.t + 1 else c.t + 40 + f.n.toNat) ∧
      (s2.block c.bix).arLog = (s1.block c.bix).arLog ++ incsOf c (if f.inc then
        [(f.arC, 256 * f.n.toNat), (f.arR, 256 * f.n.toNat)] else []) ∧
      (f.n = 0 → (s2.block c.bix).pf = (s1.block c.bix).pf) ∧
      (f.n ≠ 0 → ∃ g ∈ (s2.region (c.bix / 6)).reqs, g.kind = (if toCell then .copyRead else .copyWrite) ∧ g.rank = 0 ∧
        g.block = c.bix ∧ g.issue = c.t ∧ g.total = f.n.toNat ∧ g.done = 0 ∧ g.addr = regA ∧
        g.d = (if toCell then c.t + 14 else c.t + 31) ∧ g.first = (if toCell then c.t + 2 else c.t + 7)) ∧
      (f.n ≠ 0 → ∃ q, (s2.block c.bix).pf = (s1.block c.bix).pf ++ [q] ∧ q.cell = f.cell ∧ q.total = f.n.toNat ∧ q.done = 0 ∧
        q.rank = 2 ∧ q.issue = c.t ∧ q.stated = c.t + 40 + f.n.toNat ∧
        q.kind = (if toCell then .copyRc else .copyCr) ∧ q.d = (if toCell then c.t + 36 else c.t + 12) ∧
        q.ready = (if toCell then c.t + 12 else c.t) ∧
        q.src = (if toCell then regA else cellA) ∧ q.dst = (if toCell then cellA else regA))) ∧
  (∀ (s s1 : State) (i : Issue) (f : CopyF) (rd : Ecc) (c : Ctx), Issues s i 4 c s1 → ¬portIdle s1 c f.port →
    exec (ins i f rd) s = .next (illegal s1 c 0x25)) ∧
  ∀ (s s1 : State) (i : Issue) (f : CopyF) (rd : Ecc) (c : Ctx), Issues s i 4 c s1 → portIdle s1 c f.port →
    ¬(copyRange (off s1 c f.arC) f.n.toNat 0x100000 ∧ copyRange (off s1 c f.arR) f.n.toNat 0x20000000) →
    exec (ins i f rd) s = .next (illegal s1 c 0x26)

end Sys2Proof.Claims

open Sys2Proof Sys2Proof.Machine Sys2Proof.Claims in
/-- A copy on a free port with aligned ranges inside their stores holds the port to its stated completion at t + 40 +
n, files one port F request of n units with the D and ready cycle of R110 and R111 and one at the region arbiter at
rank 0, and records its post-increments; n = 0 files none. No byte moves at issue. A busy port is illegal with cause
0x25, a bad range with cause 0x26. -/
def Obligations.StoreCopies : Prop :=
  CopyIssues .copyRc true ∧ CopyIssues .copyCr false

namespace Sys2Proof.Claims

open Sys2Proof Sys2Proof.Machine

/-- Crossings of a path between positions of a die (06 R167): along the row and across. -/
def crossings (r r' route : Nat) : Nat :=
  let col (x : Nat) : Int := x % 3
  if route = 2 then (col r - 1).natAbs + 1 + (1 - col r').natAbs else (col r - col r').natAbs + (if r / 3 = r' / 3 then 0 else 1)

/-- The routes that are legal between two positions. -/
def routeOk (r r' route : Nat) : Prop :=
  route < 2 ∨ (route = 2 ∧ ((r = 0 ∧ r' = 5) ∨ (r = 5 ∧ r' = 0) ∨ (r = 2 ∧ r' = 3) ∨ (r = 3 ∧ r' = 2)))

end Sys2Proof.Claims

open Sys2Proof Sys2Proof.Machine Sys2Proof.Claims in
/-- A COPY.RR holds its port to its stated completion t + 40 + nq + h × L_x + 2(h − 1)q, asks the own region for its
units, and reaches the other region in a cycle there that the bounds of R169 leave open (the model's free value, log
entry 41); it records its post-increments and moves no byte at issue. A destination of 6 or 7, its own region, or a
route that R167 does not allow, is illegal with cause 0x27. -/
def Obligations.RegionCopies : Prop :=
  (∀ (s s1 : State) (i : Issue) (f : CopyRRF) (late : Bool) (rd : Ecc) (c : Ctx) (p : Partition), Issues s i 4 c s1 →
    s1.part c.pid = some p → portIdle s1 c f.port → copyRange (off s1 c f.arS) f.n.toNat 0x20000000 →
    copyRange (off s1 c f.arD) f.n.toNat 0x20000000 → f.dest.toNat ≤ 5 → f.dest.toNat ≠ c.bix / 6 % 6 →
    routeOk (c.bix / 6 % 6) f.dest.toNat f.route.toNat →
    let n := f.n.toNat
    let h := crossings (c.bix / 6 % 6) f.dest.toNat f.route.toNat
    let floor := if p.negative.fFloor = 0 then p.step else p.negative.fFloor
    let up (x : Nat) := (x + floor - 1) / floor
    let stated := if n = 0 then c.t + 1 else c.t + (40 + n * up p.step + h * up (4 * p.step) + 2 * (h - 1) * up p.step)
    let dest := c.bix / 36 * 6 + f.dest.toNat
    ∃ s2, exec (.copyRr i f late rd) s = .next s2 ∧ MoveFrame besidesCopy s1 s2 c [c.bix / 6, dest] ∧ s2.mem = s1.mem ∧
      fmGetD (s2.block c.bix).portFree f.port.toNat 0 = stated ∧
      (s2.block c.bix).arLog = (s1.block c.bix).arLog ++ incsOf c (if f.inc then
        [(f.arS, 256 * n), (f.arD, 256 * n)] else []) ∧
      (n = 0 → (s2.region dest).rr = (s1.region dest).rr) ∧
      (n ≠ 0 → ∃ q, (s2.region dest).rr = (s1.region dest).rr ++ [q] ∧ q.issue = c.t ∧ q.late = late ∧ q.from_ = c.bix ∧
        q.dst = regionBase dest + off s1 c f.arD ∧ q.data = [] ∧ q.total = n ∧ q.done = 0 ∧
        q.stated = (rrBounds p c.t n stated).2 ∧ (rrBounds p c.t n stated).1 ≤ q.due ∧ q.due ≤ q.stated) ∧
      (n ≠ 0 → ∃ g ∈ (s2.region (c.bix / 6)).reqs, g.kind = .rrRead ∧ g.rank = 0 ∧ g.block = c.bix ∧ g.issue = c.t ∧ g.tag = dest ∧
        g.total = n ∧ g.done = 0 ∧ g.addr = regionBase (c.bix / 6) + off s1 c f.arS ∧ g.d = c.t + 14)) ∧
  ∀ (s s1 : State) (i : Issue) (f : CopyRRF) (late : Bool) (rd : Ecc) (c : Ctx), Issues s i 4 c s1 → portIdle s1 c f.port →
    copyRange (off s1 c f.arS) f.n.toNat 0x20000000 → copyRange (off s1 c f.arD) f.n.toNat 0x20000000 →
    (6 ≤ f.dest.toNat ∨ f.dest.toNat = c.bix / 6 % 6 ∨ ¬routeOk (c.bix / 6 % 6) f.dest.toNat f.route.toNat) →
    exec (.copyRr i f late rd) s = .next (illegal s1 c 0x27)

namespace Sys2Proof.Claims

open Sys2Proof Sys2Proof.Machine

/-- Streams that a prefetcher of a block holds. -/
def held (b : Block) (pf : BitVec 2) : List StreamReq := b.streams.filter fun q => q.pf == pf

/-- A stream issues. -/
def StreamIssues (ins : Issue → StreamF → Instr) (out_ : Bool) : Prop :=
  ∀ (s s1 : State) (i : Issue) (f : StreamF) (c : Ctx) (p : Partition) (e : StreamEnt), Issues s i 4 c s1 →
    s1.part c.pid = some p → p.negative.streams[f.entry.toNat]? = some e →
    let x := e.hbm + 256 * off s1 c f.arH
    let o := e.reg + off s1 c f.arR
    let cap := tileCap s1.model p.dark
    let inRange := c.lg / 36 * cap ≤ x ∧ x + e.len ≤ (c.lg / 36 + 1) * cap ∧ o + e.len ≤ 0x20000000
    let timing := if p.dark then (9 * e.len + 7) / 8 + 131072 else e.len
    ∃ s2, exec (ins i f) s = .next s2 ∧ s2.mem = s1.mem ∧ s2.cells = s1.cells ∧
      (s2.block c.bix).arLog = (s1.block c.bix).arLog ++ incsOf c (if f.inc then
        (if f.arH = f.arR then [(f.arR, e.len + e.len / 256)] else [(f.arR, e.len), (f.arH, e.len / 256)]) else []) ∧
      (8 ≤ (held (s1.block c.bix) f.pf).length → FatalMet s1 s2 c.pid 0x1506) ∧
      ((held (s1.block c.bix) f.pf).length < 8 →
        (e.len = 0 → (s2.block c.bix).streams = (s1.block c.bix).streams ∧
          (f.setFlag = true → (s2.block c.bix).flags.getLsbD f.flag.toNat = true)) ∧
        (e.len ≠ 0 → ¬inRange → FatalMet s1 s2 c.pid 0x1507) ∧
        (e.len ≠ 0 → inRange → MoveFrame (fun b => { besidesCopy b with streams := [] }) s1 s2 c [c.bix / 6] ∧
          (s2.block c.bix).flags = (s1.block c.bix).flags ∧
          ∃ q, (s2.block c.bix).streams = (s1.block c.bix).streams ++ [q] ∧ q.pf = f.pf ∧ q.out_ = out_ ∧ q.lx = x ∧ q.len = e.len ∧
            q.reg = regionBase (c.bix / 6) + o ∧ q.flag = f.flag ∧ q.setFlag = f.setFlag ∧ q.issue = c.t ∧
            q.deadline = c.t + e.deadline ∧
            q.d = ((c.t + e.deadline : Nat) : Int) - ((timing * 655360 + 9 * e.share - 1) / (9 * e.share) : Nat) ∧
            q.slots = 0 ∧ q.lines = 0 ∧
            ∃ g ∈ (s2.region (c.bix / 6)).reqs, g.kind = .stream ∧ g.rank = 1 ∧ g.block = c.bix ∧ g.issue = c.t ∧
              g.total = e.len / 256 ∧ g.done = 0 ∧ g.addr = q.reg ∧ g.d = q.d.toNat ∧ g.data = []))

end Sys2Proof.Claims

open Sys2Proof Sys2Proof.Machine Sys2Proof.Claims in
/-- A stream is held by its prefetcher with the deadline and D of R166, R203, and asks the region arbiter for its
lines at rank 1; a stream of length 0 sets its flag at issue; a ninth stream raises 0x1506, and one that leaves its
tile's HBM window or the region store moves nothing and raises 0x1507. The registers are incremented in every case,
and no byte moves at issue. -/
def Obligations.StreamsIssue : Prop :=
  StreamIssues .streamIn false ∧ StreamIssues .streamOut true

namespace Sys2Proof.Claims

open Sys2Proof Sys2Proof.Machine

/-- No line of a stream has moved yet, and its range lies in one piece of HBM from `a` on, apart from its range in the store. -/
structure Unmoved (s : State) (pid bix a : Nat) (q : StreamReq) : Prop where
  lines : q.slots = 0 ∧ q.lines = 0 ∧ q.len % 256 = 0
  waits : ∀ x ∈ (s.region (bix / 6)).reqs, x.kind = .stream → x.block = bix → x.issue = q.issue → x.data = []
  entering : ∀ e ∈ (s.region (bix / 6)).entering, ¬(e.block = bix ∧ e.issue = q.issue)
  piece : ∀ k < q.len / 256, streamLine s pid q k = [(a + 256 * k, 256)]
  apart : overlaps a q.len q.reg q.len = false

/-- A stream meets no late write at its end. -/
def readsClean (s : State) (bix cycle : Nat) (q : StreamReq) : Prop :=
  q.out_ = true → crossingMissing (s.region (bix / 6)) q.reg q.len cycle = false ∧
    regionLate (s.region (bix / 6)) q.reg q.len cycle = false

end Sys2Proof.Claims

open Sys2Proof Sys2Proof.Machine Sys2Proof.Claims in
/-- When the oldest stream of a prefetcher ends without an error, it is no longer held and its flag is set where it
names one; where none of its lines had moved, its bytes stand at their destination and no other byte of memory
changes. An uncorrectable line under a STREAM.IN raises 0x1302, moves nothing and sets no flag; in a Darkroom
partition a line with a wrong tag makes the partition FAULTED. -/
def Obligations.StreamsComplete : Prop :=
  ∀ (s : State) (pid lg cycle bix : Nat) (pf : BitVec 2) (q : StreamReq), runningBlock s pid lg = some bix →
    let s1 := passTo s pid lg cycle
    memWf s1.mem = true → (s1.block bix).streams.find? (fun r => r.pf == pf) = some q →
    (∀ fin, (fin = .good ∨ fin = .corrected) → (q.out_ = false → ∀ r ∈ streamPieces s1 pid q, s1.poisoned r.1 r.2 = false) →
      readsClean s1 bix cycle q →
      ∃ s2, exec (.streamComplete pid lg pf fin cycle) s = .next s2 ∧
        (s2.block bix).streams = (s1.block bix).streams.erase q ∧
        (q.setFlag = true → (s2.block bix).flags = (s1.block bix).flags ||| (1#16 <<< q.flag.toNat)) ∧
        (q.setFlag = false → (s2.block bix).flags = (s1.block bix).flags) ∧
        ∀ a, Unmoved s1 pid bix a q →
          (q.out_ = false → ∀ x, memGet s2.mem x =
            if q.reg ≤ x ∧ x < q.reg + q.len then memGet s1.mem (a + (x - q.reg)) else memGet s1.mem x) ∧
          (q.out_ = true → ∀ x, memGet s2.mem x =
            if a ≤ x ∧ x < a + q.len then memGet s1.mem (q.reg + (x - a)) else memGet s1.mem x)) ∧
    (q.out_ = false → ∃ s2, exec (.streamComplete pid lg pf .uncorrectable cycle) s = .next s2 ∧ s2.mem = s1.mem ∧
      (s2.block bix).flags = (s1.block bix).flags ∧ FatalMet s1 s2 pid 0x1302) ∧
    (q.out_ = false → (∀ r ∈ streamPieces s1 pid q, s1.poisoned r.1 r.2 = false) →
      ∀ p, s1.part pid = some p → p.dark = true → ∀ fin, (fin = .badTag ∨
        ∃ x l t, fin = .altered x l t ∧ t ≠ s1.lineTag p x l) →
      ∃ s2 p2, exec (.streamComplete pid lg pf fin cycle) s = .next s2 ∧ s2.mem = s1.mem ∧
        (s2.block bix).flags = (s1.block bix).flags ∧ s2.part pid = some p2 ∧ p2.state = .faulted)

namespace Sys2Proof.Claims

open Sys2Proof Sys2Proof.Machine

/-- A block but for what an operation of the X slot may change. -/
def besidesX (b : Block) : Block :=
  { b.still with xFree := 0, arLog := [], due := [], commits := [], fills := [], pf := [], lastDone := 0, perf := {} }

/-- The active slot table entry that a COMMIT names, if it is a packet entry (06 R172). -/
def packetEntry (s : State) (c : Ctx) (f : CommitF) : Option SlotEnt :=
  match (s.txOf (4 * fabricDie s.model (c.bix / 36) + f.port.toNat)).table[f.entry.toNat]? with
  | some e => if e.kind = .packet then some e else none
  | none => none

/-- An expert of a Contact sheet maps to a sheet entry of the active bank (06 R175, 09 R256). -/
def sheetEntry (s : State) (c : Ctx) (m : Nat × Nat) : Prop :=
  ∃ e, (s.txOf (4 * fabricDie s.model (c.bix / 36) + m.1)).table[m.2]? = some e ∧ e.kind = .sheet

end Sys2Proof.Claims

open Sys2Proof Sys2Proof.Machine Sys2Proof.Claims in
/-- A COMMIT of a packet entry holds the exchange unit for its units, claims port F for a cell source and asks the
region arbiter at rank 0 for the lines of another, marks the entry as committed and is under way with stated
completion 64 + n cycles after issue, 24 more for each mesh hop; an entry of length 0 is ready at once. A second
commit of the entry raises 0x1435 and leaves what was staged. No entry, a busy unit and a bad range are illegal with
causes 0x2A, 0x29 and 0x26. The slot tables and memory stay. -/
def Obligations.CommitsIssue : Prop :=
  (∀ (s s1 : State) (i : Issue) (f : CommitF) (rd : Ecc) (c : Ctx) (e : SlotEnt), Issues s i 5 c s1 →
    packetEntry s1 c f = some e → (s1.block c.bix).xFree ≤ c.t →
    let n := (e.len + 255) / 256
    copyRange (off s1 c f.arSrc) n (if f.space then 0x20000000 else 0x100000) →
    (f.space = false → ∀ x ∈ (s1.block c.bix).due, x.cell = f.cell → ¬(c.t ≤ x.cycle ∧ x.cycle < c.t + n)) →
    let port := 4 * fabricDie s1.model (c.bix / 36) + f.port.toNat
    ∃ s2, exec (.commit i f rd) s = .next s2 ∧ s2.mem = s1.mem ∧ (s2.txOf port).table = (s1.txOf port).table ∧
      (∀ q, q ≠ port → s2.txOf q = s1.txOf q) ∧ (s2.block c.bix).xFree = c.t + Nat.max 1 n ∧
      besidesX (s2.block c.bix) = besidesX (s1.block c.bix) ∧
      (s2.block c.bix).arLog = (s1.block c.bix).arLog ++ incsOf c (if f.inc then [(f.arSrc, 256 * n)] else []) ∧
      (f.space = false → ∀ u < n, (⟨c.t + u, f.cell, off s1 c f.arSrc + 256 * u, true⟩ : DueAcc) ∈ (s2.block c.bix).due) ∧
      (fmGet (s1.txOf port).staging f.entry.toNat ≠ none → s2.txOf port = s1.txOf port ∧
        (rd = .good → (f.space = false → (s1.cell (4 * c.bix + f.cell.toNat)).mops = []) → FatalMet s1 s2 c.pid 0x1435) ∧
        (s2.block c.bix).commits = (s1.block c.bix).commits) ∧
      (fmGet (s1.txOf port).staging f.entry.toNat = none → ∃ st, fmGet (s2.txOf port).staging f.entry.toNat = some st ∧
        st.data = [] ∧ (n = 0 → st.ready = some c.t ∧ (s2.block c.bix).commits = (s1.block c.bix).commits) ∧
        (n ≠ 0 → st.ready = none ∧ ∃ q, (s2.block c.bix).commits = (s1.block c.bix).commits ++ [q] ∧ q.port = port ∧
          q.entry = f.entry.toNat ∧ q.len = e.len ∧ q.done = 0 ∧ q.issue = c.t ∧
          q.stated = c.t + 64 + n + 24 * meshHops s1.model (c.bix / 36) ∧
          q.src = off s1 c f.arSrc + (if f.space then regionBase (c.bix / 6) else cellBase (4 * c.bix + f.cell.toNat)) ∧
          (f.space = true → ∃ g ∈ (s2.region (c.bix / 6)).reqs, g.kind = .commit ∧ g.rank = 0 ∧ g.block = c.bix ∧ g.issue = c.t ∧
            g.d = c.t ∧ g.first = c.t ∧ g.total = n ∧ g.addr = q.src)))) ∧
  (∀ (s s1 : State) (i : Issue) (f : CommitF) (rd : Ecc) (c : Ctx), Issues s i 5 c s1 →
    copyRange (off s1 c f.arSrc) (match packetEntry s1 c f with | some e => (e.len + 255) / 256 | none => 0)
      (if f.space then 0x20000000 else 0x100000) →
    (c.t < (s1.block c.bix).xFree → exec (.commit i f rd) s = .next (illegal s1 c 0x29)) ∧
    (packetEntry s1 c f = none → (s1.block c.bix).xFree ≤ c.t → exec (.commit i f rd) s = .next (illegal s1 c 0x2A))) ∧
  ∀ (s s1 : State) (i : Issue) (f : CommitF) (rd : Ecc) (c : Ctx), Issues s i 5 c s1 → off s1 c f.arSrc % 256 ≠ 0 →
    exec (.commit i f rd) s = .next (illegal s1 c 0x26)

open Sys2Proof Sys2Proof.Machine Sys2Proof.Claims in
/-- CHKARR holds the exchange unit for a cycle; a counter below the expected count raises 0x1431, one above it 0x1432,
an equal one confirms its window and is cleared where the instruction says so. CSFILL files its fill for the occupancy
of R179, with stated completion 64 + that after issue. A busy unit is illegal with cause 0x29, an unknown sheet with
0x2B, an entry of its sheet that does not stand in the active bank with 0x2A. The placement rule gives each expert at
most its capacity, and DROP defers nothing. -/
def Obligations.ArrivalChecksAndFills : Prop :=
  (∀ (s s1 : State) (i : Issue) (k a : BitVec 4) (cl : Bool) (c : Ctx), Issues s i 5 c s1 → (s1.block c.bix).xFree ≤ c.t →
    let want := off s1 c a
    let got := (fmGetD (s1.block c.bix).arrival k.toNat 0).toNat
    ∃ s2, exec (.chkarr i k a cl) s = .next s2 ∧ s2.mem = s1.mem ∧ s2.cells = s1.cells ∧ s2.tx = s1.tx ∧
      (s2.block c.bix).xFree = c.t + 1 ∧ (got < want → FatalMet s1 s2 c.pid 0x1431) ∧ (want < got → FatalMet s1 s2 c.pid 0x1432) ∧
      (got ≠ want → (s2.block c.bix).arrival = (s1.block c.bix).arrival) ∧
      (got = want → (s2.block c.bix).confirmed = (s1.block c.bix).confirmed ||| (1#16 <<< k.toNat) ∧
        fmGetD (s2.block c.bix).arrival k.toNat 0 = (if cl then 0 else fmGetD (s1.block c.bix).arrival k.toNat 0) ∧
        (∀ j, j ≠ k.toNat → fmGetD (s2.block c.bix).arrival j 0 = fmGetD (s1.block c.bix).arrival j 0) ∧
        OwnFrame (fun b => { b.still with xFree := 0, confirmed := 0, arrival := [], perf := {} }) s1 s2 c)) ∧
  (∀ (s s1 : State) (i : Issue) (f : CsfillF) (rd : Ecc) (c : Ctx) (p : Partition) (g : Sheet), Issues s i 5 c s1 →
    s1.part c.pid = some p → (fmGetD p.negative.sheets (c.lg / 36) [])[f.sheet.toNat]? = some g → (s1.block c.bix).xFree ≤ c.t →
    (∀ q ∈ [(f.arList, 8 * g.routeLen), (f.arDin, 8 * g.deferLen), (f.arDout, 8 * g.deferLen)],
      off s1 c q.1 % 256 = 0 ∧ off s1 c q.1 + q.2 ≤ 0x100000) →
    (∀ q ∈ [f.arRows, f.arDrows], off s1 c q % 256 = 0 ∧
      off s1 c q + g.rowsMax * g.rowSize ≤ if f.rowSpace then 0x20000000 else 0x100000) →
    (∀ m ∈ g.map, sheetEntry s1 c m) →
    let occ := (8 * (g.routeLen + g.deferLen) + 255) / 256 + g.experts * ((g.packetLen + 255) / 256) + 16
    ∃ s2 q, exec (.csfill i f rd) s = .next s2 ∧ s2.mem = s1.mem ∧ s2.tx = s1.tx ∧
      besidesX (s2.block c.bix) = besidesX (s1.block c.bix) ∧ (s2.block c.bix).xFree = c.t + occ ∧
      (s2.block c.bix).fills = (s1.block c.bix).fills ++ [q] ∧ q.sheet = f.sheet.toNat ∧ q.issue = c.t ∧
      q.stated = c.t + 64 + occ ∧ q.list_ = cellBase (4 * c.bix + f.cell.toNat) + off s1 c f.arList ∧
      ∃ r ∈ (s2.block c.bix).pf, r.kind = .fill ∧ r.issue = c.t ∧ r.done = 0 ∧
        r.total = (8 * g.routeLen + 255) / 256 + (8 * g.deferLen + 255) / 256 +
          (if f.rowSpace then 0 else g.experts * g.capacity * (g.rowSize / 256)) + (8 * g.deferLen + 255) / 256) ∧
  (∀ (s s1 : State) (i : Issue) (f : CsfillF) (rd : Ecc) (c : Ctx) (p : Partition) (g : Sheet), Issues s i 5 c s1 →
    s1.part c.pid = some p → (fmGetD p.negative.sheets (c.lg / 36) [])[f.sheet.toNat]? = some g → (s1.block c.bix).xFree ≤ c.t →
    (∀ q ∈ [(f.arList, 8 * g.routeLen), (f.arDin, 8 * g.deferLen), (f.arDout, 8 * g.deferLen)],
      off s1 c q.1 % 256 = 0 ∧ off s1 c q.1 + q.2 ≤ 0x100000) →
    (∀ q ∈ [f.arRows, f.arDrows], off s1 c q % 256 = 0 ∧
      off s1 c q + g.rowsMax * g.rowSize ≤ if f.rowSpace then 0x20000000 else 0x100000) →
    (∃ m ∈ g.map, ¬sheetEntry s1 c m) → exec (.csfill i f rd) s = .next (illegal s1 c 0x2A)) ∧
  (∀ (s s1 : State) (i : Issue) (k a : BitVec 4) (cl : Bool) (c : Ctx), Issues s i 5 c s1 → c.t < (s1.block c.bix).xFree →
    exec (.chkarr i k a cl) s = .next (illegal s1 c 0x29)) ∧
  (∀ (s s1 : State) (i : Issue) (f : CsfillF) (rd : Ecc) (c : Ctx) (p : Partition), Issues s i 5 c s1 → s1.part c.pid = some p →
    (fmGetD p.negative.sheets (c.lg / 36) [])[f.sheet.toNat]? = none → (s1.block c.bix).xFree ≤ c.t →
    exec (.csfill i f rd) s = .next (illegal s1 c 0x2B)) ∧
  ∀ (g : Sheet) (rows drows : Nat) (ds rs : List RouteEnt),
    let pl := rs.foldl (placeRoute g rows) (ds.foldl (placeDeferred g drows) ⟨[], [], 0, 0⟩)
    (∀ k, pl.used k ≤ g.capacity) ∧ pl.out_.length = pl.deferred ∧ pl.deferred ≤ g.deferLen ∧
      (g.defer = false → pl.deferred = 0) ∧ pl.slots.length + pl.dropped + pl.deferred = ds.length + rs.length

namespace Sys2Proof.Claims

open Sys2Proof Sys2Proof.Machine

/-- Nothing is under way in the blocks, the cells and the arbiter of a region but write-buffer lines. -/
def quietRegion (s : State) (region : Nat) : Prop :=
  (∀ k < 6, let b := s.block (6 * region + k)
    b.timed = [] ∧ b.entering = [] ∧ b.pf = [] ∧ b.commits = [] ∧ b.loads = [] ∧ b.due = [] ∧ b.streams = [] ∧ b.faults = []) ∧
  (∀ k < 24, (s.cell (24 * region + k)).mops = []) ∧
  (s.region region).reqs = [] ∧ (s.region region).rr = [] ∧ (s.region region).entering = []

end Sys2Proof.Claims

open Sys2Proof Sys2Proof.Machine Sys2Proof.Claims in
/-- In a region where nothing else is under way, the line that waits in a cell's write buffer is written in the cycle
in which its bank is granted, and memory reads as before. A wake of the arbiter leaves the owner of port F, whose
first unit is then served no sooner than the cycle after next. A due access takes port F from every request; among
requests that can be served the nearest D is. Of the requests of a region store no more than the budget are granted
and no two on one bank, and one is passed over only where a bank or the budget is taken. -/
def Obligations.PortFService : Prop :=
  (∀ (s : State) (pid lg cycle bix : Nat) (ci : BitVec 2) (bank : BitVec 4) (w : WbLine), runningBlock s pid lg = some bix →
    (fmGet s.blocks bix).isSome = true → quietRegion s (bix / 6) → (s.cell (4 * bix + ci.toNat)).wb = [w] →
    w.enter < (s.region (bix / 6)).served → (s.region (bix / 6)).served ≤ cycle →
    ∃ s2, exec (.writeBufferDrain pid lg ci bank cycle) s = .next s2 ∧ (s2.cell (4 * bix + ci.toNat)).wb = [] ∧ s2.mem = s.mem) ∧
  (∀ (s : State) (pid lg cycle bix : Nat) (ci : BitVec 2) (r : PfReq), runningBlock s pid lg = some bix →
    let s1 := passTo s pid lg cycle
    (s1.block bix).pf = [r] → r.cell = ci → r.done = 0 → 0 < r.total → r.ready < cycle →
    ∃ s2, exec (.arbiterWake pid lg ci cycle) s = .next s2 ∧ s2.mem = s1.mem ∧ s2.cells = s1.cells ∧
      (s2.block bix).pf = [{ r with ready := cycle + 1 }] ∧ ∀ x, x ≠ bix → s2.block x = s1.block x) ∧
  (∀ (b : Block) (free : PfReq → Bool) (ci : BitVec 2) (cyc : Nat), dueAt b ci cyc = true → (pfServe b free ci cyc).2 = none) ∧
  (∀ (b : Block) (free : PfReq → Bool) (ci : BitVec 2) (cyc : Nat) (r : PfReq), (pfServe b free ci cyc).2 = some r →
    r ∈ b.pf ∧ r.cell = ci ∧ r.unitReady cyc = true ∧ free r = true ∧
      ∀ q ∈ b.pf, q.cell = ci → q.unitReady cyc = true → free q = true → r.d ≤ q.d) ∧
  ∀ (order : List RsReq) (left : Nat), let g := rsGrants order [] left
    g.length ≤ left ∧ g.Sublist order ∧ g.Pairwise (fun x y => regionBank x.nextAddr ≠ regionBank y.nextAddr) ∧
    ∀ q ∈ order, q ∈ g ∨ g.length = left ∨ ∃ x ∈ g, regionBank x.nextAddr = regionBank q.nextAddr

open Sys2Proof Sys2Proof.Machine Sys2Proof.Claims in
/-- For every command c and state s, the step of s with c at the front of its queue is exec of c on s with the rest of
the queue. On an empty queue 10 ns pass (log entry 15: a choice of the model), and nothing at all happens in reset. -/
def Obligations.StepRunsFront : Prop :=
  (∀ (s : State) (c : Instr) (rest : List Instr), s.pending = c :: rest → step s = exec c { s with pending := rest }) ∧
  (∀ s : State, s.pending = [] → s.boot.step = 0 → step s = .next s) ∧
  ∀ s : State, s.pending = [] → 1 ≤ s.boot.step → ∃ t, step s = .next t ∧ t.now = s.now + 10 ∧
    { t with now := s.now, time := s.time, parts := s.parts } = s ∧ (∀ p, (t.part p).isSome = (s.part p).isSome) ∧
    ∀ p x y, s.part p = some x → t.part p = some y → { y with ftime := x.ftime } = x

open Sys2Proof Sys2Proof.Machine Sys2Proof.Claims in
/-- After reset there is no partition, no session, no owner and no waiting command; every mailbox is idle, every cause
mask 0, audit time FREE, the ports train afresh, the log holds the RESET_RECORD of the power-on and goes on at index
1, memory lists nothing, and the invariant holds. The reset values that no rule gives are those of log entries 1 to
10. -/
def Obligations.ResetState : Prop :=
  State.reset.parts = [] ∧ State.reset.sessions = [] ∧ State.reset.owner = none ∧ State.reset.pending = [] ∧
  (∀ h k, (State.reset.func h k).mbox.state = .idle ∧ (State.reset.func h k).mask = 0 ∧ (State.reset.func h k).cause = 0) ∧
  State.reset.time.state = 0 ∧ (∀ q, (State.reset.port q).state = .training) ∧
  (∃ e, State.reset.log.ring = [e] ∧ e.index = 0 ∧ e.code = 0x000C ∧ e.part = 0xFF) ∧ State.reset.log.next = 1 ∧
  State.reset.log.buf = [] ∧ (∀ a, memGet State.reset.mem a = 0) ∧ State.reset.serves = true ∧ State.reset.Inv

open Sys2Proof Sys2Proof.Machine Sys2Proof.Claims in
/-- From every state in which memory lists its bytes at strictly rising addresses and without zeros, and the log
buffer holds at most 4,096 entries, every step that answers a next state answers one of that kind. -/
def Obligations.StepKeepsInvariant : Prop :=
  ∀ s t : State, s.Inv → step s = .next t → t.Inv

open Sys2Proof Sys2Proof.Machine Sys2Proof.Claims in
/-- Whatever command runs, the variant of the part and its identity (serial number, stepping, fuses, the DPIs it can
run) stay, and so do the commands that wait. -/
def Obligations.CommandsKeepIdentity : Prop :=
  ∀ (c : Instr) (s t : State), exec c s = .next t → t.model = s.model ∧ t.id = s.id ∧ t.pending = s.pending

open Sys2Proof Sys2Proof.Machine Sys2Proof.Claims in
/-- In canonical memory a byte reads as the write that covers it gave it, and otherwise as before; a range reads as
its bytes; clearing a range makes it read 0; the canonical form is kept, and two canonical memories that read alike
are equal. A byte that nothing has written reads 0 (log entry 3: a choice of the model). -/
def Obligations.MemoryReads : Prop :=
  (∀ (m : List Host.Cell) (a : Nat) (bs : Bytes), memWf m = true → memWf (memWrite m a bs) = true ∧
    ∀ x, memGet (memWrite m a bs) x = if a ≤ x ∧ x < a + bs.length then bs.getD (x - a) 0 else memGet m x) ∧
  (∀ (m : List Host.Cell) (a n : Nat), memWf m = true → memRead m a n = (List.range n).map fun k => memGet m (a + k)) ∧
  (∀ (m : List Host.Cell) (a n : Nat), memWf m = true → memWf (memClear m a n) = true ∧
    ∀ x, memGet (memClear m a n) x = if a ≤ x ∧ x < a + n then 0 else memGet m x) ∧
  ∀ m m' : List Host.Cell, memWf m = true → memWf m' = true → (∀ x, memGet m x = memGet m' x) → m = m'

open Sys2Proof Sys2Proof.Machine Sys2Proof.Claims in
/-- An event writes one entry at the next index into the buffer, with its code, partition, unit, detail and
continuations, and the index rises by the entry and its continuations. Where they do not fit into 4,096 entries
nothing is written and they count as lost. LOG_COMMIT moves the buffer into the ring and logs LOG_OVERFLOW with the
number of lost entries. -/
def Obligations.LogEntries : Prop :=
  (∀ (s : State) (code part detail : Nat) (u : LogUnit) (conts : List Bytes), s.log.used + 1 + conts.length ≤ 4096 →
    let t := s.logEv code part u detail conts
    Reports s t ∧ t.log.next = s.log.next + 1 + conts.length ∧ t.log.lost = s.log.lost ∧ t.log.ring = s.log.ring ∧
    ∃ e, t.log.buf = s.log.buf ++ [e] ∧ e.index = s.log.next ∧ e.code = BitVec.ofNat 16 code ∧ e.part = BitVec.ofNat 8 part ∧
      e.phys = BitVec.ofNat 16 (4096 * u.kind + u.phys) ∧ e.logical = BitVec.ofNat 16 u.logical ∧
      e.detail = BitVec.ofNat 32 detail ∧ e.conts = conts ∧ e.time = s.auditNow.1) ∧
  (∀ (s : State) (code part detail : Nat) (u : LogUnit) (conts : List Bytes), 4096 < s.log.used + 1 + conts.length →
    let t := s.logEv code part u detail conts
    Reports s t ∧ t.log = { s.log with lost := s.log.lost + 1 + conts.length }) ∧
  ∀ s : State, s.boot.standby = true → 3 ≤ s.boot.step → s.boot.easelDead = false → ∃ t, exec .logCommit s = .next t ∧
    (((s.log.ring ++ s.log.buf).map LogEntry.size).sum ≤ 131072 → t.log.ring = s.log.ring ++ s.log.buf) ∧
    t.log.lost = 0 ∧ (s.log.lost = 0 → t.log.buf = [] ∧ { t with log := s.log } = s) ∧
    (s.log.lost ≠ 0 → Reports s t ∧ ∃ e, t.log.buf = [e] ∧ e.code = 0x000E ∧ e.index = s.log.next ∧
      e.detail.toNat = Nat.min s.log.lost 0xFFFFFFFF)

open Sys2Proof Sys2Proof.Machine Sys2Proof.Claims in
/-- A partition-fatal fault destroys the keys of its partition, stops its sequencers, cancels its streams, aborts the
commands that wait on it and makes it FAULTED, in its NVM record too; memory, every other partition and the frame
counts stay. A part-fatal fault does the same to every partition, takes every Golre port and every tile down, drops
PWR_OK, asserts FAULT_N, notifies every session and reports through AER on each endpoint with a link. -/
def Obligations.PartitionFatalFaults : Prop :=
  (∀ (s : State) (pid code detail : Nat) (u : LogUnit) (conts : List Bytes) (p : Partition), s.part pid = some p →
    let t := s.partitionFatal pid code u detail conts
    (∃ q, t.part pid = some q ∧ q.state = .faulted ∧ q.keys = false ∧ q.jobSecret = none ∧ q.expose = none ∧ q.slide = none ∧
      q.busy = none ∧ q.frame.exposure = p.frame.exposure ∧ q.frame.shutter = p.frame.shutter ∧ q.frame.commits = p.frame.commits ∧
      q.frame.outBuf = p.frame.outBuf ∧ q.neg = p.neg) ∧
    (∀ j, j ≠ pid → t.part j = s.part j) ∧
    (∀ x ∈ p.blockList, fmGet s.blocks x ≠ none → (t.block x).streams = [] ∧ (t.block x).atTick = true) ∧
    (∀ x, x ∉ p.blockList → t.block x = s.block x) ∧ t.mem = s.mem ∧ t.cells = s.cells ∧
    (∀ h k, Route.fn h k ∈ p.waiting → (t.func h k).mbox.state = .done ∧ (t.func h k).mbox.status = stAborted) ∧
    ∃ r, fmGet t.nvm.records pid = some r ∧ r.faulted = true) ∧
  ∀ (s : State) (code part detail : Nat) (u : LogUnit),
    let t := s.partFatal code part u detail
    (∀ pid p, s.part pid = some p → ∃ q, t.part pid = some q ∧ q.state = .faulted ∧ q.keys = false) ∧
    t.boot.fatal = some (BitVec.ofNat 16 code) ∧ t.pins.pwrOk = false ∧ t.pins.fault = true ∧ t.power.tilesOn = [] ∧
    (∀ q < 64, (t.port q).state = .off) ∧ t.mem = s.mem ∧
    (∀ n x, (n, x) ∈ s.sessions → ∃ d, OutEv.frame n d ∈ t.out) ∧
    ∀ h < 2, (s.endpoint h).linkUp = true → OutEv.aer h ∈ t.out

open Sys2Proof Sys2Proof.Machine Sys2Proof.Claims in
/-- A doorbell on a running mailbox, with a value that is not the sequence or with a repeated sequence is counted and
does nothing else; a frame on a session that is running gets BUSY. An unbound function gets WRONG_STATE, a requester
without permission DENIED, a short or long request BAD_ARG, a wrong target DENIED from a function and BAD_ARG from a
session, each with no payload. Completion writes the page, with code and index of the first entry logged since, and
raises the completion cause, or sends the answer. -/
def Obligations.CommandsAreChecked : Prop :=
  (∀ s e c body, s.serves = false → runCmd s e c body = s) ∧
  (∀ (s : State) (e : Envelope) (c : CmdSpec) (body : State → Option Nat → Answer) (h k : Nat) (m : Mbox),
    e.route = .fn h k → s.serves = true → s.mboxOf e.route = some m → s.teeFails h k e.tee = false →
    (m.state = .running ∨ e.doorbell ≠ e.seq ∨ m.lastSeq = some e.seq) →
    runCmd s e c body = s.setMbox e.route { m with ignored := m.ignored + 1 }) ∧
  (∀ (s : State) (e : Envelope) (c : CmdSpec) (body : State → Option Nat → Answer) (n : Nat) (m : Mbox),
    e.route = .session n → s.serves = true → s.mboxOf e.route = some m → m.state = .running → c.code ≠ 0x0104 →
    ∃ d : Bytes, runCmd s e c body = ({ s with leaseAt := if s.owner = some n then s.now else s.leaseAt }).emit (.frame n d) ∧
      d.getD 8 0 = stBusy ∧ d.getD 9 0 = 2 ∧ d.length = 32) ∧
  (∀ (s s1 : State) (e : Envelope) (c : CmdSpec) (body : State → Option Nat → Answer) (st : Byte),
    s.admitted e c.code = some s1 → precheck s1 e c = .inl st → runCmd s e c body = s1.complete e.route s1.log.next st []) ∧
  (∀ (s : State) (e : Envelope) (c : CmdSpec) (h k : Nat), e.route = .fn h k → k ≠ 0 →
    (s.boundTo h k = none → c.unbound = false → precheck s e c = .inl stWrongState) ∧
    (∀ pid, s.boundTo h k = some pid → c.perm.bound = false → precheck s e c = .inl stDenied) ∧
    (∀ pid, s.boundTo h k = some pid → c.perm.bound = true → c.len ≤ e.length.toNat → e.length.toNat ≤ 4064 → e.rsvd = false →
      c.target ≠ .none_ → e.target ≠ 0xFFFF → e.target.toNat ≠ pid → precheck s e c = .inl stDenied)) ∧
  (∀ (s : State) (e : Envelope) (c : CmdSpec) (h : Nat), e.route = .fn h 0 → c.perm.pf = false → precheck s e c = .inl stDenied) ∧
  (∀ (s : State) (e : Envelope) (c : CmdSpec) (n : Nat), e.route = .session n →
    (s.owner = some n → c.perm.owner = false → precheck s e c = .inl stDenied) ∧
    (s.owner ≠ some n → c.perm.other = false → precheck s e c = .inl stDenied) ∧
    (permitted s e c ((targetOf s e c).getD none) = true →
      (e.length.toNat < c.len ∨ 4064 < e.length.toNat ∨ e.rsvd = true → precheck s e c = .inl stBadArg) ∧
      (c.target = .part → s.part e.target.toNat = none → precheck s e c = .inl stBadArg))) ∧
  (∀ (s : State) (h k mark : Nat) (st : Byte) (resp : Bytes),
    let t := s.complete (.fn h k) mark st resp
    let fe := match s.log.buf.find? (fun x => decide (mark ≤ x.index)) with
      | some x => (x.code, BitVec.ofNat 32 x.index)
      | none => (0, 0)
    (t.func h k).mbox = { (s.func h k).mbox with state := .done, status := st, resp := resp, fault := fe.1, logIndex := fe.2 } ∧
    { t with eps := s.eps, out := s.out } = s ∧
    (s.fnEnabled h k = true → (t.func h k).cause.getLsbD 0 = true) ∧
    (s.fnEnabled h k = true → (s.func h k).cause.getLsbD 0 = false → (s.func h k).mask.getLsbD 0 = false →
      (s.func h k).msixMask = false → (s.func h k).vecMask.getLsbD 0 = false → t.out = .msix h k 0 :: s.out)) ∧
  ∀ (s : State) (n mark : Nat) (st : Byte) (resp : Bytes) (x : Session), fmGet s.sessions n = some x →
    let t := s.complete (.session n) mark st resp
    ∃ (d : Bytes) (y : Session), t.out = .frame n (d ++ resp) :: s.out ∧ d.length = 32 ∧ d.getD 8 0 = st ∧ d.getD 9 0 = 2 ∧
      fmGet t.sessions n = some y ∧ y.mbox.state = .done ∧ y.mbox.status = st ∧ y.mbox.resp = resp ∧
      { t with sessions := s.sessions, out := s.out } = s

namespace Sys2Proof.Claims

open Sys2Proof Sys2Proof.Machine

/-- Who may send a command (16 R436). -/
def bySessions : Perm := { bound := false, pf := false, owner := true, other := true }
def byOwner : Perm := { bound := false, pf := false, owner := true, other := false }
def byBoundOrOwner : Perm := { bound := true, pf := false, owner := true, other := false }
def byBoundOrOpenOwner : Perm := { bound := true, pf := false, owner := true, openOnly := true, other := false }
def byEveryone : Perm := { bound := true, pf := true, owner := true, other := true }

/-- A command without a target, and one of a partition. -/
def partWide (code len : Nat) (p : Perm) : CmdSpec := ⟨code, len, p, .none_, .plain, false, false⟩
def ofPart (code len : Nat) (p : Perm) (k : Kind) : CmdSpec := ⟨code, len, p, .part, k, false, false⟩

/-- The command that was accepted in state `s1` completes: it leaves `s2` and answers with a status and a response. -/
def Completes (s s1 : State) (i : Instr) (e : Envelope) (s2 : State) (st : Byte) (resp : Bytes) : Prop :=
  exec i s = .next (s2.complete e.route s1.log.next st resp)

/-- An event of a code has been logged on the way from s1 to s2, unless the buffer was full. -/
def Logged (s1 s2 : State) (code : Nat) : Prop :=
  s1.log.used < 4096 → ∃ x ∈ s2.log.buf, s1.log.next ≤ x.index ∧ x.code.toNat = code

/-- Only the log and what goes out differ, and the endpoints, which tell their functions. -/
def Quiet (s1 s2 : State) : Prop := { s2 with log := s1.log, out := s1.out, eps := s1.eps } = s1

/-- Payload of a NOTICE (16 R447). -/
def noticeBytes (s : State) (kind owner fault : Nat) : Bytes :=
  leBytes 2 kind ++ leBytes 2 owner ++ leBytes 4 fault ++ leBytes 8 (s.auditNow.1).toNat

end Sys2Proof.Claims

open Sys2Proof Sys2Proof.Machine Sys2Proof.Claims in
/-- OWN on a vacant part makes the session the owner, starts its lease, tells it with NOTICE kind 1 and logs
OWNER_CHANGED; the owner that sends it renews, any other session is DENIED and told the owner, and so is one of the
OBSERVER role. HANDOVER moves ownership to another session of the OPERATOR role, else BAD_ARG. RELEASE and
LEASE_EXPIRED leave the part vacant. HEARTBEAT answers the ms that are left, while another command runs too, with the
same checks of its frame. LEASE_EXPIRING sends NOTICE kind 3. No partition changes. -/
def Obligations.Ownership : Prop :=
  (∀ (s s1 : State) (e : Envelope) (n : Nat) (t : Option Nat), Accepts s e (partWide 0x0101 0 bySessions) s1 t → e.route = .session n →
    (s1.owner = none → ∃ s2, Completes s s1 (.own e) e s2 stOk (leBytes 2 n ++ leBytes 2 0 ++ leBytes 4 10000) ∧
      s2.owner = some n ∧ s2.leaseAt = s1.now ∧ Logged s1 s2 0x0001 ∧ (∃ d, .frame n (d ++ noticeBytes s1 1 n 0) ∈ s2.out) ∧
      Quiet s1 { s2 with owner := none, leaseAt := s1.leaseAt }) ∧
    (s1.owner = some n → Completes s s1 (.own e) e { s1 with leaseAt := s1.now } stOk (leBytes 2 n ++ leBytes 2 0 ++ leBytes 4 10000)) ∧
    (∀ o, s1.owner = some o → o ≠ n → Completes s s1 (.own e) e s1 stDenied (leBytes 2 o ++ leBytes 2 0 ++ leBytes 4 0))) ∧
  (∀ (s s1 : State) (e : Envelope) (x : BitVec 16) (n : Nat) (t : Option Nat), Accepts s e (partWide 0x0102 8 byOwner) s1 t →
    e.route = .session n →
    (∀ y, fmGet s1.sessions x.toNat = some y → y.role = .operator → x.toNat ≠ n → ∃ s2,
      Completes s s1 (.handover e x) e s2 stOk [] ∧ s2.owner = some x.toNat ∧ s2.leaseAt = s1.now ∧ Logged s1 s2 0x0001 ∧
      (∃ d, .frame x.toNat (d ++ noticeBytes s1 1 x.toNat 0) ∈ s2.out) ∧ s2.parts = s1.parts ∧ s2.sessions = s1.sessions) ∧
    ((∀ y, fmGet s1.sessions x.toNat = some y → y.role ≠ .operator ∨ x.toNat = n) →
      Completes s s1 (.handover e x) e s1 stBadArg [])) ∧
  (∀ (s s1 : State) (e : Envelope) (t : Option Nat) (n : Nat), Accepts s e (partWide 0x0103 0 byOwner) s1 t → s1.owner = some n →
    ∃ s2, Completes s s1 (.release e) e s2 stOk [] ∧ s2.owner = none ∧ Logged s1 s2 0x0001 ∧
      Quiet s1 { s2 with owner := s1.owner, staging := s1.staging }) ∧
  (∀ (s s1 : State) (e : Envelope) (n : Nat) (t : Option Nat), Accepts s e (partWide 0x0104 0 bySessions) s1 t → e.route = .session n →
    Completes s s1 (.heartbeat e) e s1 stOk
      (leBytes 4 (if s1.owner = some n then 10000 - (s1.now - s1.leaseAt) / 1000000 else 0))) ∧
  (∀ (s : State) (e : Envelope) (n : Nat) (x : Session), fmGet s.sessions n = some x → x.role ≠ .operator → e.route = .session n →
    s.owner ≠ some n → precheck s e (partWide 0x0101 0 bySessions) = .inl stDenied) ∧
  (∀ (s : State) (e : Envelope) (n : Nat) (m : Mbox), e.route = .session n → s.serves = true → s.mboxOf e.route = some m →
    m.state = .running →
    let s1 := { s with leaseAt := if s.owner = some n then s.now else s.leaseAt }
    (∀ t, precheck s1 e (partWide 0x0104 0 bySessions) = .inr t → ∃ d : Bytes, d.getD 8 0 = stOk ∧ d.length = 32 ∧
      exec (.heartbeat e) s = .next (s1.emit (.frame n (d ++ leBytes 4 (if s.owner = some n then 10000 else 0))))) ∧
    ∀ st, precheck s1 e (partWide 0x0104 0 bySessions) = .inl st → ∃ d : Bytes, d.getD 8 0 = st ∧ d.length = 32 ∧
      exec (.heartbeat e) s = .next (s1.emit (.frame n d))) ∧
  (∀ s : State, (s.owner = none → exec .leaseExpiring s = .next s ∧ exec .leaseExpired s = .next s) ∧
    ∀ n, s.owner = some n → (∃ d, exec .leaseExpiring s = .next (s.emit (.frame n (d ++ noticeBytes s 3 n 0)))) ∧
      ∃ t, exec .leaseExpired s = .next t ∧ t.owner = none ∧ t.sessions = s.sessions ∧ t.parts = s.parts ∧
        (∃ d, .frame n (d ++ noticeBytes s 2 0 0) ∈ t.out) ∧
        (s.log.used + 1 < 4096 → ∃ x y, t.log.buf = s.log.buf ++ [x, y] ∧ x.code = 0x0001 ∧ y.code = 0x0002))

open Sys2Proof Sys2Proof.Machine Sys2Proof.Claims in
/-- A connection whose handshake succeeds with a chain that an enrolled credential accepts takes the lowest free
number from 1 to 8 with the role of that credential; any other is refused, one without a credential with an entry at
most once an hour. A session that closes, by itself or after 60 s, ends its ownership. CRED.ENROLL writes a credential
into the lowest free slot and CRED.REMOVE removes one and closes its sessions, each by a committed write; a failed
read-back gives INTEGRITY and changes no credential; the last OPERATOR and the own credential stay. -/
def Obligations.SessionsAndCredentials : Prop :=
  (∀ (s : State) (chain : List Bytes) (n slot : Nat) (c : Credential), s.serves = true → 1 ≤ n → n ≤ 8 → fmGet s.sessions n = none →
    (∀ m, 1 ≤ m → m < n → fmGet s.sessions m ≠ none) → s.nvm.creds.find? (fun q => q.2.accepts chain) = some (slot, c) →
    exec (.sessionConnect chain true) s =
      .next { s with sessions := fmSet s.sessions n ⟨c.role, slot, {}⟩, lastSession := n }) ∧
  (∀ (s : State) (chain : List Bytes) (h : Bool), s.serves = true →
    ((∀ n, 1 ≤ n → n ≤ 8 → fmGet s.sessions n ≠ none) → exec (.sessionConnect chain h) s = .next (s.emit .refusedConnection)) ∧
    ((∃ n, 1 ≤ n ∧ n ≤ 8 ∧ fmGet s.sessions n = none) → (h = false ∨ ∀ q ∈ s.nvm.creds, q.2.accepts chain = false) →
      ∃ t, exec (.sessionConnect chain h) s = .next t ∧ t.sessions = s.sessions ∧ t.owner = s.owner ∧
        t.out.head? = some .refusedConnection ∧ ((∀ x, fmGet s.log.hour (3 * 4096) = some x → x + 3600000000000 ≤ s.now) → Logged s t 0x0003))) ∧
  (∀ (s : State) (n : Nat) (x : Session), fmGet s.sessions n = some x → ∃ t u, exec (.sessionClose n) s = .next t ∧
    exec (.sessionIdleTimeout n) s = .next u ∧ u = t.emit (.closed n) ∧ fmGet t.sessions n = none ∧
    (∀ m y, m ≠ n → fmGet s.sessions m = some y → fmGet t.sessions m = some y) ∧
    t.owner = (if s.owner = some n then none else s.owner) ∧ t.parts = s.parts ∧ t.nvm = s.nvm ∧
    (s.owner = some n → Logged s t 0x0001)) ∧
  (∀ (s : State) (n : Nat), fmGet s.sessions n = none → exec (.sessionClose n) s = .next s ∧ exec (.sessionIdleTimeout n) s = .next s) ∧
  (∀ (s s1 : State) (e : Envelope) (role kind : Byte) (len : BitVec 16) (cert : Bytes) (ok : Bool) (t : Option Nat) (slot : Nat),
    Accepts s e (partWide 0x0105 (8 + len.toNat) { bound := false, pf := true, owner := true, other := false }) s1 t →
    (role = 1 ∨ role = 2) → (kind = 0 ∨ kind = 1) → len ≠ 0 → len.toNat ≤ 4000 → cert.length = len.toNat →
    Config.isCertificate cert = true → slot < 32 → fmGet s1.nvm.creds slot = none → (∀ k < slot, fmGet s1.nvm.creds k ≠ none) →
    ∃ s2, Completes s s1 (.credEnroll e role kind len cert ok) e s2 (if ok then stOk else stIntegrity)
        (if ok then leBytes 1 slot ++ leBytes 3 0 else []) ∧
      (ok = true → { s2 with nvm := s1.nvm } = s1 ∧ s2.nvm.sequence = s1.nvm.sequence + 1 ∧
        s2.nvm.creds = fmSet s1.nvm.creds slot ⟨if role = 1 then .operator else .observer, kind == 1, cert⟩) ∧
      (ok = false → s2.nvm = s1.nvm ∧ Logged s1 s2 0x000A ∧ Quiet s1 s2)) ∧
  (∀ (s s1 : State) (e : Envelope) (role kind : Byte) (len : BitVec 16) (cert : Bytes) (ok : Bool) (t : Option Nat),
    Accepts s e (partWide 0x0105 (8 + len.toNat) { bound := false, pf := true, owner := true, other := false }) s1 t →
    ((role ≠ 1 ∧ role ≠ 2) ∨ (kind ≠ 0 ∧ kind ≠ 1) ∨ len = 0 ∨ 4000 < len.toNat ∨ cert.length ≠ len.toNat ∨
      Config.isCertificate cert = false) → Completes s s1 (.credEnroll e role kind len cert ok) e s1 stBadArg []) ∧
  (∀ (s s1 : State) (e : Envelope) (slot : Byte) (ok : Bool) (t : Option Nat), Accepts s e (partWide 0x0106 8 byOwner) s1 t →
    (fmGet s1.nvm.creds slot.toNat = none → Completes s s1 (.credRemove e slot ok) e s1 stBadArg []) ∧
    ∀ c, fmGet s1.nvm.creds slot.toNat = some c →
      let last := c.role = .operator ∧ (s1.nvm.creds.filter fun q => q.2.role == .operator).length ≤ 1
      let own := ∃ n x, e.route = .session n ∧ fmGet s1.sessions n = some x ∧ x.slot = slot.toNat
      (last ∨ own → Completes s s1 (.credRemove e slot ok) e s1 stWrongState []) ∧
      (¬last → (∃ n, e.route = .session n) → ¬own → ∃ s2, Completes s s1 (.credRemove e slot ok) e s2 (if ok then stOk else stIntegrity) [] ∧
        s2.parts = s1.parts ∧ (ok = false → s2.nvm = s1.nvm ∧ s2.sessions = s1.sessions) ∧
        (ok = true → fmGet s2.nvm.creds slot.toNat = none ∧
          (∀ n x, fmGet s1.sessions n = some x → x.slot = slot.toNat → fmGet s2.sessions n = none) ∧
          (s1.sessions.Pairwise (fun a b => a.1 < b.1) →
            ∀ n x, fmGet s1.sessions n = some x → x.slot ≠ slot.toNat → fmGet s2.sessions n = some x))))

namespace Sys2Proof.Claims

open Sys2Proof Sys2Proof.Machine

/-- Little-endian field of `n` bytes at offset `o`. -/
def num (b : Bytes) (o n : Nat) : Nat := leNat ((b.drop o).take n)

/-- Model number of a variant (16 R438). -/
def modelNo : Variant → Nat
  | .zx960 => 960
  | .zx940 => 940
  | .zx920 => 920
  | .zx910 => 910

/-- Whether the requester is the function bound to the partition. -/
def fromBound (s : State) (e : Envelope) (pid : Nat) : Prop := ∃ h k, e.route = .fn h k ∧ s.boundTo h k = some pid

/-- An entry of SETTINGS.WRITE (16 R452). -/
def entryBytes (id : Nat) (v : Bytes) : Bytes := leBytes 2 id ++ leBytes 2 v.length ++ v

/-- Identification, status and log commands leave everything as it was. -/
def identifySpec : CmdSpec := ⟨0x0001, 0, byEveryone, .none_, .plain, true, true⟩
def statusSpec : CmdSpec := ⟨0x0002, 0, byEveryone, .part, .status, false, true⟩
def logReadSpec : CmdSpec := ⟨0x0003, 16, byEveryone, .maybe, .logRead, false, true⟩

end Sys2Proof.Claims

open Sys2Proof Sys2Proof.Machine Sys2Proof.Claims in
/-- IDENTIFY, PART.STATUS, LOG.READ and SETTINGS.READ answer OK with the fields of their layouts and change nothing (a
record of counts, whose layout no rule gives, is an uninterpreted function of the counts: log entry 19); halt code and
block of a Darkroom partition read 0 to all but its function. SETTINGS.WRITE changes the current copy alone, or
nothing with BAD_ARG where an entry is unknown, of a wrong size or out of range; STORE makes it the stored copy.
POWER.CAP puts a class from 0 to 3 in force and answers the old one. CABLEPLAN stores a good plan and answers its
generation and 64 verdicts. -/
def Obligations.StatusAndSettings : Prop :=
  (∀ (s s1 : State) (e : Envelope) (t : Option Nat), Accepts s e identifySpec s1 t → s1.active.digest.length = 48 →
    s1.dpis.length ≤ 16 →
    ∃ resp, Completes s s1 (.identify e) e s1 stOk resp ∧ resp.length = 320 ∧ num resp 0 8 = s1.id.serial.toNat ∧
      num resp 8 2 = modelNo s1.model ∧ (resp.drop 16).take 48 = s1.active.digest ∧ num resp 64 2 = 1 ∧
      num resp 305 1 = s1.time.state.toNat ∧ num resp 312 8 = (s1.auditNow.1).toNat) ∧
  (∀ (s s1 : State) (e : Envelope) (pid : Nat) (p : Partition), Accepts s e statusSpec s1 (some pid) → s1.part pid = some p →
    (∀ n, p.neg = some n → n.digest.length = 48) → p.hostDie < 2 → p.fn < 17 →
    ∃ resp, Completes s s1 (.partStatus e) e s1 stOk resp ∧ resp.length = 96 ∧
      num resp 0 1 = (match p.state with
        | .empty => 0 | .tainted => 1 | .ready => 2 | .developed => 3 | .running => 4 | .halted => 5 | .faulted => 6) ∧
      (num resp 1 1).testBit 0 = p.dark ∧ (∀ d < 16, (num resp 2 2).testBit d = decide (d ∈ p.tiles)) ∧
      num resp 4 1 = p.hostDie ∧ num resp 5 1 = p.fn ∧ num resp 8 8 = p.frame.shutter.toNat ∧
      num resp 16 8 = p.frame.exposure.toNat ∧ num resp 24 4 = p.gen.toNat ∧
      (p.dark = true → ¬fromBound s1 e pid → num resp 6 1 = 0 ∧ num resp 32 2 = 0) ∧
      (p.dark = false → num resp 6 1 = p.haltCode.toNat ∧ num resp 32 2 = p.haltBlock.toNat)) ∧
  (∀ (s s1 : State) (e : Envelope) (src n : Byte) (start : BitVec 64) (t : Option Nat), Accepts s e logReadSpec s1 t →
    (126 < n.toNat ∨ 4 < src.toNat → Completes s s1 (.logRead e src n start) e s1 stBadArg []) ∧
    (n.toNat ≤ 126 → src = 0 → ∃ resp, Completes s s1 (.logRead e src n start) e s1 stOk resp ∧ num resp 24 2 = 32 ∧
      num resp 16 4 ≤ n.toNat) ∧
    (n.toNat ≤ 126 → src = 2 → ∃ resp, Completes s s1 (.logRead e src n start) e s1 stOk resp ∧
      num resp 16 4 = Nat.min n.toNat (64 - start.toNat)) ∧
    (n.toNat ≤ 126 → src = 3 → ∃ resp, Completes s s1 (.logRead e src n start) e s1 stOk resp ∧
      num resp 16 4 = Nat.min n.toNat (64 - start.toNat)) ∧
    ∀ pid p, t = some pid → s1.part pid = some p → p.dark = false → n.toNat ≤ 126 → p.hazard.ring.length < 2 ^ 32 →
      (src = 1 → ∃ resp, Completes s s1 (.logRead e src n start) e s1 stOk resp ∧
        num resp 16 4 = Nat.min n.toNat (p.hazard.ring.length - start.toNat)) ∧
      (src = 4 → ∃ resp, Completes s s1 (.logRead e src n start) e s1 stOk resp ∧
        num resp 16 4 = Nat.min n.toNat (1 - start.toNat))) ∧
  (∀ (s s1 : State) (e : Envelope) (copy : Byte) (t : Option Nat), Accepts s e (partWide 0x0801 1 byEveryone) s1 t →
    (copy = 0 → Completes s s1 (.settingsRead e copy) e s1 stOk s1.settings.packed) ∧
    (copy = 1 → Completes s s1 (.settingsRead e copy) e s1 stOk s1.nvm.settings.packed) ∧
    (1 < copy.toNat → Completes s s1 (.settingsRead e copy) e s1 stBadArg [])) ∧
  (∀ (s s1 : State) (e : Envelope) (id : Nat) (v : Bytes) (t : Option Nat), Accepts s e (partWide 0x0802 0 byOwner) s1 t →
    id < 65536 → v.length < 65536 →
    (∀ x, s1.settings.put id v = some x → ∃ s2, Completes s s1 (.settingsWrite e (entryBytes id v)) e s2 stOk [] ∧ s2.settings = x ∧
      { s2 with settings := s1.settings, time := s1.time } = s1) ∧
    (s1.settings.put id v = none → Completes s s1 (.settingsWrite e (entryBytes id v)) e s1 stBadArg [])) ∧
  (∀ (x : Settings) (v : Bytes),
    x.put 1 v = (if v.length = 1 ∧ leNat v ≤ 3 then some { x with capClass := v.headD 0 } else none) ∧
    x.put 2 v = (if v.length = 4 ∧ 100000 ≤ leNat v ∧ leNat v ≤ 1000000000 then some { x with jump := BitVec.ofNat 32 (leNat v) } else none) ∧
    x.put 9 v = (if v.length = 1 ∧ 1 ≤ leNat v ∧ leNat v ≤ 3 then some { x with endpoints := v.headD 0 } else none) ∧
    x.put 0 v = none ∧ ∀ id, 9 < id → x.put id v = none) ∧
  (∀ (s s1 : State) (e : Envelope) (ok : Bool) (t : Option Nat), Accepts s e (partWide 0x0803 0 byOwner) s1 t →
    (s1.settings = s1.nvm.settings → Completes s s1 (.store e ok) e s1 stOk (sha384 s1.settings.packed)) ∧
    (s1.settings ≠ s1.nvm.settings → ok = true → ∃ s2, Completes s s1 (.store e ok) e s2 stOk (sha384 s1.settings.packed) ∧
      s2.nvm.settings = s1.settings ∧ s2.nvm.sequence = s1.nvm.sequence + 1 ∧ Logged s1 s2 0x0007 ∧ Quiet s1 { s2 with nvm := s1.nvm }) ∧
    (s1.settings ≠ s1.nvm.settings → ok = false → ∃ s2, Completes s s1 (.store e ok) e s2 stIntegrity [] ∧ s2.nvm = s1.nvm ∧
      Logged s1 s2 0x000A ∧ Quiet s1 s2)) ∧
  (∀ (s s1 : State) (e : Envelope) (cls : Byte) (t : Option Nat), Accepts s e (partWide 0x0603 8 byOwner) s1 t →
    (3 < cls.toNat → Completes s s1 (.powerCap e cls) e s1 stBadArg []) ∧
    (cls.toNat ≤ 3 → ∃ s2, Completes s s1 (.powerCap e cls) e s2 stOk (leBytes 1 s1.power.cls) ∧
      s2.power = { s1.power with cls := cls.toNat } ∧ (s1.power.cls ≠ cls.toNat → Logged s1 s2 0x0904) ∧
      Quiet s1 { s2 with power := s1.power })) ∧
  ∀ (s s1 : State) (e : Envelope) (plan : Bytes) (ok : Bool) (t : Option Nat), Accepts s e (partWide 0x0701 2112 byOwner) s1 t →
    ((∃ q ∈ s1.parts, q.2.state = .developed ∨ q.2.state = .running ∨ q.2.state = .halted) →
      Completes s s1 (.cableplan e plan ok) e s1 stWrongState []) ∧
    ((∀ q ∈ s1.parts, q.2.state ≠ .developed ∧ q.2.state ≠ .running ∧ q.2.state ≠ .halted) →
      (num plan 8 8 ≠ s1.id.serial.toNat ∨ num plan 0 2 ≠ 1 ∨ num plan 24 2 ≠ 64 ∨ num plan 6 2 ≠ 0 →
        Completes s s1 (.cableplan e plan ok) e s1 stBadArg []) ∧
      ((∀ q ∈ s1.parts, q.2.inAgree = false) → planBad s1 plan = false →
        (ok = false → ∃ s2, Completes s s1 (.cableplan e plan ok) e s2 stIntegrity [] ∧ s2.nvm = s1.nvm ∧ Quiet s1 s2) ∧
        (ok = true → ∃ s2, Completes s s1 (.cableplan e plan ok) e s2 stOk
            (leBytes 4 (num plan 16 4) ++ (List.range 64).flatMap fun q => leBytes 1 (s2.port q).verdict.code) ∧
          s2.nvm.plan = some (readPlan plan) ∧ s2.nvm.sequence = s1.nvm.sequence + 1 ∧
          { s2.nvm with plan := s1.nvm.plan, sequence := s1.nvm.sequence, ringUsed := s1.nvm.ringUsed } = s1.nvm ∧ s2.mem = s1.mem ∧
          (readPlan plan).partId.toNat = num plan 2 2 % 4096 ∧ (readPlan plan).generation.toNat = num plan 16 4)))

open Sys2Proof Sys2Proof.Machine Sys2Proof.Claims in
/-- BEGIN discards a staged image and a pending commit and erases the inactive slot; DATA appends the chunk that
continues the image, and a chunk out of place abandons the staging; END stages a complete genuine image that covers
the DPIs in use and is no older, and otherwise answers INTEGRITY or DENIED. Without BEGIN in the session they answer
WRONG_STATE. FW.COMMIT selects the staged slot by a committed write, WRONG_STATE without one. A staging is abandoned
when its session closes or loses the ownership, and the next one starts from BEGIN; a staged image survives that. -/
def Obligations.FirmwareImages : Prop :=
  (∀ (s s1 : State) (e : Envelope) (off total len : BitVec 32) (n : Nat) (t : Option Nat), Accepts s e (partWide 0x0804 16 byOwner) s1 t →
    e.route = .session n →
    (off ≠ 0 ∨ len ≠ 0 ∨ total = 0 ∨ 8388608 < total.toNat → Completes s s1 (.fwStageBegin e off total len) e s1 stBadArg []) ∧
    (off = 0 → len = 0 → total ≠ 0 → total.toNat ≤ 8388608 →
      let nvm : Nvm := { s1.nvm with selectB := s1.activeB, imageA := if s1.activeB then none else s1.nvm.imageA, imageB := if s1.activeB then s1.nvm.imageB else none }
      Completes s s1 (.fwStageBegin e off total len) e { s1 with nvm := nvm, staged := none, staging := some ⟨n, total.toNat, []⟩ } stOk
        (List.replicate 56 0))) ∧
  (∀ (s s1 : State) (e : Envelope) (off total len : BitVec 32) (chunk : Bytes) (n : Nat) (t : Option Nat),
    Accepts s e (partWide 0x0804 (16 + len.toNat) byOwner) s1 t → e.route = .session n →
    ((∀ x, s1.staging = some x → x.session ≠ n) → Completes s s1 (.fwStageData e off total len chunk) e s1 stWrongState []) ∧
    ∀ x, s1.staging = some x → x.session = n → total = 0 → len ≠ 0 → len.toNat ≤ 4048 → chunk.length = len.toNat →
      (off.toNat = x.got.length → x.got.length + chunk.length ≤ x.total → Completes s s1 (.fwStageData e off total len chunk) e
        { s1 with staging := some { x with got := x.got ++ chunk } } stOk (List.replicate 56 0)) ∧
      (off.toNat ≠ x.got.length ∨ x.total < x.got.length + chunk.length →
        Completes s s1 (.fwStageData e off total len chunk) e { s1 with staging := none } stBadArg [])) ∧
  (∀ (s s1 : State) (e : Envelope) (n : Nat) (t : Option Nat), Accepts s e (partWide 0x0804 16 byOwner) s1 t → e.route = .session n →
    ((∀ x, s1.staging = some x → x.session ≠ n) → Completes s s1 (.fwStageEnd e 0 0 0) e s1 stWrongState []) ∧
    ∀ x, s1.staging = some x → x.session = n →
      let i := readImage x.got
      (x.got.length ≠ x.total ∨ i.genuine = false → Completes s s1 (.fwStageEnd e 0 0 0) e { s1 with staging := none } stIntegrity []) ∧
      (x.got.length = x.total → i.genuine = true →
        let covers := ∀ d ∈ fmGetD s1.active.dpis s1.id.stepping.toNat [], d ∈ fmGetD i.dpis s1.id.stepping.toNat []
        (¬covers ∨ i.svn.toNat < s1.active.svn.toNat →
          Completes s s1 (.fwStageEnd e 0 0 0) e { s1 with staging := none } stDenied []) ∧
        (covers → s1.active.svn.toNat ≤ i.svn.toNat → ∃ s2,
          Completes s s1 (.fwStageEnd e 0 0 0) e s2 stOk (sha384 x.got ++ leBytes 4 i.version.toNat ++ leBytes 4 i.svn.toNat) ∧
          s2.staging = none ∧ s2.staged = some (!s1.activeB, i) ∧ (if s1.activeB then s2.nvm.imageA else s2.nvm.imageB) = some i ∧
          s2.active = s1.active ∧ (s1.log.used + 2 < 4096 → Logged s1 s2 0x0004) ∧
          Quiet s1 { s2 with staging := s1.staging, staged := s1.staged, nvm := s1.nvm }))) ∧
  (∀ (s s1 : State) (e : Envelope) (ok : Bool) (t : Option Nat), Accepts s e (partWide 0x0805 0 byOwner) s1 t →
    (s1.staged = none → Completes s s1 (.fwCommit e ok) e s1 stWrongState []) ∧
    ∀ b i, s1.staged = some (b, i) →
      (ok = true → ∃ s2, Completes s s1 (.fwCommit e ok) e s2 stOk i.digest ∧ s2.nvm.selectB = b ∧ s2.active = s1.active ∧
        s2.staged = s1.staged ∧ (s1.log.used + 2 < 4096 → Logged s1 s2 0x0005) ∧ Quiet s1 { s2 with nvm := s1.nvm }) ∧
      (ok = false → ∃ s2, Completes s s1 (.fwCommit e ok) e s2 stIntegrity [] ∧ s2.nvm = s1.nvm ∧ Logged s1 s2 0x000A)) ∧
  ∀ (s : State) (x : Staging), s.staging = some x →
    (∀ t, exec (.sessionClose x.session) s = .next t → (fmGet s.sessions x.session).isSome = true → t.staging = none ∧ t.staged = s.staged) ∧
    (s.owner = some x.session → ∀ t, exec .leaseExpired s = .next t → t.staging = none ∧ t.staged = s.staged) ∧
    (s.owner = some x.session → ∀ (s1 : State) (e : Envelope) (y : Option Nat), Accepts s e (partWide 0x0103 0 byOwner) s1 y →
      ∀ t, exec (.release e) s = .next t → t.staging = none ∧ t.staged = s.staged)

namespace Sys2Proof.Claims

open Sys2Proof Sys2Proof.Machine

/-- Tiles that share a fabric die on a variant (00 R4). -/
def groupSize : Variant → Nat
  | .zx940 => 2
  | .zx910 => 4
  | _ => 1

/-- A tile set of whole groups. -/
def wholeSet (v : Variant) (m : BitVec 16) : Prop :=
  ∀ d < 16, m.getLsbD d = true → ∀ k < groupSize v, m.getLsbD (d / groupSize v * groupSize v + k) = true

/-- No partition but one differs. -/
def OtherParts (s1 s2 : State) (pid : Nat) : Prop := ∀ j, j ≠ pid → s2.part j = s1.part j

/-- Address ranges of a tile: its HBM, its region stores and its cell stores (07 R185). -/
def inTile (d a : Nat) : Prop :=
  (d * 0x4000000000 ≤ a ∧ a < (d + 1) * 0x4000000000) ∨ (regionBase (6 * d) ≤ a ∧ a < regionBase (6 * (d + 1))) ∨
    (cellBase (144 * d) ≤ a ∧ a < cellBase (144 * (d + 1)))

/-- No transfer of the function stands part-way into the stores of a running partition. -/
def noHostWrite (s : State) (p : Partition) : Prop := ∀ q < 8, (s.queue p.hostDie p.fn q).underway = none

/-- A block as it was, but for the requests that wait at port F of its cells. -/
def SameButPortF (s1 s2 : State) (x : Nat) : Prop := { s2.block x with pf := (s1.block x).pf } = s1.block x

/-- What REMAP does to memory: the cell stores of the logical block that moves hold free bytes, all else stays (04 R118). -/
def RemapMem (s1 s2 : State) (r b : Nat) : Prop :=
  memWf s1.mem = true → ∀ a, memGet s2.mem a =
    if cellBase (4 * (6 * r + b)) ≤ a ∧ a < cellBase (4 * (6 * r + b)) + 0x400000 then
      BitVec.ofNat 8 (Config.freeBits s1.free (a - cellBase (4 * (6 * r + b)))) else memGet s1.mem a

/-- A region of a partition that holds work: REMAP leaves it. -/
def regionBusy (s : State) (r : Nat) : Prop :=
  ∃ pid l p, s.regionOwner r = some (pid, l) ∧ s.part pid = some p ∧ p.state ≠ .empty ∧ p.state ≠ .tainted

end Sys2Proof.Claims

open Sys2Proof Sys2Proof.Machine Sys2Proof.Claims in
/-- PART.CREATE on free tiles in whole groups binds a new TAINTED partition, under the index of its lowest tile and a
new generation, to its function; any other tile set is BAD_ARG. PART.DESTROY removes the partition, its record and its
blocks' state but bundle memory. SCRUB drops Negative, job keys and Print ring, takes a new generation and waits; when
its passes end every byte of the tiles reads 0 and no other byte changes, and the partition is READY, or FAULTED with
the failing tile degraded. REMAP moves a block to the spare and back, and its cell stores hold free bytes then. No
other partition changes. -/
def Obligations.PartitionLife : Prop :=
  (∀ (s s1 : State) (e : Envelope) (m : BitVec 16) (h k fl : Byte) (t : Option Nat), Accepts s e (partWide 0x0201 8 byOwner) s1 t →
    ((m = 0 ∨ 1 < h.toNat ∨ k = 0 ∨ 16 < k.toNat ∨ 1 < fl.toNat ∨ ¬wholeSet s1.model m) →
      Completes s s1 (.partCreate e m h k fl) e s1 stBadArg []) ∧
    (m ≠ 0 → h.toNat ≤ 1 → k ≠ 0 → k.toNat ≤ 16 → fl.toNat ≤ 1 → wholeSet s1.model m →
      (∀ d < 16, m.getLsbD d = true → s1.ownerOf d = none ∧ d ∉ s1.power.degraded) → s1.boundTo h.toNat k.toNat = none →
      (s1.endpoint h.toNat).enabled = true → (fl = 1 → s1.jtagOpen = false) → s1.nvm.generation ≠ 0xFFFFFFFF →
      ∃ s2 pid p, Completes s s1 (.partCreate e m h k fl) e s2 stOk
          ([BitVec.ofNat 8 pid, 1, 0, 0] ++ leBytes 4 (s1.nvm.generation + 1).toNat) ∧
        m.getLsbD pid = true ∧ (∀ d < pid, m.getLsbD d = false) ∧ s2.part pid = some p ∧
        (∀ d, d ∈ p.tiles ↔ m.getLsbD d = true) ∧ p.hostDie = h.toNat ∧ p.fn = k.toNat ∧ p.dark = (fl == 1) ∧ p.state = .tainted ∧
        p.gen = s1.nvm.generation + 1 ∧ s2.nvm.generation = s1.nvm.generation + 1 ∧ p.neg = none ∧ s2.mem = s1.mem ∧
        (fl = 0 → OtherParts s1 s2 pid) ∧ ∃ r, fmGet s2.nvm.records pid = some r ∧ r.tiles = p.tiles ∧ r.dark = p.dark)) ∧
  (∀ (s s1 : State) (e : Envelope) (pid : Nat) (p : Partition), Accepts s e (ofPart 0x0202 0 byOwner .destroy) s1 (some pid) →
    s1.part pid = some p → ∃ s2, Completes s s1 (.partDestroy e) e s2 stOk [] ∧ s2.part pid = none ∧ fmGet s2.nvm.records pid = none ∧
      (∀ x, x / 36 ∈ p.tiles → s2.block x = { bundles := (s1.block x).bundles }) ∧ (∀ d ∈ p.tiles, d ∉ s2.power.tilesOn) ∧
      (∀ r, r / 6 ∈ p.tiles → s2.region r = {}) ∧ (noHostWrite s1 p → s2.mem = s1.mem) ∧
      (s1.boundTo p.hostDie p.fn = some pid → ∀ j q, j ≠ pid → s1.part j = some q → s2.part j = some q)) ∧
  (∀ (s s1 : State) (e : Envelope) (pid : Nat) (p : Partition), Accepts s e (ofPart 0x0203 0 byBoundOrOwner .scrub) s1 (some pid) →
    s1.part pid = some p →
    (p.state = .running ∨ p.state = .faulted → Completes s s1 (.scrub e) e s1 stWrongState []) ∧
    (p.state ≠ .running → p.state ≠ .faulted → s1.nvm.generation ≠ 0xFFFFFFFF → ∃ s2 q, exec (.scrub e) s = .next s2 ∧
      s2.part pid = some q ∧ q.state = .tainted ∧ q.neg = none ∧ q.jobSecret = none ∧ q.ring = [] ∧ q.origins = [] ∧
      q.gen = s1.nvm.generation + 1 ∧ q.busy = some (.scrub (some e.route)) ∧ q.tiles = p.tiles ∧ s2.mem = s1.mem ∧
      OtherParts s1 s2 pid)) ∧
  (∀ (s : State) (pid : Nat) (p : Partition) (r : Route), s.part pid = some p → p.busy = some (.scrub (some r)) → memWf s.mem = true →
    (∃ u q, exec (.scrubPassComplete pid none) s = .next (u.complete r s.log.next stOk (leBytes 4 p.gen.toNat)) ∧
      u.part pid = some q ∧ q.state = .ready ∧ q.busy = none ∧ OtherParts s u pid ∧
      (∀ d ∈ p.tiles, ∀ a, inTile d a → memGet u.mem a = 0) ∧
      (∀ a, (∀ d ∈ p.tiles, ¬inTile d a) → memGet u.mem a = memGet s.mem a) ∧
      ∀ x, x / 36 ∈ p.tiles → u.block x = { bundles := (s.block x).bundles }) ∧
    ∀ d, ∃ t q, exec (.scrubPassComplete pid (some d)) s = .next t ∧ t.part pid = some q ∧ q.state = .faulted ∧ q.keys = false ∧
      q.busy = none ∧ d ∈ t.power.degraded ∧ t.mem = s.mem ∧ OtherParts s t pid) ∧
  (∀ (s s1 : State) (e : Envelope) (r b dir : Byte) (ok : Bool) (t : Option Nat), Accepts s e (partWide 0x0204 8 byOwner) s1 t →
    (95 < r.toNat ∨ 5 < b.toNat ∨ 1 < dir.toNat → Completes s s1 (.remap e r b dir ok) e s1 stBadArg []) ∧
    (r.toNat ≤ 95 → b.toNat ≤ 5 → dir.toNat ≤ 1 →
      (regionBusy s1 r.toNat → Completes s s1 (.remap e r b dir ok) e s1 stWrongState []) ∧
      (¬regionBusy s1 r.toNat →
        (dir = 0 → fmGet s1.nvm.remap r.toNat = none → (r.toNat, 6) ∉ s1.boot.failing →
          (ok = true → ∃ s2, Completes s s1 (.remap e r b dir ok) e s2 stOk [6, 0, 0, 0] ∧
            { s2 with nvm := s1.nvm, mem := s1.mem, free := s1.free } = s1 ∧ RemapMem s1 s2 r.toNat b.toNat ∧
            s2.nvm.remap = fmSet s1.nvm.remap r.toNat b.toNat ∧ s2.nvm.sequence = s1.nvm.sequence + 1) ∧
          (ok = false → ∃ s2, Completes s s1 (.remap e r b dir ok) e s2 stIntegrity [] ∧ s2.nvm = s1.nvm)) ∧
        (dir = 0 → (fmGet s1.nvm.remap r.toNat ≠ none ∨ (r.toNat, 6) ∈ s1.boot.failing) →
          Completes s s1 (.remap e r b dir ok) e s1 stNoResource []) ∧
        (dir = 1 → fmGet s1.nvm.remap r.toNat = some b.toNat → ok = true → ∃ s2,
          Completes s s1 (.remap e r b dir ok) e s2 stOk [b, 0, 0, 0] ∧
          { s2 with nvm := s1.nvm, mem := s1.mem, free := s1.free } = s1 ∧ RemapMem s1 s2 r.toNat b.toNat ∧
          fmGet s2.nvm.remap r.toNat = none) ∧
        (dir = 1 → fmGet s1.nvm.remap r.toNat ≠ some b.toNat → Completes s s1 (.remap e r b dir ok) e s1 stOk [b, 0, 0, 0]))))

open Sys2Proof Sys2Proof.Machine Sys2Proof.Claims in
/-- RESET kind 0 destroys the keys, stops the units, drops the Negative and draws a generation: the partition is
EMPTY, or TAINTED where it was in SCRUB or key agreement; a FAULTED one stays, WRONG_STATE. Kind 1 answers OK, tells
every session with NOTICE kind 5 and leaves a warm reset pending; other kinds are BAD_ARG. HALT on a RUNNING partition
waits for the Shutter, on a HALTED one completes at once, else WRONG_STATE; writing 1 to MBX_HALT does the same
without the page. A compute reset stops every unit of the partition and rewrites its bundles; the registers it leaves
undefined are free values. -/
def Obligations.ResetsAndHalts : Prop :=
  (∀ (s s1 : State) (e : Envelope) (pid : Nat) (p : Partition), Accepts s e (ofPart 0x0004 8 byBoundOrOwner .reset) s1 (some pid) →
    s1.part pid = some p →
    (p.state = .faulted → Completes s s1 (.reset e 0) e s1 stWrongState []) ∧
    (∀ kind : Byte, 1 < kind.toNat → Completes s s1 (.reset e kind) e s1 stBadArg []) ∧
    (p.state ≠ .faulted → s1.nvm.generation ≠ 0xFFFFFFFF → ∃ s2 q, Completes s s1 (.reset e 0) e s2 stOk [] ∧
      s2.part pid = some q ∧ q.state = (if p.inScrub ∨ p.inAgree then .tainted else .empty) ∧ q.neg = none ∧ q.jobSecret = none ∧
      q.keys = p.inScrub ∧ q.gen = s1.nvm.generation + 1 ∧ q.tiles = p.tiles ∧ q.expose = none ∧ q.slideValid = false ∧
      (noHostWrite s1 p → s2.mem = s1.mem) ∧ (∀ x, x ∉ p.blockList → SameButPortF s1 s2 x) ∧
      (∀ x ∈ p.blockList, fmGet s1.blocks x ≠ none → (s2.block x).streams = [] ∧ (s2.block x).atTick = true) ∧
      (s1.boundTo p.hostDie p.fn = some pid → OtherParts s1 s2 pid))) ∧
  (∀ (s s1 : State) (e : Envelope) (t : Option Nat), Accepts s e ⟨0x0004, 8, byOwner, .none_, .plain, false, true⟩ s1 t →
    ∃ s2, Completes s s1 (.resetWarm e) e s2 stOk [] ∧ Completes s s1 (.reset e 1) e s2 stOk [] ∧
      { s2 with out := s1.out, boot := s1.boot } = s1 ∧ s2.boot = { s1.boot with warmPending := true } ∧
      ∀ n x, (n, x) ∈ s1.sessions → ∃ d, .frame n (d ++ noticeBytes s1 5 (s1.owner.getD 0) 0) ∈ s2.out) ∧
  (∀ (s s1 : State) (e : Envelope) (pid : Nat) (p : Partition), Accepts s e (ofPart 0x0303 0 byBoundOrOwner .halt) s1 (some pid) →
    s1.part pid = some p → p.expose = none →
    (p.state = .halted → Completes s s1 (.halt e) e s1 stOk []) ∧
    (p.state ≠ .halted → p.state ≠ .running → Completes s s1 (.halt e) e s1 stWrongState []) ∧
    (p.state = .running → p.slide = none → ∃ s2 q, exec (.halt e) s = .next s2 ∧ s2.part pid = some q ∧
      q.state = .running ∧
      (p.frame.late = false → q.frame = { p.frame with haltCmd := true, haltRoutes := p.frame.haltRoutes ++ [e.route] }) ∧
      (p.frame.late = true → q.frame = { p.frame with haltLate := true, lateRoutes := p.frame.lateRoutes ++ [e.route] }) ∧
      { s2 with parts := s1.parts } = s1 ∧ OtherParts s1 s2 pid)) ∧
  (∀ (s : State) (f : FnId) (pid : Nat) (p : Partition), s.serves = true → s.fnEnabled f.h f.k = true → s.boot.fatal = none →
    s.boundTo f.h f.k = some pid → s.part pid = some p → p.state = .running → p.expose = none → p.slide = none → p.busy = none →
    (∃ t q, exec (.mbxHalt f 1) s = .next t ∧ t.part pid = some q ∧
      q = { p with frame := if p.frame.late then { p.frame with haltLate := true } else { p.frame with haltCmd := true } } ∧
      { t with parts := s.parts } = s ∧ OtherParts s t pid) ∧
    ∀ v, v ≠ 1 → exec (.mbxHalt f v) s = .next s) ∧
  (∀ (s : State) (pid b : Nat) (p : Partition), s.part pid = some p →
    (p.state ≠ .running ∨ p.frame.fatal = none → exec (.computeReset pid b) s = .next s) ∧
    (p.state = .running → p.frame.fatal ≠ none → b < 36 * p.tiles.length → ∃ t, exec (.computeReset pid b) s = .next t ∧
      t.mem = s.mem ∧ (∀ x, x ∉ p.blockList → t.block x = s.block x) ∧
      (∀ x ∈ p.blockList, fmGet s.blocks x ≠ none → (t.block x).streams = [] ∧ (t.block x).atTick = true) ∧
      (p.tiles.Nodup → ∀ (k x : Nat), p.blockList[k]? = some x → (t.block x).bundles = fmGetD p.negative.bundles k []) ∧
      OtherParts s t pid ∧ (s.log.used + 1 < 4096 → ∃ x y, t.log.buf = s.log.buf ++ [x, y] ∧ x.code = 0x1443 ∧ y.code = 0x000C)))

namespace Sys2Proof.Claims

open Sys2Proof Sys2Proof.Machine

/-- Vector of a cause bit (17 R468): of the physical function, and of a virtual one. -/
def vectorOf (k b : Nat) : Nat :=
  if b = 0 then 0 else if k = 0 then 1 else if b = 1 ∨ b = 4 then 1 else if b = 2 ∨ b = 3 then 2 else b - 5

/-- Only the registers of one function differ, and what goes out. -/
def OneFunc (s t : State) (f : FnId) : Prop :=
  { t with eps := s.eps, out := s.out } = s ∧ ∀ h k, ¬(h = f.h ∧ k = f.k) → t.func h k = s.func h k

/-- Memory differs from `m` in the bytes from `a` on alone, which read as `bs`. -/
def Stored (m m' : List Host.Cell) (a : Nat) (bs : Bytes) : Prop :=
  ∀ y, memGet m' y = if a ≤ y ∧ y < a + bs.length then bs.getD (y - a) 0 else memGet m y

/-- The host die serves the partition: its state and no key agreement (17 R467). -/
def served (p : Partition) : Prop :=
  (p.state = .ready ∨ p.state = .developed ∨ p.state = .running ∨ p.state = .halted) ∧ p.inAgree = false

/-- A mailbox page after reset. -/
def blank (s : State) (h k : Nat) : Prop := (s.func h k).mbox = {} ∧ (s.func h k).mask = 0 ∧ (s.func h k).queues = []

end Sys2Proof.Claims

open Sys2Proof Sys2Proof.Machine Sys2Proof.Claims in
/-- A write of a wrong size or alignment sets bad_access and counts; a 64-bit write acts as two 32-bit ones, the lower
first; HIF_CAUSE and HIF_ERR clear the bits written as 1; HIF_WINDOW takes its field. HIF_POST posts once for a bound
function. A cause that becomes unmasked sends its vector, and an unmasked vector its pending message. A BAR2 access
goes to the window's logical address: a good read returns those bytes, a good write changes them and no others, and
what the rule refuses reads as 0xFF, changes no byte and sets its bit of HIF_ERR. A register read changes nothing but
in a wrong size or alignment, which reads 0xFF and sets bad_access; a WO register and HIF_POST's trigger read 0. -/
def Obligations.HostRegisters : Prop :=
  (∀ (s : State) (f : FnId) (off : BitVec 16) (size : Nat) (v : BitVec 64) (tee : Bool), s.fnEnabled f.h f.k = true →
    (¬(size = 4 ∧ off.toNat % 4 = 0) → ¬(size = 8 ∧ off.toNat % 8 = 0) → ∃ t, exec (.registerWrite f off size v tee) s = .next t ∧
      OneFunc s t f ∧ t.func f.h f.k = { s.func f.h f.k with
        err := (s.func f.h f.k).err ||| 0x20, errCount := if (s.func f.h f.k).errCount = 0xFFFFFFFF then 0xFFFFFFFF else (s.func f.h f.k).errCount + 1 }) ∧
    (off.toNat % 8 = 0 → ∃ t, exec (.registerWrite f off 4 v tee) s = .next t ∧
      exec (.registerWrite f off 8 v tee) s = exec (.registerWrite f (off + 4) 4 (v >>> 32) tee) t) ∧
    (∃ t, exec (.registerWrite f 0x2010 4 v tee) s = .next t ∧ OneFunc s t f ∧
      t.func f.h f.k = { s.func f.h f.k with cause := (s.func f.h f.k).cause &&& ~~~(v.setWidth 32) }) ∧
    (∃ t, exec (.registerWrite f 0x2018 4 v tee) s = .next t ∧ OneFunc s t f ∧
      t.func f.h f.k = { s.func f.h f.k with err := (s.func f.h f.k).err &&& ~~~(v.setWidth 32) }) ∧
    (s.teeFails f.h f.k tee = false → s.boundTo f.h f.k ≠ none → ∃ t, exec (.registerWrite f 0x1008 4 v tee) s = .next t ∧
      OneFunc s t f ∧ t.func f.h f.k = { s.func f.h f.k with window := v.setWidth 12 }) ∧
    (0x7100 ≤ off.toNat → exec (.registerWrite f off 4 v tee) s = .next (if off.toNat % 4 = 0 then s else s.hifErr f.h f.k 5))) ∧
  (∀ (s : State) (f : FnId) (off : Nat),
    (∀ size, ¬(size = 4 ∧ off % 4 = 0) → ¬(size = 8 ∧ off % 8 = 0) →
      (s.readBar0 f off size).1 = List.replicate size 0xFF ∧ (s.readBar0 f off size).2 = s.hifErr f.h f.k 5) ∧
    (off % 8 = 0 → (s.readBar0 f off 8).2 = s ∧ (s.readBar0 f off 8).1 = (s.readBar0 f off 4).1 ++ (s.readBar0 f (off + 4) 4).1) ∧
    (s.readBar0 f 0x2010 4).1 = leBytes 4 (s.func f.h f.k).cause.toNat ∧ (s.readBar0 f 0x1000 4).1 = [0, 0, 0, 0] ∧
    (s.readBar0 f 0x2008 4).1 = [0, 0, 0, 0] ∧ ((s.func f.h f.k).post = false → ((s.readBar0 f 0x1004 4).1).getD 0 1 = 0)) ∧
  (∀ (s : State) (f : FnId) (v : BitVec 32) (tee landed : Bool), s.fnEnabled f.h f.k = true →
    (s.boundTo f.h f.k = none → exec (.hifPost f v tee landed) s = .next s) ∧
    (∀ pid, s.boundTo f.h f.k = some pid → s.teeFails f.h f.k tee = false →
      (v.getLsbD 0 = false ∨ (s.func f.h f.k).post = true → exec (.hifPost f v tee landed) s = .next s) ∧
      (v.getLsbD 0 = true → (s.func f.h f.k).post = false → ∃ t, exec (.hifPost f v tee landed) s = .next t ∧ OneFunc s t f ∧
        t.func f.h f.k = { s.func f.h f.k with post := true, postWaits := if landed then 0 else 1 })) ∧
    (∀ pid, s.boundTo f.h f.k = some pid → s.teeFails f.h f.k tee = true → ∃ t, exec (.hifPost f v tee landed) s = .next t ∧
      (t.func f.h f.k).post = (s.func f.h f.k).post ∧ (t.func f.h f.k).err.getLsbD 3 = true)) ∧
  (∀ (s : State) (f : FnId) (v : BitVec 32), s.fnEnabled f.h f.k = true → ∃ t, exec (.hifCauseMask f v) s = .next t ∧ OneFunc s t f ∧
    (t.func f.h f.k).mask = v &&& (if f.k = 0 then 0xFF41 else 0xFF1F) ∧ (t.func f.h f.k).cause = (s.func f.h f.k).cause ∧
    ∀ b < 16, (f.k = 0 ∨ b < 5 ∨ 8 ≤ b) → (s.func f.h f.k).cause.getLsbD b = true → (s.func f.h f.k).mask.getLsbD b = true → (t.func f.h f.k).mask.getLsbD b = false →
      if (s.func f.h f.k).msixMask || (s.func f.h f.k).vecMask.getLsbD (vectorOf f.k b) then
        vectorOf f.k b < 16 → (t.func f.h f.k).pba.getLsbD (vectorOf f.k b) = true
      else .msix f.h f.k (vectorOf f.k b) ∈ t.out) ∧
  (∀ (s : State) (f : FnId) (v : Nat), s.fnEnabled f.h f.k = true → v < 16 → (s.func f.h f.k).msixMask = false →
    ∃ t, exec (.msixVectorUnmask f (some v)) s = .next t ∧ OneFunc s t f ∧ (t.func f.h f.k).vecMask.getLsbD v = false ∧
      ((s.func f.h f.k).pba.getLsbD v = true → .msix f.h f.k v ∈ t.out ∧ (t.func f.h f.k).pba.getLsbD v = false)) ∧
  (∀ (s : State) (f : FnId) (off : BitVec 34) (n pid : Nat) (tee : Bool) (p : Partition), s.fnEnabled f.h f.k = true → f.k ≠ 0 →
    s.boundTo f.h f.k = some pid → s.part pid = some p → s.teeFails f.h f.k tee = false →
    let x := (s.func f.h f.k).window.toNat * 2 ^ 30 + off.toNat
    (served p → ∀ a, p.toLocal s.model x n = some a → s.poison = [] → ∃ t, exec (.bar2Read f off n tee .good) s = .next t ∧
      t.out.head? = some (.readData f.h f.k (s.readMem a n) false) ∧ t.mem = s.mem ∧ t.blocks = s.blocks) ∧
    (¬served p → ∀ line, ∃ t, exec (.bar2Read f off n tee line) s = .next t ∧ t.mem = s.mem ∧
      t.out.head? = some (.readData f.h f.k (List.replicate n 0xFF) false) ∧ (t.func f.h f.k).err.getLsbD 1 = true) ∧
    (served p → p.toLocal s.model x n = none → ∀ line, ∃ t, exec (.bar2Read f off n tee line) s = .next t ∧ t.mem = s.mem ∧
      t.out.head? = some (.readData f.h f.k (List.replicate n 0xFF) false) ∧ (t.func f.h f.k).err.getLsbD 0 = true)) ∧
  ∀ (s : State) (f : FnId) (off : BitVec 34) (data : Bytes) (pid : Nat) (tee : Bool) (p : Partition), s.fnEnabled f.h f.k = true →
    f.k ≠ 0 → s.boundTo f.h f.k = some pid → s.part pid = some p → s.teeFails f.h f.k tee = false → memWf s.mem = true →
    let x := (s.func f.h f.k).window.toNat * 2 ^ 30 + off.toNat
    (served p → ∀ a, p.toLocal s.model x data.length = some a → p.sealedWrite s.model x data.length = false →
      (p.hitsInUse x data.length = false → s.poison = [] → ∃ t, exec (.bar2Write f off data ⟨tee, .good⟩) s = .next t ∧
        Stored s.mem t.mem a data ∧ (t.func f.h f.k).err = (s.func f.h f.k).err) ∧
      (p.hitsInUse x data.length = true → ∀ line, ∃ t, exec (.bar2Write f off data ⟨tee, line⟩) s = .next t ∧ t.mem = s.mem ∧
        (t.func f.h f.k).err.getLsbD 2 = true)) ∧
    (¬served p → ∀ line, ∃ t, exec (.bar2Write f off data ⟨tee, line⟩) s = .next t ∧ t.mem = s.mem ∧ (t.func f.h f.k).err.getLsbD 1 = true)

open Sys2Proof Sys2Proof.Machine Sys2Proof.Claims in
/-- An FLR of a virtual function, or its loss of VF Enable, returns its mailbox, masks and queues to their reset
values and resets its partition. An FLR of the physical function does so for its own registers and clears VF Enable,
so that no virtual function answers, but resets no partition; nor does a hot reset, which resets every function, takes
the link down, ends the SPDM sessions and IDE keys and halts a locked Darkroom partition at the next Shutter. When
PERST is released the endpoint trains its link where its host die is enabled and powered. -/
def Obligations.EndpointResets : Prop :=
  (∀ (s : State) (f : FnId) (pid : Nat) (p : Partition), s.fnEnabled f.h f.k = true → f.k ≠ 0 → s.boundTo f.h f.k = some pid →
    s.part pid = some p → p.state ≠ .faulted → p.busy = none → p.hostDie = f.h → p.fn = f.k → s.nvm.generation ≠ 0xFFFFFFFF →
    ∃ t q, exec (.flrVf f) s = .next t ∧ blank t f.h f.k ∧ t.part pid = some q ∧ q.state = .empty ∧ q.neg = none ∧ q.keys = false ∧
      q.gen = s.nvm.generation + 1 ∧ (noHostWrite s p → t.mem = s.mem)) ∧
  (∀ (s : State) (f : FnId), s.fnEnabled f.h f.k = true → f.k ≠ 0 → s.boundTo f.h f.k = none →
    ∃ t, exec (.flrVf f) s = .next t ∧ blank t f.h f.k ∧ (∀ j x, t.part j = some x → x.keys = ((s.part j).map (·.keys)).getD true) ∧ ∀ j, (t.part j).map (·.state) = (s.part j).map (·.state)) ∧
  (∀ (s : State) (h n : Nat) (en : Bool), s.fnEnabled h 0 = true → n ≤ 16 → ∃ t, exec (.vfEnableClear h en n) s = .next t ∧
    (t.endpoint h).vfEnable = en ∧ (t.endpoint h).numVfs = n ∧ (t.endpoint h).linkUp = true ∧
    ∀ k, 1 ≤ k → k ≤ 16 → s.fnEnabled h k = true → (en = false ∨ n < k) → blank t h k) ∧
  (∀ (s : State) (h : Nat), s.fnEnabled h 0 = true → ∃ t, exec (.flrPf h) s = .next t ∧
    (t.endpoint h).vfEnable = false ∧ (t.endpoint h).numVfs = 0 ∧ blank t h 0 ∧ (∀ k, k ≠ 0 → t.fnEnabled h k = false) ∧
    ∀ j, (t.part j).map (·.state) = (s.part j).map (·.state)) ∧
  (∀ (s : State) (h : Nat), s.fnEnabled h 0 = true → ∃ t, exec (.hotReset h) s = .next t ∧ (t.endpoint h).linkUp = false ∧
    (t.endpoint h).vfEnable = false ∧ (t.endpoint h).sessions = [] ∧ (t.endpoint h).ide = [] ∧ (∀ k ≤ 16, blank t h k) ∧
    Logged s t 0x0104 ∧ (∀ j, (t.part j).map (·.state) = (s.part j).map (·.state)) ∧
    ∀ k pid p, k ≤ 16 → s.boundTo h k = some pid → s.part pid = some p → p.dark = true → (s.func h k).tdi = .run →
      (t.func h k).tdi = .error ∧ ∃ q, t.part pid = some q ∧ if p.frame.late then q.frame.tdiLate = true else q.frame.tdiHalt = true) ∧
  ∀ (s : State) (h : Nat), h < 2 → ∃ t, exec (.perstNRelease h) s = .next t ∧ { t with eps := s.eps } = s ∧
    (∀ j, j ≠ h → t.endpoint j = s.endpoint j) ∧ (t.endpoint h).perstReleased = true ∧
    ((t.endpoint h).linkUp = true ↔ (s.endpoint h).enabled = true ∧ s.boot.supply48 = true ∧ s.boot.standby = true ∧ 4 ≤ s.boot.step ∧
      .host h ∉ s.power.off)

namespace Sys2Proof.Claims

open Sys2Proof Sys2Proof.Machine

/-- A queue of a function that exists on the link. -/
def queueOn (s : State) (f : FnId) (q : Nat) : Prop := s.fnEnabled f.h f.k = true ∧ q < 8

/-- The completion bytes of the descriptor at head (17 R474). -/
def completion (f : FnId) (x : Queue) (d : Descriptor) (moved : Nat) (st : Byte) : OutEv :=
  .hostWrite f.h (x.base.toNat + 64 * x.head.toNat + 32) (leBytes 4 moved ++ [st, if d.phase then 1 else 0])

/-- Memory once the host write that a descriptor has under way in a store of a running partition is closed: the bytes that it has
not written stand as before it (log entry 127). -/
def closed (s : State) (x : Queue) : List Host.Cell :=
  match x.underway with
  | some (a, old) => memWrite s.mem a old
  | none => s.mem

/-- A byte of a store of a running partition that a descriptor writes: it is undefined until the descriptor ends (04 R112). -/
def underWrite (s : State) (f : FnId) (d : Descriptor) (y : Nat) : Prop :=
  ∃ pid p a, s.boundTo f.h f.k = some pid ∧ s.part pid = some p ∧ p.state = .running ∧ d.direction = 0 ∧
    isHbm d.part.toNat = false ∧ p.toLocal s.model d.part.toNat d.length.toNat = some a ∧ a ≤ y ∧ y < a + d.length.toNat

/-- Head and phase after one more descriptor. -/
def nextHead (x : Queue) : BitVec 12 × Bool :=
  if x.head.toNat + 1 = 2 ^ (x.size.toNat + 4) then (0, !x.phase) else (BitVec.ofNat 12 (x.head.toNat + 1), x.phase)

/-- Status that the tests before the transfer give a descriptor (17 R473). -/
def firstStatus (s : State) (f : FnId) (d : Descriptor) (tee : Bool) : Nat → Prop
  | 6 => 1 < d.direction.toNat ∨ d.rsvd = true ∨ 0x40000000 < d.length.toNat
  | 7 => s.teeFails f.h f.k tee = true
  | 1 => ∀ pid p, s.boundTo f.h f.k = some pid → s.part pid = some p → ¬served p
  | _ => False

end Sys2Proof.Claims

open Sys2Proof Sys2Proof.Machine Sys2Proof.Claims in
/-- Enabling a queue sets head, done and phase to their start; its base and size change only while it is disabled, and
else set HIF_ERR. A doorbell makes an idle queue take the descriptor at head when its phase is the expected one, with
the status of the first test it fails, and a busy queue look again. When the transfer ends, the completion bytes go to
the host, done counts, head advances and wraps with the phase, and the cause is raised if asked: a good transfer from
the host changes exactly its bytes, one to the host sends them. Disabling ends the current descriptor with ABORTED. -/
def Obligations.Queues : Prop :=
  (∀ (s : State) (f : FnId) (q : Nat), queueOn s f q → let x := s.queue f.h f.k q
    (x.enable = true → exec (.queueEnable f q) s = .next s) ∧
    (x.enable = false → ∃ t, exec (.queueEnable f q) s = .next t ∧
      t.queue f.h f.k q = { x with enable := true, head := 0, phase := true, done := 0, again := false } ∧
      (∀ j, j ≠ q → t.queue f.h f.k j = s.queue f.h f.k j) ∧ t.mem = s.mem)) ∧
  (∀ (s : State) (f : FnId) (q : Nat) (data : Bytes) (line : StreamEnd), queueOn s f q → let x := s.queue f.h f.k q
    (x.enable = false → exec (.queueDisable f q data line) s = .next s) ∧
    (x.enable = true → x.cur = none → ∃ t, exec (.queueDisable f q data line) s = .next t ∧ t.mem = s.mem ∧
      t.queue f.h f.k q = { x with enable := false, again := false }) ∧
    (∀ d, x.enable = true → x.cur = some d → ∃ t moved, exec (.queueDisable f q data line) s = .next t ∧ moved ≤ d.length.toNat ∧
      (line = .good → s.poison = [] → completion f x d moved 8 ∈ t.out) ∧
      let y := t.queue f.h f.k q
      y.enable = false ∧ y.cur = none ∧ y.done = x.done + 1 ∧ y.base = x.base ∧ y.size = x.size)) ∧
  (∀ (s : State) (f : FnId) (q : Nat) (v : BitVec 32), queueOn s f q → let x := s.queue f.h f.k q
    (x.enable = true → ∀ reg, ∃ t, exec (.queueConfigurationWrite f q reg v) s = .next t ∧ t.queue f.h f.k q = x ∧
      (t.func f.h f.k).err.getLsbD 6 = true) ∧
    (x.enable = false →
      (∃ t, exec (.queueConfigurationWrite f q 0 v) s = .next t ∧ (t.queue f.h f.k q).size = x.size ∧
        (t.queue f.h f.k q).base = x.base.extractLsb' 32 32 ++ (v.extractLsb' 12 20 ++ 0#12)) ∧
      (∃ t, exec (.queueConfigurationWrite f q 1 v) s = .next t ∧ (t.queue f.h f.k q).size = x.size ∧
        (t.queue f.h f.k q).base = v ++ x.base.extractLsb' 0 32) ∧
      (∃ t, exec (.queueConfigurationWrite f q 2 v) s = .next t ∧ (t.queue f.h f.k q).base = x.base ∧
        (t.queue f.h f.k q).size = if v.toNat % 16 ≤ 8 then v.setWidth 4 else x.size))) ∧
  (∀ (s : State) (f : FnId) (q : Nat) (d : Descriptor) (tee : Bool), queueOn s f q → let x := s.queue f.h f.k q
    (x.enable = false → exec (.hifQdoorbell f q d tee) s = .next s) ∧
    (x.enable = true → x.cur ≠ none → ∃ t, exec (.hifQdoorbell f q d tee) s = .next t ∧ t.queue f.h f.k q = { x with again := true }) ∧
    (x.enable = true → x.cur = none → d.phase ≠ x.phase → ∃ t, exec (.hifQdoorbell f q d tee) s = .next t ∧
      t.queue f.h f.k q = { x with again := false }) ∧
    (x.enable = true → x.cur = none → d.phase = x.phase → ∃ t v, exec (.hifQdoorbell f q d tee) s = .next t ∧
      (memWf s.mem = true → ∀ y, ¬underWrite s f d y → memGet t.mem y = memGet s.mem y) ∧
      { t.queue f.h f.k q with underway := x.underway } = { x with cur := some d, verdict := v, again := false } ∧
      (firstStatus s f d tee 6 → v = 6) ∧ (¬firstStatus s f d tee 6 → firstStatus s f d tee 7 → v = 7) ∧
      (¬firstStatus s f d tee 6 → ¬firstStatus s f d tee 7 → firstStatus s f d tee 1 → v = 1))) ∧
  ∀ (s : State) (f : FnId) (q : Nat) (data : Bytes) (c d : Descriptor) (tee : Bool), queueOn s f q → let x := s.queue f.h f.k q
    x.cur = some c → d.phase ≠ (nextHead x).2 →
    (x.verdict ≠ 0 → ∃ t, exec (.dmaDescriptorComplete f q data .ok .good d tee) s = .next t ∧ t.mem = closed s x ∧
      completion f x c 0 x.verdict ∈ t.out ∧
      t.queue f.h f.k q = { x with cur := none, underway := none, verdict := 0, done := x.done + 1, head := (nextHead x).1, phase := (nextHead x).2, again := false }) ∧
    ∀ pid p a, x.verdict = 0 → descVerdict s f.h f.k c tee = 0 → s.boundTo f.h f.k = some pid → s.part pid = some p →
      p.toLocal s.model c.part.toNat c.length.toNat = some a → c.length ≠ 0 → s.poison = [] → memWf s.mem = true →
      ∃ t, exec (.dmaDescriptorComplete f q data .ok .good d tee) s = .next t ∧
        (c.interrupt = true → (t.func f.h f.k).cause.getLsbD (8 + q) = true) ∧
        (c.direction = 1 → t.mem = closed s x ∧ .hostWrite f.h c.host.toNat (s.readMem a c.length.toNat) ∈ t.out ∧
          completion f x c c.length.toNat 0 ∈ t.out) ∧
        (c.direction = 0 → data.length = c.length.toNat → p.hitsInUse c.part.toNat data.length = false →
          Stored (closed s x) t.mem a data ∧ completion f x c c.length.toNat 0 ∈ t.out) ∧
        t.queue f.h f.k q = { x with cur := none, underway := none, verdict := 0, done := x.done + 1, head := (nextHead x).1, phase := (nextHead x).2, again := false }

namespace Sys2Proof.Claims

open Sys2Proof Sys2Proof.Machine

/-- The responder of the endpoint is up, and a request in a secured session authenticates (15 R405). -/
def spdmUp (s : State) (r : SpdmReq) : Prop :=
  r.h < 2 ∧ s.serves = true ∧ (s.endpoint r.h).enabled = true ∧ (s.endpoint r.h).linkUp = true ∧
    (r.session = none ∨ (((s.endpoint r.h).session r).isSome = true ∧ r.good = true))

/-- The request comes under a negotiated version while the connection stands at `c`. -/
def spdmAt (s : State) (r : SpdmReq) (c : SpdmConn) : Prop :=
  spdmUp s r ∧ (r.version = 0x12 ∨ r.version = 0x13) ∧ (s.endpoint r.h).spdm = c

/-- The request travels in an open session. -/
def spdmIn (s : State) (r : SpdmReq) (x : SpdmSession) : Prop :=
  spdmAt s r .negotiated ∧ (s.endpoint r.h).session r = some x ∧ x.open_ = true

/-- The responder leaves `t` and answers `resp`, or announces it for CHUNK_GET where it exceeds what the requester takes. -/
def Responds (s : State) (i : Instr) (r : SpdmReq) (t : State) (resp : Bytes) : Prop :=
  let e := s.endpoint r.h
  exec i s = .next (if e.dataSize ≠ 0 ∧ e.dataSize < resp.length ∧ resp.getD 1 0 ≠ 0x06 then
      (t.updEp r.h fun x => { x with chunkHandle := (e.chunkHandle + 1) % 256, chunkSeq := 0, chunkOut := resp }).emit
        (.spdm r.h ([r.version, 0x7F, 0x0F, 0] ++ leBytes 1 ((e.chunkHandle + 1) % 256)))
    else t.emit (.spdm r.h resp))

/-- An ERROR response, with nothing changed. -/
def RespondsError (s : State) (i : Instr) (r : SpdmReq) (code : Byte) : Prop := Responds s i r s [r.version, 0x7F, code, 0]

/-- A TDISP request on the TDI of a virtual function that exists. -/
def tdispOn (s : State) (r : SpdmReq) (fn : Nat) : Prop := (∃ x, spdmIn s r x) ∧ fn ≠ 0 ∧ s.fnEnabled r.h fn = true

end Sys2Proof.Claims

open Sys2Proof Sys2Proof.Machine Sys2Proof.Claims in
/-- The responder moves from version over capabilities to negotiated, and answers what comes out of turn with an error
and no change; digests, certificate and measurements are those of the part; KEY_EXCHANGE adds a session, four at most,
FINISH opens it, KEY_UPDATE counts, END_SESSION removes it; chunks are kept in order. KEY_PROG, K_SET_GO and
K_SET_STOP set, switch and remove IDE keys. LOCK takes an unlocked TDI on a secure stream to CONFIG_LOCKED with a new
nonce, START with that nonce to RUN, STOP back; a forbidden change takes a locked TDI to ERROR. Codes and layouts are
PRESUMED (log entry 60). -/
def Obligations.SecureHostLink : Prop :=
  (∀ (s : State) (r : SpdmReq), spdmUp s r → r.session = none → Responds s (.getVersion r) r
    (s.updEp r.h fun e => { e with spdm := .version, sessions := [], dataSize := 0, chunkSeq := 0, chunkIn := [], chunkOut := [] })
    [0x10, 0x04, 0, 0, 0, 2, 0, 0x12, 0, 0x13]) ∧
  (∀ (s : State) (r : SpdmReq), spdmAt s r .version → ∃ t resp, Responds s (.getCapabilities r) r t resp ∧ { t with free := s.free } =
    s.updEp r.h fun e => { e with spdm := .capabilities, dataSize := num r.body 8 4 }) ∧
  (∀ (s : State) (r : SpdmReq), spdmAt s r .capabilities → ∃ resp, Responds s (.negotiateAlgorithms r) r
    (s.updEp r.h fun e => { e with spdm := .negotiated }) resp) ∧
  (∀ (s : State) (r : SpdmReq) (c : SpdmConn), spdmAt s r c → c ≠ .negotiated → ∀ i ∈ [Instr.getDigests r, .getCertificate r,
    .challenge r, .getMeasurements r, .keyExchange r, .finish r, .spdmHeartbeat r, .keyUpdate r, .endSession r, .chunkSend r, .chunkGet r,
    .query r], RespondsError s i r 0x04) ∧
  (∀ (s : State) (r : SpdmReq), spdmUp s r → RespondsError s (.spdmUnsupportedRequest r) r 0x07) ∧
  (∀ (s : State) (r : SpdmReq), spdmAt s r .negotiated →
    Responds s (.getDigests r) r s ([r.version, 0x01, 0, 1] ++ sha384 s.id.chain) ∧
    (r.p1 = 0 → num r.body 0 2 ≤ s.id.chain.length → ∃ a b, Responds s (.getCertificate r) r s
      ([r.version, 0x02, 0, 0] ++ leBytes 2 a ++ leBytes 2 b ++ (s.id.chain.drop (num r.body 0 2)).take (num r.body 2 2))) ∧
    (r.p1 ≠ 0 → RespondsError s (.getCertificate r) r 0x01 ∧ RespondsError s (.challenge r) r 0x01) ∧
    (r.p1 = 0 → ∃ t resp, Responds s (.challenge r) r t ([r.version, 0x03, 0, 1] ++ sha384 s.id.chain ++ resp) ∧
      { t with free := s.free } = s) ∧
    (∀ v, (r.p2 = 1 ∧ v = s.id.romDigest) ∨ (r.p2 = 2 ∧ v = s.active.digest) ∨ (r.p2 = 4 ∧ v = sha384 s.nvm.settings.packed) →
      ∃ t resp, Responds s (.getMeasurements r) r t resp ∧ v <:+: resp ∧ { t with free := s.free } = s) ∧
    (r.p2 = 0 → r.session = none → (s.endpoint r.h).sessions.length < 4 → ∃ t resp x, Responds s (.keyExchange r) r t resp ∧
      x.open_ = false ∧ { t with free := s.free } = s.updEp r.h fun e => { e with
        opened := e.opened + 1, sessions := e.sessions ++ [x] }) ∧
    (r.p2 = 0 → r.session = none → 4 ≤ (s.endpoint r.h).sessions.length → RespondsError s (.keyExchange r) r 0x03) ∧
    (∀ x, (s.endpoint r.h).session r = some x → x.open_ = false → Responds s (.finish r) r
      (s.updEp r.h fun e => { e with sessions := e.sessions.map fun y => if y.id = x.id then { y with open_ := true } else y })
      [r.version, 0x65, 0, 0]) ∧
    (∀ (n : Nat), num r.body 0 2 = 0 → num r.body 4 4 = n → 12 + n ≤ r.body.length → r.p1.getLsbD 0 = false → ∃ resp,
      Responds s (.chunkSend r) r (s.updEp r.h fun e => { e with
        chunkHandle := r.p2.toNat, chunkSeq := 1, chunkIn := (r.body.drop 12).take n }) resp) ∧
    ((s.endpoint r.h).chunkOut ≠ [] → r.p2.toNat = (s.endpoint r.h).chunkHandle → num r.body 2 2 = (s.endpoint r.h).chunkSeq →
      ∃ k head, 0 < k ∧ Responds s (.chunkGet r) r (s.updEp r.h fun e => { e with
        chunkOut := e.chunkOut.drop k, chunkSeq := e.chunkSeq + 1 }) (head ++ (s.endpoint r.h).chunkOut.take k))) ∧
  (∀ (s : State) (r : SpdmReq) (x : SpdmSession), spdmIn s r x →
    Responds s (.spdmHeartbeat r) r s [r.version, 0x68, 0, 0] ∧
    (r.p1 = 1 ∨ r.p1 = 2 → Responds s (.keyUpdate r) r
      (s.updEp r.h fun e => { e with sessions := e.sessions.map fun y => if y.id = x.id then { y with updates := y.updates + 1 } else y })
      [r.version, 0x69, r.p1, r.p2]) ∧
    Responds s (.endSession r) r (s.updEp r.h fun e => { e with sessions := e.sessions.filter fun y => y.id != x.id })
      [r.version, 0x6C, 0, 0] ∧
    (∃ t resp, Responds s (.query r) r t resp ∧ { t with free := s.free } = s) ∧
    ∀ (k : Nat) (b : Bool) (sub : Nat) (key : BitVec 256) (iv : BitVec 64), k ≤ 255 → sub < 6 →
      let e := s.endpoint r.h
      let same (y : IdeKey) : Bool := y.stream == k && y.set_ == b && y.sub == sub
      ((k ∈ e.streams ∨ e.streams.length < 32) → (∀ y ∈ e.ide, same y = true → y.active = false) → ∃ resp,
        Responds s (.keyProg r k b sub key iv) r
          (s.updEp r.h fun e => { e with ide := e.ide.filter (fun y => !same y) ++ [⟨k, b, sub, key, iv, false⟩] }) resp) ∧
      ((∃ y ∈ e.ide, same y = true) → ∃ t resp, Responds s (.kSetGo r k b sub) r t resp ∧
        (t.endpoint r.h).ide = e.ide.map (fun y => if y.stream = k ∧ y.sub = sub then { y with active := y.set_ == b } else y) ∧
        (k ∈ (t.endpoint r.h).secure ↔ ∀ j < 6, ∃ y ∈ (t.endpoint r.h).ide, y.stream = k ∧ y.sub = j ∧ y.active = true) ∧
        t.parts = s.parts) ∧
      ∃ t resp, Responds s (.kSetStop r k b sub) r t resp ∧ (t.endpoint r.h).ide = e.ide.filter (fun y => !same y) ∧
        (k ∈ e.secure → k ∉ (t.endpoint r.h).secure → ∀ j < 17, (s.func r.h j).stream = some k → (s.func r.h j).tdi ≠ .unlocked →
          (t.func r.h j).tdi = .error)) ∧
  (∀ (s : State) (r : SpdmReq) (fn : Nat), tdispOn s r fn →
    (∃ resp, Responds s (.getTdispVersion r fn) r s resp) ∧
    (∃ t resp, Responds s (.getTdispCapabilities r fn) r t resp ∧ { t with free := s.free } = s) ∧
    (∃ resp, Responds s (.getDeviceInterfaceState r fn) r s resp ∧ resp.getLast? = some (match (s.func r.h fn).tdi with
      | .unlocked => 0 | .locked => 1 | .run => 2 | .error => 3)) ∧
    (∀ off len, (s.func r.h fn).tdi = .locked ∨ (s.func r.h fn).tdi = .run → off < (interfaceReport (s.func r.h fn)).length →
      ∃ resp, Responds s (.getDeviceInterfaceReport r fn off len) r s resp ∧
        ((interfaceReport (s.func r.h fn)).drop off).take len <:+ resp) ∧
    (∀ k, (s.func r.h fn).tdi = .unlocked → k ∈ (s.endpoint r.h).secure → ∃ t resp nonce, Responds s (.lockInterfaceRequest r fn k) r t resp ∧
      nonce.length = 32 ∧ nonce <:+ resp ∧ { t with free := s.free } =
        s.updFunc r.h fn fun f => { f with tdi := .locked, stream := some k, nonce := nonce }) ∧
    (∀ k, (s.func r.h fn).tdi ≠ .unlocked ∨ k ∉ (s.endpoint r.h).secure → ∃ resp, Responds s (.lockInterfaceRequest r fn k) r s resp) ∧
    (∀ nonce, (s.func r.h fn).tdi = .locked → nonce = (s.func r.h fn).nonce → ∃ resp, Responds s (.startInterfaceRequest r fn nonce) r
      (s.updFunc r.h fn fun f => { f with tdi := .run, nonce := [] }) resp) ∧
    (∀ nonce, (s.func r.h fn).tdi ≠ .locked ∨ nonce ≠ (s.func r.h fn).nonce → ∃ resp,
      Responds s (.startInterfaceRequest r fn nonce) r s resp) ∧
    (s.boundTo r.h fn = none → ∃ resp, Responds s (.stopInterfaceRequest r fn) r
      (s.updFunc r.h fn fun f => { f with tdi := .unlocked, stream := none, nonce := [] }) resp) ∧
    ∀ pid p, s.boundTo r.h fn = some pid → s.part pid = some p → ∃ t q resp, Responds s (.stopInterfaceRequest r fn) r t resp ∧
      (t.func r.h fn).tdi = .unlocked ∧ t.part pid = some q ∧ (p.dark = false → q = p) ∧
      (p.dark = true → p.state ≠ .faulted → p.busy = none → s.nvm.generation ≠ 0xFFFFFFFF → q.state = .empty ∧
        (p.state ≠ .empty → q.keys = false))) ∧
  ∀ (s : State) (f : FnId), s.fnEnabled f.h f.k = true → f.k ≠ 0 → ∃ t, exec (.tdispConfigurationChange f) s = .next t ∧
    ((s.func f.h f.k).tdi = .locked ∨ (s.func f.h f.k).tdi = .run → (t.func f.h f.k).tdi = .error ∧
      ∀ pid p, s.boundTo f.h f.k = some pid → s.part pid = some p → p.dark = true →
        ∃ q, t.part pid = some q ∧ if p.frame.late then q.frame.tdiLate = true else q.frame.tdiHalt = true) ∧
    ((s.func f.h f.k).tdi = .unlocked ∨ (s.func f.h f.k).tdi = .error → t = s)

namespace Sys2Proof.Claims

open Sys2Proof Sys2Proof.Machine

/-- A partition holds a newly installed Negative (08 R236). -/
def Installed (t : State) (pid : Nat) (n : Neg) (q : Partition) : Prop :=
  t.part pid = some q ∧ q.state = .developed ∧ q.neg = some n ∧ q.frame.shutter = 0 ∧ q.frame.exposure = 0 ∧ q.frame.commits = 0 ∧
    q.epoch = 0 ∧ q.ring = [] ∧ q.busy = none ∧ q.slideValid = false ∧ q.haltSource = 0 ∧ q.seed = if n.seedAtExpose then 0 else n.seed

/-- The agreement ends with a refusal: the waiting command completes, and the partition is TAINTED (15 R410). -/
def AgreeFails (s : State) (i : Instr) (pid : Nat) (route : Route) (st : Byte) : Prop :=
  ∃ u q resp, exec i s = .next (u.complete route s.log.next st resp) ∧ u.part pid = some q ∧ q.state = .tainted ∧ q.busy = none ∧
    q.jobSecret = none ∧ Logged s u 0x0803

/-- The agreement ends well: the Negative is installed under the group secret `g`, and the waiting DEVELOP completes. -/
def AgreePasses (s : State) (i : Instr) (pid : Nat) (route : Route) (n : Neg) (g : BitVec 256 → Prop) : Prop :=
  ∃ u q x, exec i s = .next (u.complete route s.log.next stOk (developResp [] n.digest)) ∧ Installed u pid n q ∧
    q.jobSecret = some x ∧ g x

/-- A READY partition's DEVELOP waits for the messages of its agreement. -/
def agreeing (s : State) (pid : Nat) (route : Route) (n : Neg) (a : Agree) : Prop :=
  ∃ p, s.part pid = some p ∧ p.state = .ready ∧ p.busy = some (.agree route n none a)

/-- An EXPOSE that its own checks accept (16 R441, 08 R237, 11 R325). -/
def exposeFits (s : State) (p : Partition) (fl : Byte) (tr : BitVec 64) (sd : BitVec 128) : Prop :=
  fl.toNat ≤ 3 ∧ (fl.getLsbD 0 = false → tr = 0) ∧ (fl.getLsbD 1 = false → sd = 0) ∧ (p.state = .developed ∨ p.cleanHalt = true) ∧
    fl.getLsbD 1 = p.negative.seedAtExpose ∧ Partition.mayLaunch s p = true ∧
    (fl.getLsbD 0 = true → p.negative.isMaster = true ∧ s.time.state ≠ 0 ∧ tr.toNat ≤ (s.auditNow.1).toNat + 2592000000000000) ∧
    (p.negative.isMaster = false → p.missed = false)

end Sys2Proof.Claims

open Sys2Proof Sys2Proof.Machine Sys2Proof.Claims in
/-- DEVELOP refuses a partition that is not READY and every range that fails a check, with the refusal in its response
and the log; else the Negative is installed and the partition DEVELOPED, in a Darkroom job of several partitions after
the agreement: the leader gathers HELLOs and draws the secret, a member takes it from KEY, and REJECT, a wrong KEY or
KEY_AGREEMENT_TIMEOUT leaves the partition TAINTED. EXPOSE waits on the partition with its frames and seed, and the
master takes up one that is due. EPOCH.STAGE names a later Shutter and writes the inactive bank only; EPOCH_RETIRE
empties the old bank 20 us after the switch. -/
def Obligations.NegativesAndLaunch : Prop :=
  (∀ (s s1 : State) (e : Envelope) (b l : BitVec 64) (o : Byte) (pid : Nat) (p : Partition),
    Accepts s e (ofPart 0x0301 24 byBoundOrOpenOwner .develop) s1 (some pid) → s1.part pid = some p →
    (p.state ≠ .ready → ∀ rd, ∃ s2 resp, Completes s s1 (.develop e b ⟨l, rd⟩ o) e s2 stWrongState resp ∧ Quiet s1 s2 ∧ Logged s1 s2 0x0A47) ∧
    (p.state = .ready → o.toNat ≤ 3 → (o.getLsbD 1 = true → o.getLsbD 0 = true) →
      (o.getLsbD 0 = true → p.dark = false ∧ s1.lockout = false) → s1.poison = [] →
      (∀ r, s1.loadNegative pid p b.toNat l.toNat false = .error r → ∃ s2, Completes s s1 (.develop e b ⟨l, .good⟩ o) e s2 r.status
        (developResp r.bytes []) ∧ Quiet s1 s2 ∧ Logged s1 s2 0x0A47) ∧
      ∀ n im, s1.loadNegative pid p b.toNat l.toNat false = .ok (n, im) → ∀ u x, s1.loadImages pid n im = (u, x) →
        (x ≠ none → ∃ s2 q resp, Completes s s1 (.develop e b ⟨l, .good⟩ o) e s2 stIntegrity resp ∧ s2.part pid = some q ∧ q.state = .tainted) ∧
        (x = none → p.dark = false → ∃ s2 q, Completes s s1 (.develop e b ⟨l, .good⟩ o) e s2 stOk (developResp [] n.digest) ∧
          Installed s2 pid n q ∧ q.hazard.on = o.getLsbD 0 ∧ q.hazard.stop = o.getLsbD 1 ∧ q.jobSecret = none ∧ OtherParts s1 s2 pid) ∧
        (x = none → p.dark = true → n.jobParts ≤ 1 → ∃ s2 q, Completes s s1 (.develop e b ⟨l, .good⟩ o) e s2 stOk (developResp [] n.digest) ∧
          Installed s2 pid n q ∧ q.jobSecret ≠ none) ∧
        (x = none → p.dark = true → 1 < n.jobParts → ∃ t a, exec (.develop e b ⟨l, .good⟩ o) s = .next t ∧ agreeing t pid e.route n a ∧
          a.leader = n.isMaster ∧ a.hellos = [] ∧ (n.isMaster = false → ∃ m, .agreement n.master m ∈ t.out)))) ∧
  (∀ (s : State) (pid : Nat) (route : Route) (n : Neg) (a : Agree), agreeing s pid route n a →
    AgreeFails s (.keyAgreementTimeout pid) pid route stBusy ∧
    (∀ m, a.leader = true → agreeMsgOk n 1 m = true →
      let hs := (a.hellos.filter fun h => h.1 != num m 2 2) ++ [(num m 2 2, (m.drop 16).take 97, helloFails n m)]
      (hs.length + 1 < n.jobParts → ∃ t, exec (.hello pid m) s = .next t ∧ agreeing t pid route n { a with hellos := hs } ∧
        t.log = s.log) ∧
      (n.jobParts ≤ hs.length + 1 → (∀ h ∈ hs, h.2.2 = none) → AgreePasses s (.hello pid m) pid route n fun _ => True) ∧
      (n.jobParts ≤ hs.length + 1 → (∃ h ∈ hs, h.2.2 ≠ none) → AgreeFails s (.hello pid m) pid route stDenied)) ∧
    (∀ m, a.leader = false → agreeMsgOk n 1 m = true → num m 2 2 = n.master →
      (helloFails n m = none → ∃ t, exec (.hello pid m) s = .next t ∧ t.log = s.log ∧
        agreeing t pid route n { a with lead := some ((m.drop 16).take 97, none) }) ∧
      (helloFails n m ≠ none → AgreeFails s (.hello pid m) pid route stIntegrity)) ∧
    (∀ m pub r, a.leader = false → a.lead = some (pub, r) → agreeMsgOk n 2 m = true → num m 2 2 = n.master → num m 16 2 = n.ownPart →
      let k := jobWrapKey a.priv pub n n.ownPart
      let nonce := (m.drop 24).take 12
      let ct := (m.drop 36).take 32
      ((m.drop 68).take 16 = gcmTag k nonce (m.take 36) ct → AgreePasses s (.key pid m) pid route n fun x =>
        x = BitVec.ofNat 256 (leNat (gcmCrypt k nonce ct))) ∧
      ((m.drop 68).take 16 ≠ gcmTag k nonce (m.take 36) ct → AgreeFails s (.key pid m) pid route stIntegrity)) ∧
    (∀ m, a.leader = false → agreeMsgOk n 3 m = true → num m 2 2 = n.master → AgreeFails s (.reject pid m) pid route stDenied) ∧
    (a.leader = false → ∃ t m, exec (.helloResend pid) s = .next t ∧ t.out = .agreement n.master m :: s.out ∧
      { t with out := s.out, free := s.free, tx := s.tx } = s ∧ ∀ q, t.txOf q = s.txOf q ∨ ∃ k : Packet, k.body = m ∧
        t.txOf q = { s.txOf q with service := (s.txOf q).service ++ [k], seq := (s.txOf q).seq + 1 })) ∧
  (∀ (s s1 : State) (e : Envelope) (fl : Byte) (fr tr : BitVec 64) (sd : BitVec 128) (pid : Nat) (p : Partition),
    Accepts s e (ofPart 0x0302 40 byBoundOrOpenOwner .expose) s1 (some pid) → s1.part pid = some p →
    (exposeFits s1 p fl tr sd → ∃ t q x, exec (.expose e fl fr tr sd) s = .next t ∧ t.part pid = some q ∧ q.expose = some x ∧
      x.route = e.route ∧ x.frames = fr.toNat ∧ x.seed = sd ∧ x.tReq = (if fl.getLsbD 0 then some tr.toNat else none) ∧
      (x.taken = true ↔ p.negative.isMaster = true ∧ p.ftime.isSome = true ∧
        (fl.getLsbD 0 = false ∨ tr.toNat ≤ (s1.auditNow.1).toNat + 20000000)) ∧
      (x.taken = true → ∃ f, q.ftime = some f ∧ f.launch ≠ none) ∧ { q with expose := p.expose, ftime := p.ftime } = p ∧
      { t with parts := s1.parts } = s1) ∧
    (fl.toNat ≤ 3 → (fl.getLsbD 0 = false → tr = 0) → (fl.getLsbD 1 = false → sd = 0) → ¬(p.state = .developed ∨ p.cleanHalt = true) →
      Completes s s1 (.expose e fl fr tr sd) e s1 stWrongState [])) ∧
  (∀ (s s1 : State) (e : Envelope) (sw : BitVec 64) (pid : Nat) (p : Partition),
    Accepts s e (ofPart 0x0304 32 byBoundOrOpenOwner .epoch) s1 (some pid) → s1.part pid = some p →
    (p.state = .running ∨ (p.state = .halted ∧ p.frame.inExpose = true)) →
    (∀ rd, p.bank = .retiring ∨ p.switchAt ≠ none → Completes s s1 (.epochStage e 0 sw 0 ⟨0, rd⟩) e s1 stBusy []) ∧
    (∀ rd, p.bank ≠ .retiring → p.switchAt = none →
      (sw.toNat ≤ p.frame.shutter.toNat → Completes s s1 (.epochStage e 0 sw 0 ⟨0, rd⟩) e s1 stBadArg []) ∧
      (p.frame.shutter.toNat < sw.toNat → ∃ s2 q, Completes s s1 (.epochStage e 0 sw 0 ⟨0, rd⟩) e s2 stOk
          (List.replicate 48 0 ++ leBytes 4 (p.epoch.toNat + 1)) ∧
        s2.part pid = some q ∧ q.switchAt = some sw.toNat ∧ q.bank = .staged ∧ q.epoch = p.epoch ∧
        (∀ f, (s2.die f).hops p.activeBank = (s1.die f).hops p.activeBank) ∧ OtherParts s1 s2 pid ∧ s2.mem = s1.mem))) ∧
  ∀ (s : State) (pid : Nat) (p : Partition) (f : FTime), s.part pid = some p → p.ftime = some f →
    (p.bank = .retiring → p.switchedAt + 20000 ≤ f.time → s.heldOf p (!p.activeBank) = false → ∃ t q,
      exec (.epochRetire pid) s = .next t ∧ t.part pid = some q ∧ q.bank = .empty ∧ q.epoch = p.epoch ∧
      (∀ d, (t.die d).hops p.activeBank = (s.die d).hops p.activeBank) ∧ OtherParts s t pid) ∧
    (p.bank ≠ .retiring ∨ f.time < p.switchedAt + 20000 ∨ s.heldOf p (!p.activeBank) = true → exec (.epochRetire pid) s = .next s)

namespace Sys2Proof.Claims

open Sys2Proof Sys2Proof.Machine

/-- A line that carries the poison mark lies in a saved range (13 R362). -/
def slidePoisoned (s : State) (p : Partition) : Prop :=
  ∃ r ∈ s.slideReads p, 0 < r.2 ∧ s.poisoned r.1 r.2 = true

/-- A line that carries the poison mark lies in a stored slice. -/
def areaPoisoned (s : State) (p : Partition) : Prop :=
  ∃ r ∈ s.slideAreas p (slideHeads s p), 0 < r.2 ∧ s.poisoned r.1 r.2 = true

/-- EXPORT answers: where the partition does not run, whose traffic the power limit counts, all but what it draws stays. -/
def Exports (s s1 : State) (i : Instr) (e : Envelope) (p : Partition) (st : Byte) : Prop :=
  ∃ s2, Completes s s1 i e s2 st [] ∧ (p.state ≠ .running → { s2 with free := s1.free } = s1)

/-- Every slice of a Darkslide has its key bound to this part (15 R414, R415). -/
def allBound (s : State) (p : Partition) : Prop :=
  slideHeads s p ≠ [] ∧ ∀ h ∈ slideHeads s p, num h 10 1 / 4 % 4 = 1 ∧ num h 4104 8 = s.id.serial.toNat

/-- Bytes of a checkpoint area. -/
def areaLength (p : Partition) : Nat :=
  match p.negative.checkpoint with
  | some c => c.2
  | none => 0

end Sys2Proof.Claims

open Sys2Proof Sys2Proof.Machine Sys2Proof.Claims in
/-- DARKSLIDE of a RUNNING partition waits for its Shutter, that of a HALTED or DEVELOPED one begins at once; without
a checkpoint area it ends NO_RESOURCE. The end of the writing leaves a valid Darkslide and answers its digest and
index, or INTEGRITY where a write failed or a saved line is poisoned; without s_r the partition is HALTED. RESUME in
place needs a valid Darkslide and restores it: HALTED at the saved index and epoch, or unchanged with the number of
the check that failed. EXPORT takes only slices bound to this part and a genuine Proof of a Darkroom under lockout
that reports the DPI. PRINT answers only a range that the ring holds whole. PROOF carries serial number, generation
and nonce. -/
def Obligations.DarkslidesAndRecords : Prop :=
  (∀ (s s1 : State) (e : Envelope) (a b : BitVec 64) (pid : Nat) (p : Partition),
    Accepts s e (ofPart 0x0401 16 byBoundOrOpenOwner .darkslide) s1 (some pid) → s1.part pid = some p →
    let may := p.state = .developed ∨ p.state = .running ∨ (p.state = .halted ∧ p.frame.partialState = false)
    let next := p.frame.shutter.toNat + 1 + (if p.frame.late then 1 else 0)
    let take := if a = 0 then next else a.toNat
    let bad := (a = 0 ∧ 1 < p.negative.jobParts) ∨ take < next ∨ (b ≠ 0 ∧ b.toNat ≤ take)
    (¬may → Completes s s1 (.darkslide e a b) e s1 stWrongState []) ∧
    (may → areaLength p = 0 → Completes s s1 (.darkslide e a b) e s1 stNoResource []) ∧
    (may → areaLength p ≠ 0 →
      (p.state = .running → bad → Completes s s1 (.darkslide e a b) e s1 stBadArg []) ∧
      (p.state = .running → ¬bad → exec (.darkslide e a b) s = .next (s1.updPart pid fun q => { q with
        slide := some ⟨e.route, take, b.toNat, .pending, none, 0, 0⟩ })) ∧
      (p.state ≠ .running → a ≠ 0 ∨ b ≠ 0 → Completes s s1 (.darkslide e a b) e s1 stBadArg []) ∧
      (p.state ≠ .running → a = 0 → b = 0 → exec (.darkslide e a b) s = .next (s1.updPart pid fun q => { q with
        slide := some ⟨e.route, 0, 0, .writing, none, p.frame.shutter.toNat, s1.auditNow.1⟩, slideValid := false })))) ∧
  (∀ (s : State) (pid : Nat) (p : Partition) (o : SlideOp), s.part pid = some p → p.slide = some o →
    (o.phase = .pending ∨ o.phase = .held → ∀ ok rd met, exec (.darkslideWriteEnd pid ⟨ok, rd, met⟩) s = .next s) ∧
    (o.phase = .writing ∨ o.phase = .lateEnd →
      (p.state ≠ .running → ¬slidePoisoned s p → ∃ u d q, exec (.darkslideWriteEnd pid ⟨true, .good, []⟩) s = .next
          ((u.complete o.route s.log.next stOk (d ++ leBytes 8 p.frame.exposure.toNat)).updPart pid fun x => { x with slide := none }) ∧
        u.part pid = some q ∧ q.slideValid = true ∧ { q with slideValid := p.slideValid } = p ∧ OtherParts s u pid ∧ u.log = s.log) ∧
      (∀ ok, p.state ≠ .running → ok = false ∨ slidePoisoned s p → ∃ u, exec (.darkslideWriteEnd pid ⟨ok, .good, []⟩) s = .next
        ((u.complete o.route s.log.next stIntegrity []).updPart pid fun x => { x with slide := none }) ∧
        (s.log.used + 1 < 4096 → Logged s u 0x0A45) ∧ Quiet s { u with free := s.free }) ∧
      (∀ ok, p.state = .running → ∃ t q, exec (.darkslideWriteEnd pid ⟨ok, .good, []⟩) s = .next t ∧ t.part pid = some q ∧
        (ok = true → ¬slidePoisoned s p → q.slideValid = true) ∧
        (o.phase = .lateEnd ∨ o.sr = 0 ∨ o.halt ≠ none → q.state = .halted ∧ q.slide = none ∧
          q.haltSource = (match o.halt with | some h => h.1 | none => 7)) ∧
        (o.phase = .writing → o.sr ≠ 0 → o.halt = none → q.state = .running ∧
          q.slide = some { o with phase := .held, route := .session 0 })))) ∧
  (∀ (s s1 : State) (e : Envelope) (rd : StreamEnd) (pid : Nat) (p : Partition),
    Accepts s e (ofPart 0x0402 24 byBoundOrOpenOwner .resume) s1 (some pid) → s1.part pid = some p →
    (p.state = .developed ∨ p.state = .halted → p.slideValid = true → exec (.resume e 0 0 0 rd) s = .next (s1.updPart pid fun q => { q with
      busy := some (.restore (some e.route) rd) })) ∧
    (p.state = .developed ∨ p.state = .halted → p.slideValid = false → ∃ resp, Completes s s1 (.resume e 0 0 0 rd) e s1 stBadArg resp) ∧
    (p.state ≠ .developed → p.state ≠ .halted → Completes s s1 (.resume e 0 0 0 rd) e s1 stWrongState []) ∧
    (∀ b l, p.state ≠ .ready → ∃ resp, Completes s s1 (.resume e 1 b l rd) e s1 stWrongState resp)) ∧
  (∀ (s : State) (pid : Nat) (p : Partition) (route : Option Route) (rd : StreamEnd), s.part pid = some p →
    p.busy = some (.restore route rd) → rd = .good ∨ rd = .corrected ∨ rd = .uncorrectable →
    let h0 := (slideHeads s p).headD []
    (¬areaPoisoned s p → slideChecks s p false rd (slideHeads s p) = none → ∃ t q, exec (.restoreComplete ⟨pid, .good⟩) s = .next t ∧
      t.part pid = some q ∧ q.state = .halted ∧ q.busy = none ∧ q.slideValid = true ∧ q.bank = .empty ∧
      q.frame.exposure = BitVec.ofNat 64 (num h0 16 8) ∧ q.epoch = BitVec.ofNat 32 (num h0 144 4) ∧
      (route = none → q.frame.rollback = .waiting ∧ q.haltSource = p.haltSource) ∧
      (∀ r, route = some r → q.frame.rollback = .idle ∧ q.haltSource = 0 ∧
        ∃ (u : State) (d : Bytes), t = u.complete r s.log.next stOk (List.replicate 16 0 ++ d ++ leBytes 8 (num h0 16 8)))) ∧
    (∀ k st, slideChecks s p false rd (slideHeads s p) = some (k, st) → ¬areaPoisoned s p → ∃ t q, exec (.restoreComplete ⟨pid, .good⟩) s = .next t ∧
      t.part pid = some q ∧ q.state = p.state ∧ q.busy = none ∧ q.frame.exposure = p.frame.exposure ∧ t.mem = s.mem ∧
      ∀ r, route = some r → ∃ (u : State) (resp : Bytes), t = u.complete r s.log.next st resp)) ∧
  (∀ (s s1 : State) (e : Envelope) (proof chain : Bytes) (n : BitVec 16) (pid : Nat) (p : Partition),
    Accepts s e (ofPart 0x0403 (756 + n.toNat) byBoundOrOpenOwner .export_) s1 (some pid) → s1.part pid = some p →
    n ≠ 0 → n.toNat ≤ 3308 → chain.length = n.toNat → proof.length = 752 →
    (p.slideValid = false → ∀ rd, Completes s s1 (.exportSlides e ⟨proof, rd⟩ n chain) e s1 stDenied []) ∧
    (p.slideValid = true → slideShapeOk p (slideHeads s1 p) = true → allBound s1 p → s1.poison = [] →
      (proofGenuine proof chain = false → Exports s s1 (.exportSlides e ⟨proof, .good⟩ n chain) e p stIntegrity) ∧
      (proofGenuine proof chain = true →
        (num proof 26 1 % 2 = 0 ∨ num proof 26 1 / 16 % 2 = 0 → Exports s s1 (.exportSlides e ⟨proof, .good⟩ n chain) e p stDenied) ∧
        (num proof 26 1 % 2 = 1 → num proof 26 1 / 16 % 2 = 1 → num ((slideHeads s1 p).headD []) 12 4 ∈ proofDpis proof →
          (∀ h ∈ (slideHeads s1 p).zipIdx, s1.unwrap h.2 h.1 ≠ .bad) → ∃ s2, Completes s s1 (.exportSlides e ⟨proof, .good⟩ n chain) e s2 stOk
            (leBytes 8 (num proof 8 8) ++ leBytes 2 p.tiles.length ++ [0, 0]) ∧
            (p.state ≠ .running → { s2 with mem := s1.mem, poison := s1.poison, free := s1.free } = s1))))) ∧
  (∀ (s s1 : State) (e : Envelope) (a b : BitVec 64) (pid : Nat) (p : Partition),
    Accepts s e (ofPart 0x0404 16 byBoundOrOpenOwner .plain) s1 (some pid) → s1.part pid = some p →
    (p.negative.fixed = false → Completes s s1 (.print e a b) e s1 stWrongState []) ∧
    (p.negative.fixed = true → b.toNat < a.toNat → Completes s s1 (.print e a b) e s1 stBadArg []) ∧
    (p.negative.fixed = true → a.toNat ≤ b.toNat →
      let es := p.ring.filter fun x => decide (a.toNat ≤ x.index) && decide (x.index ≤ b.toNat)
      (p.switches.filter fun x => decide (a.toNat ≤ x.1) && decide (x.1 ≤ b.toNat)).length ≤ 64 →
      (∀ x ∈ es, ∀ y ∈ es, x.origin = y.origin ∧ x.seed = y.seed) →
      (es.length ≠ b.toNat - a.toNat + 1 → Completes s s1 (.print e a b) e s1 stNoResource []) ∧
      (es.length = b.toNat - a.toNat + 1 → ∃ s2 resp, Completes s s1 (.print e a b) e s2 stOk resp ∧ resp.take 4 = [0x5A, 0x50, 0x52, 0x54] ∧
        { s2 with free := s1.free } = s1))) ∧
  ∀ (s s1 : State) (e : Envelope) (nonce : Bytes) (pid : Nat) (p : Partition),
    Accepts s e (ofPart 0x0501 32 byEveryone .proof) s1 (some pid) → s1.part pid = some p → nonce.length = 32 →
    ∃ s2 resp, Completes s s1 (.proof e nonce) e s2 stOk resp ∧ { s2 with free := s1.free } = s1 ∧
      resp.take 4 = [0x5A, 0x50, 0x52, 0x46] ∧ (resp.drop 8).take 8 = leBytes 8 s1.id.serial.toNat ∧
      (resp.drop 20).take 4 = leBytes 4 p.gen.toNat ∧ (resp.drop 32).take 32 = nonce

namespace Sys2Proof.Claims

open Sys2Proof Sys2Proof.Machine

/-- A correction by `d` ns of a running audit time, and the code that tells how it was applied (12 R337, 16 R443). -/
def Corrected (s t : State) (d : Int) (code : Byte) : Prop :=
  t.time.jumpRefused = false ∧
    (0 < d → code = 0 ∧ t.time.acc = s.time.acc + BitVec.ofNat 56 (d.toNat * 2 ^ 24) ∧ t.time.slewing = false) ∧
    (d < 0 → code = 1 ∧ t.time.acc = s.time.acc ∧ t.time.slewing = true ∧ t.time.slewLeft = (-d).toNat ∧
      t.time.inc.toNat ≤ s.time.disciplined.toNat) ∧
    (d = 0 → code = 3 ∧ t.time.acc = s.time.acc)

/-- A correction is within the jump threshold. -/
def withinJump (s : State) (d : Int) : Prop := -(s.time.jump : Int) ≤ d ∧ d ≤ (s.time.jump : Int)

/-- A PTP message of the chosen master, with PTP enabled (12 R339). -/
def ptpHeard (s : State) (identity : Nat) : Prop := s.settings.ptpEnable ≠ 0 ∧ s.time.master = some identity

/-- Response of TIME.SET and TIME.TRIM (16 R443). -/
def timeAnswer (s : State) (code : Byte) : Bytes :=
  leBytes 8 (s.auditNow.1).toNat ++ [code, s.time.state.setWidth 8] ++ List.replicate 6 0

end Sys2Proof.Claims

open Sys2Proof Sys2Proof.Machine Sys2Proof.Claims in
/-- TIM_INC takes values from 0x09FD70A4 to 0x0A028F5C, TIM_STEP steps of 1 ns to 1 s; others change nothing.
EXTENSION_UPDATE takes a sample and leaves audit time where it was; a stale one makes it FREE. TIME.SET sets a FREE
part forward only; a running audit time steps forward, slews back, or refuses a correction beyond the threshold.
TIME.TRIM corrects a running time. PTP needs its setting and domain, follows the master of lowest rank, and gathers 16
exchanges. AUDIT_HOLDOVER leaves TRACKING. SLEW_END restores the disciplined rate. -/
def Obligations.AuditTime : Prop :=
  (∀ (s : State) (v : BitVec 32),
    (0x09FD70A4 ≤ v.toNat → v.toNat ≤ 0x0A028F5C → exec (.timInc v) s = .next { s with time := { s.time with
      inc := v, disciplined := if s.time.slewing then s.time.disciplined else v } }) ∧
    (v.toNat < 0x09FD70A4 ∨ 0x0A028F5C < v.toNat → exec (.timInc v) s = .next s) ∧
    (0 < v.toNat → v.toNat ≤ 1000000000 → ∃ t, exec (.timStep v) s = .next t ∧
      { t with parts := s.parts } = { s with time := { s.time with acc := s.time.acc + BitVec.ofNat 56 (v.toNat * 2 ^ 24) } }) ∧
    (v = 0 ∨ 1000000000 < v.toNat → exec (.timStep v) s = .next s)) ∧
  (∀ s : State, (∃ t, exec .slewEnd s = .next t ∧ (s.time.slewing = true → t.time.inc = s.time.disciplined ∧ t.time.slewLeft = 0) ∧
      t.time.slewing = false ∧ { t with time := s.time } = s ∧ t.time.acc = s.time.acc) ∧
    (s.time.state = 3 → ∃ t, exec .auditHoldover s = .next t ∧ t.time.state = 4 ∧ t.time.slewing = false ∧
      t.time.inc = s.time.disciplined ∧ Logged s t 0x0231) ∧
    (s.time.state ≠ 3 → exec .auditHoldover s = .next s) ∧
    ∃ t, exec .extensionUpdate s = .next t ∧ t.auditNow.1 = s.auditNow.1 ∧ t.time.extSeq = s.time.extSeq + 2 ∧
      (t.time.extHi.toNat * 2 ^ 32 + t.time.extLo.toNat = (s.auditNow.1).toNat) ∧
      (s.extStale = false → t.time.state = s.time.state ∧ { t with time := s.time } = s) ∧
      (s.extStale = true → t.time.state = 0 ∧ Logged s t 0x1232)) ∧
  (∀ (s s1 : State) (e : Envelope) (v : BitVec 64) (rate : BitVec 32) (x : Option Nat), Accepts s e (partWide 0x0601 16 byOwner) s1 x →
    let now := s1.auditNow.1
    let d : Int := (v.toNat : Int) - now.toNat
    (s1.settings.ptpEnable ≠ 0 → Completes s s1 (.timeSet e v rate) e s1 stWrongState []) ∧
    (s1.settings.ptpEnable = 0 → rate ≠ 0 → Completes s s1 (.timeSet e v rate) e s1 stBadArg []) ∧
    (s1.settings.ptpEnable = 0 → s1.time.state = 0 →
      (v.toNat < now.toNat → Completes s s1 (.timeSet e v 0) e s1 stBadArg []) ∧
      (now.toNat ≤ v.toNat → ∃ s2, Completes s s1 (.timeSet e v 0) e s2 stOk (timeAnswer s2 2) ∧ s2.auditNow = (v, 1) ∧
        s2.time.unset = false ∧ { s2 with time := s1.time } = s1)) ∧
    (s1.settings.ptpEnable = 0 → s1.time.state ≠ 0 →
      (¬withinJump s1 d → ∃ s2, Completes s s1 (.timeSet e v 0) e s2 stDenied [] ∧ s2.time.jumpRefused = true ∧
        s2.time.acc = s1.time.acc ∧ s2.time.state = s1.time.state) ∧
      (withinJump s1 d → ∃ s2 code, Completes s s1 (.timeSet e v 0) e s2 stOk (timeAnswer s2 code) ∧ s2.time.state = 1 ∧
        Corrected s1 s2 d code))) ∧
  (∀ (s s1 : State) (e : Envelope) (v : BitVec 64) (rate : BitVec 32) (x : Option Nat), Accepts s e (partWide 0x0602 16 byOwner) s1 x →
    (s1.settings.ptpEnable ≠ 0 ∨ s1.time.state = 0 → Completes s s1 (.timeTrim e v rate) e s1 stWrongState []) ∧
    (s1.settings.ptpEnable = 0 → s1.time.state ≠ 0 → rate.toInt < -500000 ∨ 500000 < rate.toInt →
      Completes s s1 (.timeTrim e v rate) e s1 stBadArg []) ∧
    (s1.settings.ptpEnable = 0 → s1.time.state ≠ 0 → -500000 ≤ rate.toInt → rate.toInt ≤ 500000 →
      (¬withinJump s1 v.toInt → ∃ s2, Completes s s1 (.timeTrim e v rate) e s2 stDenied [] ∧ s2.time.jumpRefused = true ∧
        s2.time.acc = s1.time.acc ∧ s2.time.disciplined = s1.time.disciplined) ∧
      (withinJump s1 v.toInt → ∃ s2 code, Completes s s1 (.timeTrim e v rate) e s2 stOk (timeAnswer s2 code) ∧
        s2.time.state = s1.time.state ∧ (rate = 0 → Corrected s1 s2 v.toInt code)))) ∧
  (∀ (s : State) (id rank : Nat) (dom : Byte) (ls : Int) (uo : Byte) (uv : Bool),
    (s.settings.ptpEnable = 0 ∨ dom ≠ s.settings.ptpDomain → exec (.ptpAnnounce id rank dom ls uo uv) s = .next s) ∧
    (s.settings.ptpEnable ≠ 0 → dom = s.settings.ptpDomain → ∃ t, exec (.ptpAnnounce id rank dom ls uo uv) s = .next t ∧
      { t with time := s.time } = s ∧ t.time.acc = s.time.acc ∧ t.time.state = s.time.state ∧
      (-4 ≤ ls → ls ≤ 1 → ∃ m ∈ t.time.masters, m.identity = id ∧ m.rank = rank) ∧
      (ls < -4 ∨ 1 < ls → ∀ m ∈ t.time.masters, m.identity ≠ id) ∧
      (∀ b, t.time.master = some b → ∃ m ∈ t.time.masters, m.identity = b ∧ ∀ y ∈ t.time.masters, m.rank ≤ y.rank) ∧
      (t.time.master ≠ s.time.master → t.time.window = []))) ∧
  ∀ (s : State) (id : Nat),
    (¬ptpHeard s id → ∀ o v w, exec (.ptpSync id o) s = .next s ∧ exec (.ptpFollowUp id v) s = .next s ∧
      exec (.ptpDelayResp id w) s = .next s) ∧
    (ptpHeard s id →
      (∀ o : Option (BitVec 64), exec (.ptpSync id o) s = .next { s with time := { s.time with
        t2 := some (s.auditNow.1).toNat, t1 := o.map (·.toNat), t3 := none } }) ∧
      (∀ v : BitVec 64, s.time.t2 ≠ none → s.time.t1 = none → exec (.ptpFollowUp id v) s = .next { s with time := { s.time with
        t2 := some (s.auditNow.1).toNat, t1 := some v.toNat } }) ∧
      (s.time.t2 ≠ none → exec .ptpDelayReqSent s = .next { s with time := { s.time with t3 := some (s.auditNow.1).toNat } }) ∧
      ∀ (w : BitVec 64) (a b c : Nat), s.time.t1 = some a → s.time.t2 = some b → s.time.t3 = some c → ∃ t,
        exec (.ptpDelayResp id w) s = .next t ∧ t.time.t1 = none ∧ t.time.t2 = none ∧ t.time.t3 = none ∧
        (s.time.window.length < 15 → { t with time := s.time } = s ∧ t.time.acc = s.time.acc ∧ t.time.window = s.time.window ++
          [⟨((w.toNat : Int) - a) - ((c : Int) - b), (((b : Int) - a) - ((w.toNat : Int) - c)) / 2⟩]) ∧
        (15 ≤ s.time.window.length → t.time.window = []))

namespace Sys2Proof.Claims

open Sys2Proof Sys2Proof.Machine

/-- The state in which the ending Shutter of a RUNNING partition looks at its Exposure (02 R35, R50): the tick has come and
every block has run to it. -/
def frameEnd (s : State) (pid : Nat) (p : Partition) (f : FTime) (obs : ShutterObs) : State :=
  (({ s with power := { s.power with a1 := obs.a1 } }).tick pid p f).runOut pid obs

/-- What every Shutter leaves on a partition: the grid has moved on, and no post is sampled any more. -/
def Ticked (t : State) (pid : Nat) (f : FTime) (q : Partition) : Prop :=
  t.part pid = some q ∧ q.frame.sampled = false ∧ q.frame.late = false ∧ ∃ g, q.ftime = some g ∧ g.grid = f.grid + 1

/-- The Shutter of the launch has come for a waiting EXPOSE (11 R325). -/
def launchDue (p : Partition) (x : ExposeReq) (f : FTime) : Prop :=
  p.expose = some x ∧ p.ftime = some f ∧ p.fab ≠ none ∧ f.launch = some (f.grid + 1) ∧ p.switchAt = none ∧
    (p.state = .developed ∨ (p.state = .halted ∧ p.frame.rollback = .idle))

end Sys2Proof.Claims

open Sys2Proof Sys2Proof.Machine Sys2Proof.Claims in
/-- A Shutter moves the grid on. A complete Exposure commits: index and commit count rise by 1 and the output buffers
swap; a HALT that waits then takes effect with source 1. An incomplete one is discarded: index, count and output
buffers stay, the partition is HALTED with a partial state and source 3 or 6, and rolls back where attempts and a
valid Darkslide remain. At its launch Shutter a waiting EXPOSE starts the partition at Shutter 0 and index i0, or ends
as missed where it came late or fabric time is not LOCKED. INPUT_POST_SAMPLE samples a pending post of a RUNNING
partition. TIMED_LAUNCH_TAKEUP decides a launch at least two Shutters ahead. -/
def Obligations.ShuttersAndExposures : Prop :=
  (∀ (s : State) (pid : Nat) (obs : ShutterObs), (∀ p, s.part pid = some p → p.ftime = none ∨ p.fab = none) →
    exec (.shutter pid obs) s = .next s) ∧
  (∀ (s : State) (pid : Nat) (obs : ShutterObs) (p y : Partition) (f : FTime), s.part pid = some p → p.ftime = some f → p.fab ≠ none →
    p.state = .running → p.slide = none → (frameEnd s pid p f obs).part pid = some y → y.state = .running → y.slide = none →
    ∃ t q, exec (.shutter pid obs) s = .next t ∧ Ticked t pid f q ∧
      ((frameEnd s pid p f obs).incomplete y = none → q.frame.exposure = y.frame.exposure + 1 ∧ q.frame.commits = y.frame.commits + 1 ∧
        q.frame.outBuf = !y.frame.outBuf ∧ (y.frame.haltCmd = true → q.state = .halted ∧ q.haltSource = 1) ∧
        (q.state = .running ∨ q.state = .halted ∨ q.state = .faulted)) ∧
      ((frameEnd s pid p f obs).incomplete y ≠ none → q.frame.exposure = y.frame.exposure ∧ q.frame.commits = y.frame.commits ∧
        q.frame.outBuf = y.frame.outBuf ∧ q.state = .halted ∧ q.frame.partialState = true ∧
        (y.negative.attempts = 0 → q.haltSource = 3 ∧ q.busy = y.busy) ∧
        (y.negative.attempts ≠ 0 → y.frame.attempts = 0 → q.haltSource = 6 ∧ q.busy = y.busy) ∧
        (y.negative.attempts ≠ 0 → y.frame.attempts ≠ 0 → y.slideValid = true → y.haltDue = false → q.haltSource = 3 ∧
          q.busy = some (.restore none .good) ∧ q.frame.attempts = y.frame.attempts - 1 ∧ q.frame.rollback = .restoring))) ∧
  (∀ (s : State) (pid : Nat) (obs : ShutterObs) (p : Partition) (x : ExposeReq) (f : FTime), s.part pid = some p → launchDue p x f →
    (x.late = true ∨ f.state ≠ .locked → ∃ t q, exec (.shutter pid obs) s = .next t ∧ Ticked t pid f q ∧ q.state = p.state ∧
      q.expose = none ∧ Logged s t 0x1214) ∧
    (∀ y k, x.late = false → f.state = .locked → Partition.mayLaunch s p = true →
      let u := ({ s with power := { s.power with a1 := obs.a1 } }).tick pid p f
      u.part pid = some y → u.launchStep y = some k → ∃ t q, exec (.shutter pid obs) s = .next t ∧ Ticked t pid f q ∧
        q.state = .running ∧ q.step = k ∧ q.frame.shutter = 0 ∧ q.frame.inExpose = true ∧ q.expose = none ∧
        q.frame.exposure = p.frame.exposure ∧ q.seed = (if p.negative.seedAtExpose then x.seed else p.seed) ∧
        q.frame.stopAt = (if x.frames = 0 then none else some (p.frame.exposure.toNat + x.frames)) ∧
        ∀ n, x.route = .session n → fmGet s.sessions n ≠ none → ∃ d cap,
          .frame n (d ++ leBytes 8 cap ++ leBytes 8 p.frame.exposure.toNat) ∈ t.out)) ∧
  (∀ (s : State) (pid : Nat) (obs : ShutterObs) (p : Partition) (f : FTime), s.part pid = some p → p.ftime = some f → p.fab ≠ none →
    p.state ≠ .running → p.frame.rollback = .idle → p.expose = none → p.switchAt = none → ∃ t q, exec (.shutter pid obs) s = .next t ∧
      Ticked t pid f q ∧ q.state = p.state ∧ q.frame.exposure = p.frame.exposure ∧ q.frame.outBuf = p.frame.outBuf ∧
      q.frame.shutter = (if p.frame.inExpose then p.frame.shutter + 1 else p.frame.shutter) ∧ t.mem = s.mem ∧ t.log = s.log) ∧
  (∀ (s : State) (pid : Nat) (p : Partition), s.part pid = some p →
    (∀ o, p.slide = some o → o.phase ≠ .writing) → ∃ t q, exec (.inputPostSample pid) s = .next t ∧ t.part pid = some q ∧
      q.frame.late = true ∧ { q with frame := p.frame } = p ∧ { t with parts := s.parts, eps := s.eps } = s ∧
      (t.func p.hostDie p.fn).postWaits = (s.func p.hostDie p.fn).postWaits - 1 ∧ OtherParts s t pid ∧
      (p.state = .running → p.slide = none → (q.frame.sampled = true ↔ (s.func p.hostDie p.fn).post = true ∧
        (s.func p.hostDie p.fn).postWaits = 0)) ∧
      (p.state = .empty ∨ p.state = .tainted ∨ p.state = .ready ∨ p.state = .faulted → q.frame.sampled = false)) ∧
  ∀ (s : State) (pid : Nat) (p : Partition) (x : ExposeReq) (f : FTime), s.part pid = some p → p.expose = some x → p.ftime = some f →
    (x.tReq ≠ none → p.negative.isMaster = true → x.taken = false → ∃ g, f.grid + 2 ≤ g ∧
      (p.periodNs ≠ 0 → f.time + (if p.negative.jobParts ≤ 1 then 2000 else 8000000) ≤ g * p.periodNs) ∧
      (p.periodNs ≠ 0 → ∀ r, x.tReq = some r → 10000 * (r + 20) ≤ 10000 * f.capture.toNat + (g - f.grid) * 9989 * p.periodNs) ∧
      exec (.timedLaunchTakeup pid) s = .next (s.updPart pid fun q => { q with
        expose := some { x with taken := true }, ftime := some { f with launch := some g } })) ∧
    (x.tReq = none ∨ p.negative.isMaster = false ∨ x.taken = true → exec (.timedLaunchTakeup pid) s = .next s)

namespace Sys2Proof.Claims

open Sys2Proof Sys2Proof.Machine

/-- The packet at the front of a port's receive buffer passes the checks of its fabric die (09 R248): verdict, job tag and
epoch bank. -/
def enters (s : State) (q : Nat) (k : Packet) (pid : Nat) (p : Partition) : Prop :=
  (s.die (q / 4)).owner = some pid ∧ s.part pid = some p ∧ (k.service = false ∨ (s.die (q / 4)).agree = none) ∧ ((s.port q).verdict = .match_ ∨ (s.port q).verdict = .matchFar) ∧
    ((s.port q).state = .degraded → k.service = true) ∧ (s.die (q / 4)).jobTag = some (BitVec.ofNat 16 k.jobTag) ∧
    p.bankLive k.epoch = true

/-- The packet is for this part. -/
def forThisPart (p : Partition) (k : Packet) : Prop := ∃ n, p.fab = some n ∧ k.destPart = n.ownPart

/-- An Exposure-fatal fault stands against a partition (02 R52). -/
def FatalAt (t : State) (pid : Nat) : Prop := ∃ q, t.part pid = some q ∧ q.frame.fatal ≠ none

/-- A packet waits for its landing: it counts in its frame (09 R249, R267, 02 R51). -/
def Taken (s t : State) (pid : Nat) (p : Partition) (k : Packet) (data : Bytes) : Prop :=
  ∃ q l, t.part pid = some q ∧ q.landing = p.landing ++ [l] ∧ l.data = data ∧ l.epoch = k.epoch ∧
    q.frame.arrived = p.frame.arrived + k.length ∧ q.tokens = p.tokens + k.validCount ∧ t.mem = s.mem ∧ OtherParts s t pid

/-- A port stands at the position of this slot time, before the tick guard of its frame (02 R38, R43). -/
def standsAt (u : State) (q slot pid : Nat) (y : Partition) : Prop :=
  let t := u.txOf q
  u.part pid = some y ∧ t.pos = slot ∧ 0 < slot ∧ t.reach < 36 * (slot + 1) ∧ ∃ n, y.fab = some n ∧ t.reach < 36 * n.guardFrom

/-- The entry at that position is scheduled, and nothing more will be written for it (09 R244). -/
def entryDue (u : State) (q slot pid : Nat) (y : Partition) (n : Neg) (e : SlotEnt) (i : Nat) : Prop :=
  let t := u.txOf q
  standsAt u q slot pid y ∧ y.neg = some n ∧ y.state = .running ∧ y.frame.started = true ∧ y.frame.fatal = none ∧
    t.table.zipIdx.find? (fun x => x.1.slot == slot) = some (e, i) ∧ e.kind ≠ .reserved ∧ t.seq + 2 < 2 ^ 58 ∧
    t.debt ≤ 36 * n.retryLag ∧ u.feeders y q i = [] ∧ e.destPart.toNat ≠ n.ownPart

/-- What the port says of a scheduled entry's packet (10 R285, R290). -/
def entryHold (u : State) (q : Nat) (y : Partition) (e : SlotEnt) : Hold :=
  (u.port q).holdOf u.now false e.vc (cdiv (32 + e.len + (if y.dark then 16 else 0)) 240)

/-- A slot time ends with an IDLE unit of a port in use (10 R273, R289). -/
def idled (s : State) (q : Nat) : State := if (s.port q).inUse then s.sendIdle q else s

/-- The 256-byte units of a piece that its arbiter has granted already, while its request stands (04 R107, R110). -/
def landingDone (u : State) (id a : Nat) : Option Nat :=
  if 0x900000000000 ≤ a then
    ((u.block ((a - 0x900000000000) / 0x100000 / 4)).pf.find? fun r => decide (r.kind = .landing) && r.tag == id && r.dst == a).map (·.done)
  else
    ((u.region (regionOf a)).reqs.find? fun r => decide (r.kind = .landing) && r.tag == id && r.addr == a).map (·.done)

end Sys2Proof.Claims

open Sys2Proof Sys2Proof.Machine Sys2Proof.Claims in
/-- PACKET_ARRIVAL takes the oldest packet from the receive buffer; a die without tables drops and counts it. A packet
for another part goes to the transit buffer of its hop; one for this part must name the running Shutter, the mode of
the partition and an address it holds, and in Darkroom mode authenticate, else an Exposure-fatal fault follows; then
it counts as arrived and waits. FABRIC_LANDING writes what the arbiters have not yet granted of the oldest one and no
other byte, and counts its bytes. A due entry whose data are complete departs with the next sequence number; without
data the underrun is fatal; without credit it waits and the debt grows by 36. An idle or RESERVED position repays 36
units of debt, and without debt a RESERVED one relays. A port without tables sends its service packets and an IDLE
unit. -/
def Obligations.ScheduledTransfers : Prop :=
  (∀ (s : State) (q slot : Nat), (s.port q).rx = [] → exec (.packetArrival q slot) s = .next s) ∧
  (∀ (s : State) (q slot : Nat) (k : Packet) (vc u : Nat) (rest : List (Packet × Nat × Nat)), (s.port q).rx = (k, vc, u) :: rest →
    ∃ t, exec (.packetArrival q slot) s = .next t ∧ (t.port q).rx = rest ∧
      ((s.die (q / 4)).owner = none → (s.die (q / 4)).agree = none →
        (t.port q).cnt.droppedBare = (s.port q).cnt.droppedBare + 1 ∧ t.parts = s.parts ∧ t.mem = s.mem) ∧
      ∀ pid p, enters s q k pid p →
        (¬forThisPart p k → ∀ h, ((s.die (q / 4)).hops k.epoch)[k.destPart]? = some h → h.out_.toNat < 64 →
          (s.txOf h.out_.toNat).transit.length < 8 → t.parts = s.parts ∧ (t.txOf h.out_.toNat).transit =
            (s.txOf h.out_.toNat).transit ++ [⟨k, h.vc.toNat, slot⟩]) ∧
        (¬forThisPart p k → p.state = .running → (∀ h, ((s.die (q / 4)).hops k.epoch)[k.destPart]? = some h →
          64 ≤ h.out_.toNat ∨ 8 ≤ (s.txOf h.out_.toNat).transit.length) → FatalAt t pid) ∧
        (forThisPart p k → k.service = false →
          (p.state ≠ .running → t.part pid = some { p with discarded := p.discarded + 1 }) ∧
          (p.state = .running → k.frameTag ≠ p.frame.shutter.toNat % 65536 ∨ k.enc ≠ p.dark ∨
            p.toLocal s.model k.destAddr k.length = none → FatalAt t pid) ∧
          (p.state = .running → k.frameTag = p.frame.shutter.toNat % 65536 → k.enc = p.dark →
            p.toLocal s.model k.destAddr k.length ≠ none →
            (p.dark = false → Taken s t pid p k k.body) ∧
            ∀ g, p.dark = true → p.jobSecret = some g → k.keyIndex < 4 →
              let key := jobKey g p.negative k.keyIndex
              (gcmTag key k.nonce k.head k.body = k.tag → Taken s t pid p k (gcmCrypt key k.nonce k.body)) ∧
              (gcmTag key k.nonce k.head k.body ≠ k.tag → FatalAt t pid)))) ∧
  (∀ (s : State) (pid cycle : Nat) (p : Partition), s.part pid = some p →
    (p.landing = [] → exec (.fabricLanding pid cycle) s = .next s) ∧
    ∀ l rest, p.landing = l :: rest →
      let u := (s.updPart pid fun x => { x with landing := rest }).reachLanding pid cycle p l
      ∃ t q, exec (.fabricLanding pid cycle) s = .next t ∧ t.part pid = some q ∧ q.landing = rest ∧
        (p.state ≠ .running ∨ p.frame.started = false → u = s.updPart pid fun x => { x with landing := rest }) ∧
        ∀ a, l.pieces = [(a, l.data.length)] → memWf u.mem = true → u.poison = [] → t.parts = u.parts ∧
          (∀ x, memGet t.mem x = match landingDone u l.id a with
            | some k => if a + 256 * k ≤ x ∧ x < a + l.data.length then l.data.getD (x - a) 0 else memGet u.mem x
            | none => memGet u.mem x) ∧
          ∀ b c, l.window = some (b, c) → fmGetD (t.block b).arrival c 0 = satAdd (fmGetD (u.block b).arrival c 0) l.data.length) ∧
  (∀ (s : State) (q slot : Nat), (s.livePort q = false → exec (.slotTime q slot) s = .next s) ∧
    (s.livePort q = true → (s.die (q / 4)).owner = none →
      ((s.txOf q).service = [] → exec (.slotTime q slot) s = .next (idled s q)) ∧
      ∀ k rest, (s.txOf q).service = k :: rest → (s.port q).holdOf s.now true 0 k.units = .go →
        ∃ t, exec (.slotTime q slot) s = .next t ∧ (t.txOf q).service = rest)) ∧
  ∀ (s : State) (q slot pid : Nat) (p : Partition), s.livePort q = true → (s.die (q / 4)).owner = some pid → s.part pid = some p →
    let u := s.slotReached pid q slot p
    let t := u.txOf q
    ∀ y, (∀ n e i, entryDue u q slot pid y n e i → entryHold u q y e = .go →
      (fmGet t.staging i = none → ∃ v, exec (.slotTime q slot) s = .next v ∧ FatalAt v pid ∧ (v.txOf q).depIdx = t.depIdx) ∧
      ∀ st c, fmGet t.staging i = some st → st.ready = some c → c ≤ y.cycleAt (y.logicalOf st.block / 6) (435 * t.reach / 36) →
        ∃ v, exec (.slotTime q slot) s = .next v ∧ (v.txOf q).depIdx = i + 1 ∧ (v.txOf q).seq = t.seq + 1 ∧
          (v.txOf q).debt = t.debt ∧ (v.txOf q).pos = slot + 1 ∧ v.part pid = some y) ∧
    (∀ n e i, entryDue u q slot pid y n e i → entryHold u q y e = .credit →
      ∃ v, exec (.slotTime q slot) s = .next v ∧ (v.txOf q).depIdx = t.depIdx ∧ (v.txOf q).seq = t.seq ∧
        (v.txOf q).debt = t.debt + 36 ∧ (v.txOf q).pos = slot) ∧
    (standsAt u q slot pid y →
      ((∀ e ∈ t.table, e.slot ≠ slot) → exec (.slotTime q slot) s = .next (idled (u.updTx q fun x => { x with
        debt := x.debt - 36, pos := slot + 1 }) q)) ∧
      ∀ e i, t.table.zipIdx.find? (fun x => x.1.slot == slot) = some (e, i) → e.kind = .reserved →
        (t.debt ≠ 0 → t.held = false → exec (.slotTime q slot) s = .next (idled (u.updTx q fun x => { x with
          debt := x.debt - 36, depIdx := i + 1, pos := slot + 1 }) q)) ∧
        ∀ x rest, t.debt = 0 → t.transit = x :: rest → x.arrived + 8 ≤ (slot : Int) →
          (u.port q).holdOf u.now x.pkt.service x.vc x.pkt.units = .go →
          (u.port q).outstanding + x.pkt.units ≤ (u.port q).capacity →
          ∃ v, exec (.slotTime q slot) s = .next v ∧ (v.txOf q).transit = rest ∧ (v.txOf q).depIdx = i + 1 ∧
            (v.port q).nextSeq = (u.port q).nextSeq + BitVec.ofNat 16 x.pkt.units)

namespace Sys2Proof.Claims

open Sys2Proof Sys2Proof.Machine

/-- A port of a fitted die, outside a patch, whose state `x` is (09 R254, 10 R294). -/
def livePortAt (s : State) (q : Nat) (x : Port) : Prop := s.livePort q = true ∧ s.port q = x

/-- A port in use: UP, REMAPPING or DEGRADED. -/
def linkInUse (x : Port) : Prop := x.state = .up ∨ x.state = .remapping ∨ x.state = .degraded

/-- A port retrains for a reason (10 R296). -/
def RetrainsFor (t : State) (q reason : Nat) (leader : Bool) : Prop :=
  (t.port q).state = .retraining ∧ (t.port q).reason = some reason ∧ (t.port q).leader = leader

/-- Link control of a received unit (10 R275): its kind, and whether its CRC fits a sequence number. -/
def unitKind (u : Bytes) : Nat := num u 240 8 % 4
def crcFits (u : Bytes) (seq : Nat) : Prop := (unitCrc seq (u.take 248)).toNat = num u 248 8

/-- Clean reception of a whole unit. -/
def cleanUnit (u : Bytes) (o : UnitObs) : Prop := o.words.any codewordFails = false ∧ u.length = 256

/-- A rewind has every unit to send again: none lies in the spill ring, or the ring reads well (10 R284). -/
def ringReady (s : State) (x : Port) (ring : StreamEnd) : Prop := x.ringAt = [] ∨ (ring = .good ∧ s.poison = [])

end Sys2Proof.Claims

open Sys2Proof Sys2Proof.Machine Sys2Proof.Claims in
/-- A PACKET unit under the next sequence number is accepted and acknowledges what its field names; a damaged one
counts and asks for a repeat once. NAK acknowledges and resends the rest; one out of range, a credit timeout or
RETRAIN_REQUEST leads to a retrain; of two leaders the lower identity goes on, and a port that hears itself is a loop-
back. A fresh TRAIN of full width leaves the port UP with sequence numbers 0 and the verdict of the plan. A first
failed lane goes to the spare, a second one halves the port; a third one of a bond direction is part-fatal.
SERVICE_WINDOW_LOW retrains a port without owner. A port in a crosspoint patch passes what it receives to its partner;
one that is not fitted ignores all of it. -/
def Obligations.LinkLayer : Prop :=
  (∀ (s : State) (q : Nat), s.livePort q = false → ∀ u o e v far r m n w c k g,
    (∀ i ∈ [Instr.nakTimer q, .replayTimeout ⟨q, g⟩, .retrainRequestRepeat q, .cableMismatch q, .linkDown q, .trainingAttempt q,
      .laneFailure (.port q) n, .creditTimeout q c, .serviceWindowLow q, .spillStall q n], exec i s = .next s) ∧
    ∀ i ∈ [Instr.flowUnitReceive q u o, .nak q ⟨e, g⟩, .retrainRequest q v far r, .train q m n ⟨w, g⟩, .remapRequest q k, .remapDone q ⟨k, n⟩],
      exec i s = .next (match (s.port q).patch with | some j => s.emit (.passed j i) | none => s)) ∧
  (∀ (s : State) (q : Nat) (x : Port) (u : Bytes) (o : UnitObs), livePortAt s q x →
    ((x.state = .up ∨ x.state = .degraded) → cleanUnit u o → unitKind u = 1 → crcFits u x.expect.toNat →
      ∃ t, exec (.flowUnitReceive q u o) s = .next t ∧ (t.port q).expect = x.expect + 1 ∧ (t.port q).nakState = false ∧
        (let a := BitVec.ofNat 16 (num u 240 8 / 2 ^ 8 % 2 ^ 16)
        (a - x.ackBase).toNat ≤ x.replay.length → (t.port q).ackBase = a ∧ (x.toSend = [] → (t.port q).replay = x.replay.drop (a - x.ackBase).toNat))) ∧
    (x.state ≠ .off → o.words.any codewordFails = true ∨ u.length ≠ 256 → ∃ t, exec (.flowUnitReceive q u o) s = .next t ∧
      (t.port q).cnt.invalid = x.cnt.invalid + 1 ∧ (t.port q).expect = x.expect ∧ (t.port q).ackBase = x.ackBase ∧
      ((x.state = .up ∨ x.state = .degraded) → (t.port q).nakState = true ∧
        (x.nakState = false → ∃ b, t.out = .link q 1 b :: s.out) ∧ (x.nakState = true → t.out = s.out)))) ∧
  (∀ (s : State) (q : Nat) (x : Port), livePortAt s q x →
    ((x.state = .up ∨ x.state = .degraded) → x.nakState = true → ∃ t b, exec (.nakTimer q) s = .next t ∧ t.out = .link q 1 b :: s.out ∧
      (t.port q).cnt.naksSent = x.cnt.naksSent + 1) ∧
    (x.nakState = false → exec (.nakTimer q) s = .next s) ∧
    (linkInUse x → ∀ (e : BitVec 16) (g : StreamEnd),
      ((e - x.ackBase).toNat ≤ x.replay.length → ∃ t, exec (.nak q ⟨e, g⟩) s = .next t ∧ (t.port q).ackBase = e ∧
        (t.port q).cnt.naksReceived = x.cnt.naksReceived + 1 ∧
        (x.toSend = [] → (t.port q).replay = x.replay.drop (e - x.ackBase).toNat ∧
          (ringReady s x g → (t.port q).cnt.resent = x.cnt.resent + (x.replay.length - (e - x.ackBase).toNat)))) ∧
      (x.replay.length < (e - x.ackBase).toNat → ∃ t, exec (.nak q ⟨e, g⟩) s = .next t ∧ RetrainsFor t q 2 true)) ∧
    (linkInUse x → ∀ g, (x.replay = [] → exec (.replayTimeout ⟨q, g⟩) s = .next s) ∧
      (x.replay ≠ [] → ∃ t, exec (.replayTimeout ⟨q, g⟩) s = .next t ∧ (t.port q).replay = x.replay ∧
        (t.port q).cnt.rewinds = x.cnt.rewinds + 1 ∧
        (ringReady s x g → (t.port q).cnt.resent = x.cnt.resent + x.replay.length)))) ∧
  (∀ (s : State) (q : Nat) (x : Port) (v : BitVec 64) (far r : Nat), livePortAt s q x →
    (linkInUse x → ∃ t, exec (.retrainRequest q v far r) s = .next t ∧ RetrainsFor t q r false) ∧
    (x.state = .retraining → x.leader = true →
      (s.id.serial.toNat * 64 + q = v.toNat * 64 + far → ∃ t, exec (.retrainRequest q v far r) s = .next t ∧ (t.port q).state = .down ∧
        (t.port q).verdict = .loopback) ∧
      (s.id.serial.toNat * 64 + q < v.toNat * 64 + far → exec (.retrainRequest q v far r) s = .next s) ∧
      (v.toNat * 64 + far < s.id.serial.toNat * 64 + q → ∃ t, exec (.retrainRequest q v far r) s = .next t ∧ RetrainsFor t q r false) ∧
      ∀ k, x.reason = some k → ∃ t b, exec (.retrainRequestRepeat q) s = .next t ∧ t.out = .link q 3 b :: s.out ∧
        t.port q = { x with rotate := x.rotate + 1 } ∧ { t with out := s.out, ports := s.ports } = s) ∧
    (x.state ≠ .retraining ∨ x.leader = false → exec (.retrainRequestRepeat q) s = .next s) ∧
    (x.state = .training ∨ x.state = .retraining → ∃ t, exec (.linkDown q) s = .next t ∧ (t.port q).state = .down ∧
      (t.port q).verdict = .none_ ∧ (t.port q).reason = none) ∧
    (x.state ≠ .training → x.state ≠ .retraining → exec (.linkDown q) s = .next s) ∧
    (x.state = .down → x.verdict ≠ .loopback → exec (.trainingAttempt q) s = .next (s.updPort q fun y => { y with state := .training })) ∧
    (x.state ≠ .down ∨ x.verdict = .loopback → exec (.trainingAttempt q) s = .next s) ∧
    (x.verdict = .mismatch → ∃ t, exec (.cableMismatch q) s = .next t ∧ Logged s t 0x0620 ∧ Quiet s t) ∧
    (x.verdict ≠ .mismatch → exec (.cableMismatch q) s = .next s)) ∧
  (∀ (s : State) (q : Nat) (x : Port) (m : TrainMsg) (rtt : Nat) (lanes : BitVec 9) (g : StreamEnd), livePortAt s q x →
    x.state = .training ∨ x.state = .retraining →
    (m.serial = s.id.serial → m.port = q → ∃ t, exec (.train q m rtt ⟨lanes, g⟩) s = .next t ∧ (t.port q).state = .down ∧
      (t.port q).verdict = .loopback) ∧
    (m.serial ≠ s.id.serial ∨ m.port ≠ q → ∃ t, exec (.train q m rtt ⟨lanes, g⟩) s = .next t ∧ (t.port q).trained = true ∧
      (t.port q).vcs = Nat.max 1 (Nat.min (configuredVcs s.model s.nvm.plan q) m.vcOffer) ∧ (t.port q).seenSerial = m.serial ∧
      (t.port q).seenPort = m.port ∧ (t.port q).rtt = rtt ∧ (t.port q).fresh = false ∧ (∃ b, .link q 4 b ∈ t.out) ∧
      (x.fresh = true ∨ m.fresh = true → (t.port q).nextSeq = 0 ∧ (t.port q).ackBase = 0 ∧ (t.port q).expect = 0 ∧
        (t.port q).replay = [] ∧
        (lanes = 0x1FF → m.laneMap = 0x1FF → (t.port q).state = .up ∧
          (∀ e, s.planPort q = some e → e.linked = true → m.serial = e.nbSerial → m.port = e.nbPort → (t.port q).verdict = .match_) ∧
          (s.planPort q = none → (t.port q).verdict = .unplanned)) ∧
        (((List.range 9).filter fun k => (lanes &&& m.laneMap).getLsbD k).length < 4 → (t.port q).state = .down ∧
          (t.port q).verdict = .none_)))) ∧
  (∀ (s : State) (q lane : Nat) (x : Port), livePortAt s q x →
    (x.state = .up → lane < 8 → lane ∉ x.failedRx →
      (x.spareRx = none → x.remapRx = none → x.spareBad = false → ∃ t, exec (.laneFailure (.port q) lane) s = .next t ∧
        (t.port q).state = .remapping ∧ (t.port q).remapRx = some lane ∧ t.out = .laneControl q (laneWord 1 lane s.now) :: s.out) ∧
      (x.spareRx ≠ none ∨ x.remapRx ≠ none ∨ x.spareBad = true → ∃ t, exec (.laneFailure (.port q) lane) s = .next t ∧
        (t.port q).halved = true ∧ RetrainsFor t q 5 true)) ∧
    (∀ w, x.state = .up ∨ x.state = .remapping → x.spareTx = none → lane < 8 → readLaneWord w = some (1, lane) →
      exec (.remapRequest q w) s = .next
        ((s.updPort q fun y => { y with spareTx := some lane, remapTx := true }).emit (.laneControl q (laneWord 2 lane s.now)))) ∧
    (∀ w, readLaneWord w = none → exec (.remapRequest q w) s = .next s) ∧
    (∀ w n, x.state = .remapping → x.remapRx = some lane → readLaneWord w = some (2, lane) → ∃ t b, exec (.remapDone q ⟨w, n⟩) s = .next t ∧ (t.port q).state = .up ∧
      (t.port q).spareRx = some lane ∧ (t.port q).remapRx = none ∧ (t.port q).cnt.remaps = x.cnt.remaps + 1 ∧
      t.out.head? = some (.link q 1 b)) ∧
    (∀ w, x.remapRx = none → x.remapTx = true → ∃ t, exec (.remapDone q ⟨w, lane⟩) s = .next t ∧ (t.port q).remapTx = false ∧
      (t.port q).cnt.remaps = x.cnt.remaps + 1 ∧ (t.txOf q).debt = (s.txOf q).debt + lane)) ∧
  (∀ (s : State) (b lane : Nat), hasBond s.model b = true → lane < 132 → lane ∉ (fmGetD s.bonds b {}).failed →
    let mine := ((fmGetD s.bonds b {}).failed.filter fun k => k / 66 == lane / 66).length
    ∃ t, exec (.laneFailure (.bond b) lane) s = .next t ∧ (fmGetD t.bonds b {}).failed = (fmGetD s.bonds b {}).failed ++ [lane] ∧
      (mine < 2 → t.boot = s.boot ∧ t.parts = s.parts) ∧ (2 ≤ mine → t.boot.fatal = some 0x370B)) ∧
  ∀ (s : State) (q n : Nat) (x : Port), livePortAt s q x →
    (x.state = .up → n < x.vcs → (∃ u < 36, x.hasCredit false n u = false) → ∃ t, exec (.creditTimeout q n) s = .next t ∧
      RetrainsFor t q 1 true) ∧
    ((∀ u < 36, x.hasCredit false n u = true) → exec (.creditTimeout q n) s = .next s) ∧
    (linkInUse x → x.serviceLow = true →
      ((s.die (q / 4)).owner = none → ∃ t, exec (.serviceWindowLow q) s = .next t ∧ RetrainsFor t q 4 true) ∧
      ((s.die (q / 4)).owner ≠ none → ∃ t, exec (.serviceWindowLow q) s = .next t ∧ (t.port q) = { x with wantRetrain := true })) ∧
    (x.serviceLow = false → exec (.serviceWindowLow q) s = .next s) ∧
    (x.spillUnits ≠ 0 → x.queued ≠ [] ∨ x.capacity ≤ x.replay.length → ∃ t, exec (.spillStall q n) s = .next t ∧
      (t.txOf q).debt = (s.txOf q).debt + n ∧ { t.port q with queued := x.queued } = x) ∧
    (x.spillUnits = 0 ∨ (x.queued = [] ∧ x.replay.length < x.capacity) → exec (.spillStall q n) s = .next s)

namespace Sys2Proof.Claims

open Sys2Proof Sys2Proof.Machine

/-- A live port of a partition that keeps fabric time, with its plan entry (11 R315 to R317). -/
def beaconPort (s : State) (q pid : Nat) (p : Partition) (f : FTime) (n : Neg) (e : PlanPort) : Prop :=
  s.livePort q = true ∧ (s.die (q / 4)).owner = some pid ∧ s.part pid = some p ∧ p.ftime = some f ∧ p.fab = some n ∧
    s.planPort q = some e

/-- A beacon of the partition's job from a planned neighbour (11 R317). -/
def beaconOurs (n : Neg) (e : PlanPort) (m : BeaconMsg) : Prop :=
  m.jobTag = n.jobTag ∧ e.linked = true ∧ (m.srcPart = e.nbPart ∨ ∃ x, e.far = some x ∧ x.1 = m.srcPart)

/-- What an offset leaves of a partition's fabric time. -/
def Offset (s : State) (pid : Nat) (f : FTime) (c : Nat × BeaconMsg × Int) (jump period : Nat) (running : Bool) (g : FTime) : Prop :=
  ∃ q, (s.applyOffset pid f c jump period running).part pid = some q ∧ q.ftime = some g

end Sys2Proof.Claims

open Sys2Proof Sys2Proof.Machine Sys2Proof.Claims in
/-- Fabric time slews by at most one part in 50,000. A beacon of another job or of no planned neighbour is ignored and
counted, one of another frame period or master is logged and leaves fabric time; any other is kept as heard on its
port. An offset of an acquiring partition that does not run steps its time; eight within 5 ns lock it; a locked one
slews by its offset, and refuses one beyond the jump threshold, the eighth in a row leading to HOLDOVER. TICK_HOLDOVER
takes a LOCKED member without a candidate to HOLDOVER. MASTER_LISTEN_END locks the listening master at hop 0.
INTERIM_BEACON sends on every port with a matching verdict. A port in a crosspoint patch passes beacons on. -/
def Obligations.FabricTime : Prop :=
  (∀ (f : FTime) (ns : Nat), let g := f.run ns
    ((g.time : Int) - ((f.time : Int) + ns)).natAbs ≤ (f.slewClock + ns) / 50000 ∧ g.slew.natAbs ≤ f.slew.natAbs ∧
    g.sinceBeacon = f.sinceBeacon + ns ∧ { g with time := f.time, slew := f.slew, slewClock := f.slewClock, sinceBeacon := f.sinceBeacon } = f) ∧
  (∀ (s : State) (q pid : Nat) (p : Partition) (f : FTime) (n : Neg) (e : PlanPort) (m : BeaconMsg) (rx : BitVec 32),
    beaconPort s q pid p f n e →
    (¬beaconOurs n e m → ∃ t, exec (.beacon q m rx) s = .next t ∧ t = s.updPort q fun x => { x with
      cnt := { x.cnt with beaconsIgnored := x.cnt.beaconsIgnored + 1 } }) ∧
    (beaconOurs n e m →
      (m.frameCount.toNat ≠ n.frameCount ∨ m.masterPart.toNat ≠ n.master → ∃ t, exec (.beacon q m rx) s = .next t ∧
        t.parts = s.parts ∧ t.ports = s.ports ∧ ((∀ k ∈ s.log.once, k.1 ≠ pid) → ∃ c, (c = 0x0213 ∨ c = 0x0212) ∧ Logged s t c)) ∧
      (m.frameCount.toNat = n.frameCount → m.masterPart.toNat = n.master → ∃ t h, exec (.beacon q m rx) s = .next t ∧
        (t.port q).heard = some h ∧ h.msg = m ∧ h.rx = rx ∧ h.at_ = f.time ∧ (t.port q).state = (s.port q).state ∧
        (n.isMaster = true → ∃ y, t.part pid = some y ∧ y = { p with ftime := y.ftime } ∧ ∃ g, y.ftime = some g ∧
          { g with heard := f.heard } = f)))) ∧
  (∀ (s : State) (q : Nat) (m : BeaconMsg) (rx : BitVec 32),
    (s.livePort q = true → (s.die (q / 4)).owner = none → exec (.beacon q m rx) s = .next s) ∧
    (s.livePort q = false → exec (.beacon q m rx) s = .next (match (s.port q).patch with
      | some j => s.emit (.passed j (.beacon q m rx))
      | none => s))) ∧
  (∀ (s : State) (pid : Nat) (p : Partition) (f : FTime) (c : Nat × BeaconMsg × Int) (jump period : Nat) (running : Bool),
    s.part pid = some p → p.ftime = some f → ∃ g, Offset s pid f c jump period running g ∧
      (f.state = .acquiring → f.stepped = false → running = false → g.time = ((f.time : Int) - c.2.2).toNat ∧ g.stepped = true ∧
        g.state = .acquiring ∧ g.slew = 0) ∧
      (f.state = .acquiring → f.stepped = true ∨ running = true → g.time = f.time ∧ g.slew = -c.2.2 ∧
        (7 ≤ f.good → c.2.2.natAbs ≤ 5 → g.state = .locked ∧ g.hops = c.2.1.hops.toNat + 1) ∧
        (f.good < 7 ∨ 5 < c.2.2.natAbs → g.state = .acquiring ∧ g.good = if c.2.2.natAbs ≤ 5 then f.good + 1 else 0)) ∧
      (f.state ≠ .acquiring → c.2.2.natAbs ≤ jump → g.state = .locked ∧ g.slew = -c.2.2 ∧ g.time = f.time ∧ g.bad = 0 ∧
        g.hops = c.2.1.hops.toNat + 1 ∧ g.parent = some c.1) ∧
      (f.state ≠ .acquiring → jump < c.2.2.natAbs → g.time = f.time ∧ g.refused = f.refused + 1 ∧
        (f.state = .locked → 7 ≤ f.bad → g.state = .holdover ∧ g.hops = 0xFF) ∧
        (f.state = .holdover ∨ f.bad < 7 → g.state = f.state ∧ g.slew = f.slew ∧ g.bad = f.bad + 1))) ∧
  (∀ (s : State) (pid : Nat) (p : Partition) (f : FTime) (n : Neg), s.part pid = some p → p.ftime = some f → p.fab = some n →
    (f.state = .locked → n.isMaster = false → s.candidates p n f = [] → ∃ t q g, exec (.tickHoldover pid) s = .next t ∧
      t.part pid = some q ∧ q.ftime = some g ∧ g.state = .holdover ∧ g.hops = 0xFF ∧ g.parent = none ∧ g.slew = 0 ∧ g.time = f.time ∧
      { q with ftime := p.ftime } = p ∧ Logged s t 0x0211) ∧
    (f.state ≠ .locked ∨ n.isMaster = true ∨ s.candidates p n f ≠ [] → exec (.tickHoldover pid) s = .next s) ∧
    (∃ t q, exec (.interimBeacon pid) s = .next t ∧ t.part pid = some q ∧ q.ftime = some { f with sinceBeacon := 0 } ∧
      { t with parts := s.parts, out := s.out, ports := s.ports } = s ∧
      ∀ k ∈ s.portsOf p, (s.port k).verdict = .match_ ∨ (s.port k).verdict = .matchFar → ∃ b, .link k 2 b ∈ t.out)) ∧
  ∀ (s : State) (pid : Nat) (p : Partition) (f : FTime), s.part pid = some p → p.ftime = some f →
    (f.listening = false → exec (.masterListenEnd pid) s = .next s) ∧
    (f.listening = true → ∃ t q g, exec (.masterListenEnd pid) s = .next t ∧ t.part pid = some q ∧ q.ftime = some g ∧
      g.state = .locked ∧ g.hops = 0 ∧ g.listening = false ∧ { q with ftime := p.ftime } = p ∧ { t with parts := s.parts } = s ∧
      (f.heard = none → g.time = f.time ∧ g.grid = f.grid) ∧
      ∀ h, f.heard = some h → g.time = ((f.time : Int) - h.2).toNat)

namespace Sys2Proof.Claims

open Sys2Proof Sys2Proof.Machine

/-- A partition is FAULTED and its keys are gone (18 R487). -/
def FaultedAt (t : State) (pid : Nat) : Prop :=
  ∃ q, t.part pid = some q ∧ q.state = .faulted ∧ q.keys = false ∧ q.jobSecret = none

/-- Input power limit of a class, W, and its guaranteed step, MHz (14 R387). -/
def capWatts : Nat → Nat
  | 0 => 7800
  | 1 => 6600
  | 2 => 5400
  | _ => 4600
def capStep : Nat → Nat
  | 0 => 1500
  | 1 => 1300
  | 2 => 1100
  | _ => 800

/-- Number of a kind of die, and its warning, limiter and shutdown temperatures (14 R393). -/
def heatOf : DieKind → Nat × Int × Option Int × Int
  | .compute => (0, 95, some 105, 115)
  | .sram => (1, 95, some 105, 115)
  | .stack => (2, 95, some 100, 105)
  | .fabric => (3, 100, none, 120)

/-- A region whose generator is stopped while nothing runs on it (14 R379). -/
def idleRegion (s : State) (r pid : Nat) : Prop :=
  ∃ l p, s.regionOwner r = some (pid, l) ∧ s.part pid = some p ∧
    (p.state = .developed ∨ p.state = .halted ∨ p.state = .ready ∨ p.state = .tainted)

/-- A partition that a fault of a domain takes (14 R386). -/
def hitBy (s : State) (d : Domain) (p : Partition) : Prop :=
  match d with
  | .host h => p.hostDie = h
  | _ => ∃ t ∈ p.tiles, t ∈ domainTiles s.model d

end Sys2Proof.Claims

open Sys2Proof Sys2Proof.Machine Sys2Proof.Claims in
/-- FAST_LIMITER above the class limit limits the fast partitions and raises their event bits; LIMITER_STOP below 98 %
of it ends that. RESERVATION_EXPIRY drops one reservation. SUPPLY_DROOP lengthens the stretch counter of its region,
saturating, or where the region must stop is Exposure-fatal. THERMAL_SAMPLE sets and clears warnings 5 degrees apart,
asserts the pin, and at the shutdown temperature is part-fatal. A domain fault takes every partition it touches; a die
that the variant lacks has neither sensor nor domain. Input above 72 V is outside what the part survives; 48 V out of
range for more than 100 us is part-fatal. STANDBY_LOSS leaves what manufacture and NVM hold. A failed generator takes
the partition of its region. -/
def Obligations.PowerAndClocks : Prop :=
  (∀ (s : State) (a : Nat),
    (a ≤ capWatts s.power.cls ∨ s.power.limiter ≠ none → exec (.fastLimiter a) s = .next { s with power := { s.power with a20 := a } }) ∧
    (capWatts s.power.cls < a → s.power.limiter = none → ∃ t rs, exec (.fastLimiter a) s = .next t ∧ t.power.limiter = some rs ∧
      t.power.a20 = a ∧ (t.func 0 0).pwrEvents.getLsbD 0 = true ∧
      ∀ pid p, s.part pid = some p → p.state = .running → capStep s.power.cls < p.step → p.tiles ≠ [] →
        (∀ d ∈ p.tiles, ∀ k < 6, 6 * d + k ∈ rs) ∧ ∃ q, t.part pid = some q ∧ q.frame.limited = true ∧
          { q with frame := p.frame } = p) ∧
    ∀ ns, (s.power.limiter = none ∨ 98 * capWatts s.power.cls ≤ 100 * a →
        exec (.limiterStop a ns) s = .next { s with power := { s.power with a20 := a } }) ∧
      (s.power.limiter ≠ none → 100 * a < 98 * capWatts s.power.cls → ∃ t, exec (.limiterStop a ns) s = .next t ∧
        t.power.limiter = none ∧ t.power.a20 = a ∧ t.mem = s.mem)) ∧
  (∀ (s : State) (pid : Nat),
    ((∀ r ∈ s.power.reservations, r.part ≠ pid) → exec (.reservationExpiry pid) s = .next s) ∧
    ((∃ r ∈ s.power.reservations, r.part = pid) → ∃ t, exec (.reservationExpiry pid) s = .next t ∧
      t.power.reservations.length + 1 = s.power.reservations.length ∧ { t with power := s.power } = s ∧
      t.power.reservations.filter (fun r => r.part != pid) = s.power.reservations.filter fun r => r.part != pid)) ∧
  (∀ (s : State) (r pct n pid l : Nat) (p : Partition), s.regionOwner r = some (pid, l) → s.part pid = some p →
    (p.state ≠ .running → exec (.supplyDroop r pct n false) s = .next s) ∧
    (p.state = .running → (∃ t q, exec (.supplyDroop r pct n false) s = .next t ∧ t.part pid = some q ∧
        (let v := Nat.min (fmGetD p.frame.stretchNs l 0 + n * Nat.min pct 8 * 125 / p.step) 0xFFFFFFFF
        fmGetD q.frame.stretchNs l 0 = v ∧ (p.negative.stretch * p.negative.schedLen < v * 10 * p.step → q.frame.stretchOver = true)) ∧
        OtherParts s t pid ∧ t.mem = s.mem) ∧
      ∃ t, exec (.supplyDroop r pct n true) s = .next t ∧ FatalAt t pid ∧ r ∈ t.power.gated)) ∧
  (∀ (s : State) (k : DieKind) (i : Nat) (c : Int), hasDie s.model k i = false → ∃ t, exec (.thermalSample [(k, i, c)]) s = .next t ∧
    { t with pins := s.pins } = s) ∧
  (∀ (s : State) (k : DieKind) (i : Nat) (c : Int), hasDie s.model k i = true → ∃ t, exec (.thermalSample [(k, i, c)]) s = .next t ∧
    (let key := 64 * (heatOf k).1 + i
    fmGet t.power.temps key = some c ∧ ((heatOf k).2.1 ≤ c → key ∈ t.power.warn) ∧ (c ≤ (heatOf k).2.1 - 5 → key ∉ t.power.warn)) ∧
    (∀ x, (heatOf k).2.2.1 = some x → x ≤ c → t.pins.therm = true ∨ s.boot.fatal = some 0x3907) ∧
    (c < (heatOf k).2.2.2 → t.boot = s.boot) ∧
    ((heatOf k).2.2.2 ≤ c → 4 ≤ s.boot.step → s.boot.fatal ≠ some 0x3907 → t.boot.fatal = some 0x3907 ∧ t.pins.therm = true ∧
      ∀ pid, (s.part pid).isSome = true → FaultedAt t pid)) ∧
  (∀ (s : State) (d : Domain), hasDomain s.model d = false → exec (.domainFault d) s = .next s) ∧
  (∀ (s : State) (d : Domain), hasDomain s.model d = true → ∃ t, exec (.domainFault d) s = .next t ∧ d ∈ t.power.off ∧
    (∀ x ∈ domainTiles s.model d, x ∈ t.power.degraded) ∧ (∀ pid p, s.part pid = some p → hitBy s d p → FaultedAt t pid) ∧
    (∀ h, d = .host h → (t.endpoint h).linkUp = false) ∧
    ∀ f, d = .fabric f → ∀ k < 4, (t.port (4 * f + k)).state = .off) ∧
  (∀ (s : State) (mv us : Nat),
    (72000 < mv → exec (.inputSupplyFault mv us) s = .fault .inputAbove72V) ∧
    (40000 ≤ mv → mv ≤ 60000 → exec (.inputSupplyFault mv us) s = .next { s with power := { s.power with millivolts := mv } }) ∧
    (30000 ≤ mv → mv ≤ 72000 → us ≤ 100 → 4 ≤ s.boot.step → exec (.inputSupplyFault mv us) s =
      .next { s with power := { s.power with millivolts := mv } }) ∧
    (mv < 40000 ∨ 60000 < mv → mv ≤ 72000 → s.boot.supply48 = true → 4 ≤ s.boot.step → 100 < us → ∃ t,
      exec (.inputSupplyFault mv us) s = .next t ∧ t.boot.fatal = some 0x3908 ∧ t.boot.supply48 = false ∧ t.pins.pwrOk = false ∧
      (t.endpoint 0).linkUp = false ∧ (t.endpoint 1).linkUp = false ∧ ∀ pid, (s.part pid).isSome = true → FaultedAt t pid)) ∧
  (∀ s : State, ∃ t, exec .standbyLoss s = .next t ∧ t.parts = [] ∧ t.sessions = [] ∧ t.owner = none ∧ t.model = s.model ∧ t.id = s.id ∧
    t.nvm = s.nvm ∧ t.log.ring = s.log.ring ∧ t.log.next = s.log.next ∧ t.log.buf = [] ∧ t.time.state = 0 ∧ t.boot.standby = false ∧
    t.serves = false ∧ (∀ a, memGet t.mem a = 0) ∧ t.pending = s.pending) ∧
  ∀ (s : State) (r : Nat),
    (∀ pid, idleRegion s r pid → (∃ t, exec (.clockWake r true) s = .next t ∧ r ∈ t.power.awake ∧ t.parts = s.parts) ∧
      (∃ t, exec (.clockWake r false) s = .next t ∧ FaultedAt t pid) ∧
      ∃ t, exec (.regionIdleStop r) s = .next t ∧ r ∉ t.power.awake ∧ { t with power := s.power } = s) ∧
    ((∀ pid, ¬idleRegion s r pid) → (∀ b, exec (.clockWake r b) s = .next s) ∧ exec (.regionIdleStop r) s = .next s) ∧
    (96 ≤ r → exec (.clockGeneratorFault r) s = .next s) ∧
    (r < 96 → (s.regionOwner r = none → ∃ t, exec (.clockGeneratorFault r) s = .next t ∧ (∀ j, j ≠ 0xFF → t.part j = s.part j) ∧ Logged s t 0x2505) ∧
      ∀ pid l, s.regionOwner r = some (pid, l) → ∃ t, exec (.clockGeneratorFault r) s = .next t ∧ FaultedAt t pid)

namespace Sys2Proof.Claims

open Sys2Proof Sys2Proof.Machine

/-- A bring-up that meets nothing bad: known answers hold, the selected image verifies, no step misses its bound, 48 V
stands (18 R481, 16 R455). -/
def goodBoot (s : State) (o : BootObs) : Prop :=
  o.kat = true ∧ o.missed = none ∧ o.factory = false ∧ o.supply48 = true ∧
    ∃ i, (if s.nvm.selectB then s.nvm.imageB else s.nvm.imageA) = some i ∧ i.genuine = true ∧
      (if s.nvm.selectB then o.imageOk.2 else o.imageOk.1) = true

/-- No firmware image verifies. -/
def noImage (s : State) (o : BootObs) : Prop :=
  (∀ i, s.nvm.imageA = some i → i.genuine = true → o.imageOk.1 = false) ∧ ∀ i, s.nvm.imageB = some i → i.genuine = true → o.imageOk.2 = false

/-- The part is READY: every step is done and the mailboxes accept commands. -/
def Ready (t : State) : Prop := t.boot.step = 9 ∧ t.serves = true ∧ t.pins.pwrOk = true ∧ t.boot.fatal = none

/-- Partitions come back as NVM records them: TAINTED, or FAULTED, without Negative, session or owner (18 R480). -/
def Recorded (s t : State) : Prop :=
  t.sessions = [] ∧ t.owner = none ∧ (∀ pid, fmGet s.nvm.records pid = none → t.part pid = none) ∧
    ∀ pid r, fmGet s.nvm.records pid = some r → ∃ q, t.part pid = some q ∧ q.tiles = r.tiles ∧ q.dark = r.dark ∧
      q.hostDie = r.hostDie ∧ q.fn = r.fn ∧ (q.state = .tainted ∨ q.state = .faulted) ∧ (r.faulted = true → q.state = .faulted) ∧ q.neg = none ∧
      q.frame.exposure = 0

/-- What a reset of the whole part leaves before bring-up goes on (18 R479). -/
def Down (s t : State) : Prop :=
  t.boot.step = 0 ∧ t.serves = false ∧ t.pins.pwrOk = false ∧ t.nvm = s.nvm ∧ t.id = s.id ∧ t.model = s.model ∧ Recorded s t ∧
    (s.log.used < 4096 → ∃ e ∈ t.log.ring, e.code = 0x000C)

/-- A state with the part-level traffic of another (07 R195, R196). -/
def sameTraffic (s t : State) : State := { t with power := { t.power with lines := s.power.lines, waiting := s.power.waiting } }

/-- A stack that the variant has (00 R3), and a pseudo-channel of it. -/
def hasStack (s : State) (k : Nat) : Prop := k < 32 ∧ (variantStacks s.model).testBit k = true

end Sys2Proof.Claims

open Sys2Proof Sys2Proof.Machine Sys2Proof.Claims in
/-- A power-on that meets nothing bad ends READY with the recorded partitions TAINTED or FAULTED, the stored cap class
in force and a RESET_RECORD in the log; without a verifying image or known answers it ends part-fatal; without 48 V it
waits at step 4 and goes on when 48 V comes. A warm reset by pin holds the part, one by command runs through; the
release of the pin lets it go on. EASEL_FAULT takes every partition and is kept in NVM. A stack above 85 degrees
refreshes at double rate until below 83, and each crossing upwards is logged. An uncorrectable line found by patrol
scrubbing is poisoned. A failed pseudo-channel degrades its tile and takes its partition. -/
def Obligations.BringUpAndMemory : Prop :=
  (∀ (s : State) (o : BootObs),
    (goodBoot s o → ∃ t, exec (.powerOn o) s = .next t ∧ Ready t ∧ Recorded s t ∧ t.power.cls = s.nvm.settings.capClass.toNat ∧
      t.settings = s.nvm.settings ∧ ∃ e ∈ t.log.buf, e.code = 0x000C ∧ e.detail = 0) ∧
    (o.kat = true → o.missed = none → o.factory = false → noImage s o → ∃ t, exec (.powerOn o) s = .next t ∧
      t.boot.fatal = some 0x300D ∧ t.serves = false) ∧
    (o.kat = false → o.missed = none → o.factory = false → ∃ t, exec (.powerOn o) s = .next t ∧ t.boot.fatal = some 0x3809 ∧
      t.serves = false) ∧
    (goodBoot s { o with supply48 := true } → o.supply48 = false → ∃ t, exec (.powerOn o) s = .next t ∧ t.boot.step = 3 ∧
      t.boot.fatal = none ∧ t.serves = false) ∧
    (s.boot.standby = true → s.boot.step = 3 → s.boot.fatal = none → s.boot.supply48 = false → s.boot.easelDead = false →
      s.boot.held = false → o.missed = none → ∃ t, exec (.supply48vInRange o) s = .next t ∧ Ready t) ∧
    (s.boot.step ≠ 3 ∨ s.boot.supply48 = true → ∃ t, exec (.supply48vInRange o) s = .next t ∧ t.boot.supply48 = true ∧
      { t with boot := s.boot, power := s.power, free := s.free } = s)) ∧
  (∀ (s : State) (o : BootObs),
    (∀ pin, s.boot.standby = false ∨ s.boot.held = true → exec (.warmReset pin o) s = .next s) ∧
    (s.boot.standby = true → s.boot.held = false → s.jtagHolds = false →
      (∃ t, exec (.warmReset true o) s = .next t ∧ Down s t ∧ t.boot.held = true) ∧
      (s.boot.warmPending = false → exec (.warmReset false o) s = .next s) ∧
      (s.boot.warmPending = true → goodBoot s o → ∃ t, exec (.warmReset false o) s = .next t ∧ Ready t ∧ Recorded s t)) ∧
    (s.boot.held = false → exec (.warmResetNRelease o) s = .next s) ∧
    (s.boot.held = true → s.jtagHolds = false → s.boot.easelDead = false → s.boot.fatal = none → goodBoot s o →
      ∃ t, exec (.warmResetNRelease o) s = .next t ∧ Ready t) ∧
    (∀ up, exec (.mgmtPhyInt up) s = .next { s with pins := { s.pins with phyLink := up } }) ∧
    ∀ core, (s.boot.easelDead = true ∨ 3 < core ∨ s.boot.step < 3 → exec (.easelFault core) s = .next s) ∧
      (s.boot.easelDead = false → core ≤ 3 → 3 ≤ s.boot.step → ∃ t, exec (.easelFault core) s = .next t ∧ t.boot.easelDead = true ∧
        t.boot.fatal = some 0x300B ∧ t.nvm.easelFault = true ∧ t.serves = false ∧ t.pins.pwrOk = false ∧
        ∀ pid, (s.part pid).isSome = true → FaultedAt t pid)) ∧
  (∀ (s : State) (k : Nat) (c : Int),
    (¬hasStack s k → exec (.hbmRefresh k c) s = .next s) ∧
    (hasStack s k → ∃ t, exec (.hbmRefresh k c) s = .next t ∧ (85 < c → k ∈ t.power.doubled) ∧ (c < 83 → k ∉ t.power.doubled) ∧
      (83 ≤ c → c ≤ 85 → t.power.doubled = s.power.doubled) ∧ (k ∈ t.power.hot ↔ 85 < c) ∧
      (85 < c → k ∉ s.power.hot → Logged s t 0x0305) ∧ (c ≤ 85 ∨ k ∈ s.power.hot → t.log = s.log) ∧
      Quiet s { t with power := { t.power with hot := s.power.hot, doubled := s.power.doubled } })) ∧
  (∀ (s : State) (a : Nat), a / 0x4000000000 ≤ 15 → hasStack s (hbmChannel s.model a).1 →
    ((variantStacks s.model).testBit 1 = true ∨ a.testBit 37 = false) → 6 ≤ s.boot.step → s.boot.fatal = none →
    ((∀ q ∈ s.parts, q.2.state ≠ .running) → exec (.patrolScrub a .good) s = .next s) ∧
    (∀ rd, rd ≠ .uncorrectable → ∃ t, exec (.patrolScrub a rd) s = .next t ∧ Quiet s (sameTraffic s t)) ∧
    ∃ t, exec (.patrolScrub a .uncorrectable) s = .next t ∧ a / 64 ∈ t.poison ∧ (s.log.used < 4095 → Logged s t 0x0303) ∧
      Quiet s { sameTraffic s t with poison := s.poison, free := s.free } ∧ ∀ l ∈ t.poison, l = a / 64 ∨ l ∈ s.poison) ∧
  ∀ (s : State) (k c : Nat),
    (s.boot.step < 6 ∨ s.boot.fatal ≠ none ∨ ¬hasStack s k ∨ 64 ≤ c ∨ 64 * k + c ∈ s.power.failedChannels →
      exec (.hbmChannelFailed k c) s = .next s) ∧
    (6 ≤ s.boot.step → s.boot.fatal = none → hasStack s k → c < 64 → 64 * k + c ∉ s.power.failedChannels → ∃ t,
      exec (.hbmChannelFailed k c) s = .next t ∧ 64 * k + c ∈ t.power.failedChannels ∧ k / 2 ∈ t.power.degraded ∧ t.mem = s.mem ∧
      ∀ pid, s.ownerOf (k / 2) = some pid → (s.part pid).isSome = true → FaultedAt t pid)

namespace Sys2Proof.Claims

open Sys2Proof Sys2Proof.Machine

/-- The monitor takes the line: it is enabled, the part is READY, and its Easel cores answer (19 R497, R499). -/
def monOn (s : State) : Prop := s.mon.enabled = true ∧ 9 ≤ s.boot.step ∧ s.boot.easelDead = false

/-- The state after the echo of a line. -/
def echoed (s : State) (l : MonLine) : State := s.emit (.line "ECHO" [(l.len : Int)])

/-- The command leaves `t`, and then the lines go out as the transmit buffer has room (19 R502). -/
def Prints (s : State) (i : Instr) (l : MonLine) (t : State) (lines : List MonOut) : Prop :=
  exec i s = .next (State.sayAll l.fits lines t)

/-- The command only shows lines, OK last. -/
def Shows (s : State) (i : Instr) (l : MonLine) (lines : List MonOut) : Prop :=
  Prints s i l (echoed s l) (lines ++ [("OK", [])])

/-- Only the free values and the log differ, and what endpoints count of it. -/
def sameBut (s t : State) : Prop := { t with free := s.free, log := s.log, eps := s.eps, out := s.out } = s

/-- The JTAG port shifts, and its instruction does not hold the part in reset. -/
def jtagFree (s : State) : Prop := s.boot.standby = true ∧ s.jtagHolds = false

/-- An instruction that the lockout bars: BYPASS is loaded and nothing else of the port changes (15 R423, 19 R506). -/
def Barred (s : State) (i : Instr) : Prop :=
  ∃ t, exec i s = .next t ∧ t.jtag.ir = 0xFF ∧ t.jtag.select = s.jtag.select ∧ t.boot = s.boot ∧ t.parts = s.parts ∧ t.mem = s.mem

/-- A code is loaded into the instruction register. -/
def withIr (s : State) (c : Byte) : State := { s with jtag := { s.jtag with ir := c } }

end Sys2Proof.Claims

open Sys2Proof Sys2Proof.Machine Sys2Proof.Claims in
/-- Where the monitor is off or the part not READY every line is ignored. It echoes a line, answers one over 80
characters ERR LENGTH and wrong arguments ERR SYNTAX, and otherwise shows what the command names: at most 64 entries
of the log, at most 16 errors, the counter record of a block. Under the debug lockout perf and prof are LOCKED and
temp shows four values in steps of 5. prof sets a stream on a block of a partition. A line without room is dropped and
counted. IDCODE, SAMPLE/PRELOAD, DEBUG_READ and BYPASS load their codes and shift out; EXTEST, CLAMP and HIGHZ take
the part into warm reset; under the lockout these and the debug instructions load BYPASS. -/
def Obligations.MonitorAndJtag : Prop :=
  (∀ (s : State) (l : MonLine) (b : Bool), ¬monOn s → ∀ i ∈ [Instr.monitorHelp l, .monitorIdent l, .monitorStatus l, .monitorLog l,
    .monitorLink l, .monitorPorts l, .monitorTemp l, .monitorPower l, .monitorErrors l, .monitorPerf l, .monitorProf l,
    .monitorProfOff l, .monitorProfPrint b], exec i s = .next s) ∧
  (∀ (s : State) (l : MonLine), monOn s →
    (80 < l.len → ∀ i ∈ [Instr.monitorHelp l, .monitorIdent l, .monitorStatus l, .monitorLog l, .monitorLink l, .monitorPorts l,
      .monitorTemp l, .monitorPower l, .monitorErrors l, .monitorPerf l, .monitorProf l, .monitorProfOff l],
      Prints s i l (echoed s l) [("ERR LENGTH", [])]) ∧
    (l.len ≤ 80 → l.args ≠ [] → ∀ i ∈ [Instr.monitorHelp l, .monitorIdent l, .monitorStatus l, .monitorTemp l, .monitorPower l,
      .monitorErrors l, .monitorProfOff l], Prints s i l (echoed s l) [("ERR SYNTAX", [])]) ∧
    (l.len ≤ 80 → l.args = [] →
      (∃ lines, lines.length = 12 ∧ Shows s (.monitorHelp l) l lines) ∧
      (∃ r, Shows s (.monitorIdent l) l [("ident", r)]) ∧
      (∃ lines, lines.length = 1 + s.parts.length ∧ Shows s (.monitorStatus l) l lines) ∧
      (∃ lines, lines.length ≤ 64 ∧ Shows s (.monitorLog l) l lines) ∧
      (∃ lines, lines.length = 64 ∧ Shows s (.monitorLink l) l lines) ∧
      (∃ lines, lines.length = 64 + (s.parts.flatMap fun q => q.2.flagged).length ∧ Shows s (.monitorPorts l) l lines) ∧
      (∃ lines, Shows s (.monitorTemp l) l lines ∧ (s.lockout = true → lines.length ≤ 4 ∧
        ∀ x ∈ lines, ∃ k c : Int, x = ("hottest", [k, c]) ∧ c % 5 = 0)) ∧
      (∃ t lines, Prints s (.monitorPower l) l t (lines ++ [("OK", [])]) ∧ sameBut (echoed s l) t ∧
        lines.length = 1 + (if s.lockout then (s.parts.filter fun q => !q.2.dark).length else s.parts.length)) ∧
      (∃ lines, lines.length ≤ 16 ∧ Shows s (.monitorErrors l) l lines) ∧
      Prints s (.monitorProfOff l) l { echoed s l with mon := { s.mon with prof := none } } [("OK", [])]) ∧
    (∀ n, l.len ≤ 80 → l.args = [n] →
      (∃ lines, lines.length ≤ Nat.min 64 n ∧ Shows s (.monitorLog l) l lines) ∧
      (n < 64 → (∃ r, Shows s (.monitorLink l) l [("link", r)]) ∧ ∃ r, Shows s (.monitorPorts l) l [("ports", (n : Int) :: r)]) ∧
      (64 ≤ n → Prints s (.monitorLink l) l (echoed s l) [("ERR SYNTAX", [])] ∧
        Prints s (.monitorPorts l) l (echoed s l) [("ERR SYNTAX", [])]) ∧
      (n ≤ 575 → (s.lockout = false → Shows s (.monitorPerf l) l [("perf", (s.block n).perfSnap.map fun (w : Nat) => (w : Int))]) ∧
        (s.lockout = true → ∃ t, Prints s (.monitorPerf l) l t [("ERR LOCKED", [])] ∧ sameBut (echoed s l) t)) ∧
      (576 ≤ n → Prints s (.monitorPerf l) l (echoed s l) [("ERR SYNTAX", [])])) ∧
    (∀ b k, l.len ≤ 80 → l.args = [b, k] → b ≤ 575 → 0 < k → k ≤ 65535 →
      (s.lockout = true → ∃ t, Prints s (.monitorProf l) l t [("ERR LOCKED", [])] ∧ sameBut (echoed s l) t) ∧
      (s.lockout = false → s.ownerOf (b / 36) ≠ none → Prints s (.monitorProf l) l { echoed s l with
        mon := { s.mon with prof := some (b, k, k) } } [("OK", [])]))) ∧
  (∀ (s : State) (b k n : Nat) (room : Bool), monOn s → s.mon.prof = some (b, k, n) →
    (s.lockout = true ∨ s.ownerOf (b / 36) = none → exec (.monitorProfPrint room) s = .next
      (State.say { s with mon := { s.mon with prof := none } } room ("ERR LOCKED", []))) ∧
    (s.lockout = false → s.ownerOf (b / 36) ≠ none → n ≠ 0 → exec (.monitorProfPrint room) s = .next s) ∧
    (s.lockout = false → s.ownerOf (b / 36) ≠ none → n = 0 → exec (.monitorProfPrint room) s = .next
      (State.say { s with mon := { s.mon with prof := some (b, k, k) } } room ("perf", (s.block b).perfSnap.map fun (w : Nat) => (w : Int))))) ∧
  (∀ (s : State) (x : MonOut), s.say false x = { s with mon := { s.mon with dropped := s.mon.dropped + 1 } } ∧
    (s.mon.dropped = 0 → s.say true x = s.emit (.line x.1 x.2)) ∧
    (s.mon.dropped ≠ 0 → (s.say true x).mon.dropped = 0 ∧
      (s.say true x).out = .line x.1 x.2 :: .line "DROPPED" [(s.mon.dropped : Int)] :: s.out)) ∧
  (∀ (s : State) (o : BootObs) (pins : BitVec 64) (v : BitVec 16) (c : Byte), s.boot.standby = false → ∀ i ∈ [Instr.tapReset o, .extest,
    .idcode o, .samplePreload pins o, .clamp, .highz, .debugSelect v o, .debugRead o, .bypass c o], exec i s = .next s) ∧
  (∀ (s : State) (o : BootObs), jtagFree s →
    exec (.tapReset o) s = .next (withIr s 0x01) ∧
    (∃ t m, exec (.idcode o) s = .next t ∧ t.jtag.ir = 0x01 ∧ t.out = .tdo (s.id.stepping.toNat % 16 * 2 ^ 28 + m * 2 ^ 12 +
      s.id.jep106.toNat * 2 + 1) :: s.out ∧ (s.model = .zx960 → m = 0x960) ∧ t.parts = s.parts) ∧
    (∀ pins, ∃ t, exec (.samplePreload pins o) s = .next t ∧ t.jtag.ir = 0x02 ∧ t.out = .tdo pins.toNat :: s.out ∧ t.parts = s.parts) ∧
    (∀ c, (c ≠ 0x00 ∧ c ≠ 0x04 ∧ c ≠ 0x05 ∧ c ≠ 0x20 ∧ c ≠ 0x21) ∨ s.lockout = false → ∃ t, exec (.bypass c o) s = .next t ∧
      t.jtag.ir = 0xFF ∧ t.out = .tdo 0 :: s.out ∧ t.parts = s.parts) ∧
    (s.lockout = true → ∀ v, Barred s .extest ∧ Barred s .clamp ∧ Barred s .highz ∧ Barred s (.debugSelect v o) ∧
      Barred s (.debugRead o)) ∧
    (s.lockout = false →
      (∀ v : BitVec 16, exec (.debugSelect v o) s = .next { s with jtag := { s.jtag with
        ir := 0x20, select := if v.toNat % 1024 < 576 then some (v.toNat % 1024) else none } }) ∧
      (∃ t d, exec (.debugRead o) s = .next t ∧ t.jtag.ir = 0x21 ∧ t.out = .tdo d :: s.out ∧ t.parts = s.parts ∧
        (s.jtag.select = none → d = 0) ∧ ∀ b, s.jtag.select = some b → (s.block b).perfSnap.length = 16 →
          (∀ w ∈ (s.block b).perfSnap, w < 2 ^ 64) → ∀ k < 16, d / 2 ^ (64 * k) % 2 ^ 64 = (s.block b).perfSnap.getD k 0) ∧
      (s.boot.held = false → ∀ x ∈ [(Instr.extest, (0x00 : Byte)), (.clamp, 0x04), (.highz, 0x05)], ∃ t, exec x.1 s = .next t ∧
        t.jtag.ir = x.2 ∧ Down s t))) ∧
  ∀ (s : State) (o : BootObs), s.boot.standby = true → s.jtagHolds = true → s.boot.held = false → s.boot.easelDead = false →
    s.boot.fatal = none → goodBoot s o → ∃ t, exec (.tapReset o) s = .next t ∧ t.jtag.ir = 0x01 ∧ Ready t
end

