-- ==== Sys2Proof/Laws/Command.lean ====
section
/-! SUPPORT. What an accepted mailbox command does, and what an issuing bundle operation does: each once, for every meaning. -/

namespace Sys2Proof.Machine

/-- The body of an accepted command runs on the state of its acceptance, and its answer completes it. -/
theorem runCmd_accepts {s s1 : State} {e : Envelope} {c : CmdSpec} {t : Option Nat} (body : State → Option Nat → Answer)
    (h : Accepts s e c s1 t) : runCmd s e c body = finish e s1.log.next (body s1 t) := by
  obtain ⟨ha, hp⟩ := h
  have hb : runBody s1 e c body = finish e s1.log.next (body s1 t) := by
    unfold runBody
    simp only [hp]
    rfl
  rw [← hb]
  unfold State.admitted at ha
  unfold runCmd
  by_cases hs : (!s.serves) = true
  · rw [if_pos hs] at ha; cases ha
  · rw [if_neg hs] at ha ⊢
    cases hm : s.mboxOf e.route with
    | none => simp [hm] at ha
    | some m =>
      simp only [hm] at ha ⊢
      cases hr : e.route with
      | fn h k =>
        simp only [hr] at ha ⊢
        by_cases htee : s.teeFails h k e.tee = true
        · rw [if_pos htee] at ha; cases ha
        · rw [if_neg htee] at ha ⊢
          by_cases hbusy : m.state = .running ∨ e.doorbell ≠ e.seq ∨ m.lastSeq = some e.seq
          · rw [if_pos hbusy] at ha; cases ha
          · rw [if_neg hbusy] at ha ⊢
            exact congrArg (fun x => runBody x e c body) (Option.some.inj ha)
      | session n =>
        simp only [hr] at ha ⊢
        by_cases hrun : m.state = .running
        · rw [if_pos hrun] at ha; cases ha
        · rw [if_neg hrun] at ha
          rw [if_neg (fun hx => hrun hx.1), if_neg hrun]
          exact congrArg (fun x => runBody x e c body) (Option.some.inj ha)

/-- An operation that issues, and that no check stops, has its effect and is counted. -/
theorem runSlot_issues {s s1 : State} {i : Issue} {slot : Nat} {c : Ctx} {bits : List (Nat × Bool)}
    {checks : State → Ctx → List (Nat × Bool)} {eff skip : State → Ctx → State} (h : Issues s i slot c s1)
    (hb : firstCause bits = none) (hc : firstCause (checks s1 c) = none) :
    runSlot s i slot false bits checks eff skip = (eff s1 c).countSlot c := by
  obtain ⟨s0, ho, rfl, hp⟩ := h
  simp [runSlot, ho, hb, hp, hc]

/-- The same for an operation that issues whatever its predicate is. -/
theorem runSlot_issuesAlways {s s1 : State} {i : Issue} {slot : Nat} {c : Ctx} {bits : List (Nat × Bool)}
    {checks : State → Ctx → List (Nat × Bool)} {eff skip : State → Ctx → State} (h : IssuesAlways s i slot c s1)
    (hb : firstCause bits = none) (hc : firstCause (checks s1 c) = none) :
    runSlot s i slot true bits checks eff skip = (eff s1 c).countSlot c := by
  unfold IssuesAlways at h
  simp [runSlot, h, hb, hc]

/-- A check that fails raises ILLEGAL_BUNDLE with its cause (05 R151). -/
theorem runSlot_illegal {s s1 : State} {i : Issue} {slot k : Nat} {c : Ctx} {bits : List (Nat × Bool)}
    {checks : State → Ctx → List (Nat × Bool)} {eff skip : State → Ctx → State} (h : Issues s i slot c s1)
    (hb : firstCause bits = some k) :
    runSlot s i slot false bits checks eff skip = illegal s1 c k := by
  obtain ⟨s0, ho, rfl, _⟩ := h
  simp [runSlot, ho, hb]

end Sys2Proof.Machine
end

