-- ==== Sys2Proof/Laws/Tables.lean ====
section
/-! SUPPORT. Reading a sparse table or an item of the state after it has been set. -/

namespace Sys2Proof.Machine

@[simp] theorem fmGet_fmSet_self {α : Type} (m : FMap α) (k : Nat) (v : α) : fmGet (fmSet m k v) k = some v := by
  induction m with
  | nil => simp [fmSet, fmGet]
  | cons p rest ih =>
    obtain ⟨j, w⟩ := p
    unfold fmSet
    split
    · simp [fmGet]
    · split
      · simp [fmGet]
      · rename_i h1 h2
        simp [fmGet, h1, h2, ih]

theorem fmGet_fmSet_ne {α : Type} (m : FMap α) {k j : Nat} (v : α) (h : j ≠ k) : fmGet (fmSet m k v) j = fmGet m j := by
  induction m with
  | nil => simp [fmSet, fmGet, h]
  | cons p rest ih =>
    obtain ⟨i, w⟩ := p
    unfold fmSet
    split
    · rename_i hk
      simp only [fmGet]
      by_cases hj : j < k
      · rw [if_pos hj, if_pos (Nat.lt_trans hj hk)]
      · rw [if_neg hj, if_neg h]
    · split
      · rename_i h1 h2
        subst h2
        simp only [fmGet]
        by_cases hj : j < k
        · rw [if_pos hj, if_pos hj]
        · rw [if_neg hj, if_neg h, if_neg hj, if_neg h]
      · simp only [fmGet, ih]

/-- Values changed one by one. -/
theorem fmGet_map {α β : Type} (m : FMap α) (g : Nat → α → β) (k : Nat) :
    fmGet (m.map fun q => (q.1, g q.1 q.2)) k = (fmGet m k).map (g k) := by
  induction m with
  | nil => rfl
  | cons p rest ih =>
    obtain ⟨j, v⟩ := p
    simp only [List.map_cons, fmGet]
    split
    · rfl
    · split
      · rename_i h; subst h; rfl
      · exact ih

section
variable (s : State)

@[simp] theorem State.setBlock_block_self (b : Nat) (x : Block) : (s.setBlock b x).block b = x := by
  simp [State.block, State.setBlock, fmGetD]
theorem State.setBlock_block_ne {b a : Nat} (x : Block) (h : a ≠ b) : (s.setBlock b x).block a = s.block a := by
  simp [State.block, State.setBlock, fmGetD, fmGet_fmSet_ne _ _ h]
@[simp] theorem State.updBlock_block_self (b : Nat) (f : Block → Block) : (s.updBlock b f).block b = f (s.block b) := by
  simp [State.updBlock]
theorem State.updBlock_block_ne {b a : Nat} (f : Block → Block) (h : a ≠ b) : (s.updBlock b f).block a = s.block a :=
  s.setBlock_block_ne _ h
@[simp] theorem State.updCell_cell_self (b : Nat) (f : Cell → Cell) : (s.updCell b f).cell b = f (s.cell b) := by
  simp [State.updCell, State.setCell, State.cell, fmGetD]
theorem State.updCell_cell_ne {b a : Nat} (f : Cell → Cell) (h : a ≠ b) : (s.updCell b f).cell a = s.cell a := by
  simp [State.updCell, State.setCell, State.cell, fmGetD, fmGet_fmSet_ne _ _ h]
@[simp] theorem State.setPart_part_self (p : Nat) (x : Partition) : (s.setPart p x).part p = some x := by
  simp [State.part, State.setPart]
theorem State.setPart_part_ne {p q : Nat} (x : Partition) (h : q ≠ p) : (s.setPart p x).part q = s.part q := by
  simp [State.part, State.setPart, fmGet_fmSet_ne _ _ h]
theorem State.updPart_part_self (p : Nat) (f : Partition → Partition) : (s.updPart p f).part p = (s.part p).map f := by
  unfold State.updPart State.part
  cases h : fmGet s.parts p with
  | none => simp [h]
  | some x => simp [State.setPart]
theorem State.updPart_part_ne {p q : Nat} (f : Partition → Partition) (h : q ≠ p) : (s.updPart p f).part q = s.part q := by
  unfold State.updPart
  cases fmGet s.parts p with
  | none => rfl
  | some x => exact s.setPart_part_ne _ h
@[simp] theorem State.updEp_endpoint_self (h : Nat) (f : Endpoint → Endpoint) : (s.updEp h f).endpoint h = f (s.endpoint h) := by
  simp [State.updEp, State.endpoint, fmGetD]
theorem State.updEp_endpoint_ne {h g : Nat} (f : Endpoint → Endpoint) (hg : g ≠ h) : (s.updEp h f).endpoint g = s.endpoint g := by
  simp [State.updEp, State.endpoint, fmGetD, fmGet_fmSet_ne _ _ hg]
@[simp] theorem State.updFunc_func_self (h k : Nat) (f : Func → Func) : (s.updFunc h k f).func h k = f (s.func h k) := by
  simp [State.updFunc, State.func, fmGetD]
@[simp] theorem State.updPort_port_self (q : Nat) (f : Port → Port) : (s.updPort q f).port q = f (s.port q) := by
  simp [State.updPort, State.port, fmGetD]
@[simp] theorem State.updTx_txOf_self (q : Nat) (f : PortTx → PortTx) : (s.updTx q f).txOf q = f (s.txOf q) := by
  simp [State.updTx, State.txOf, fmGetD]
@[simp] theorem State.updDie_die_self (q : Nat) (f : Die → Die) : (s.updDie q f).die q = f (s.die q) := by
  simp [State.updDie, State.die, fmGetD]

end

end Sys2Proof.Machine
end

