-- ==== Sys2Proof/Laws/Report.lean ====
section
/-! SUPPORT. Log entries, interrupts, hazard records and fatal faults of an Exposure change nothing else. -/

namespace Sys2Proof.Machine

theorem Reports.refl (s : State) : Reports s s := ⟨rfl, fun _ => rfl, fun _ => rfl, fun _ => rfl⟩

theorem Reports.trans {s t u : State} (h : Reports s t) (k : Reports t u) : Reports s u := by
  refine ⟨?_, fun x => (k.block x).trans (h.block x), fun r => (k.region r).trans (h.region r),
    fun p => (k.part p).trans (h.part p)⟩
  have hk := k.same
  have hh := h.same
  rw [← hk] at hh
  exact hh

/-- A change of parts, endpoints, log and output, with the blocks and regions as they were. -/
theorem Reports.of {s t : State} (hb : t.blocks = s.blocks) (hr : t.regions = s.regions)
    (hs : { t with parts := s.parts, eps := s.eps, log := s.log, out := s.out } = s)
    (hp : ∀ p, (t.part p).map Partition.quiet = (s.part p).map Partition.quiet) : Reports s t := by
  refine ⟨?_, fun x => by simp [State.block, hb], fun r => by simp [State.region, hr], hp⟩
  rw [← hb, ← hr]
  exact hs

theorem emit_reports (s : State) (o : OutEv) : Reports s (s.emit o) := .of rfl rfl rfl fun _ => rfl
theorem updEp_reports (s : State) (h : Nat) (f : Endpoint → Endpoint) : Reports s (s.updEp h f) := .of rfl rfl rfl fun _ => rfl
theorem updFunc_reports (s : State) (h k : Nat) (f : Func → Func) : Reports s (s.updFunc h k f) := updEp_reports ..
theorem log_reports (s : State) (l : Log) : Reports s { s with log := l } := .of rfl rfl rfl fun _ => rfl

theorem updPart_reports (s : State) (p : Nat) (f : Partition → Partition) (hf : ∀ x, (f x).quiet = x.quiet) :
    Reports s (s.updPart p f) := by
  have hd : (s.updPart p f).blocks = s.blocks ∧ (s.updPart p f).regions = s.regions ∧
      { s.updPart p f with parts := s.parts, eps := s.eps, log := s.log, out := s.out } = s := by
    unfold State.updPart
    split <;> exact ⟨rfl, rfl, rfl⟩
  refine .of hd.1 hd.2.1 hd.2.2 fun q => ?_
  by_cases hq : q = p
  · subst hq
    rw [State.updPart_part_self]
    cases s.part q with
    | none => rfl
    | some x => exact congrArg some (hf x)
  · rw [State.updPart_part_ne _ _ hq]

theorem sendVector_reports (s : State) (h k v : Nat) : Reports s (s.sendVector h k v) := by
  unfold State.sendVector
  simp only
  split
  · exact updFunc_reports ..
  · exact emit_reports ..

theorem setCause_reports (s : State) (h k n : Nat) : Reports s (s.setCause h k n) := by
  unfold State.setCause
  split
  · exact .refl s
  · simp only
    split
    · exact updFunc_reports ..
    · exact (updFunc_reports ..).trans (sendVector_reports ..)

theorem noteEntry_reports (s : State) (code part n : Nat) : Reports s (s.noteEntry code part n) := by
  unfold State.noteEntry
  simp only
  have tail (t : State) : Reports t (if code / 4096 = 2 ∨ code / 4096 = 3 then (t.setCause 0 0 6).setCause 1 0 6 else t) := by
    split
    · exact (setCause_reports ..).trans (setCause_reports ..)
    · exact .refl t
  refine Reports.trans ?_ (tail _)
  split
  · exact .refl s
  · by_cases h0 : code / 4096 = 0
    · simp only [h0, if_true]
      exact updFunc_reports ..
    · simp only [h0, if_false]
      refine Reports.trans ?_ (setCause_reports ..)
      refine Reports.trans ?_ (updFunc_reports ..)
      exact updPart_reports _ _ _ fun _ => rfl

theorem logEv_reports (s : State) (code part : Nat) (u : LogUnit) (d : Nat) (cs : List Bytes) :
    Reports s (s.logEv code part u d cs) := by
  unfold State.logEv
  simp only
  split
  · exact (log_reports ..).trans (noteEntry_reports ..)
  · exact (log_reports ..).trans (noteEntry_reports ..)

theorem countEv_reports (s : State) (code : Nat) (u : LogUnit) : Reports s (s.countEv code u) := log_reports ..

theorem logOnce_reports (s : State) (code part key : Nat) (u : LogUnit) (d : Nat) : Reports s (s.logOnce code part key u d) := by
  unfold State.logOnce
  split
  · exact countEv_reports ..
  · exact (logEv_reports ..).trans (log_reports ..)

/-- What cancelling streams leaves of a block and of a region. -/
theorem cancelStreams_block (s : State) (p : Partition) (x : Nat) :
    ((s.cancelStreams p).block x).still = (s.block x).still := by
  have h : fmGet (s.cancelStreams p).blocks x =
      (fmGet s.blocks x).map (fun v => if p.blockList.contains x then { v with streams := [] } else v) := by
    rw [← fmGet_map s.blocks (fun j v => if p.blockList.contains j then { v with streams := [] } else v)]
    unfold State.cancelStreams
    congr 1
    refine List.map_congr_left fun q _ => ?_
    split <;> rfl
  unfold State.block fmGetD
  rw [h]
  cases fmGet s.blocks x with
  | none => rfl
  | some v =>
    simp only [Option.map_some, Option.getD_some]
    split <;> rfl

theorem cancelStreams_region (s : State) (p : Partition) (r : Nat) :
    ((s.cancelStreams p).region r).still = (s.region r).still := by
  have h : fmGet (s.cancelStreams p).regions r =
      (fmGet s.regions r).map (fun v => if p.tiles.contains (r / 6) then v.still else v) := by
    rw [← fmGet_map s.regions (fun j v => if p.tiles.contains (j / 6) then v.still else v)]
    unfold State.cancelStreams
    congr 1
    refine List.map_congr_left fun q _ => ?_
    split <;> rfl
  unfold State.region fmGetD
  rw [h]
  cases fmGet s.regions r with
  | none => rfl
  | some v =>
    simp only [Option.map_some, Option.getD_some]
    split
    · simp [Region.still, List.filter_filter]
    · rfl

theorem cancelStreams_reports (s : State) (p : Partition) : Reports s (s.cancelStreams p) :=
  ⟨rfl, cancelStreams_block s p, cancelStreams_region s p, fun _ => rfl⟩

theorem countBlockErr_reports (s : State) (code : Nat) (u : LogUnit) : Reports s (s.countBlockErr code u) := by
  unfold State.countBlockErr
  split
  · exact log_reports ..
  · split
    · exact log_reports ..
    · exact .refl s

theorem raiseFatal_reports (s : State) (pid code : Nat) (u : LogUnit) (d t : Nat) : Reports s (s.raiseFatal pid code u d t) := by
  have hl : Reports s ((s.logEv code pid u d).countBlockErr code u) := (logEv_reports ..).trans (countBlockErr_reports ..)
  unfold State.raiseFatal
  simp only
  split
  · exact hl
  · split
    · refine Reports.trans ?_ (cancelStreams_reports ..)
      refine Reports.trans hl ?_
      exact updPart_reports _ _ _ fun _ => rfl
    · exact hl

theorem blockFatal_reports (s : State) (pid bix code d t : Nat) : Reports s (s.blockFatal pid bix code d t) :=
  raiseFatal_reports ..

theorem hazard_reports (s : State) (c : Ctx) (kind writer target early : Nat) : Reports s (hazard s c kind writer target early) := by
  unfold hazard
  split
  · exact .refl s
  · rename_i p hp
    split
    · exact .refl s
    · simp only
      have hset (h : Hazard) : Reports s (s.setPart c.pid { p with hazard := h }) := by
        refine .of rfl rfl rfl fun q => ?_
        by_cases hq : q = c.pid
        · subst hq; rw [State.setPart_part_self, hp]; rfl
        · rw [State.setPart_part_ne _ _ hq]
      have hlog (b : Bool) (t : State) : Reports t (if b = true then t.logEv 0x0440 c.pid (t.blockUnit c.bix c.lg) 0 else t) := by
        split
        · exact logEv_reports ..
        · exact .refl t
      split
      · exact (hset _).trans ((hlog _ _).trans (blockFatal_reports ..))
      · exact (hset _).trans (hlog _ _)

theorem hazVec_reports (c : Ctx) (s : State) (r : BitVec 6) : Reports s (hazVec c s r) := by
  unfold hazVec
  split
  · exact hazard_reports ..
  · exact .refl s

theorem hazDouble_reports (c : Ctx) (due : Nat) (s : State) (r : BitVec 6) : Reports s (hazDouble c due s r) := by
  unfold hazDouble
  split
  · exact hazard_reports ..
  · exact .refl s

theorem hazMask_reports (c : Ctx) (s : State) (k : BitVec 3) : Reports s (hazMask c s k) := by
  unfold hazMask
  split
  · exact hazard_reports ..
  · exact .refl s

theorem hazPred_reports (s : State) (c : Ctx) (t : Nat) : Reports s (hazPred s c t) := by
  unfold hazPred
  split
  · exact hazard_reports ..
  · exact .refl s

theorem hazardIf_reports (b : Bool) (s : State) (c : Ctx) (kind writer target early : Nat) :
    Reports s (hazardIf b s c kind writer target early) := by
  unfold hazardIf
  split
  · exact hazard_reports ..
  · exact .refl s

end Sys2Proof.Machine
end

