-- ==== Sys2Proof/Laws/Lanes.lean ====
section
/-! SUPPORT. What an elementwise operation of the vector unit does, once for all of them. -/

namespace Sys2Proof.Machine

theorem packFields_lt (w : Nat) (xs : List Nat) : packFields w xs < 2 ^ (w * xs.length) := by
  induction xs with
  | nil => simp [packFields]
  | cons x rest ih =>
    have h1 : x % 2 ^ w < 2 ^ w := Nat.mod_lt _ (Nat.two_pow_pos w)
    have h2 : w * (x :: rest).length = w + w * rest.length := by rw [List.length_cons, Nat.mul_succ, Nat.add_comm]
    rw [h2, Nat.pow_add, packFields]
    calc x % 2 ^ w + 2 ^ w * packFields w rest < 2 ^ w + 2 ^ w * packFields w rest := Nat.add_lt_add_right h1 _
      _ = 2 ^ w * (packFields w rest + 1) := by ring
      _ ≤ 2 ^ w * 2 ^ (w * rest.length) := Nat.mul_le_mul_left _ ih

/-- A field of packed fields. -/
theorem field_packFields (w : Nat) (xs : List Nat) (l : Nat) (h : l < xs.length) :
    field w (packFields w xs) l = xs[l] % 2 ^ w := by
  induction xs generalizing l with
  | nil => cases h
  | cons x rest ih =>
    cases l with
    | zero =>
      simp [field, packFields, Nat.add_mul_mod_self_left]
    | succ l =>
      have hl : l < rest.length := Nat.lt_of_succ_lt_succ h
      have hw : 0 < 2 ^ w := Nat.two_pow_pos w
      simp only [List.getElem_cons_succ]
      rw [← ih l hl]
      rw [packFields]
      unfold field
      rw [show w * (l + 1) = w + w * l by ring, Nat.pow_add, ← Nat.div_div_eq_div_mul, Nat.add_mul_div_left _ _ hw,
        Nat.div_eq_of_lt (Nat.mod_lt _ hw), Nat.zero_add]

theorem enablesFold_bit (bytes : Nat) (m : Nat → Bool) (n i : Nat) :
    ((List.range n).foldl (fun (acc : Nat) l => if m l then acc ||| (2 ^ bytes - 1) * 2 ^ (bytes * l) else acc) 0).testBit i =
      (decide (i < bytes * n) && m (i / bytes)) := by
  induction n with
  | zero => simp
  | succ n ih =>
    rw [List.range_succ, List.foldl_append]
    simp only [List.foldl_cons, List.foldl_nil]
    have hstep : ((2 ^ bytes - 1) * 2 ^ (bytes * n)).testBit i = (decide (bytes * n ≤ i) && decide (i - bytes * n < bytes)) := by
      rw [Nat.testBit_mul_two_pow, Nat.testBit_two_pow_sub_one]
    have hs : bytes * (n + 1) = bytes * n + bytes := by ring
    by_cases hlo : i < bytes * n
    · have h1 : i < bytes * (n + 1) := by omega
      split
      · rw [Nat.testBit_or, ih, hstep]; simp [hlo, h1, Nat.not_le.mpr hlo]
      · rw [ih]; simp [hlo, h1]
    · have hlo' : bytes * n ≤ i := Nat.le_of_not_lt hlo
      by_cases hhi : i < bytes * (n + 1)
      · have hd : i / bytes = n := by
          apply Nat.div_eq_of_lt_le
          · rw [Nat.mul_comm]; exact hlo'
          · rw [Nat.mul_comm]; exact hhi
        have h3 : i - bytes * n < bytes := by omega
        split
        · rename_i hm
          rw [Nat.testBit_or, ih, hstep]; simp [hlo', hhi, hd, hm, h3]
        · rename_i hm
          rw [ih]; simp [hlo, hhi, hd, hm]
      · have h3 : ¬ i - bytes * n < bytes := by omega
        split
        · rw [Nat.testBit_or, ih, hstep]; simp [hlo, hhi, h3]
        · rw [ih]; simp [hlo, hhi]

/-- Byte enables follow the lane mask. -/
theorem laneEnables_bit {lanes bytes l j : Nat} (mask : BitVec 512) (hl : l < lanes) (hj : j < bytes)
    (hn : bytes * lanes ≤ 1024) : (laneEnables lanes bytes mask).getLsbD (bytes * l + j) = mask.getLsbD l := by
  have hlt : bytes * l + j < bytes * lanes := by
    calc bytes * l + j < bytes * l + bytes := by omega
      _ = bytes * (l + 1) := by ring
      _ ≤ bytes * lanes := Nat.mul_le_mul_left _ hl
  unfold laneEnables
  rw [BitVec.getLsbD_ofNat, enablesFold_bit]
  have hd : (bytes * l + j) / bytes = l := by
    rw [Nat.mul_add_div (Nat.lt_of_le_of_lt (Nat.zero_le _) hj), Nat.div_eq_of_lt hj, Nat.add_zero]
  simp [hd, hlt, Nat.lt_of_lt_of_le hlt hn]

/-! ### Frames -/

theorem OwnFrame.refl {core : Block → Block} (s : State) (c : Ctx) : OwnFrame core s s c := 
  ⟨rfl, fun _ _ => rfl, rfl, fun _ => rfl, fun _ => rfl⟩

theorem OwnFrame.trans {core : Block → Block} {s t u : State} {c : Ctx} (h : OwnFrame core s t c) (k : OwnFrame core t u c) :
    OwnFrame core s u c := by
  refine ⟨?_, fun x hx => (k.others x hx).trans (h.others x hx), k.own.trans h.own,
    fun r => (k.region r).trans (h.region r), fun p => (k.part p).trans (h.part p)⟩
  have hk := k.same
  have hh := h.same
  rw [← hk] at hh
  exact hh

theorem Reports.vector {s t : State} (h : Reports s t) (c : Ctx) : VectorFrame s t c := by
  refine ⟨?_, fun x _ => h.block x, ?_, h.region, h.part⟩
  · have := h.same
    have hf : t.free = s.free := by have h2 := congrArg State.free this; exact h2
    conv_rhs => rw [← this]
    rw [hf]
  · have := congrArg (fun b : Block => { b with vpend := [], specialFree := 0, convClip := 0, draw := 0, perf := {} }) (h.block c.bix)
    exact this

theorem Reports.vpend {s t : State} (h : Reports s t) (x : Nat) : (t.block x).vpend = (s.block x).vpend := by
  have := congrArg Block.vpend (h.block x); exact this
theorem Reports.mask {s t : State} (h : Reports s t) (x : Nat) (k : BitVec 3) : (t.block x).mask k = (s.block x).mask k := by
  have := congrArg (fun b : Block => b.mask k) (h.block x); exact this
theorem Reports.vreg {s t : State} (h : Reports s t) (x : Nat) (k : BitVec 6) : (t.block x).vreg k = (s.block x).vreg k := by
  have := congrArg (fun b : Block => b.vreg k) (h.block x); exact this

/-- A change of the own block in the fields of the frame. -/
theorem updBlock_own {core : Block → Block} (s : State) (c : Ctx) (f : Block → Block) (hf : ∀ b, core (f b) = core b) :
    OwnFrame core s (s.updBlock c.bix f) c := by
  refine ⟨rfl, fun x hx => by rw [State.updBlock_block_ne _ _ hx], ?_, fun _ => rfl, fun _ => rfl⟩
  rw [State.updBlock_block_self]
  exact hf _

/-- A result on its way. -/
theorem putVec_vpend (s : State) (c : Ctx) (due : Nat) (vd : BitVec 6) (val : Nat) (en : BitVec 1024) :
    ((putVec s c due vd val en).block c.bix).vpend =
      (s.block c.bix).vpend ++ [⟨due, c.t, vd, BitVec.ofNat 8192 val, en, c.addr⟩] := by
  unfold putVec
  simp only [State.updBlock_block_self]
  rw [(hazDouble_reports c due s vd).vpend]

theorem putVec_frame (s : State) (c : Ctx) (due : Nat) (vd : BitVec 6) (val : Nat) (en : BitVec 1024) :
    VectorFrame s (putVec s c due vd val en) c :=
  by
  unfold putVec
  refine OwnFrame.trans ((hazDouble_reports c due s vd).vector c) ?_
  exact updBlock_own _ c _ fun _ => rfl

theorem countSlot_vector (s : State) (c : Ctx) : VectorFrame s (s.countSlot c) c := by
  unfold State.countSlot
  split
  · exact updBlock_own _ c _ fun _ => rfl
  · split
    · exact updBlock_own _ c _ fun _ => rfl
    · exact .refl s c

theorem countSlot_vpend (s : State) (c : Ctx) (x : Nat) : ((s.countSlot c).block x).vpend = (s.block x).vpend := by
  by_cases hx : x = c.bix
  · subst hx
    unfold State.countSlot
    split
    · rw [State.updBlock_block_self]
    · split
      · rw [State.updBlock_block_self]
      · rfl
  · have := congrArg Block.vpend ((countSlot_vector s c).others x hx)
    exact this

theorem takeSpecial_vector (s : State) (c : Ctx) (occ : Nat) : VectorFrame s (takeSpecial s c occ) c := by
  unfold takeSpecial
  split
  · exact .refl s c
  · exact updBlock_own _ c _ fun _ => rfl

theorem takeSpecial_vpend (s : State) (c : Ctx) (occ : Nat) :
    ((takeSpecial s c occ).block c.bix).vpend = (s.block c.bix).vpend ∧
      (∀ k, ((takeSpecial s c occ).block c.bix).mask k = (s.block c.bix).mask k) ∧
      ∀ k, ((takeSpecial s c occ).block c.bix).vreg k = (s.block c.bix).vreg k := by
  unfold takeSpecial
  split
  · exact ⟨rfl, fun _ => rfl, fun _ => rfl⟩
  · rw [State.updBlock_block_self]
    exact ⟨rfl, fun _ => rfl, fun _ => rfl⟩

/-- The lanes of a type fill a register. -/
theorem lane_size (type : BitVec 4) : laneBits type * laneCount type = 8192 ∧ laneBits type / 8 * laneCount type = 1024 := by
  unfold laneBits laneCount
  split <;> exact ⟨rfl, rfl⟩

/-- Packed fields under a lane mask, as a result on its way. -/
theorem putVec_sends {s1 s : State} (h : Reports s1 s) (c : Ctx) (due w : Nat) (vd : BitVec 6) (xs : List Nat) (mask : BitVec 512)
    (hw : w * xs.length ≤ 8192) :
    Sends s1 (putVec s c due vd (packFields w xs) (laneEnables xs.length (w / 8) mask)) c vd due xs.length w mask
      (fun l => xs.getD l 0) := by
  have hb : w / 8 * xs.length ≤ 1024 := by
    have h8 : 8 * (w / 8) ≤ w := Nat.mul_div_le w 8
    have := Nat.mul_le_mul_right xs.length h8
    rw [Nat.mul_assoc] at this
    omega
  refine ⟨⟨due, c.t, vd, BitVec.ofNat 8192 (packFields w xs), laneEnables xs.length (w / 8) mask, c.addr⟩, ?_, rfl, rfl, rfl, ?_, ?_, ?_⟩
  · rw [putVec_vpend, h.vpend]
  · intro l hl j hj
    exact laneEnables_bit _ hl hj hb
  · intro k hk
    simp only [laneEnables]
    rw [BitVec.getLsbD_ofNat, enablesFold_bit]
    simp [Nat.not_lt.mpr hk]
  · intro l hl _
    have hlt := Nat.lt_of_lt_of_le (packFields_lt w xs) (Nat.pow_le_pow_right (by decide : 0 < 2) hw)
    rw [BitVec.toNat_ofNat, Nat.mod_eq_of_lt hlt, field_packFields _ _ _ hl]
    simp [List.getD_eq_getElem?_getD, hl]

/-- An elementwise operation sends its lanes to vd, and changes nothing else. -/
theorem laneOp_sends (f : VecF) (latency : Nat) (op : Nat → Nat → Nat → Nat → Nat) (srcs : Nat) (s : State) (c : Ctx) :
    Sends s (laneOp f latency op srcs s c) c f.vd (c.t + latency) (laneCount f.type) (laneBits f.type)
      ((s.block c.bix).mask f.km)
      (fun l => op l ((s.block c.bix).lane f.type f.va l) ((s.block c.bix).lane f.type f.vb l)
        ((s.block c.bix).lane f.type f.vc l)) ∧
    VectorFrame s (laneOp f latency op srcs s c) c := by
  have hr : ∀ (b : Bool) (t : State) (r : BitVec 6), Reports t (if b = true then hazVec c t r else t) := by
    intro b t r
    split
    · exact hazVec_reports ..
    · exact .refl t
  unfold laneOp
  simp only
  generalize hs3 : hazMask c _ f.km = s3
  have h3 : Reports s s3 := by
    rw [← hs3]
    refine Reports.trans ?_ (hazMask_reports ..)
    have a := hr (decide (1 ≤ srcs)) s f.va
    have b := hr (decide (2 ≤ srcs)) (if decide (1 ≤ srcs) = true then hazVec c s f.va else s) f.vb
    have d := hr (decide (3 ≤ srcs))
      (if decide (2 ≤ srcs) = true then hazVec c (if decide (1 ≤ srcs) = true then hazVec c s f.va else s) f.vb
        else (if decide (1 ≤ srcs) = true then hazVec c s f.va else s)) f.vc
    simpa only [decide_eq_true_eq] using a.trans (b.trans d)
  refine ⟨?_, (h3.vector c).trans (putVec_frame ..)⟩
  generalize hxs : List.map _ (List.range (laneCount f.type)) = xs
  have hlen : xs.length = laneCount f.type := by simp [← hxs]
  have hw := (lane_size f.type).1
  rw [← hlen] at hw ⊢
  obtain ⟨v, h1, h2, h4, h5, h6, h8, h7⟩ := putVec_sends h3 c (c.t + latency) (laneBits f.type) f.vd xs
    ((s.block c.bix).mask f.km) (Nat.le_of_eq hw)
  refine ⟨v, h1, h2, h4, h5, h6, h8, fun l hl hm => ?_⟩
  rw [h7 l hl hm]
  have hl' : l < laneCount f.type := hlen ▸ hl
  have : xs.getD l 0 = op l ((s.block c.bix).lane f.type f.va l) ((s.block c.bix).lane f.type f.vb l)
      ((s.block c.bix).lane f.type f.vc l) := by
    rw [← hxs]
    simp [List.getD_eq_getElem?_getD, hl', hm, Block.lane]
  simp only [this]

/-- A vector operation that issues: the special unit is taken, then it has its effect and is counted. -/
theorem runV_issues {s s1 : State} {i : Issue} {c : Ctx} {bits : List (Nat × Bool)} {occ : State → Ctx → Nat}
    {eff : State → Ctx → State} (h : Issues s i 3 c s1) (hb : firstCause bits = none)
    (hfree : occ s1 c = 0 ∨ (s1.block c.bix).specialFree ≤ c.t) :
    runV i bits occ eff s = (eff (takeSpecial s1 c (occ s1 c)) c).countSlot c := by
  unfold runV
  refine runSlot_issues h hb ?_
  have : (decide (0 < occ s1 c) && decide (c.t < (s1.block c.bix).specialFree)) = false := by
    rcases hfree with h0 | h0
    · simp [h0]
    · simp [Nat.not_lt.mpr h0]
  simp [firstCause, this]

/-- An elementwise operation that issues. -/
theorem runV_laneOp {s s1 : State} {i : Issue} {c : Ctx} {bits : List (Nat × Bool)} {occ : State → Ctx → Nat} {f : VecF}
    {latency srcs : Nat} {op : Nat → Nat → Nat → Nat → Nat} (h : Issues s i 3 c s1) (hb : firstCause bits = none)
    (hfree : occ s1 c = 0 ∨ (s1.block c.bix).specialFree ≤ c.t) :
    Sends s1 (runV i bits occ (laneOp f latency op srcs) s) c f.vd (c.t + latency) (laneCount f.type) (laneBits f.type)
      ((s1.block c.bix).mask f.km)
      (fun l => op l ((s1.block c.bix).lane f.type f.va l) ((s1.block c.bix).lane f.type f.vb l)
        ((s1.block c.bix).lane f.type f.vc l)) ∧
    VectorFrame s1 (runV i bits occ (laneOp f latency op srcs) s) c := by
  rw [runV_issues h hb hfree]
  have ht := takeSpecial_vpend s1 c (occ s1 c)
  obtain ⟨⟨v, h1, h2, h3, h4, h5, h8, h6⟩, h7⟩ := laneOp_sends f latency op srcs (takeSpecial s1 c (occ s1 c)) c
  refine ⟨⟨v, ?_, h2, h3, h4, ?_, h8, ?_⟩, ((takeSpecial_vector ..).trans h7).trans (countSlot_vector ..)⟩
  · rw [countSlot_vpend, h1, ht.1]
  · simpa only [ht.2.1] using h5
  · simpa only [ht.2.1, Block.lane, ht.2.2] using h6

end Sys2Proof.Machine
end

