-- ==== Sys2Proof/Laws/Memory.lean ====
section
/-! SUPPORT. The canonical form of memory is kept by every memory operation. -/

namespace Sys2Proof.Machine

theorem memWfFrom_mono {l : List Host.Cell} {j k : Nat} (h : memWfFrom k l = true) (hjk : j ≤ k) : memWfFrom j l = true := by
  cases l with
  | nil => rfl
  | cons p rest =>
    simp only [memWfFrom, Bool.and_eq_true, decide_eq_true_eq] at h ⊢
    exact ⟨⟨Nat.le_trans hjk h.1.1, h.1.2⟩, h.2⟩

/-- The cells below a bound, followed by cells from the bound on. -/
theorem memWfFrom_takeWhile_append {l r : List Host.Cell} {lo a : Nat} (h : memWfFrom lo l = true) (ha : lo ≤ a)
    (hr : memWfFrom a r = true) : memWfFrom lo (l.takeWhile (fun p => decide (p.1 < a)) ++ r) = true := by
  induction l generalizing lo with
  | nil => exact memWfFrom_mono hr ha
  | cons p rest ih =>
    simp only [memWfFrom, Bool.and_eq_true, decide_eq_true_eq] at h
    by_cases hp : p.1 < a
    · simp only [List.takeWhile_cons, hp, decide_true, if_true, List.cons_append, memWfFrom, Bool.and_eq_true, decide_eq_true_eq]
      exact ⟨h.1, ih h.2 hp⟩
    · simp only [List.takeWhile_cons, hp, decide_false, Bool.false_eq_true, if_false, List.nil_append]
      exact memWfFrom_mono hr ha

/-- The cells from a bound on. -/
theorem memWfFrom_dropWhile {l : List Host.Cell} {lo k : Nat} (h : memWfFrom lo l = true) :
    memWfFrom k (l.dropWhile (fun p => decide (p.1 < k))) = true := by
  induction l generalizing lo with
  | nil => rfl
  | cons p rest ih =>
    simp only [memWfFrom, Bool.and_eq_true, decide_eq_true_eq] at h
    by_cases hp : p.1 < k
    · simp only [List.dropWhile_cons, hp, decide_true, if_true]
      exact ih h.2
    · simp only [List.dropWhile_cons, hp, decide_false, Bool.false_eq_true, if_false, memWfFrom, Bool.and_eq_true,
        decide_eq_true_eq]
      exact ⟨⟨Nat.le_of_not_lt hp, h.1.2⟩, h.2⟩

/-- The cells of a byte string, followed by cells from its end on. -/
theorem memWfFrom_memCells_append {r : List Host.Cell} (bs : Bytes) {a : Nat} (hr : memWfFrom (a + bs.length) r = true) :
    memWfFrom a (memCells a bs ++ r) = true := by
  induction bs generalizing a with
  | nil => exact hr
  | cons b rest ih =>
    have hr' : memWfFrom (a + 1 + rest.length) r = true := by
      rw [List.length_cons] at hr
      rwa [Nat.add_assoc, Nat.add_comm 1]
    unfold memCells
    split
    · exact memWfFrom_mono (ih hr') (Nat.le_succ a)
    · rename_i hb
      simp only [List.cons_append, memWfFrom, Bool.and_eq_true, decide_eq_true_eq, bne_iff_ne, ne_eq]
      exact ⟨⟨Nat.le_refl a, hb⟩, ih hr'⟩

theorem memWrite_wf {m : List Host.Cell} (h : memWf m = true) (a : Nat) (bs : Bytes) : memWf (memWrite m a bs) = true := by
  unfold memWf memWrite
  rw [List.append_assoc]
  exact memWfFrom_takeWhile_append h (Nat.zero_le a) (memWfFrom_memCells_append bs (memWfFrom_dropWhile h))

theorem memClear_wf {m : List Host.Cell} (h : memWf m = true) (a n : Nat) : memWf (memClear m a n) = true := by
  unfold memWf memClear
  exact memWfFrom_takeWhile_append h (Nat.zero_le a) (memWfFrom_mono (memWfFrom_dropWhile h) (Nat.le_add_right a n))

theorem State.write_wf {s : State} (h : memWf s.mem = true) (a : Nat) (bs : Bytes) : memWf (s.write a bs).mem = true :=
  memWrite_wf h a bs

theorem reset_memWf : memWf State.reset.mem = true := rfl

end Sys2Proof.Machine
end

