-- ==== Sys2Proof/Laws/State.lean ====
section
/-! SUPPORT. What each update of State leaves alone, field by field. -/

namespace Sys2Proof.Machine

section
variable (s : State)

@[simp] theorem State.setPart_model (p : Nat) (x : Partition) : (s.setPart p x).model = s.model := rfl
@[simp] theorem State.setPart_id (p : Nat) (x : Partition) : (s.setPart p x).id = s.id := rfl
@[simp] theorem State.setPart_nvm (p : Nat) (x : Partition) : (s.setPart p x).nvm = s.nvm := rfl
@[simp] theorem State.setPart_blocks (p : Nat) (x : Partition) : (s.setPart p x).blocks = s.blocks := rfl
@[simp] theorem State.setPart_cells (p : Nat) (x : Partition) : (s.setPart p x).cells = s.cells := rfl
@[simp] theorem State.setPart_tx (p : Nat) (x : Partition) : (s.setPart p x).tx = s.tx := rfl
@[simp] theorem State.setPart_ports (p : Nat) (x : Partition) : (s.setPart p x).ports = s.ports := rfl
@[simp] theorem State.setPart_dies (p : Nat) (x : Partition) : (s.setPart p x).dies = s.dies := rfl
@[simp] theorem State.setPart_bonds (p : Nat) (x : Partition) : (s.setPart p x).bonds = s.bonds := rfl
@[simp] theorem State.setPart_eps (p : Nat) (x : Partition) : (s.setPart p x).eps = s.eps := rfl
@[simp] theorem State.setPart_sessions (p : Nat) (x : Partition) : (s.setPart p x).sessions = s.sessions := rfl
@[simp] theorem State.setPart_lastSession (p : Nat) (x : Partition) : (s.setPart p x).lastSession = s.lastSession := rfl
@[simp] theorem State.setPart_owner (p : Nat) (x : Partition) : (s.setPart p x).owner = s.owner := rfl
@[simp] theorem State.setPart_leaseAt (p : Nat) (x : Partition) : (s.setPart p x).leaseAt = s.leaseAt := rfl
@[simp] theorem State.setPart_settings (p : Nat) (x : Partition) : (s.setPart p x).settings = s.settings := rfl
@[simp] theorem State.setPart_staging (p : Nat) (x : Partition) : (s.setPart p x).staging = s.staging := rfl
@[simp] theorem State.setPart_staged (p : Nat) (x : Partition) : (s.setPart p x).staged = s.staged := rfl
@[simp] theorem State.setPart_active (p : Nat) (x : Partition) : (s.setPart p x).active = s.active := rfl
@[simp] theorem State.setPart_activeB (p : Nat) (x : Partition) : (s.setPart p x).activeB = s.activeB := rfl
@[simp] theorem State.setPart_time (p : Nat) (x : Partition) : (s.setPart p x).time = s.time := rfl
@[simp] theorem State.setPart_power (p : Nat) (x : Partition) : (s.setPart p x).power = s.power := rfl
@[simp] theorem State.setPart_boot (p : Nat) (x : Partition) : (s.setPart p x).boot = s.boot := rfl
@[simp] theorem State.setPart_mon (p : Nat) (x : Partition) : (s.setPart p x).mon = s.mon := rfl
@[simp] theorem State.setPart_jtag (p : Nat) (x : Partition) : (s.setPart p x).jtag = s.jtag := rfl
@[simp] theorem State.setPart_pins (p : Nat) (x : Partition) : (s.setPart p x).pins = s.pins := rfl
@[simp] theorem State.setPart_mem (p : Nat) (x : Partition) : (s.setPart p x).mem = s.mem := rfl
@[simp] theorem State.setPart_poison (p : Nat) (x : Partition) : (s.setPart p x).poison = s.poison := rfl
@[simp] theorem State.setPart_log (p : Nat) (x : Partition) : (s.setPart p x).log = s.log := rfl
@[simp] theorem State.setPart_now (p : Nat) (x : Partition) : (s.setPart p x).now = s.now := rfl
@[simp] theorem State.setPart_out (p : Nat) (x : Partition) : (s.setPart p x).out = s.out := rfl
@[simp] theorem State.setPart_firmware (p : Nat) (x : Partition) : (s.setPart p x).firmware = s.firmware := rfl
@[simp] theorem State.setPart_free (p : Nat) (x : Partition) : (s.setPart p x).free = s.free := rfl
@[simp] theorem State.setPart_pending (p : Nat) (x : Partition) : (s.setPart p x).pending = s.pending := rfl

@[simp] theorem State.setBlock_model (b : Nat) (x : Block) : (s.setBlock b x).model = s.model := rfl
@[simp] theorem State.setBlock_id (b : Nat) (x : Block) : (s.setBlock b x).id = s.id := rfl
@[simp] theorem State.setBlock_nvm (b : Nat) (x : Block) : (s.setBlock b x).nvm = s.nvm := rfl
@[simp] theorem State.setBlock_parts (b : Nat) (x : Block) : (s.setBlock b x).parts = s.parts := rfl
@[simp] theorem State.setBlock_cells (b : Nat) (x : Block) : (s.setBlock b x).cells = s.cells := rfl
@[simp] theorem State.setBlock_tx (b : Nat) (x : Block) : (s.setBlock b x).tx = s.tx := rfl
@[simp] theorem State.setBlock_ports (b : Nat) (x : Block) : (s.setBlock b x).ports = s.ports := rfl
@[simp] theorem State.setBlock_dies (b : Nat) (x : Block) : (s.setBlock b x).dies = s.dies := rfl
@[simp] theorem State.setBlock_bonds (b : Nat) (x : Block) : (s.setBlock b x).bonds = s.bonds := rfl
@[simp] theorem State.setBlock_eps (b : Nat) (x : Block) : (s.setBlock b x).eps = s.eps := rfl
@[simp] theorem State.setBlock_sessions (b : Nat) (x : Block) : (s.setBlock b x).sessions = s.sessions := rfl
@[simp] theorem State.setBlock_lastSession (b : Nat) (x : Block) : (s.setBlock b x).lastSession = s.lastSession := rfl
@[simp] theorem State.setBlock_owner (b : Nat) (x : Block) : (s.setBlock b x).owner = s.owner := rfl
@[simp] theorem State.setBlock_leaseAt (b : Nat) (x : Block) : (s.setBlock b x).leaseAt = s.leaseAt := rfl
@[simp] theorem State.setBlock_settings (b : Nat) (x : Block) : (s.setBlock b x).settings = s.settings := rfl
@[simp] theorem State.setBlock_staging (b : Nat) (x : Block) : (s.setBlock b x).staging = s.staging := rfl
@[simp] theorem State.setBlock_staged (b : Nat) (x : Block) : (s.setBlock b x).staged = s.staged := rfl
@[simp] theorem State.setBlock_active (b : Nat) (x : Block) : (s.setBlock b x).active = s.active := rfl
@[simp] theorem State.setBlock_activeB (b : Nat) (x : Block) : (s.setBlock b x).activeB = s.activeB := rfl
@[simp] theorem State.setBlock_time (b : Nat) (x : Block) : (s.setBlock b x).time = s.time := rfl
@[simp] theorem State.setBlock_power (b : Nat) (x : Block) : (s.setBlock b x).power = s.power := rfl
@[simp] theorem State.setBlock_boot (b : Nat) (x : Block) : (s.setBlock b x).boot = s.boot := rfl
@[simp] theorem State.setBlock_mon (b : Nat) (x : Block) : (s.setBlock b x).mon = s.mon := rfl
@[simp] theorem State.setBlock_jtag (b : Nat) (x : Block) : (s.setBlock b x).jtag = s.jtag := rfl
@[simp] theorem State.setBlock_pins (b : Nat) (x : Block) : (s.setBlock b x).pins = s.pins := rfl
@[simp] theorem State.setBlock_mem (b : Nat) (x : Block) : (s.setBlock b x).mem = s.mem := rfl
@[simp] theorem State.setBlock_poison (b : Nat) (x : Block) : (s.setBlock b x).poison = s.poison := rfl
@[simp] theorem State.setBlock_log (b : Nat) (x : Block) : (s.setBlock b x).log = s.log := rfl
@[simp] theorem State.setBlock_now (b : Nat) (x : Block) : (s.setBlock b x).now = s.now := rfl
@[simp] theorem State.setBlock_out (b : Nat) (x : Block) : (s.setBlock b x).out = s.out := rfl
@[simp] theorem State.setBlock_firmware (b : Nat) (x : Block) : (s.setBlock b x).firmware = s.firmware := rfl
@[simp] theorem State.setBlock_free (b : Nat) (x : Block) : (s.setBlock b x).free = s.free := rfl
@[simp] theorem State.setBlock_pending (b : Nat) (x : Block) : (s.setBlock b x).pending = s.pending := rfl

@[simp] theorem State.setCell_model (c : Nat) (x : Cell) : (s.setCell c x).model = s.model := rfl
@[simp] theorem State.setCell_id (c : Nat) (x : Cell) : (s.setCell c x).id = s.id := rfl
@[simp] theorem State.setCell_nvm (c : Nat) (x : Cell) : (s.setCell c x).nvm = s.nvm := rfl
@[simp] theorem State.setCell_parts (c : Nat) (x : Cell) : (s.setCell c x).parts = s.parts := rfl
@[simp] theorem State.setCell_blocks (c : Nat) (x : Cell) : (s.setCell c x).blocks = s.blocks := rfl
@[simp] theorem State.setCell_tx (c : Nat) (x : Cell) : (s.setCell c x).tx = s.tx := rfl
@[simp] theorem State.setCell_ports (c : Nat) (x : Cell) : (s.setCell c x).ports = s.ports := rfl
@[simp] theorem State.setCell_dies (c : Nat) (x : Cell) : (s.setCell c x).dies = s.dies := rfl
@[simp] theorem State.setCell_bonds (c : Nat) (x : Cell) : (s.setCell c x).bonds = s.bonds := rfl
@[simp] theorem State.setCell_eps (c : Nat) (x : Cell) : (s.setCell c x).eps = s.eps := rfl
@[simp] theorem State.setCell_sessions (c : Nat) (x : Cell) : (s.setCell c x).sessions = s.sessions := rfl
@[simp] theorem State.setCell_lastSession (c : Nat) (x : Cell) : (s.setCell c x).lastSession = s.lastSession := rfl
@[simp] theorem State.setCell_owner (c : Nat) (x : Cell) : (s.setCell c x).owner = s.owner := rfl
@[simp] theorem State.setCell_leaseAt (c : Nat) (x : Cell) : (s.setCell c x).leaseAt = s.leaseAt := rfl
@[simp] theorem State.setCell_settings (c : Nat) (x : Cell) : (s.setCell c x).settings = s.settings := rfl
@[simp] theorem State.setCell_staging (c : Nat) (x : Cell) : (s.setCell c x).staging = s.staging := rfl
@[simp] theorem State.setCell_staged (c : Nat) (x : Cell) : (s.setCell c x).staged = s.staged := rfl
@[simp] theorem State.setCell_active (c : Nat) (x : Cell) : (s.setCell c x).active = s.active := rfl
@[simp] theorem State.setCell_activeB (c : Nat) (x : Cell) : (s.setCell c x).activeB = s.activeB := rfl
@[simp] theorem State.setCell_time (c : Nat) (x : Cell) : (s.setCell c x).time = s.time := rfl
@[simp] theorem State.setCell_power (c : Nat) (x : Cell) : (s.setCell c x).power = s.power := rfl
@[simp] theorem State.setCell_boot (c : Nat) (x : Cell) : (s.setCell c x).boot = s.boot := rfl
@[simp] theorem State.setCell_mon (c : Nat) (x : Cell) : (s.setCell c x).mon = s.mon := rfl
@[simp] theorem State.setCell_jtag (c : Nat) (x : Cell) : (s.setCell c x).jtag = s.jtag := rfl
@[simp] theorem State.setCell_pins (c : Nat) (x : Cell) : (s.setCell c x).pins = s.pins := rfl
@[simp] theorem State.setCell_mem (c : Nat) (x : Cell) : (s.setCell c x).mem = s.mem := rfl
@[simp] theorem State.setCell_poison (c : Nat) (x : Cell) : (s.setCell c x).poison = s.poison := rfl
@[simp] theorem State.setCell_log (c : Nat) (x : Cell) : (s.setCell c x).log = s.log := rfl
@[simp] theorem State.setCell_now (c : Nat) (x : Cell) : (s.setCell c x).now = s.now := rfl
@[simp] theorem State.setCell_out (c : Nat) (x : Cell) : (s.setCell c x).out = s.out := rfl
@[simp] theorem State.setCell_firmware (c : Nat) (x : Cell) : (s.setCell c x).firmware = s.firmware := rfl
@[simp] theorem State.setCell_free (c : Nat) (x : Cell) : (s.setCell c x).free = s.free := rfl
@[simp] theorem State.setCell_pending (c : Nat) (x : Cell) : (s.setCell c x).pending = s.pending := rfl

@[simp] theorem State.write_model (a : Nat) (bs : Bytes) : (s.write a bs).model = s.model := rfl
@[simp] theorem State.write_id (a : Nat) (bs : Bytes) : (s.write a bs).id = s.id := rfl
@[simp] theorem State.write_nvm (a : Nat) (bs : Bytes) : (s.write a bs).nvm = s.nvm := rfl
@[simp] theorem State.write_parts (a : Nat) (bs : Bytes) : (s.write a bs).parts = s.parts := rfl
@[simp] theorem State.write_blocks (a : Nat) (bs : Bytes) : (s.write a bs).blocks = s.blocks := rfl
@[simp] theorem State.write_cells (a : Nat) (bs : Bytes) : (s.write a bs).cells = s.cells := rfl
@[simp] theorem State.write_tx (a : Nat) (bs : Bytes) : (s.write a bs).tx = s.tx := rfl
@[simp] theorem State.write_ports (a : Nat) (bs : Bytes) : (s.write a bs).ports = s.ports := rfl
@[simp] theorem State.write_dies (a : Nat) (bs : Bytes) : (s.write a bs).dies = s.dies := rfl
@[simp] theorem State.write_bonds (a : Nat) (bs : Bytes) : (s.write a bs).bonds = s.bonds := rfl
@[simp] theorem State.write_eps (a : Nat) (bs : Bytes) : (s.write a bs).eps = s.eps := rfl
@[simp] theorem State.write_sessions (a : Nat) (bs : Bytes) : (s.write a bs).sessions = s.sessions := rfl
@[simp] theorem State.write_lastSession (a : Nat) (bs : Bytes) : (s.write a bs).lastSession = s.lastSession := rfl
@[simp] theorem State.write_owner (a : Nat) (bs : Bytes) : (s.write a bs).owner = s.owner := rfl
@[simp] theorem State.write_leaseAt (a : Nat) (bs : Bytes) : (s.write a bs).leaseAt = s.leaseAt := rfl
@[simp] theorem State.write_settings (a : Nat) (bs : Bytes) : (s.write a bs).settings = s.settings := rfl
@[simp] theorem State.write_staging (a : Nat) (bs : Bytes) : (s.write a bs).staging = s.staging := rfl
@[simp] theorem State.write_staged (a : Nat) (bs : Bytes) : (s.write a bs).staged = s.staged := rfl
@[simp] theorem State.write_active (a : Nat) (bs : Bytes) : (s.write a bs).active = s.active := rfl
@[simp] theorem State.write_activeB (a : Nat) (bs : Bytes) : (s.write a bs).activeB = s.activeB := rfl
@[simp] theorem State.write_time (a : Nat) (bs : Bytes) : (s.write a bs).time = s.time := rfl
@[simp] theorem State.write_power (a : Nat) (bs : Bytes) : (s.write a bs).power = s.power := rfl
@[simp] theorem State.write_boot (a : Nat) (bs : Bytes) : (s.write a bs).boot = s.boot := rfl
@[simp] theorem State.write_mon (a : Nat) (bs : Bytes) : (s.write a bs).mon = s.mon := rfl
@[simp] theorem State.write_jtag (a : Nat) (bs : Bytes) : (s.write a bs).jtag = s.jtag := rfl
@[simp] theorem State.write_pins (a : Nat) (bs : Bytes) : (s.write a bs).pins = s.pins := rfl
@[simp] theorem State.write_poison (a : Nat) (bs : Bytes) : (s.write a bs).poison = s.poison := rfl
@[simp] theorem State.write_log (a : Nat) (bs : Bytes) : (s.write a bs).log = s.log := rfl
@[simp] theorem State.write_now (a : Nat) (bs : Bytes) : (s.write a bs).now = s.now := rfl
@[simp] theorem State.write_out (a : Nat) (bs : Bytes) : (s.write a bs).out = s.out := rfl
@[simp] theorem State.write_firmware (a : Nat) (bs : Bytes) : (s.write a bs).firmware = s.firmware := rfl
@[simp] theorem State.write_free (a : Nat) (bs : Bytes) : (s.write a bs).free = s.free := rfl
@[simp] theorem State.write_pending (a : Nat) (bs : Bytes) : (s.write a bs).pending = s.pending := rfl

@[simp] theorem State.updEp_model (h : Nat) (f : Endpoint → Endpoint) : (s.updEp h f).model = s.model := rfl
@[simp] theorem State.updEp_id (h : Nat) (f : Endpoint → Endpoint) : (s.updEp h f).id = s.id := rfl
@[simp] theorem State.updEp_nvm (h : Nat) (f : Endpoint → Endpoint) : (s.updEp h f).nvm = s.nvm := rfl
@[simp] theorem State.updEp_parts (h : Nat) (f : Endpoint → Endpoint) : (s.updEp h f).parts = s.parts := rfl
@[simp] theorem State.updEp_blocks (h : Nat) (f : Endpoint → Endpoint) : (s.updEp h f).blocks = s.blocks := rfl
@[simp] theorem State.updEp_cells (h : Nat) (f : Endpoint → Endpoint) : (s.updEp h f).cells = s.cells := rfl
@[simp] theorem State.updEp_tx (h : Nat) (f : Endpoint → Endpoint) : (s.updEp h f).tx = s.tx := rfl
@[simp] theorem State.updEp_ports (h : Nat) (f : Endpoint → Endpoint) : (s.updEp h f).ports = s.ports := rfl
@[simp] theorem State.updEp_dies (h : Nat) (f : Endpoint → Endpoint) : (s.updEp h f).dies = s.dies := rfl
@[simp] theorem State.updEp_bonds (h : Nat) (f : Endpoint → Endpoint) : (s.updEp h f).bonds = s.bonds := rfl
@[simp] theorem State.updEp_sessions (h : Nat) (f : Endpoint → Endpoint) : (s.updEp h f).sessions = s.sessions := rfl
@[simp] theorem State.updEp_lastSession (h : Nat) (f : Endpoint → Endpoint) : (s.updEp h f).lastSession = s.lastSession := rfl
@[simp] theorem State.updEp_owner (h : Nat) (f : Endpoint → Endpoint) : (s.updEp h f).owner = s.owner := rfl
@[simp] theorem State.updEp_leaseAt (h : Nat) (f : Endpoint → Endpoint) : (s.updEp h f).leaseAt = s.leaseAt := rfl
@[simp] theorem State.updEp_settings (h : Nat) (f : Endpoint → Endpoint) : (s.updEp h f).settings = s.settings := rfl
@[simp] theorem State.updEp_staging (h : Nat) (f : Endpoint → Endpoint) : (s.updEp h f).staging = s.staging := rfl
@[simp] theorem State.updEp_staged (h : Nat) (f : Endpoint → Endpoint) : (s.updEp h f).staged = s.staged := rfl
@[simp] theorem State.updEp_active (h : Nat) (f : Endpoint → Endpoint) : (s.updEp h f).active = s.active := rfl
@[simp] theorem State.updEp_activeB (h : Nat) (f : Endpoint → Endpoint) : (s.updEp h f).activeB = s.activeB := rfl
@[simp] theorem State.updEp_time (h : Nat) (f : Endpoint → Endpoint) : (s.updEp h f).time = s.time := rfl
@[simp] theorem State.updEp_power (h : Nat) (f : Endpoint → Endpoint) : (s.updEp h f).power = s.power := rfl
@[simp] theorem State.updEp_boot (h : Nat) (f : Endpoint → Endpoint) : (s.updEp h f).boot = s.boot := rfl
@[simp] theorem State.updEp_mon (h : Nat) (f : Endpoint → Endpoint) : (s.updEp h f).mon = s.mon := rfl
@[simp] theorem State.updEp_jtag (h : Nat) (f : Endpoint → Endpoint) : (s.updEp h f).jtag = s.jtag := rfl
@[simp] theorem State.updEp_pins (h : Nat) (f : Endpoint → Endpoint) : (s.updEp h f).pins = s.pins := rfl
@[simp] theorem State.updEp_mem (h : Nat) (f : Endpoint → Endpoint) : (s.updEp h f).mem = s.mem := rfl
@[simp] theorem State.updEp_poison (h : Nat) (f : Endpoint → Endpoint) : (s.updEp h f).poison = s.poison := rfl
@[simp] theorem State.updEp_log (h : Nat) (f : Endpoint → Endpoint) : (s.updEp h f).log = s.log := rfl
@[simp] theorem State.updEp_now (h : Nat) (f : Endpoint → Endpoint) : (s.updEp h f).now = s.now := rfl
@[simp] theorem State.updEp_out (h : Nat) (f : Endpoint → Endpoint) : (s.updEp h f).out = s.out := rfl
@[simp] theorem State.updEp_firmware (h : Nat) (f : Endpoint → Endpoint) : (s.updEp h f).firmware = s.firmware := rfl
@[simp] theorem State.updEp_free (h : Nat) (f : Endpoint → Endpoint) : (s.updEp h f).free = s.free := rfl
@[simp] theorem State.updEp_pending (h : Nat) (f : Endpoint → Endpoint) : (s.updEp h f).pending = s.pending := rfl

@[simp] theorem State.updPort_model (q : Nat) (f : Port → Port) : (s.updPort q f).model = s.model := rfl
@[simp] theorem State.updPort_id (q : Nat) (f : Port → Port) : (s.updPort q f).id = s.id := rfl
@[simp] theorem State.updPort_nvm (q : Nat) (f : Port → Port) : (s.updPort q f).nvm = s.nvm := rfl
@[simp] theorem State.updPort_parts (q : Nat) (f : Port → Port) : (s.updPort q f).parts = s.parts := rfl
@[simp] theorem State.updPort_blocks (q : Nat) (f : Port → Port) : (s.updPort q f).blocks = s.blocks := rfl
@[simp] theorem State.updPort_cells (q : Nat) (f : Port → Port) : (s.updPort q f).cells = s.cells := rfl
@[simp] theorem State.updPort_tx (q : Nat) (f : Port → Port) : (s.updPort q f).tx = s.tx := rfl
@[simp] theorem State.updPort_dies (q : Nat) (f : Port → Port) : (s.updPort q f).dies = s.dies := rfl
@[simp] theorem State.updPort_bonds (q : Nat) (f : Port → Port) : (s.updPort q f).bonds = s.bonds := rfl
@[simp] theorem State.updPort_eps (q : Nat) (f : Port → Port) : (s.updPort q f).eps = s.eps := rfl
@[simp] theorem State.updPort_sessions (q : Nat) (f : Port → Port) : (s.updPort q f).sessions = s.sessions := rfl
@[simp] theorem State.updPort_lastSession (q : Nat) (f : Port → Port) : (s.updPort q f).lastSession = s.lastSession := rfl
@[simp] theorem State.updPort_owner (q : Nat) (f : Port → Port) : (s.updPort q f).owner = s.owner := rfl
@[simp] theorem State.updPort_leaseAt (q : Nat) (f : Port → Port) : (s.updPort q f).leaseAt = s.leaseAt := rfl
@[simp] theorem State.updPort_settings (q : Nat) (f : Port → Port) : (s.updPort q f).settings = s.settings := rfl
@[simp] theorem State.updPort_staging (q : Nat) (f : Port → Port) : (s.updPort q f).staging = s.staging := rfl
@[simp] theorem State.updPort_staged (q : Nat) (f : Port → Port) : (s.updPort q f).staged = s.staged := rfl
@[simp] theorem State.updPort_active (q : Nat) (f : Port → Port) : (s.updPort q f).active = s.active := rfl
@[simp] theorem State.updPort_activeB (q : Nat) (f : Port → Port) : (s.updPort q f).activeB = s.activeB := rfl
@[simp] theorem State.updPort_time (q : Nat) (f : Port → Port) : (s.updPort q f).time = s.time := rfl
@[simp] theorem State.updPort_power (q : Nat) (f : Port → Port) : (s.updPort q f).power = s.power := rfl
@[simp] theorem State.updPort_boot (q : Nat) (f : Port → Port) : (s.updPort q f).boot = s.boot := rfl
@[simp] theorem State.updPort_mon (q : Nat) (f : Port → Port) : (s.updPort q f).mon = s.mon := rfl
@[simp] theorem State.updPort_jtag (q : Nat) (f : Port → Port) : (s.updPort q f).jtag = s.jtag := rfl
@[simp] theorem State.updPort_pins (q : Nat) (f : Port → Port) : (s.updPort q f).pins = s.pins := rfl
@[simp] theorem State.updPort_mem (q : Nat) (f : Port → Port) : (s.updPort q f).mem = s.mem := rfl
@[simp] theorem State.updPort_poison (q : Nat) (f : Port → Port) : (s.updPort q f).poison = s.poison := rfl
@[simp] theorem State.updPort_log (q : Nat) (f : Port → Port) : (s.updPort q f).log = s.log := rfl
@[simp] theorem State.updPort_now (q : Nat) (f : Port → Port) : (s.updPort q f).now = s.now := rfl
@[simp] theorem State.updPort_out (q : Nat) (f : Port → Port) : (s.updPort q f).out = s.out := rfl
@[simp] theorem State.updPort_firmware (q : Nat) (f : Port → Port) : (s.updPort q f).firmware = s.firmware := rfl
@[simp] theorem State.updPort_free (q : Nat) (f : Port → Port) : (s.updPort q f).free = s.free := rfl
@[simp] theorem State.updPort_pending (q : Nat) (f : Port → Port) : (s.updPort q f).pending = s.pending := rfl

@[simp] theorem State.updTx_model (q : Nat) (f : PortTx → PortTx) : (s.updTx q f).model = s.model := rfl
@[simp] theorem State.updTx_id (q : Nat) (f : PortTx → PortTx) : (s.updTx q f).id = s.id := rfl
@[simp] theorem State.updTx_nvm (q : Nat) (f : PortTx → PortTx) : (s.updTx q f).nvm = s.nvm := rfl
@[simp] theorem State.updTx_parts (q : Nat) (f : PortTx → PortTx) : (s.updTx q f).parts = s.parts := rfl
@[simp] theorem State.updTx_blocks (q : Nat) (f : PortTx → PortTx) : (s.updTx q f).blocks = s.blocks := rfl
@[simp] theorem State.updTx_cells (q : Nat) (f : PortTx → PortTx) : (s.updTx q f).cells = s.cells := rfl
@[simp] theorem State.updTx_ports (q : Nat) (f : PortTx → PortTx) : (s.updTx q f).ports = s.ports := rfl
@[simp] theorem State.updTx_dies (q : Nat) (f : PortTx → PortTx) : (s.updTx q f).dies = s.dies := rfl
@[simp] theorem State.updTx_bonds (q : Nat) (f : PortTx → PortTx) : (s.updTx q f).bonds = s.bonds := rfl
@[simp] theorem State.updTx_eps (q : Nat) (f : PortTx → PortTx) : (s.updTx q f).eps = s.eps := rfl
@[simp] theorem State.updTx_sessions (q : Nat) (f : PortTx → PortTx) : (s.updTx q f).sessions = s.sessions := rfl
@[simp] theorem State.updTx_lastSession (q : Nat) (f : PortTx → PortTx) : (s.updTx q f).lastSession = s.lastSession := rfl
@[simp] theorem State.updTx_owner (q : Nat) (f : PortTx → PortTx) : (s.updTx q f).owner = s.owner := rfl
@[simp] theorem State.updTx_leaseAt (q : Nat) (f : PortTx → PortTx) : (s.updTx q f).leaseAt = s.leaseAt := rfl
@[simp] theorem State.updTx_settings (q : Nat) (f : PortTx → PortTx) : (s.updTx q f).settings = s.settings := rfl
@[simp] theorem State.updTx_staging (q : Nat) (f : PortTx → PortTx) : (s.updTx q f).staging = s.staging := rfl
@[simp] theorem State.updTx_staged (q : Nat) (f : PortTx → PortTx) : (s.updTx q f).staged = s.staged := rfl
@[simp] theorem State.updTx_active (q : Nat) (f : PortTx → PortTx) : (s.updTx q f).active = s.active := rfl
@[simp] theorem State.updTx_activeB (q : Nat) (f : PortTx → PortTx) : (s.updTx q f).activeB = s.activeB := rfl
@[simp] theorem State.updTx_time (q : Nat) (f : PortTx → PortTx) : (s.updTx q f).time = s.time := rfl
@[simp] theorem State.updTx_power (q : Nat) (f : PortTx → PortTx) : (s.updTx q f).power = s.power := rfl
@[simp] theorem State.updTx_boot (q : Nat) (f : PortTx → PortTx) : (s.updTx q f).boot = s.boot := rfl
@[simp] theorem State.updTx_mon (q : Nat) (f : PortTx → PortTx) : (s.updTx q f).mon = s.mon := rfl
@[simp] theorem State.updTx_jtag (q : Nat) (f : PortTx → PortTx) : (s.updTx q f).jtag = s.jtag := rfl
@[simp] theorem State.updTx_pins (q : Nat) (f : PortTx → PortTx) : (s.updTx q f).pins = s.pins := rfl
@[simp] theorem State.updTx_mem (q : Nat) (f : PortTx → PortTx) : (s.updTx q f).mem = s.mem := rfl
@[simp] theorem State.updTx_poison (q : Nat) (f : PortTx → PortTx) : (s.updTx q f).poison = s.poison := rfl
@[simp] theorem State.updTx_log (q : Nat) (f : PortTx → PortTx) : (s.updTx q f).log = s.log := rfl
@[simp] theorem State.updTx_now (q : Nat) (f : PortTx → PortTx) : (s.updTx q f).now = s.now := rfl
@[simp] theorem State.updTx_out (q : Nat) (f : PortTx → PortTx) : (s.updTx q f).out = s.out := rfl
@[simp] theorem State.updTx_firmware (q : Nat) (f : PortTx → PortTx) : (s.updTx q f).firmware = s.firmware := rfl
@[simp] theorem State.updTx_free (q : Nat) (f : PortTx → PortTx) : (s.updTx q f).free = s.free := rfl
@[simp] theorem State.updTx_pending (q : Nat) (f : PortTx → PortTx) : (s.updTx q f).pending = s.pending := rfl

@[simp] theorem State.updDie_model (k : Nat) (f : Die → Die) : (s.updDie k f).model = s.model := rfl
@[simp] theorem State.updDie_id (k : Nat) (f : Die → Die) : (s.updDie k f).id = s.id := rfl
@[simp] theorem State.updDie_nvm (k : Nat) (f : Die → Die) : (s.updDie k f).nvm = s.nvm := rfl
@[simp] theorem State.updDie_parts (k : Nat) (f : Die → Die) : (s.updDie k f).parts = s.parts := rfl
@[simp] theorem State.updDie_blocks (k : Nat) (f : Die → Die) : (s.updDie k f).blocks = s.blocks := rfl
@[simp] theorem State.updDie_cells (k : Nat) (f : Die → Die) : (s.updDie k f).cells = s.cells := rfl
@[simp] theorem State.updDie_tx (k : Nat) (f : Die → Die) : (s.updDie k f).tx = s.tx := rfl
@[simp] theorem State.updDie_ports (k : Nat) (f : Die → Die) : (s.updDie k f).ports = s.ports := rfl
@[simp] theorem State.updDie_bonds (k : Nat) (f : Die → Die) : (s.updDie k f).bonds = s.bonds := rfl
@[simp] theorem State.updDie_eps (k : Nat) (f : Die → Die) : (s.updDie k f).eps = s.eps := rfl
@[simp] theorem State.updDie_sessions (k : Nat) (f : Die → Die) : (s.updDie k f).sessions = s.sessions := rfl
@[simp] theorem State.updDie_lastSession (k : Nat) (f : Die → Die) : (s.updDie k f).lastSession = s.lastSession := rfl
@[simp] theorem State.updDie_owner (k : Nat) (f : Die → Die) : (s.updDie k f).owner = s.owner := rfl
@[simp] theorem State.updDie_leaseAt (k : Nat) (f : Die → Die) : (s.updDie k f).leaseAt = s.leaseAt := rfl
@[simp] theorem State.updDie_settings (k : Nat) (f : Die → Die) : (s.updDie k f).settings = s.settings := rfl
@[simp] theorem State.updDie_staging (k : Nat) (f : Die → Die) : (s.updDie k f).staging = s.staging := rfl
@[simp] theorem State.updDie_staged (k : Nat) (f : Die → Die) : (s.updDie k f).staged = s.staged := rfl
@[simp] theorem State.updDie_active (k : Nat) (f : Die → Die) : (s.updDie k f).active = s.active := rfl
@[simp] theorem State.updDie_activeB (k : Nat) (f : Die → Die) : (s.updDie k f).activeB = s.activeB := rfl
@[simp] theorem State.updDie_time (k : Nat) (f : Die → Die) : (s.updDie k f).time = s.time := rfl
@[simp] theorem State.updDie_power (k : Nat) (f : Die → Die) : (s.updDie k f).power = s.power := rfl
@[simp] theorem State.updDie_boot (k : Nat) (f : Die → Die) : (s.updDie k f).boot = s.boot := rfl
@[simp] theorem State.updDie_mon (k : Nat) (f : Die → Die) : (s.updDie k f).mon = s.mon := rfl
@[simp] theorem State.updDie_jtag (k : Nat) (f : Die → Die) : (s.updDie k f).jtag = s.jtag := rfl
@[simp] theorem State.updDie_pins (k : Nat) (f : Die → Die) : (s.updDie k f).pins = s.pins := rfl
@[simp] theorem State.updDie_mem (k : Nat) (f : Die → Die) : (s.updDie k f).mem = s.mem := rfl
@[simp] theorem State.updDie_poison (k : Nat) (f : Die → Die) : (s.updDie k f).poison = s.poison := rfl
@[simp] theorem State.updDie_log (k : Nat) (f : Die → Die) : (s.updDie k f).log = s.log := rfl
@[simp] theorem State.updDie_now (k : Nat) (f : Die → Die) : (s.updDie k f).now = s.now := rfl
@[simp] theorem State.updDie_out (k : Nat) (f : Die → Die) : (s.updDie k f).out = s.out := rfl
@[simp] theorem State.updDie_firmware (k : Nat) (f : Die → Die) : (s.updDie k f).firmware = s.firmware := rfl
@[simp] theorem State.updDie_free (k : Nat) (f : Die → Die) : (s.updDie k f).free = s.free := rfl
@[simp] theorem State.updDie_pending (k : Nat) (f : Die → Die) : (s.updDie k f).pending = s.pending := rfl

@[simp] theorem State.emit_model (o : OutEv) : (s.emit o).model = s.model := rfl
@[simp] theorem State.emit_id (o : OutEv) : (s.emit o).id = s.id := rfl
@[simp] theorem State.emit_nvm (o : OutEv) : (s.emit o).nvm = s.nvm := rfl
@[simp] theorem State.emit_parts (o : OutEv) : (s.emit o).parts = s.parts := rfl
@[simp] theorem State.emit_blocks (o : OutEv) : (s.emit o).blocks = s.blocks := rfl
@[simp] theorem State.emit_cells (o : OutEv) : (s.emit o).cells = s.cells := rfl
@[simp] theorem State.emit_tx (o : OutEv) : (s.emit o).tx = s.tx := rfl
@[simp] theorem State.emit_ports (o : OutEv) : (s.emit o).ports = s.ports := rfl
@[simp] theorem State.emit_dies (o : OutEv) : (s.emit o).dies = s.dies := rfl
@[simp] theorem State.emit_bonds (o : OutEv) : (s.emit o).bonds = s.bonds := rfl
@[simp] theorem State.emit_eps (o : OutEv) : (s.emit o).eps = s.eps := rfl
@[simp] theorem State.emit_sessions (o : OutEv) : (s.emit o).sessions = s.sessions := rfl
@[simp] theorem State.emit_lastSession (o : OutEv) : (s.emit o).lastSession = s.lastSession := rfl
@[simp] theorem State.emit_owner (o : OutEv) : (s.emit o).owner = s.owner := rfl
@[simp] theorem State.emit_leaseAt (o : OutEv) : (s.emit o).leaseAt = s.leaseAt := rfl
@[simp] theorem State.emit_settings (o : OutEv) : (s.emit o).settings = s.settings := rfl
@[simp] theorem State.emit_staging (o : OutEv) : (s.emit o).staging = s.staging := rfl
@[simp] theorem State.emit_staged (o : OutEv) : (s.emit o).staged = s.staged := rfl
@[simp] theorem State.emit_active (o : OutEv) : (s.emit o).active = s.active := rfl
@[simp] theorem State.emit_activeB (o : OutEv) : (s.emit o).activeB = s.activeB := rfl
@[simp] theorem State.emit_time (o : OutEv) : (s.emit o).time = s.time := rfl
@[simp] theorem State.emit_power (o : OutEv) : (s.emit o).power = s.power := rfl
@[simp] theorem State.emit_boot (o : OutEv) : (s.emit o).boot = s.boot := rfl
@[simp] theorem State.emit_mon (o : OutEv) : (s.emit o).mon = s.mon := rfl
@[simp] theorem State.emit_jtag (o : OutEv) : (s.emit o).jtag = s.jtag := rfl
@[simp] theorem State.emit_pins (o : OutEv) : (s.emit o).pins = s.pins := rfl
@[simp] theorem State.emit_mem (o : OutEv) : (s.emit o).mem = s.mem := rfl
@[simp] theorem State.emit_poison (o : OutEv) : (s.emit o).poison = s.poison := rfl
@[simp] theorem State.emit_log (o : OutEv) : (s.emit o).log = s.log := rfl
@[simp] theorem State.emit_now (o : OutEv) : (s.emit o).now = s.now := rfl
@[simp] theorem State.emit_firmware (o : OutEv) : (s.emit o).firmware = s.firmware := rfl
@[simp] theorem State.emit_free (o : OutEv) : (s.emit o).free = s.free := rfl
@[simp] theorem State.emit_pending (o : OutEv) : (s.emit o).pending = s.pending := rfl

@[simp] theorem State.updBlock_model (b : Nat) (f : Block → Block) : (s.updBlock b f).model = s.model := rfl
@[simp] theorem State.updBlock_id (b : Nat) (f : Block → Block) : (s.updBlock b f).id = s.id := rfl
@[simp] theorem State.updBlock_nvm (b : Nat) (f : Block → Block) : (s.updBlock b f).nvm = s.nvm := rfl
@[simp] theorem State.updBlock_parts (b : Nat) (f : Block → Block) : (s.updBlock b f).parts = s.parts := rfl
@[simp] theorem State.updBlock_cells (b : Nat) (f : Block → Block) : (s.updBlock b f).cells = s.cells := rfl
@[simp] theorem State.updBlock_tx (b : Nat) (f : Block → Block) : (s.updBlock b f).tx = s.tx := rfl
@[simp] theorem State.updBlock_ports (b : Nat) (f : Block → Block) : (s.updBlock b f).ports = s.ports := rfl
@[simp] theorem State.updBlock_dies (b : Nat) (f : Block → Block) : (s.updBlock b f).dies = s.dies := rfl
@[simp] theorem State.updBlock_bonds (b : Nat) (f : Block → Block) : (s.updBlock b f).bonds = s.bonds := rfl
@[simp] theorem State.updBlock_eps (b : Nat) (f : Block → Block) : (s.updBlock b f).eps = s.eps := rfl
@[simp] theorem State.updBlock_sessions (b : Nat) (f : Block → Block) : (s.updBlock b f).sessions = s.sessions := rfl
@[simp] theorem State.updBlock_lastSession (b : Nat) (f : Block → Block) : (s.updBlock b f).lastSession = s.lastSession := rfl
@[simp] theorem State.updBlock_owner (b : Nat) (f : Block → Block) : (s.updBlock b f).owner = s.owner := rfl
@[simp] theorem State.updBlock_leaseAt (b : Nat) (f : Block → Block) : (s.updBlock b f).leaseAt = s.leaseAt := rfl
@[simp] theorem State.updBlock_settings (b : Nat) (f : Block → Block) : (s.updBlock b f).settings = s.settings := rfl
@[simp] theorem State.updBlock_staging (b : Nat) (f : Block → Block) : (s.updBlock b f).staging = s.staging := rfl
@[simp] theorem State.updBlock_staged (b : Nat) (f : Block → Block) : (s.updBlock b f).staged = s.staged := rfl
@[simp] theorem State.updBlock_active (b : Nat) (f : Block → Block) : (s.updBlock b f).active = s.active := rfl
@[simp] theorem State.updBlock_activeB (b : Nat) (f : Block → Block) : (s.updBlock b f).activeB = s.activeB := rfl
@[simp] theorem State.updBlock_time (b : Nat) (f : Block → Block) : (s.updBlock b f).time = s.time := rfl
@[simp] theorem State.updBlock_power (b : Nat) (f : Block → Block) : (s.updBlock b f).power = s.power := rfl
@[simp] theorem State.updBlock_boot (b : Nat) (f : Block → Block) : (s.updBlock b f).boot = s.boot := rfl
@[simp] theorem State.updBlock_mon (b : Nat) (f : Block → Block) : (s.updBlock b f).mon = s.mon := rfl
@[simp] theorem State.updBlock_jtag (b : Nat) (f : Block → Block) : (s.updBlock b f).jtag = s.jtag := rfl
@[simp] theorem State.updBlock_pins (b : Nat) (f : Block → Block) : (s.updBlock b f).pins = s.pins := rfl
@[simp] theorem State.updBlock_mem (b : Nat) (f : Block → Block) : (s.updBlock b f).mem = s.mem := rfl
@[simp] theorem State.updBlock_poison (b : Nat) (f : Block → Block) : (s.updBlock b f).poison = s.poison := rfl
@[simp] theorem State.updBlock_log (b : Nat) (f : Block → Block) : (s.updBlock b f).log = s.log := rfl
@[simp] theorem State.updBlock_now (b : Nat) (f : Block → Block) : (s.updBlock b f).now = s.now := rfl
@[simp] theorem State.updBlock_out (b : Nat) (f : Block → Block) : (s.updBlock b f).out = s.out := rfl
@[simp] theorem State.updBlock_firmware (b : Nat) (f : Block → Block) : (s.updBlock b f).firmware = s.firmware := rfl
@[simp] theorem State.updBlock_free (b : Nat) (f : Block → Block) : (s.updBlock b f).free = s.free := rfl
@[simp] theorem State.updBlock_pending (b : Nat) (f : Block → Block) : (s.updBlock b f).pending = s.pending := rfl

@[simp] theorem State.updCell_model (c : Nat) (f : Cell → Cell) : (s.updCell c f).model = s.model := rfl
@[simp] theorem State.updCell_id (c : Nat) (f : Cell → Cell) : (s.updCell c f).id = s.id := rfl
@[simp] theorem State.updCell_nvm (c : Nat) (f : Cell → Cell) : (s.updCell c f).nvm = s.nvm := rfl
@[simp] theorem State.updCell_parts (c : Nat) (f : Cell → Cell) : (s.updCell c f).parts = s.parts := rfl
@[simp] theorem State.updCell_blocks (c : Nat) (f : Cell → Cell) : (s.updCell c f).blocks = s.blocks := rfl
@[simp] theorem State.updCell_tx (c : Nat) (f : Cell → Cell) : (s.updCell c f).tx = s.tx := rfl
@[simp] theorem State.updCell_ports (c : Nat) (f : Cell → Cell) : (s.updCell c f).ports = s.ports := rfl
@[simp] theorem State.updCell_dies (c : Nat) (f : Cell → Cell) : (s.updCell c f).dies = s.dies := rfl
@[simp] theorem State.updCell_bonds (c : Nat) (f : Cell → Cell) : (s.updCell c f).bonds = s.bonds := rfl
@[simp] theorem State.updCell_eps (c : Nat) (f : Cell → Cell) : (s.updCell c f).eps = s.eps := rfl
@[simp] theorem State.updCell_sessions (c : Nat) (f : Cell → Cell) : (s.updCell c f).sessions = s.sessions := rfl
@[simp] theorem State.updCell_lastSession (c : Nat) (f : Cell → Cell) : (s.updCell c f).lastSession = s.lastSession := rfl
@[simp] theorem State.updCell_owner (c : Nat) (f : Cell → Cell) : (s.updCell c f).owner = s.owner := rfl
@[simp] theorem State.updCell_leaseAt (c : Nat) (f : Cell → Cell) : (s.updCell c f).leaseAt = s.leaseAt := rfl
@[simp] theorem State.updCell_settings (c : Nat) (f : Cell → Cell) : (s.updCell c f).settings = s.settings := rfl
@[simp] theorem State.updCell_staging (c : Nat) (f : Cell → Cell) : (s.updCell c f).staging = s.staging := rfl
@[simp] theorem State.updCell_staged (c : Nat) (f : Cell → Cell) : (s.updCell c f).staged = s.staged := rfl
@[simp] theorem State.updCell_active (c : Nat) (f : Cell → Cell) : (s.updCell c f).active = s.active := rfl
@[simp] theorem State.updCell_activeB (c : Nat) (f : Cell → Cell) : (s.updCell c f).activeB = s.activeB := rfl
@[simp] theorem State.updCell_time (c : Nat) (f : Cell → Cell) : (s.updCell c f).time = s.time := rfl
@[simp] theorem State.updCell_power (c : Nat) (f : Cell → Cell) : (s.updCell c f).power = s.power := rfl
@[simp] theorem State.updCell_boot (c : Nat) (f : Cell → Cell) : (s.updCell c f).boot = s.boot := rfl
@[simp] theorem State.updCell_mon (c : Nat) (f : Cell → Cell) : (s.updCell c f).mon = s.mon := rfl
@[simp] theorem State.updCell_jtag (c : Nat) (f : Cell → Cell) : (s.updCell c f).jtag = s.jtag := rfl
@[simp] theorem State.updCell_pins (c : Nat) (f : Cell → Cell) : (s.updCell c f).pins = s.pins := rfl
@[simp] theorem State.updCell_mem (c : Nat) (f : Cell → Cell) : (s.updCell c f).mem = s.mem := rfl
@[simp] theorem State.updCell_poison (c : Nat) (f : Cell → Cell) : (s.updCell c f).poison = s.poison := rfl
@[simp] theorem State.updCell_log (c : Nat) (f : Cell → Cell) : (s.updCell c f).log = s.log := rfl
@[simp] theorem State.updCell_now (c : Nat) (f : Cell → Cell) : (s.updCell c f).now = s.now := rfl
@[simp] theorem State.updCell_out (c : Nat) (f : Cell → Cell) : (s.updCell c f).out = s.out := rfl
@[simp] theorem State.updCell_firmware (c : Nat) (f : Cell → Cell) : (s.updCell c f).firmware = s.firmware := rfl
@[simp] theorem State.updCell_free (c : Nat) (f : Cell → Cell) : (s.updCell c f).free = s.free := rfl
@[simp] theorem State.updCell_pending (c : Nat) (f : Cell → Cell) : (s.updCell c f).pending = s.pending := rfl

@[simp] theorem State.updFunc_model (h k : Nat) (f : Func → Func) : (s.updFunc h k f).model = s.model := rfl
@[simp] theorem State.updFunc_id (h k : Nat) (f : Func → Func) : (s.updFunc h k f).id = s.id := rfl
@[simp] theorem State.updFunc_nvm (h k : Nat) (f : Func → Func) : (s.updFunc h k f).nvm = s.nvm := rfl
@[simp] theorem State.updFunc_parts (h k : Nat) (f : Func → Func) : (s.updFunc h k f).parts = s.parts := rfl
@[simp] theorem State.updFunc_blocks (h k : Nat) (f : Func → Func) : (s.updFunc h k f).blocks = s.blocks := rfl
@[simp] theorem State.updFunc_cells (h k : Nat) (f : Func → Func) : (s.updFunc h k f).cells = s.cells := rfl
@[simp] theorem State.updFunc_tx (h k : Nat) (f : Func → Func) : (s.updFunc h k f).tx = s.tx := rfl
@[simp] theorem State.updFunc_ports (h k : Nat) (f : Func → Func) : (s.updFunc h k f).ports = s.ports := rfl
@[simp] theorem State.updFunc_dies (h k : Nat) (f : Func → Func) : (s.updFunc h k f).dies = s.dies := rfl
@[simp] theorem State.updFunc_bonds (h k : Nat) (f : Func → Func) : (s.updFunc h k f).bonds = s.bonds := rfl
@[simp] theorem State.updFunc_sessions (h k : Nat) (f : Func → Func) : (s.updFunc h k f).sessions = s.sessions := rfl
@[simp] theorem State.updFunc_lastSession (h k : Nat) (f : Func → Func) : (s.updFunc h k f).lastSession = s.lastSession := rfl
@[simp] theorem State.updFunc_owner (h k : Nat) (f : Func → Func) : (s.updFunc h k f).owner = s.owner := rfl
@[simp] theorem State.updFunc_leaseAt (h k : Nat) (f : Func → Func) : (s.updFunc h k f).leaseAt = s.leaseAt := rfl
@[simp] theorem State.updFunc_settings (h k : Nat) (f : Func → Func) : (s.updFunc h k f).settings = s.settings := rfl
@[simp] theorem State.updFunc_staging (h k : Nat) (f : Func → Func) : (s.updFunc h k f).staging = s.staging := rfl
@[simp] theorem State.updFunc_staged (h k : Nat) (f : Func → Func) : (s.updFunc h k f).staged = s.staged := rfl
@[simp] theorem State.updFunc_active (h k : Nat) (f : Func → Func) : (s.updFunc h k f).active = s.active := rfl
@[simp] theorem State.updFunc_activeB (h k : Nat) (f : Func → Func) : (s.updFunc h k f).activeB = s.activeB := rfl
@[simp] theorem State.updFunc_time (h k : Nat) (f : Func → Func) : (s.updFunc h k f).time = s.time := rfl
@[simp] theorem State.updFunc_power (h k : Nat) (f : Func → Func) : (s.updFunc h k f).power = s.power := rfl
@[simp] theorem State.updFunc_boot (h k : Nat) (f : Func → Func) : (s.updFunc h k f).boot = s.boot := rfl
@[simp] theorem State.updFunc_mon (h k : Nat) (f : Func → Func) : (s.updFunc h k f).mon = s.mon := rfl
@[simp] theorem State.updFunc_jtag (h k : Nat) (f : Func → Func) : (s.updFunc h k f).jtag = s.jtag := rfl
@[simp] theorem State.updFunc_pins (h k : Nat) (f : Func → Func) : (s.updFunc h k f).pins = s.pins := rfl
@[simp] theorem State.updFunc_mem (h k : Nat) (f : Func → Func) : (s.updFunc h k f).mem = s.mem := rfl
@[simp] theorem State.updFunc_poison (h k : Nat) (f : Func → Func) : (s.updFunc h k f).poison = s.poison := rfl
@[simp] theorem State.updFunc_log (h k : Nat) (f : Func → Func) : (s.updFunc h k f).log = s.log := rfl
@[simp] theorem State.updFunc_now (h k : Nat) (f : Func → Func) : (s.updFunc h k f).now = s.now := rfl
@[simp] theorem State.updFunc_out (h k : Nat) (f : Func → Func) : (s.updFunc h k f).out = s.out := rfl
@[simp] theorem State.updFunc_firmware (h k : Nat) (f : Func → Func) : (s.updFunc h k f).firmware = s.firmware := rfl
@[simp] theorem State.updFunc_free (h k : Nat) (f : Func → Func) : (s.updFunc h k f).free = s.free := rfl
@[simp] theorem State.updFunc_pending (h k : Nat) (f : Func → Func) : (s.updFunc h k f).pending = s.pending := rfl

@[simp] theorem State.countEv_model (code : Nat) (u : LogUnit) : (s.countEv code u).model = s.model := rfl
@[simp] theorem State.countEv_id (code : Nat) (u : LogUnit) : (s.countEv code u).id = s.id := rfl
@[simp] theorem State.countEv_nvm (code : Nat) (u : LogUnit) : (s.countEv code u).nvm = s.nvm := rfl
@[simp] theorem State.countEv_parts (code : Nat) (u : LogUnit) : (s.countEv code u).parts = s.parts := rfl
@[simp] theorem State.countEv_blocks (code : Nat) (u : LogUnit) : (s.countEv code u).blocks = s.blocks := rfl
@[simp] theorem State.countEv_cells (code : Nat) (u : LogUnit) : (s.countEv code u).cells = s.cells := rfl
@[simp] theorem State.countEv_tx (code : Nat) (u : LogUnit) : (s.countEv code u).tx = s.tx := rfl
@[simp] theorem State.countEv_ports (code : Nat) (u : LogUnit) : (s.countEv code u).ports = s.ports := rfl
@[simp] theorem State.countEv_dies (code : Nat) (u : LogUnit) : (s.countEv code u).dies = s.dies := rfl
@[simp] theorem State.countEv_bonds (code : Nat) (u : LogUnit) : (s.countEv code u).bonds = s.bonds := rfl
@[simp] theorem State.countEv_eps (code : Nat) (u : LogUnit) : (s.countEv code u).eps = s.eps := rfl
@[simp] theorem State.countEv_sessions (code : Nat) (u : LogUnit) : (s.countEv code u).sessions = s.sessions := rfl
@[simp] theorem State.countEv_lastSession (code : Nat) (u : LogUnit) : (s.countEv code u).lastSession = s.lastSession := rfl
@[simp] theorem State.countEv_owner (code : Nat) (u : LogUnit) : (s.countEv code u).owner = s.owner := rfl
@[simp] theorem State.countEv_leaseAt (code : Nat) (u : LogUnit) : (s.countEv code u).leaseAt = s.leaseAt := rfl
@[simp] theorem State.countEv_settings (code : Nat) (u : LogUnit) : (s.countEv code u).settings = s.settings := rfl
@[simp] theorem State.countEv_staging (code : Nat) (u : LogUnit) : (s.countEv code u).staging = s.staging := rfl
@[simp] theorem State.countEv_staged (code : Nat) (u : LogUnit) : (s.countEv code u).staged = s.staged := rfl
@[simp] theorem State.countEv_active (code : Nat) (u : LogUnit) : (s.countEv code u).active = s.active := rfl
@[simp] theorem State.countEv_activeB (code : Nat) (u : LogUnit) : (s.countEv code u).activeB = s.activeB := rfl
@[simp] theorem State.countEv_time (code : Nat) (u : LogUnit) : (s.countEv code u).time = s.time := rfl
@[simp] theorem State.countEv_power (code : Nat) (u : LogUnit) : (s.countEv code u).power = s.power := rfl
@[simp] theorem State.countEv_boot (code : Nat) (u : LogUnit) : (s.countEv code u).boot = s.boot := rfl
@[simp] theorem State.countEv_mon (code : Nat) (u : LogUnit) : (s.countEv code u).mon = s.mon := rfl
@[simp] theorem State.countEv_jtag (code : Nat) (u : LogUnit) : (s.countEv code u).jtag = s.jtag := rfl
@[simp] theorem State.countEv_pins (code : Nat) (u : LogUnit) : (s.countEv code u).pins = s.pins := rfl
@[simp] theorem State.countEv_mem (code : Nat) (u : LogUnit) : (s.countEv code u).mem = s.mem := rfl
@[simp] theorem State.countEv_poison (code : Nat) (u : LogUnit) : (s.countEv code u).poison = s.poison := rfl
@[simp] theorem State.countEv_now (code : Nat) (u : LogUnit) : (s.countEv code u).now = s.now := rfl
@[simp] theorem State.countEv_out (code : Nat) (u : LogUnit) : (s.countEv code u).out = s.out := rfl
@[simp] theorem State.countEv_firmware (code : Nat) (u : LogUnit) : (s.countEv code u).firmware = s.firmware := rfl
@[simp] theorem State.countEv_free (code : Nat) (u : LogUnit) : (s.countEv code u).free = s.free := rfl
@[simp] theorem State.countEv_pending (code : Nat) (u : LogUnit) : (s.countEv code u).pending = s.pending := rfl

@[simp] theorem State.draw_model (w k : Nat) : (s.draw w k).2.model = s.model := rfl
@[simp] theorem State.draw_id (w k : Nat) : (s.draw w k).2.id = s.id := rfl
@[simp] theorem State.draw_nvm (w k : Nat) : (s.draw w k).2.nvm = s.nvm := rfl
@[simp] theorem State.draw_parts (w k : Nat) : (s.draw w k).2.parts = s.parts := rfl
@[simp] theorem State.draw_blocks (w k : Nat) : (s.draw w k).2.blocks = s.blocks := rfl
@[simp] theorem State.draw_cells (w k : Nat) : (s.draw w k).2.cells = s.cells := rfl
@[simp] theorem State.draw_tx (w k : Nat) : (s.draw w k).2.tx = s.tx := rfl
@[simp] theorem State.draw_ports (w k : Nat) : (s.draw w k).2.ports = s.ports := rfl
@[simp] theorem State.draw_dies (w k : Nat) : (s.draw w k).2.dies = s.dies := rfl
@[simp] theorem State.draw_bonds (w k : Nat) : (s.draw w k).2.bonds = s.bonds := rfl
@[simp] theorem State.draw_eps (w k : Nat) : (s.draw w k).2.eps = s.eps := rfl
@[simp] theorem State.draw_sessions (w k : Nat) : (s.draw w k).2.sessions = s.sessions := rfl
@[simp] theorem State.draw_lastSession (w k : Nat) : (s.draw w k).2.lastSession = s.lastSession := rfl
@[simp] theorem State.draw_owner (w k : Nat) : (s.draw w k).2.owner = s.owner := rfl
@[simp] theorem State.draw_leaseAt (w k : Nat) : (s.draw w k).2.leaseAt = s.leaseAt := rfl
@[simp] theorem State.draw_settings (w k : Nat) : (s.draw w k).2.settings = s.settings := rfl
@[simp] theorem State.draw_staging (w k : Nat) : (s.draw w k).2.staging = s.staging := rfl
@[simp] theorem State.draw_staged (w k : Nat) : (s.draw w k).2.staged = s.staged := rfl
@[simp] theorem State.draw_active (w k : Nat) : (s.draw w k).2.active = s.active := rfl
@[simp] theorem State.draw_activeB (w k : Nat) : (s.draw w k).2.activeB = s.activeB := rfl
@[simp] theorem State.draw_time (w k : Nat) : (s.draw w k).2.time = s.time := rfl
@[simp] theorem State.draw_power (w k : Nat) : (s.draw w k).2.power = s.power := rfl
@[simp] theorem State.draw_boot (w k : Nat) : (s.draw w k).2.boot = s.boot := rfl
@[simp] theorem State.draw_mon (w k : Nat) : (s.draw w k).2.mon = s.mon := rfl
@[simp] theorem State.draw_jtag (w k : Nat) : (s.draw w k).2.jtag = s.jtag := rfl
@[simp] theorem State.draw_pins (w k : Nat) : (s.draw w k).2.pins = s.pins := rfl
@[simp] theorem State.draw_mem (w k : Nat) : (s.draw w k).2.mem = s.mem := rfl
@[simp] theorem State.draw_poison (w k : Nat) : (s.draw w k).2.poison = s.poison := rfl
@[simp] theorem State.draw_log (w k : Nat) : (s.draw w k).2.log = s.log := rfl
@[simp] theorem State.draw_now (w k : Nat) : (s.draw w k).2.now = s.now := rfl
@[simp] theorem State.draw_out (w k : Nat) : (s.draw w k).2.out = s.out := rfl
@[simp] theorem State.draw_firmware (w k : Nat) : (s.draw w k).2.firmware = s.firmware := rfl
@[simp] theorem State.draw_pending (w k : Nat) : (s.draw w k).2.pending = s.pending := rfl
@[simp] theorem State.draw_free (w k : Nat) : (s.draw w k).2.free = s.free + 1 := rfl

@[simp] theorem State.updPart_model (p : Nat) (g : Partition → Partition) : (s.updPart p g).model = s.model := by
  unfold State.updPart; split <;> rfl
@[simp] theorem State.updPart_id (p : Nat) (g : Partition → Partition) : (s.updPart p g).id = s.id := by
  unfold State.updPart; split <;> rfl
@[simp] theorem State.updPart_nvm (p : Nat) (g : Partition → Partition) : (s.updPart p g).nvm = s.nvm := by
  unfold State.updPart; split <;> rfl
@[simp] theorem State.updPart_blocks (p : Nat) (g : Partition → Partition) : (s.updPart p g).blocks = s.blocks := by
  unfold State.updPart; split <;> rfl
@[simp] theorem State.updPart_cells (p : Nat) (g : Partition → Partition) : (s.updPart p g).cells = s.cells := by
  unfold State.updPart; split <;> rfl
@[simp] theorem State.updPart_tx (p : Nat) (g : Partition → Partition) : (s.updPart p g).tx = s.tx := by
  unfold State.updPart; split <;> rfl
@[simp] theorem State.updPart_ports (p : Nat) (g : Partition → Partition) : (s.updPart p g).ports = s.ports := by
  unfold State.updPart; split <;> rfl
@[simp] theorem State.updPart_dies (p : Nat) (g : Partition → Partition) : (s.updPart p g).dies = s.dies := by
  unfold State.updPart; split <;> rfl
@[simp] theorem State.updPart_bonds (p : Nat) (g : Partition → Partition) : (s.updPart p g).bonds = s.bonds := by
  unfold State.updPart; split <;> rfl
@[simp] theorem State.updPart_eps (p : Nat) (g : Partition → Partition) : (s.updPart p g).eps = s.eps := by
  unfold State.updPart; split <;> rfl
@[simp] theorem State.updPart_sessions (p : Nat) (g : Partition → Partition) : (s.updPart p g).sessions = s.sessions := by
  unfold State.updPart; split <;> rfl
@[simp] theorem State.updPart_lastSession (p : Nat) (g : Partition → Partition) : (s.updPart p g).lastSession = s.lastSession := by
  unfold State.updPart; split <;> rfl
@[simp] theorem State.updPart_owner (p : Nat) (g : Partition → Partition) : (s.updPart p g).owner = s.owner := by
  unfold State.updPart; split <;> rfl
@[simp] theorem State.updPart_leaseAt (p : Nat) (g : Partition → Partition) : (s.updPart p g).leaseAt = s.leaseAt := by
  unfold State.updPart; split <;> rfl
@[simp] theorem State.updPart_settings (p : Nat) (g : Partition → Partition) : (s.updPart p g).settings = s.settings := by
  unfold State.updPart; split <;> rfl
@[simp] theorem State.updPart_staging (p : Nat) (g : Partition → Partition) : (s.updPart p g).staging = s.staging := by
  unfold State.updPart; split <;> rfl
@[simp] theorem State.updPart_staged (p : Nat) (g : Partition → Partition) : (s.updPart p g).staged = s.staged := by
  unfold State.updPart; split <;> rfl
@[simp] theorem State.updPart_active (p : Nat) (g : Partition → Partition) : (s.updPart p g).active = s.active := by
  unfold State.updPart; split <;> rfl
@[simp] theorem State.updPart_activeB (p : Nat) (g : Partition → Partition) : (s.updPart p g).activeB = s.activeB := by
  unfold State.updPart; split <;> rfl
@[simp] theorem State.updPart_time (p : Nat) (g : Partition → Partition) : (s.updPart p g).time = s.time := by
  unfold State.updPart; split <;> rfl
@[simp] theorem State.updPart_power (p : Nat) (g : Partition → Partition) : (s.updPart p g).power = s.power := by
  unfold State.updPart; split <;> rfl
@[simp] theorem State.updPart_boot (p : Nat) (g : Partition → Partition) : (s.updPart p g).boot = s.boot := by
  unfold State.updPart; split <;> rfl
@[simp] theorem State.updPart_mon (p : Nat) (g : Partition → Partition) : (s.updPart p g).mon = s.mon := by
  unfold State.updPart; split <;> rfl
@[simp] theorem State.updPart_jtag (p : Nat) (g : Partition → Partition) : (s.updPart p g).jtag = s.jtag := by
  unfold State.updPart; split <;> rfl
@[simp] theorem State.updPart_pins (p : Nat) (g : Partition → Partition) : (s.updPart p g).pins = s.pins := by
  unfold State.updPart; split <;> rfl
@[simp] theorem State.updPart_mem (p : Nat) (g : Partition → Partition) : (s.updPart p g).mem = s.mem := by
  unfold State.updPart; split <;> rfl
@[simp] theorem State.updPart_poison (p : Nat) (g : Partition → Partition) : (s.updPart p g).poison = s.poison := by
  unfold State.updPart; split <;> rfl
@[simp] theorem State.updPart_log (p : Nat) (g : Partition → Partition) : (s.updPart p g).log = s.log := by
  unfold State.updPart; split <;> rfl
@[simp] theorem State.updPart_now (p : Nat) (g : Partition → Partition) : (s.updPart p g).now = s.now := by
  unfold State.updPart; split <;> rfl
@[simp] theorem State.updPart_out (p : Nat) (g : Partition → Partition) : (s.updPart p g).out = s.out := by
  unfold State.updPart; split <;> rfl
@[simp] theorem State.updPart_firmware (p : Nat) (g : Partition → Partition) : (s.updPart p g).firmware = s.firmware := by
  unfold State.updPart; split <;> rfl
@[simp] theorem State.updPart_free (p : Nat) (g : Partition → Partition) : (s.updPart p g).free = s.free := by
  unfold State.updPart; split <;> rfl
@[simp] theorem State.updPart_pending (p : Nat) (g : Partition → Partition) : (s.updPart p g).pending = s.pending := by
  unfold State.updPart; split <;> rfl

@[simp] theorem State.setPart_regions (p : Nat) (x : Partition) : (s.setPart p x).regions = s.regions := rfl
@[simp] theorem State.setPart_saves (p : Nat) (x : Partition) : (s.setPart p x).saves = s.saves := rfl
@[simp] theorem State.setPart_service (p : Nat) (x : Partition) : (s.setPart p x).service = s.service := rfl

@[simp] theorem State.setBlock_regions (b : Nat) (x : Block) : (s.setBlock b x).regions = s.regions := rfl
@[simp] theorem State.setBlock_saves (b : Nat) (x : Block) : (s.setBlock b x).saves = s.saves := rfl
@[simp] theorem State.setBlock_service (b : Nat) (x : Block) : (s.setBlock b x).service = s.service := rfl

@[simp] theorem State.setCell_regions (c : Nat) (x : Cell) : (s.setCell c x).regions = s.regions := rfl
@[simp] theorem State.setCell_saves (c : Nat) (x : Cell) : (s.setCell c x).saves = s.saves := rfl
@[simp] theorem State.setCell_service (c : Nat) (x : Cell) : (s.setCell c x).service = s.service := rfl

@[simp] theorem State.write_regions (a : Nat) (bs : Bytes) : (s.write a bs).regions = s.regions := rfl
@[simp] theorem State.write_saves (a : Nat) (bs : Bytes) : (s.write a bs).saves = s.saves := rfl
@[simp] theorem State.write_service (a : Nat) (bs : Bytes) : (s.write a bs).service = s.service := rfl

@[simp] theorem State.updEp_regions (h : Nat) (f : Endpoint → Endpoint) : (s.updEp h f).regions = s.regions := rfl
@[simp] theorem State.updEp_saves (h : Nat) (f : Endpoint → Endpoint) : (s.updEp h f).saves = s.saves := rfl
@[simp] theorem State.updEp_service (h : Nat) (f : Endpoint → Endpoint) : (s.updEp h f).service = s.service := rfl

@[simp] theorem State.updPort_regions (q : Nat) (f : Port → Port) : (s.updPort q f).regions = s.regions := rfl
@[simp] theorem State.updPort_saves (q : Nat) (f : Port → Port) : (s.updPort q f).saves = s.saves := rfl
@[simp] theorem State.updPort_service (q : Nat) (f : Port → Port) : (s.updPort q f).service = s.service := rfl

@[simp] theorem State.updTx_regions (q : Nat) (f : PortTx → PortTx) : (s.updTx q f).regions = s.regions := rfl
@[simp] theorem State.updTx_saves (q : Nat) (f : PortTx → PortTx) : (s.updTx q f).saves = s.saves := rfl
@[simp] theorem State.updTx_service (q : Nat) (f : PortTx → PortTx) : (s.updTx q f).service = s.service := rfl

@[simp] theorem State.updDie_regions (k : Nat) (f : Die → Die) : (s.updDie k f).regions = s.regions := rfl
@[simp] theorem State.updDie_saves (k : Nat) (f : Die → Die) : (s.updDie k f).saves = s.saves := rfl
@[simp] theorem State.updDie_service (k : Nat) (f : Die → Die) : (s.updDie k f).service = s.service := rfl

@[simp] theorem State.emit_regions (o : OutEv) : (s.emit o).regions = s.regions := rfl
@[simp] theorem State.emit_saves (o : OutEv) : (s.emit o).saves = s.saves := rfl
@[simp] theorem State.emit_service (o : OutEv) : (s.emit o).service = s.service := rfl

@[simp] theorem State.updBlock_regions (b : Nat) (f : Block → Block) : (s.updBlock b f).regions = s.regions := rfl
@[simp] theorem State.updBlock_saves (b : Nat) (f : Block → Block) : (s.updBlock b f).saves = s.saves := rfl
@[simp] theorem State.updBlock_service (b : Nat) (f : Block → Block) : (s.updBlock b f).service = s.service := rfl

@[simp] theorem State.updCell_regions (c : Nat) (f : Cell → Cell) : (s.updCell c f).regions = s.regions := rfl
@[simp] theorem State.updCell_saves (c : Nat) (f : Cell → Cell) : (s.updCell c f).saves = s.saves := rfl
@[simp] theorem State.updCell_service (c : Nat) (f : Cell → Cell) : (s.updCell c f).service = s.service := rfl

@[simp] theorem State.updFunc_regions (h k : Nat) (f : Func → Func) : (s.updFunc h k f).regions = s.regions := rfl
@[simp] theorem State.updFunc_saves (h k : Nat) (f : Func → Func) : (s.updFunc h k f).saves = s.saves := rfl
@[simp] theorem State.updFunc_service (h k : Nat) (f : Func → Func) : (s.updFunc h k f).service = s.service := rfl

@[simp] theorem State.countEv_regions (code : Nat) (u : LogUnit) : (s.countEv code u).regions = s.regions := rfl
@[simp] theorem State.countEv_saves (code : Nat) (u : LogUnit) : (s.countEv code u).saves = s.saves := rfl
@[simp] theorem State.countEv_service (code : Nat) (u : LogUnit) : (s.countEv code u).service = s.service := rfl

@[simp] theorem State.draw_regions (w k : Nat) : (s.draw w k).2.regions = s.regions := rfl
@[simp] theorem State.draw_saves (w k : Nat) : (s.draw w k).2.saves = s.saves := rfl
@[simp] theorem State.draw_service (w k : Nat) : (s.draw w k).2.service = s.service := rfl

@[simp] theorem State.updPart_regions (p : Nat) (g : Partition → Partition) : (s.updPart p g).regions = s.regions := by
  unfold State.updPart; split <;> rfl
@[simp] theorem State.updPart_saves (p : Nat) (g : Partition → Partition) : (s.updPart p g).saves = s.saves := by
  unfold State.updPart; split <;> rfl
@[simp] theorem State.updPart_service (p : Nat) (g : Partition → Partition) : (s.updPart p g).service = s.service := by
  unfold State.updPart; split <;> rfl

@[simp] theorem State.setRegion_model (r : Nat) (x : Region) : (s.setRegion r x).model = s.model := rfl
@[simp] theorem State.setRegion_id (r : Nat) (x : Region) : (s.setRegion r x).id = s.id := rfl
@[simp] theorem State.setRegion_nvm (r : Nat) (x : Region) : (s.setRegion r x).nvm = s.nvm := rfl
@[simp] theorem State.setRegion_parts (r : Nat) (x : Region) : (s.setRegion r x).parts = s.parts := rfl
@[simp] theorem State.setRegion_blocks (r : Nat) (x : Region) : (s.setRegion r x).blocks = s.blocks := rfl
@[simp] theorem State.setRegion_cells (r : Nat) (x : Region) : (s.setRegion r x).cells = s.cells := rfl
@[simp] theorem State.setRegion_saves (r : Nat) (x : Region) : (s.setRegion r x).saves = s.saves := rfl
@[simp] theorem State.setRegion_tx (r : Nat) (x : Region) : (s.setRegion r x).tx = s.tx := rfl
@[simp] theorem State.setRegion_ports (r : Nat) (x : Region) : (s.setRegion r x).ports = s.ports := rfl
@[simp] theorem State.setRegion_dies (r : Nat) (x : Region) : (s.setRegion r x).dies = s.dies := rfl
@[simp] theorem State.setRegion_service (r : Nat) (x : Region) : (s.setRegion r x).service = s.service := rfl
@[simp] theorem State.setRegion_bonds (r : Nat) (x : Region) : (s.setRegion r x).bonds = s.bonds := rfl
@[simp] theorem State.setRegion_eps (r : Nat) (x : Region) : (s.setRegion r x).eps = s.eps := rfl
@[simp] theorem State.setRegion_sessions (r : Nat) (x : Region) : (s.setRegion r x).sessions = s.sessions := rfl
@[simp] theorem State.setRegion_lastSession (r : Nat) (x : Region) : (s.setRegion r x).lastSession = s.lastSession := rfl
@[simp] theorem State.setRegion_owner (r : Nat) (x : Region) : (s.setRegion r x).owner = s.owner := rfl
@[simp] theorem State.setRegion_leaseAt (r : Nat) (x : Region) : (s.setRegion r x).leaseAt = s.leaseAt := rfl
@[simp] theorem State.setRegion_settings (r : Nat) (x : Region) : (s.setRegion r x).settings = s.settings := rfl
@[simp] theorem State.setRegion_staging (r : Nat) (x : Region) : (s.setRegion r x).staging = s.staging := rfl
@[simp] theorem State.setRegion_staged (r : Nat) (x : Region) : (s.setRegion r x).staged = s.staged := rfl
@[simp] theorem State.setRegion_active (r : Nat) (x : Region) : (s.setRegion r x).active = s.active := rfl
@[simp] theorem State.setRegion_activeB (r : Nat) (x : Region) : (s.setRegion r x).activeB = s.activeB := rfl
@[simp] theorem State.setRegion_time (r : Nat) (x : Region) : (s.setRegion r x).time = s.time := rfl
@[simp] theorem State.setRegion_power (r : Nat) (x : Region) : (s.setRegion r x).power = s.power := rfl
@[simp] theorem State.setRegion_boot (r : Nat) (x : Region) : (s.setRegion r x).boot = s.boot := rfl
@[simp] theorem State.setRegion_mon (r : Nat) (x : Region) : (s.setRegion r x).mon = s.mon := rfl
@[simp] theorem State.setRegion_jtag (r : Nat) (x : Region) : (s.setRegion r x).jtag = s.jtag := rfl
@[simp] theorem State.setRegion_pins (r : Nat) (x : Region) : (s.setRegion r x).pins = s.pins := rfl
@[simp] theorem State.setRegion_mem (r : Nat) (x : Region) : (s.setRegion r x).mem = s.mem := rfl
@[simp] theorem State.setRegion_poison (r : Nat) (x : Region) : (s.setRegion r x).poison = s.poison := rfl
@[simp] theorem State.setRegion_log (r : Nat) (x : Region) : (s.setRegion r x).log = s.log := rfl
@[simp] theorem State.setRegion_now (r : Nat) (x : Region) : (s.setRegion r x).now = s.now := rfl
@[simp] theorem State.setRegion_out (r : Nat) (x : Region) : (s.setRegion r x).out = s.out := rfl
@[simp] theorem State.setRegion_firmware (r : Nat) (x : Region) : (s.setRegion r x).firmware = s.firmware := rfl
@[simp] theorem State.setRegion_free (r : Nat) (x : Region) : (s.setRegion r x).free = s.free := rfl
@[simp] theorem State.setRegion_pending (r : Nat) (x : Region) : (s.setRegion r x).pending = s.pending := rfl

@[simp] theorem State.updRegion_model (r : Nat) (g : Region → Region) : (s.updRegion r g).model = s.model := rfl
@[simp] theorem State.updRegion_id (r : Nat) (g : Region → Region) : (s.updRegion r g).id = s.id := rfl
@[simp] theorem State.updRegion_nvm (r : Nat) (g : Region → Region) : (s.updRegion r g).nvm = s.nvm := rfl
@[simp] theorem State.updRegion_parts (r : Nat) (g : Region → Region) : (s.updRegion r g).parts = s.parts := rfl
@[simp] theorem State.updRegion_blocks (r : Nat) (g : Region → Region) : (s.updRegion r g).blocks = s.blocks := rfl
@[simp] theorem State.updRegion_cells (r : Nat) (g : Region → Region) : (s.updRegion r g).cells = s.cells := rfl
@[simp] theorem State.updRegion_saves (r : Nat) (g : Region → Region) : (s.updRegion r g).saves = s.saves := rfl
@[simp] theorem State.updRegion_tx (r : Nat) (g : Region → Region) : (s.updRegion r g).tx = s.tx := rfl
@[simp] theorem State.updRegion_ports (r : Nat) (g : Region → Region) : (s.updRegion r g).ports = s.ports := rfl
@[simp] theorem State.updRegion_dies (r : Nat) (g : Region → Region) : (s.updRegion r g).dies = s.dies := rfl
@[simp] theorem State.updRegion_service (r : Nat) (g : Region → Region) : (s.updRegion r g).service = s.service := rfl
@[simp] theorem State.updRegion_bonds (r : Nat) (g : Region → Region) : (s.updRegion r g).bonds = s.bonds := rfl
@[simp] theorem State.updRegion_eps (r : Nat) (g : Region → Region) : (s.updRegion r g).eps = s.eps := rfl
@[simp] theorem State.updRegion_sessions (r : Nat) (g : Region → Region) : (s.updRegion r g).sessions = s.sessions := rfl
@[simp] theorem State.updRegion_lastSession (r : Nat) (g : Region → Region) : (s.updRegion r g).lastSession = s.lastSession := rfl
@[simp] theorem State.updRegion_owner (r : Nat) (g : Region → Region) : (s.updRegion r g).owner = s.owner := rfl
@[simp] theorem State.updRegion_leaseAt (r : Nat) (g : Region → Region) : (s.updRegion r g).leaseAt = s.leaseAt := rfl
@[simp] theorem State.updRegion_settings (r : Nat) (g : Region → Region) : (s.updRegion r g).settings = s.settings := rfl
@[simp] theorem State.updRegion_staging (r : Nat) (g : Region → Region) : (s.updRegion r g).staging = s.staging := rfl
@[simp] theorem State.updRegion_staged (r : Nat) (g : Region → Region) : (s.updRegion r g).staged = s.staged := rfl
@[simp] theorem State.updRegion_active (r : Nat) (g : Region → Region) : (s.updRegion r g).active = s.active := rfl
@[simp] theorem State.updRegion_activeB (r : Nat) (g : Region → Region) : (s.updRegion r g).activeB = s.activeB := rfl
@[simp] theorem State.updRegion_time (r : Nat) (g : Region → Region) : (s.updRegion r g).time = s.time := rfl
@[simp] theorem State.updRegion_power (r : Nat) (g : Region → Region) : (s.updRegion r g).power = s.power := rfl
@[simp] theorem State.updRegion_boot (r : Nat) (g : Region → Region) : (s.updRegion r g).boot = s.boot := rfl
@[simp] theorem State.updRegion_mon (r : Nat) (g : Region → Region) : (s.updRegion r g).mon = s.mon := rfl
@[simp] theorem State.updRegion_jtag (r : Nat) (g : Region → Region) : (s.updRegion r g).jtag = s.jtag := rfl
@[simp] theorem State.updRegion_pins (r : Nat) (g : Region → Region) : (s.updRegion r g).pins = s.pins := rfl
@[simp] theorem State.updRegion_mem (r : Nat) (g : Region → Region) : (s.updRegion r g).mem = s.mem := rfl
@[simp] theorem State.updRegion_poison (r : Nat) (g : Region → Region) : (s.updRegion r g).poison = s.poison := rfl
@[simp] theorem State.updRegion_log (r : Nat) (g : Region → Region) : (s.updRegion r g).log = s.log := rfl
@[simp] theorem State.updRegion_now (r : Nat) (g : Region → Region) : (s.updRegion r g).now = s.now := rfl
@[simp] theorem State.updRegion_out (r : Nat) (g : Region → Region) : (s.updRegion r g).out = s.out := rfl
@[simp] theorem State.updRegion_firmware (r : Nat) (g : Region → Region) : (s.updRegion r g).firmware = s.firmware := rfl
@[simp] theorem State.updRegion_free (r : Nat) (g : Region → Region) : (s.updRegion r g).free = s.free := rfl
@[simp] theorem State.updRegion_pending (r : Nat) (g : Region → Region) : (s.updRegion r g).pending = s.pending := rfl

@[simp] theorem State.updFrame_model (p : Nat) (g : Frame → Frame) : (s.updFrame p g).model = s.model := by simp [State.updFrame]
@[simp] theorem State.updFrame_id (p : Nat) (g : Frame → Frame) : (s.updFrame p g).id = s.id := by simp [State.updFrame]
@[simp] theorem State.updFrame_nvm (p : Nat) (g : Frame → Frame) : (s.updFrame p g).nvm = s.nvm := by simp [State.updFrame]
@[simp] theorem State.updFrame_blocks (p : Nat) (g : Frame → Frame) : (s.updFrame p g).blocks = s.blocks := by simp [State.updFrame]
@[simp] theorem State.updFrame_cells (p : Nat) (g : Frame → Frame) : (s.updFrame p g).cells = s.cells := by simp [State.updFrame]
@[simp] theorem State.updFrame_regions (p : Nat) (g : Frame → Frame) : (s.updFrame p g).regions = s.regions := by simp [State.updFrame]
@[simp] theorem State.updFrame_saves (p : Nat) (g : Frame → Frame) : (s.updFrame p g).saves = s.saves := by simp [State.updFrame]
@[simp] theorem State.updFrame_tx (p : Nat) (g : Frame → Frame) : (s.updFrame p g).tx = s.tx := by simp [State.updFrame]
@[simp] theorem State.updFrame_ports (p : Nat) (g : Frame → Frame) : (s.updFrame p g).ports = s.ports := by simp [State.updFrame]
@[simp] theorem State.updFrame_dies (p : Nat) (g : Frame → Frame) : (s.updFrame p g).dies = s.dies := by simp [State.updFrame]
@[simp] theorem State.updFrame_service (p : Nat) (g : Frame → Frame) : (s.updFrame p g).service = s.service := by simp [State.updFrame]
@[simp] theorem State.updFrame_bonds (p : Nat) (g : Frame → Frame) : (s.updFrame p g).bonds = s.bonds := by simp [State.updFrame]
@[simp] theorem State.updFrame_eps (p : Nat) (g : Frame → Frame) : (s.updFrame p g).eps = s.eps := by simp [State.updFrame]
@[simp] theorem State.updFrame_sessions (p : Nat) (g : Frame → Frame) : (s.updFrame p g).sessions = s.sessions := by simp [State.updFrame]
@[simp] theorem State.updFrame_lastSession (p : Nat) (g : Frame → Frame) : (s.updFrame p g).lastSession = s.lastSession := by simp [State.updFrame]
@[simp] theorem State.updFrame_owner (p : Nat) (g : Frame → Frame) : (s.updFrame p g).owner = s.owner := by simp [State.updFrame]
@[simp] theorem State.updFrame_leaseAt (p : Nat) (g : Frame → Frame) : (s.updFrame p g).leaseAt = s.leaseAt := by simp [State.updFrame]
@[simp] theorem State.updFrame_settings (p : Nat) (g : Frame → Frame) : (s.updFrame p g).settings = s.settings := by simp [State.updFrame]
@[simp] theorem State.updFrame_staging (p : Nat) (g : Frame → Frame) : (s.updFrame p g).staging = s.staging := by simp [State.updFrame]
@[simp] theorem State.updFrame_staged (p : Nat) (g : Frame → Frame) : (s.updFrame p g).staged = s.staged := by simp [State.updFrame]
@[simp] theorem State.updFrame_active (p : Nat) (g : Frame → Frame) : (s.updFrame p g).active = s.active := by simp [State.updFrame]
@[simp] theorem State.updFrame_activeB (p : Nat) (g : Frame → Frame) : (s.updFrame p g).activeB = s.activeB := by simp [State.updFrame]
@[simp] theorem State.updFrame_time (p : Nat) (g : Frame → Frame) : (s.updFrame p g).time = s.time := by simp [State.updFrame]
@[simp] theorem State.updFrame_power (p : Nat) (g : Frame → Frame) : (s.updFrame p g).power = s.power := by simp [State.updFrame]
@[simp] theorem State.updFrame_boot (p : Nat) (g : Frame → Frame) : (s.updFrame p g).boot = s.boot := by simp [State.updFrame]
@[simp] theorem State.updFrame_mon (p : Nat) (g : Frame → Frame) : (s.updFrame p g).mon = s.mon := by simp [State.updFrame]
@[simp] theorem State.updFrame_jtag (p : Nat) (g : Frame → Frame) : (s.updFrame p g).jtag = s.jtag := by simp [State.updFrame]
@[simp] theorem State.updFrame_pins (p : Nat) (g : Frame → Frame) : (s.updFrame p g).pins = s.pins := by simp [State.updFrame]
@[simp] theorem State.updFrame_mem (p : Nat) (g : Frame → Frame) : (s.updFrame p g).mem = s.mem := by simp [State.updFrame]
@[simp] theorem State.updFrame_poison (p : Nat) (g : Frame → Frame) : (s.updFrame p g).poison = s.poison := by simp [State.updFrame]
@[simp] theorem State.updFrame_log (p : Nat) (g : Frame → Frame) : (s.updFrame p g).log = s.log := by simp [State.updFrame]
@[simp] theorem State.updFrame_now (p : Nat) (g : Frame → Frame) : (s.updFrame p g).now = s.now := by simp [State.updFrame]
@[simp] theorem State.updFrame_out (p : Nat) (g : Frame → Frame) : (s.updFrame p g).out = s.out := by simp [State.updFrame]
@[simp] theorem State.updFrame_firmware (p : Nat) (g : Frame → Frame) : (s.updFrame p g).firmware = s.firmware := by simp [State.updFrame]
@[simp] theorem State.updFrame_free (p : Nat) (g : Frame → Frame) : (s.updFrame p g).free = s.free := by simp [State.updFrame]
@[simp] theorem State.updFrame_pending (p : Nat) (g : Frame → Frame) : (s.updFrame p g).pending = s.pending := by simp [State.updFrame]

end

end Sys2Proof.Machine
end

