-- ==== Sys2Proof/Tests/Slice0.lean ====
section
/-! SUPPORT. The model's own tests: what WellFormed refuses, states and operands that meet the hypotheses of the statements
together (`meets_…`), and small facts worked out by hand from the rules (`test_…`). -/

namespace Sys2Proof.Tests

open Sys2Proof Sys2Proof.Machine Sys2Proof.Claims

/-! ### States -/

/-- A Negative for one tile, with room for everything the tests need. -/
def neg0 : Neg := { tileCount := 1, fFloor := 1500, fMax := 1500, fSched := 1500, schedLen := 1000, frameCount := 100 }
def part0 : Partition := { tiles := [0], state := .running, keys := true, neg := some neg0, fab := some neg0 }
def block0 : Block := { atTick := false, bundles := List.replicate 8 0, predBase := 0xFD }
/-- One partition that runs, its block 0 at its first bundle; p1 is 0 there, every other predicate 1. -/
def run0 : State := { State.reset with parts := [(0, part0)], blocks := [(0, block0)] }
def runWith (b : Block) : State := { run0 with blocks := [(0, b)] }
def runCell (c : Cell) : State := { run0 with cells := [(0, c)] }
def runNeg (n : Neg) : State := { run0 with parts := [(0, { part0 with neg := some n })] }
def iss : Issue := ⟨0, 0, 0, 0, .good, false⟩
def ctx (slot : Nat) : Ctx := ⟨0, 0, 0, 0, slot, 0, 0⟩
def opened (s : State) (slot : Nat) : State := (openIssue s iss slot).1
def issued (s : State) (slot : Nat) : State := hazPred (opened s slot) (ctx slot) 0

theorem issues_of {s : State} {slot : Nat} (h : (openIssue s iss slot).2 = some (ctx slot))
    (hp : predOn (issued s slot) (ctx slot) = true) : Issues s iss slot (ctx slot) (issued s slot) :=
  ⟨opened s slot, by rw [← h]; rfl, rfl, hp⟩

theorem always_of {s : State} {slot : Nat} (h : (openIssue s iss slot).2 = some (ctx slot)) :
    IssuesAlways s iss slot (ctx slot) (opened s slot) := by
  unfold IssuesAlways
  rw [← h]; rfl

/-- State, registers and predicate of an M operation. -/
def openedM (s : State) (fr : Nat → Int) : State := (openM s iss fr).1
theorem issuesM_of {s : State} {fr : Nat → Int} (h : (openM s iss fr).2 = some (ctx 2, [], true)) :
    IssuesM s iss fr (ctx 2) (openedM s fr) [] := by
  unfold IssuesM
  rw [← h]; rfl

/-- Session 1, an OPERATOR, owns the part; the partitions are those given. -/
def ownedParts (ps : FMap Partition) : State :=
  { State.reset with sessions := [(1, ⟨.operator, 0, {}⟩)], lastSession := 1, owner := some 1, parts := ps }
def owned (p : Partition) : State := ownedParts [(0, p)]
/-- A frame of session 1 for partition 0, and one without a target. -/
def env (len : BitVec 16) : Envelope := ⟨.session 1, 1, 1, 0, len, 0, false, false⟩
def envNone (len : BitVec 16) : Envelope := { env len with target := 0xFFFF }
def entered (s : State) (e : Envelope) (code : Nat) : State := (s.admitted e code).getD s

theorem accepts_of {s : State} {e : Envelope} {c : CmdSpec} {t : Option Nat} (h : (s.admitted e c.code).isSome = true)
    (hp : precheck (entered s e c.code) e c = .inr t) : Accepts s e c (entered s e c.code) t := by
  refine ⟨?_, hp⟩
  unfold entered
  cases hx : s.admitted e c.code with
  | none => rw [hx] at h; cases h
  | some x => rfl

theorem run0_issues (k : Nat) (h : k ∈ [1, 3, 4, 5]) : Issues run0 iss k (ctx k) (issued run0 k) := by
  have hk : ∀ k ∈ [1, 3, 4, 5], (openIssue run0 iss k).2 = some (ctx k) ∧ predOn (issued run0 k) (ctx k) = true := by decide
  exact issues_of (hk k h).1 (hk k h).2

/-! ### Bundle operations: hypotheses that are met -/

def vf (type : BitVec 4) (km : BitVec 3) (func : BitVec 8) (imm : BitVec 16) : VecF := ⟨1, 2, 3, 0, type, km, func, imm⟩
def vf1 (type : BitVec 4) (func : BitVec 8) (imm : BitVec 16) : VecF := ⟨1, 2, 0, 0, type, 0, func, imm⟩
def vf0 (type : BitVec 4) (func : BitVec 8) (imm : BitVec 16) : VecF := ⟨0, 0, 0, 0, type, 0, func, imm⟩

theorem meets_IntegerLanes : Issues run0 iss 3 (ctx 3) (issued run0 3) ∧ ((vf 10 7 0 0).type = 10 ∧ plain2 (vf 10 7 0 0)) ∧
    ((vf1 10 0 0).type = 10 ∧ plain1 (vf1 10 0 0)) :=
  ⟨run0_issues 3 (by decide), by unfold plain2; decide, by unfold plain1 plain2; decide⟩

theorem meets_FloatLanes : Issues run0 iss 3 (ctx 3) (issued run0 3) ∧
    ∀ t ∈ [(7 : BitVec 4), 8, 9], (floatType (vf t 0 0 0) ∧ plain2 (vf t 0 0 0)) ∧ (floatType (vf1 t 0 0) ∧ plain1 (vf1 t 0 0)) ∧
      floatType { vf t 0 0 0 with vc := 63 } :=
  ⟨run0_issues 3 (by decide), by unfold floatType plain1 plain2; decide⟩

theorem meets_BitLanes : Issues run0 iss 3 (ctx 3) (issued run0 3) ∧
    (laneType (vf 10 0 0 0) ∧ plain2 (vf 10 0 0 0)) ∧ ((vf1 10 0 31).type = 10 ∧ (vf1 10 0 31).imm.toNat < 32) ∧
    ((vf1 10 1 31).func.toNat < 2 ∧ (vf1 10 1 31).imm.toNat < 32) ∧ (laneType (vf 7 0 7 0) ∧ (vf 7 0 7 0).func.toNat < 8) ∧
    (laneType (vf0 9 0 0xFFFF) ∧ (vf0 9 0 0xFFFF).func = 0) ∧ (vf0 10 0 0x8000).type = 10 :=
  ⟨run0_issues 3 (by decide), by unfold laneType floatType plain2; decide⟩

theorem meets_SpecialUnit : (Issues run0 iss 3 (ctx 3) (issued run0 3) ∧ ((issued run0 3).block 0).specialFree ≤ (ctx 3).t ∧
      floatType (vf 9 0 0 0) ∧ plain2 (vf 9 0 0 0) ∧ plain1 (vf1 7 0 0)) ∧
    let s := runWith { block0 with specialFree := 1 }
    Issues s iss 3 (ctx 3) (issued s 3) ∧ (ctx 3).t < ((issued s 3).block 0).specialFree :=
  ⟨⟨run0_issues 3 (by decide), by decide, by unfold floatType plain1 plain2; decide⟩, issues_of (by decide) (by decide), by decide⟩

theorem meets_MaskWrites : Issues run0 iss 3 (ctx 3) (issued run0 3) ∧
    (let f : VecF := ⟨0, 2, 3, 0, 9, 5, 14, 31⟩
     laneType f ∧ f.func.toNat < 64 ∧ f.imm.toNat < 32 ∧ f.func.toNat % 8 ≠ 7 ∧ f.func.toNat / 8 ≠ 0 ∧
        (f.imm.getLsbD 3 = true → f.imm.toNat % 8 ≠ 0)) ∧
    (let f := vf0 0 63 55
     f.func.toNat < 64 ∧ f.imm.toNat < 64 ∧ f.imm.getLsbD 3 = false ∧ f.imm.toNat % 8 ≠ 0) ∧
    (let f : VecF := ⟨0, 2, 3, 0, 10, 0, 6, 0⟩; laneType f ∧ f.func.toNat < 7 ∧ f.imm = 0) ∧
    let f := vf0 0 63 0; f.func.toNat < 64 ∧ f.imm = 0 :=
  ⟨run0_issues 3 (by decide), by unfold laneType floatType; decide⟩

theorem meets_Conversions : Issues run0 iss 3 (ctx 3) (issued run0 3) ∧ ((issued run0 3).block 0).specialFree ≤ (ctx 3).t ∧
    (let f := vf1 10 9 1; f.func.toNat < 16 ∧ f.imm.toNat < 2 ∧ convFormat f.type.toNat ∧ convFormat f.func.toNat) ∧
    (let f := vf1 5 9 3; f.imm.toNat < 4 ∧ convFormat f.type.toNat ∧ f.type ≠ 9 ∧ f.type ≠ 10) ∧
    (let f := vf1 9 15 1; f.func.toNat < 16 ∧ f.imm = 1 ∧ f.type ≠ 10) ∧
    let f := vf1 10 4 0; f.func.toNat < 11 ∧ f.type.toNat < 11 ∧ ¬(convFormat f.type.toNat ∧ convFormat f.func.toNat) :=
  ⟨run0_issues 3 (by decide), by unfold convFormat; decide⟩

theorem meets_Quantisation : Issues run0 iss 3 (ctx 3) (issued run0 3) ∧ ((issued run0 3).block 0).specialFree ≤ (ctx 3).t ∧
    (planesFit 4 (vf0 0 4 0x3818) ∧ planesFit 3 (vf0 0 3 0x0D00)) ∧ planesFit 6 (vf0 0 6 24) ∧
    (¬planesFit 4 (vf0 0 4 25) ∧ ¬planesFit 3 (vf0 0 3 0x0600)) :=
  ⟨run0_issues 3 (by decide), by unfold planesFit; decide⟩

theorem meets_Reductions : Issues run0 iss 3 (ctx 3) (issued run0 3) ∧ (floatType (vf1 9 0 0) ∧ plain1 (vf1 9 0 0)) ∧
    ((issued run0 3).block 0).specialFree ≤ (ctx 3).t ∧ (vf1 9 0 0x7FF).imm.toNat < 0x800 ∧ (vf1 9 0 0x7FF).imm.getLsbD 10 = true ∧
    (vf0 10 0 0x3FF).imm.getLsbD 10 = false :=
  ⟨run0_issues 3 (by decide), by unfold floatType plain1 plain2; decide⟩

theorem meets_LoadsAndStores : Issues run0 iss 3 (ctx 3) (issued run0 3) ∧ memWf (issued run0 3).mem = true ∧
    ldFits (issued run0 3) (ctx 3) ⟨1, 0, 15, 0xFFF⟩ [0, 1, 2, 3] 256 1 ∧
    (∀ k < 4, dueReadFails (issued run0 3) 0 (BitVec.ofNat 2 k) (ldAddr (issued run0 3) (ctx 3) ⟨1, 0, 15, 0xFFF⟩) 0 = none) ∧
    ldFits (issued run0 3) (ctx 3) ⟨1, 0, 8, 0xFFC⟩ [3] 1024 4 ∧
    0x100000 < ldAddr (issued run0 3) (ctx 3) ⟨1, 0, 1, 0xFFD⟩ + 1024 ∧ (⟨1, 0, 3, 0⟩ : LdStF).cells.toNat ∉ [1, 2, 4, 8, 15] :=
  ⟨run0_issues 3 (by decide), by unfold ldFits; decide⟩

theorem meets_ResultsLand :
    let v : VPend := ⟨3, 1, 5, 7, 1, 0⟩
    let u : VPend := ⟨3, 0, 5, 9, 1, 0⟩
    let b : Block := { vpend := [u, v] }
    (v ∈ b.vpend ∧ v.due ≤ 3 ∧ (∀ x ∈ b.vpend, x ≠ v → x.reg = v.reg → x.due ≤ 3 → x.due < v.due ∨ (x.due = v.due ∧ x.issue < v.issue)) ∧
      b.vpend.count v = 1 ∧ v.en.getLsbD 0 = true ∧ field 8 ((landVecs b 3).vreg 5).toNat 0 = 7) ∧
    (∀ x ∈ b.vpend, x.reg = 5 → x.due ≤ 3 → x.en.getLsbD 1 = false) ∧
    let m : MPend := ⟨2, 0, 7, 5, 0⟩
    (landVecs { mpend := [m] } 2).mask 7 = 5 := by decide +kernel

theorem meets_AddressRegisters : Issues run0 iss 1 (ctx 1) (issued run0 1) ∧ arOrdered ((issued run0 1).block (ctx 1).bix) :=
  ⟨run0_issues 1 (by decide), by unfold arOrdered; decide⟩

theorem meets_PredicateWrites : Issues run0 iss 1 (ctx 1) (issued run0 1) ∧ (issued run0 1).part 0 = some part0 ∧
    ((issued run0 1).block 0).predLog = [] ∧
    slotBits 1 31 15 = 0 ∧ (slotBits 0x7FFE 14 14 = 0 ∧ slotBits 0x7FFE 31 29 = 0) ∧ slotBits 0xFF 31 22 = 0 ∧ slotBits 13 18 14 ≤ 13 ∧
    13 < slotBits 14 18 14 ∧ slotBits 2 31 15 ≠ 0 ∧ slotBits 0x8000 31 29 ≠ 0 ∧ slotBits 0x100 31 22 ≠ 0 :=
  ⟨run0_issues 1 (by decide), rfl, by decide⟩

theorem loopFits_of {b : Block} {e a : Nat} (h : b.loops = []) (ha : a < e) : loopFits b e a :=
  ⟨by rw [h]; decide, ha, fun l rest hl => by rw [h] at hl; cases hl⟩

theorem meets_SequencerControls :
    IssuesAlways run0 iss 1 (ctx 1) (opened run0 1) ∧ loopFits ((opened run0 1).block 0) 1 0 ∧
    (arOf (arForecast ((opened run0 1).block 0) 0 0) 0).toNat ≤ 16777215 ∧
    ¬loopFits ((opened run0 1).block 0) 0 0 ∧
    (let s := runWith { block0 with loops := List.replicate 4 ⟨0, 7, 1, 0⟩ }
     IssuesAlways s iss 1 (ctx 1) (opened s 1) ∧ 4 ≤ ((opened s 1).block 0).loops.length) ∧
    let s := runWith { block0 with arBase := [(1, 16777216)] }
    IssuesAlways s iss 1 (ctx 1) (opened s 1) ∧ loopFits ((opened s 1).block 0) 1 0 ∧
      16777215 < (arOf (arForecast ((opened s 1).block 0) 0 0) 1).toNat :=
  ⟨always_of (by decide), loopFits_of (by decide) (by decide), by decide, fun h => absurd h.2.1 (by decide),
    ⟨always_of (by decide), by decide⟩, always_of (by decide), loopFits_of (by decide) (by decide), by decide⟩

theorem meets_LoopsTakeTheirCycles :
    let b : Block := { block0 with opening := some (2, 3) }
    (b.atTick = false ∧ b.wait = 0 ∧ b.addr < 2 ∧ 3 < b.streamLen ∧ (∀ l ∈ b.loops, 2 < l.endA) ∧ (seqTo 8 b 7).1.addr = 3) ∧
    (seqNext { block0 with opening := some (2, 0) }).addr = 3 ∧
    block0.opening = none ∧ block0.loops = [] ∧ (seqNext { block0 with wait := 5 }).cycle = 6 := by decide

theorem meets_WaitsExpire :
    let s := runWith { block0 with wait := 3 }
    runningBlock s 0 0 = some 0 ∧
    let b := (advanceRegion s 0 0 4).block 0
    b.atTick = false ∧ b.opening = none ∧ b.loops = [] ∧ b.cycle + 1 + b.wait = 4 ∧ b.addr + 1 < 8192 ∧ b.addr + 1 < b.streamLen := by
  decide

theorem meets_FlagsAndTokens :
    (Issues run0 iss 1 (ctx 1) (issued run0 1) ∧ (1 : BitVec 16) &&& ~~~((issued run0 1).block 0).flags ≠ 0 ∧
      (∀ x ∈ ((issued run0 1).block 0).tokensDue, (ctx 1).t < x.1) ∧ (issued run0 1).part 0 = some part0 ∧
      (35 : Nat) < 36 * part0.tiles.length ∧ 35 / 36 = (ctx 1).lg / 36 ∧ 35 / 6 ≠ (ctx 1).lg / 6 ∧ 5 / 6 = (ctx 1).lg / 6 ∧
      36 * part0.tiles.length ≤ 36) ∧
    (let s := runWith { block0 with flags := 1, tokens := 0x8000 }
     Issues s iss 1 (ctx 1) (issued s 1) ∧ (1 : BitVec 16) &&& ~~~((issued s 1).block 0).flags = 0 ∧
        (0x8000 : BitVec 16) &&& ~~~((issued s 1).block 0).tokens = 0) ∧
    let s := runWith { block0 with tokensDue := [(9, 15)] }
    runningBlock s 0 0 = some 0 ∧ ∃ x ∈ ((passTo s 0 0 2).block 0).tokensDue, x.2 = 15 :=
  ⟨⟨run0_issues 1 (by decide), by decide, by decide, rfl, by decide, by decide, by decide, by decide, by decide⟩,
    ⟨issues_of (by decide) (by decide), by decide⟩, by decide, by decide⟩

theorem meets_TankBase :
    (Issues run0 iss 1 (ctx 1) (issued run0 1) ∧ ∀ k < 4, ((issued run0 1).cell k).engFree ≤ (ctx 1).t ∧
      ((issued run0 1).cell k).lastLand = none ∧ ((issued run0 1).cell k).mops = []) ∧
    let s := runCell { engFree := 1 }
    Issues s iss 1 (ctx 1) (issued s 1) ∧ (1 : BitVec 4).getLsbD 0 = true ∧ (ctx 1).t < ((issued s 1).cell 0).engFree :=
  ⟨⟨run0_issues 1 (by decide), by decide⟩, issues_of (by decide) (by decide), by decide⟩

theorem meets_SuppressedOperations :
    let i : Issue := { iss with pred := 1 }
    ∀ k ∈ [1, 3], let c : Ctx := ⟨0, 0, 0, 0, k, 0, 1⟩
      (openIssue run0 i k).2 = some c ∧ predOn (hazPred (openIssue run0 i k).1 c 0) c = false := by decide

theorem meets_IllegalBundles : openIssue run0 iss 3 = (opened run0 3, some (ctx 3)) ∧ (opened run0 3).log.used < 4096 ∧
    iss.rsvd = false ∧ iss.fetch = .good ∧
    (∃ v, fmGet (opened run0 3).saves 0 = some v ∧ v.cycle = (ctx 3).t ∧ v.cells.length = 4) :=
  ⟨always_of (by decide), by decide, rfl, rfl, _, rfl, rfl, rfl⟩

theorem meets_TankContribution : tankContribution 1 (-1) = (0, false) ∧ tankContribution (-3) (-1) = (-1, false) ∧
    tankContribution (2 ^ 70) 1 = (2 ^ 71 - 1, true) ∧ tankContribution (2 ^ 71 - 1) 0 = (2 ^ 71 - 1, false) := by decide

theorem meets_TankSumsAreExact :
    let ks : List Contrib := [{ vals := [(0, 2 ^ 71 - 1), (5, -3)], poison := 0, clamps := 0 }, { vals := [(0, -(2 ^ 71 - 1))], poison := 0, clamps := 0 }]
    (∀ k ∈ ks, rising k.vals) ∧ (∀ k ∈ ks, ∀ v ∈ k.vals, v.2.natAbs ≤ 2 ^ 71 - 1) ∧
      tank (ks.foldl Cell.addContrib {}) 5 = -3 := by unfold rising tank; decide

def mma0 : MmaF := ⟨1, 0, 0, 0, 0, 0, 0, false, false, false, 0, 0, 0, 0⟩
theorem selected0 {x : Nat} (h : selected (ctx 2) 1 x) : x = 0 := by
  obtain ⟨k, hk, hm, rfl⟩ := h
  match k, hk with
  | 0, _ => rfl
  | 1, _ => exact absurd hm (by decide)
  | 2, _ => exact absurd hm (by decide)
  | 3, _ => exact absurd hm (by decide)

/-- Nothing stands against an operation on cell 0 of a state in which it is idle. -/
theorem ready_of {s : State} {caps : Nat → List Cap} {ranges : List (Nat × Nat × Nat)} (he : (s.cell 0).engFree ≤ 0)
    (hm : (s.cell 0).mops ++ (s.cell 0).past = []) (hf : ∀ q ∈ ranges, q.1 % q.2.1 = 0 ∧ q.1 + q.2.2 ≤ 0x100000) (h4 : -4 ≤ firstRead 0 (caps 0)) :
    MReady s (ctx 2) 1 caps ranges where
  engine x hx := by rw [selected0 hx]; exact he
  ports x hx q hq := by rw [selected0 hx, hm] at hq; cases hq
  fit := hf
  early := h4

theorem noT2_of {s : State} (h : (s.cell 0).t2 = none) : noT2 s (ctx 2) 1 := fun x hx => by rw [selected0 hx]; exact h

theorem meets_MmaIssues :
    (let s := openedM run0 fun t => firstRead t (mmaCaps mma0 [] t 0)
     IssuesM run0 iss (fun t => firstRead t (mmaCaps mma0 [] t 0)) (ctx 2) s [] ∧ stepOcc mma0 = some 32 ∧ t2FieldsBad mma0 = false ∧
        t2SeqBad (s.cell 0) mma0 = false ∧ MReady s (ctx 2) 1 (mmaCaps mma0 [] 0) (mmaRanges mma0 []) ∧ (s.cell 0).depth.toNat < 2 ^ 24) ∧
    (let f : MmaF := { mma0 with fmtA := 7 }
     stepOcc f = none ∧ IssuesM run0 iss (fun t => firstRead t (mmaCaps f [] t 0)) (ctx 2) (openedM run0 fun t => firstRead t (mmaCaps f [] t 0)) []) ∧
    (let s := runCell { engFree := 1 }
     let u := openedM s fun t => firstRead t (mmaCaps mma0 [] t 0)
     IssuesM s iss (fun t => firstRead t (mmaCaps mma0 [] t 0)) (ctx 2) u [] ∧ selected (ctx 2) 1 0 ∧ (ctx 2).t < (u.cell 0).engFree) ∧
    2 ^ 24 ≤ ((runCell { depth := 0x1000000 }).cell 0).depth.toNat :=
  ⟨⟨issuesM_of (by decide), by decide, by decide, by decide, ready_of (by decide) (by decide) (by decide +kernel) (by decide +kernel), by decide⟩,
    ⟨by decide, issuesM_of (by decide)⟩, ⟨issuesM_of (by decide), ⟨0, by decide⟩, by decide⟩, by decide⟩

theorem meets_MatrixOperationsIssue :
    (let f : DodgeF := ⟨1, 0, 0, 0, 0, 0, true⟩
     let s := runCell { dodgeList := [5] }
     let u := openedM s fr3
     IssuesM s iss fr3 (ctx 2) u [] ∧ noT2 u (ctx 2) 1 ∧ f.fmtW.toNat ≤ 3 ∧ 32 * f.group.toNat < (u.cell 0).dodgeList.length ∧
        MReady u (ctx 2) 1 (dodgeCaps f [] 0) [(at_ [] f.arA, 64, 4096), (at_ [] f.arW, 64, slabBytes f.fmtW 1), (at_ [] f.arS, 16, 256)]) ∧
    (let u := openedM run0 fr3
     IssuesM run0 iss fr3 (ctx 2) u [] ∧ noT2 u (ctx 2) 1 ∧
        MReady u (ctx 2) 1 (fun base => [pairCap 0 (base + at_ [] 0) 4096]) [(at_ [] 0, 1024, 0x40000)] ∧
        (u.cell 0).depth.toNat + leNat (u.cellReadAt 0 (at_ [] 0 + 12) 4 (((ctx 2).t : Int) - 3)) % 2 ^ 25 ≤ 2 ^ 24 ∧
        MReady u (ctx 2) 1 (fun base => [pairCap 0 (base + at_ [] 0) ((alignUp (4 * 256) 128 + 128 * 256) / 64)])
          [(at_ [] 0, 128, alignUp (4 * 256) 128 + 128 * 256)] ∧
        MReady u (ctx 2) 1 (fun _ => []) [] ∧ u.part 0 = some part0 ∧ part0.negative.thresh.length ≤ 0 ∧ (u.cell 0).stripRow = none) ∧
    let s := runNeg { neg0 with thresh := [(0, false)] }
    IssuesM s iss fr3 (ctx 2) (openedM s fr3) [] ∧ 0 < (({ part0 with neg := some { neg0 with thresh := [(0, false)] } } : Partition).negative.thresh).length :=
  ⟨⟨issuesM_of (by decide), noT2_of (by decide), by decide, by decide, ready_of (by decide) (by decide) (by decide +kernel) (by decide +kernel)⟩,
    ⟨issuesM_of (by decide), noT2_of (by decide), ready_of (by decide) (by decide) (by decide +kernel) (by decide +kernel), by decide +kernel,
      ready_of (by decide) (by decide) (by decide +kernel) (by decide +kernel), ready_of (by decide) (by decide) (by decide +kernel) (by decide +kernel), rfl, by decide, by decide⟩,
    issuesM_of (by decide), by decide⟩

theorem meets_TankReadWritesTheTile :
    let u := openedM run0 fr3
    IssuesM run0 iss fr3 (ctx 2) u [] ∧ noT2 u (ctx 2) 1 ∧
      lateWrite (u.block 0) (u.cell 0) (cellBase 0 + at_ [] 0) (at_ [] 0) 4 (((ctx 2).t : Int) - 3) = false ∧
      ∀ f ∈ [(⟨1, 0, true, 0, false, 0, true⟩ : TankReadF), ⟨1, 10, false, 0, true, 0, false⟩],
        (if f.raw then f.fmt = 0 else 5 ≤ f.fmt.toNat ∧ f.fmt.toNat ≤ 10) ∧
        MReady u (ctx 2) 1 (fun base => [{ mkCap 0 1 1 (base + at_ [] f.arSigma) 4 (boolNat f.sigma) 1 0 .scale with base := -3 }])
          ([(at_ [] f.arD, 1024, if f.raw then 0x40000 else 16384 * outBytes f.fmt)] ++ if f.sigma then [(at_ [] f.arSigma, 4, 4)] else []) := by
  refine ⟨issuesM_of (by decide), noT2_of (by decide), by decide +kernel, fun f hf => ?_⟩
  rcases List.mem_cons.mp hf with rfl | hf
  · exact ⟨by decide, ready_of (by decide) (by decide) (by decide +kernel) (by decide +kernel)⟩
  · rw [List.mem_singleton.mp hf]
    exact ⟨by decide, ready_of (by decide) (by decide) (by decide +kernel) (by decide +kernel)⟩

theorem meets_ContributionsLand : runningBlock run0 0 0 = some 0 ∧ (fmGet run0.blocks 0).isSome = true ∧
    let m : Mop := { kind := .mma, issue := 0, land := some 40 }
    m.fmtA ≠ 3 ∧ m.fmtB ≠ 3 ∧ m.strip = false ∧ rising (run0.cell 0).tanks ∧ rising (mmaContrib m (m.cap 0) (m.cap 1)).1.vals ∧
    rising m.sample ∧ run0.part 0 = some part0 ∧
    let c : Cell := { stripReg := 1 }
    stripExceeds c { m with kind := .check } 0 = true := by unfold rising; decide +kernel

/-! ### Copies, streams, commits, port F, and the block as a whole -/

theorem meets_StoreCopies :
    (Issues run0 iss 4 (ctx 4) (issued run0 4) ∧ portIdle (issued run0 4) (ctx 4) 3 ∧
      copyRange (off (issued run0 4) (ctx 4) 0) 4096 0x100000 ∧ ¬copyRange (off (issued run0 4) (ctx 4) 0) 4097 0x100000 ∧
      copyRange (off (issued run0 4) (ctx 4) 0) 0 0x20000000) ∧
    let s := runWith { block0 with portFree := [(3, 1)] }
    Issues s iss 4 (ctx 4) (issued s 4) ∧ ¬portIdle (issued s 4) (ctx 4) 3 :=
  ⟨⟨run0_issues 4 (by decide), by unfold portIdle copyRange; decide⟩, issues_of (by decide) (by decide), by unfold portIdle; decide⟩

theorem meets_RegionCopies : Issues run0 iss 4 (ctx 4) (issued run0 4) ∧ (issued run0 4).part 0 = some part0 ∧
    portIdle (issued run0 4) (ctx 4) 0 ∧ copyRange (off (issued run0 4) (ctx 4) 0) 8191 0x20000000 ∧
    (5 ≠ (ctx 4).bix / 6 % 6 ∧ routeOk ((ctx 4).bix / 6 % 6) 5 2) ∧ ¬routeOk ((ctx 4).bix / 6 % 6) 4 2 :=
  ⟨run0_issues 4 (by decide), rfl, by unfold portIdle copyRange routeOk; decide⟩

def stream0 : StreamEnt := ⟨0, 0, 256, 5000, 65536⟩
def negStreams : Neg := { neg0 with streams := [stream0, ⟨0, 0, 0, 0, 1⟩, ⟨0x4000000000, 0, 64, 0, 1⟩] }
def held0 (pf : BitVec 2) : StreamReq :=
  { pf := pf, entry := 0, out_ := false, lx := 0, hbm := 0, reg := regionBase 0, len := 256, flag := 7, setFlag := true, issue := 3
    deadline := 900, d := 0 }

theorem meets_StreamsIssue :
    (let s := runNeg negStreams
     Issues s iss 4 (ctx 4) (issued s 4) ∧
     ∀ k < 3, ∃ e, ((issued s 4).part 0).bind (·.negative.streams[k]?) = some e ∧
       (k = 0 → 0 ≤ e.hbm ∧ e.hbm + e.len ≤ tileCap (issued s 4).model false) ∧ (k = 1 → e.len = 0) ∧
       (k = 2 → tileCap (issued s 4).model false < e.hbm + e.len) ∧ (held ((issued s 4).block 0) 0).length < 8) ∧
    let s := runWith { block0 with streams := List.replicate 8 (held0 0) }
    Issues s iss 4 (ctx 4) (issued s 4) ∧ 8 ≤ (held ((issued s 4).block 0) 0).length := by
  refine ⟨⟨issues_of (by decide) (by decide), ?_⟩, issues_of (by decide) (by decide), by decide⟩
  intro k hk
  match k, hk with
  | 0, _ => exact ⟨stream0, by decide⟩
  | 1, _ => exact ⟨⟨0, 0, 0, 0, 1⟩, by decide⟩
  | 2, _ => exact ⟨⟨0x4000000000, 0, 64, 0, 1⟩, by decide⟩

theorem meets_StreamsComplete :
    let s := runWith { block0 with streams := [held0 1, held0 2] }
    runningBlock s 0 0 = some 0 ∧
    let s1 := passTo s 0 0 3
    memWf s1.mem = true ∧ (s1.block 0).streams.find? (fun r => r.pf == 2) = some (held0 2) ∧
    streamPieces s1 0 (held0 2) = [(0, 256)] ∧ s1.poisoned 0 256 = false ∧
    crossingMissing (s1.region 0) (regionBase 0) 256 3 = false ∧ regionLate (s1.region 0) (regionBase 0) 256 3 = false ∧
    ((s1.region 0).reqs = [] ∧ (s1.region 0).entering = [] ∧ streamLine s1 0 (held0 2) 0 = [(0, 256)] ∧ 256 * (256 / 256) = 256 ∧
      overlaps 0 256 (regionBase 0) 256 = false) ∧
    (held0 2).slots = 0 ∧ (held0 2).lines = 0 ∧ (held0 2).len % 256 = 0 ∧ ({ part0 with dark := true } : Partition).dark = true := by decide +kernel

def entry0 (len : Nat) : SlotEnt := { slot := 5, kind := .packet, len := len, destPart := 9 }
def runTable (es : List SlotEnt) (st : FMap Staged) : State := { run0 with tx := [(0, { bank0 := es, staging := st })] }
def commit0 : CommitF := ⟨0, 0, false, 1, 0, true⟩

theorem meets_CommitsIssue :
    (∀ n ∈ [0, 256, 4096], let s := runTable [entry0 n] []
     (openIssue s iss 5).2 = some (ctx 5) ∧ predOn (issued s 5) (ctx 5) = true ∧
       packetEntry (issued s 5) (ctx 5) commit0 = some (entry0 n) ∧ ((issued s 5).block 0).xFree ≤ 0 ∧
       copyRange (off (issued s 5) (ctx 5) 0) ((n + 255) / 256) 0x100000 ∧ ((issued s 5).block 0).due = [] ∧
       fmGet ((issued s 5).txOf 0).staging 0 = none) ∧
    (let s := runTable [entry0 256] [(0, ⟨0, [], none, 0⟩)]
     Issues s iss 5 (ctx 5) (issued s 5) ∧ fmGet ((issued s 5).txOf 0).staging 0 ≠ none ∧ ((issued s 5).cell 1).mops = []) ∧
    (let s := runWith { block0 with xFree := 1 }
     Issues s iss 5 (ctx 5) (issued s 5) ∧ (ctx 5).t < ((issued s 5).block 0).xFree) ∧
    (Issues run0 iss 5 (ctx 5) (issued run0 5) ∧ packetEntry (issued run0 5) (ctx 5) commit0 = none) ∧
    let s := runWith { block0 with arBase := [(1, 128)] }
    Issues s iss 5 (ctx 5) (issued s 5) ∧ off (issued s 5) (ctx 5) 1 % 256 ≠ 0 :=
  ⟨by unfold copyRange; decide, ⟨issues_of (by decide) (by decide), by decide, by decide⟩, ⟨issues_of (by decide) (by decide), by decide⟩,
    ⟨run0_issues 5 (by decide), by decide⟩, issues_of (by decide) (by decide), by decide⟩

def sheet0 : Sheet := ⟨2, 1, false, 256, 4, 4, 4, [(0, 0), (0, 1)]⟩

theorem meets_ArrivalChecksAndFills :
    (Issues run0 iss 5 (ctx 5) (issued run0 5) ∧ ((issued run0 5).block 0).xFree ≤ 0 ∧ off (issued run0 5) (ctx 5) 0 = 0 ∧
      (fmGetD ((issued run0 5).block 0).arrival 15 0).toNat = 0 ∧
      (issued run0 5).part 0 = some part0 ∧ (fmGetD part0.negative.sheets 0 [])[63]? = none) ∧
    (let s := runWith { block0 with arBase := [(1, 4)], arrival := [(2, 7)] }
     Issues s iss 5 (ctx 5) (issued s 5) ∧ off (issued s 5) (ctx 5) 1 = 4 ∧ (fmGetD ((issued s 5).block 0).arrival 2 0).toNat = 7 ∧
       (fmGetD ((issued s 5).block 0).arrival 3 0).toNat = 0) ∧
    let s := runNeg { neg0 with sheets := [(0, [sheet0])] }
    Issues s iss 5 (ctx 5) (issued s 5) ∧
      ((issued s 5).part 0).map (fun p => (fmGetD p.negative.sheets 0 [])[0]?) = some (some sheet0) ∧
      off (issued s 5) (ctx 5) 0 % 256 = 0 ∧ off (issued s 5) (ctx 5) 0 + 8 * sheet0.routeLen ≤ 0x100000 :=
  ⟨⟨run0_issues 5 (by decide), by decide, by decide, by decide, rfl, by decide⟩, ⟨issues_of (by decide) (by decide), by decide⟩,
    issues_of (by decide) (by decide), by decide⟩

def request0 : PfReq :=
  { kind := .copyRc, cell := 1, d := 100, rank := 2, ready := 12, total := 4, done := 0, src := regionBase 0, dst := cellBase 1
    issue := 0, stated := 44, turn := 0, owner := false, writer := 0, tag := 0, arr := [(12, [])] }

theorem meets_PortFService :
    (let s := { run0 with cells := [(1, { wb := [⟨0, 900, 0⟩] })], regions := [(0, { served := 3 })] }
     runningBlock s 0 0 = some 0 ∧ (fmGet s.blocks 0).isSome = true ∧ quietRegion s 0 ∧ (s.cell 1).wb = [⟨0, 900, 0⟩] ∧
       0 < (s.region 0).served ∧ (s.region 0).served ≤ 3) ∧
    (let s := runWith { block0 with pf := [request0] }
     runningBlock s 0 0 = some 0 ∧ ((passTo s 0 0 13).block 0).pf = [request0] ∧ request0.ready < 13) ∧
    dueAt { due := [⟨5, 1, 0, true⟩] } 1 5 = true ∧ ((pfServe { pf := [request0] } (fun _ => true) 1 20).2).isSome = true := by
  unfold quietRegion; decide +kernel

theorem meets_StepRunsFront : ({ State.reset with pending := [.slewEnd] } : State).pending = .slewEnd :: [] ∧
    (State.reset.pending = [] ∧ 1 ≤ State.reset.boot.step) ∧
    ({ State.reset with boot := { step := 0 } } : State).boot.step = 0 := by decide

theorem meets_StepKeepsInvariant : State.reset.Inv ∧ ∃ t, step State.reset = .next t := ⟨by unfold State.Inv; decide, _, rfl⟩
theorem meets_CommandsKeepIdentity : ∃ t, exec .slewEnd State.reset = .next t := ⟨_, rfl⟩

theorem meets_MemoryReads : memWf [(3, 1), (7, 255)] = true ∧ memWf (memWrite [(3, 1), (7, 255)] 6 [5, 0, 9]) = true ∧
    memGet (memWrite [(3, 1), (7, 255)] 6 [5, 0, 9]) 7 = 0 := by decide

theorem meets_LogEntries : (State.reset.log.used + 1 + 4095 ≤ 4096 ∧ 4096 < State.reset.log.used + 1 + 4096) ∧
    (State.reset.boot.standby = true ∧ 3 ≤ State.reset.boot.step ∧ State.reset.boot.easelDead = false ∧ State.reset.log.lost = 0) ∧
    ({ State.reset with log := { lost := 1 } } : State).log.lost ≠ 0 := by decide

theorem meets_PartitionFatalFaults : run0.part 0 = some part0 ∧ fmGet run0.blocks 0 ≠ none ∧
    ({ part0 with busy := some (.scrub (some (.fn 0 1))) } : Partition).waiting = [.fn 0 1] ∧
    (1, (⟨.operator, 0, {}⟩ : Session)) ∈ (owned part0).sessions ∧ (State.reset.endpoint 1).linkUp = true := by decide

/-! ### Mailbox commands, sessions, settings and firmware -/

/-- A frame of session n. -/
def frameOf (n : Nat) (len : BitVec 16) : Envelope := { envNone len with route := .session n }
/-- A write of the physical function 0 of endpoint 0, and of its virtual function 1. -/
def fnEnv (k : Nat) (len : BitVec 16) : Envelope := { envNone len with route := .fn 0 k }
def ready0 : Partition := { part0 with state := .ready }
/-- Two sessions, an OPERATOR and an OBSERVER, next to the owner; `o` owns the part. -/
def three (o : Option Nat) : State :=
  { State.reset with sessions := [(1, ⟨.operator, 0, {}⟩), (2, ⟨.operator, 1, {}⟩), (3, ⟨.observer, 2, {}⟩)], owner := o }

theorem meets_CommandsAreChecked :
    ({ State.reset with boot := { step := 0 } } : State).serves = false ∧
    (let s := owned ready0
     let e : Envelope := { fnEnv 0 0 with doorbell := 2 }
     (s.mboxOf e.route).isSome = true ∧ s.teeFails 0 0 false = false ∧ e.doorbell ≠ e.seq) ∧
    (let s := { State.reset with sessions := [(1, ⟨.operator, 0, { state := .running }⟩)] }
     s.serves = true ∧ (s.mboxOf (.session 1)).map (·.state) = some .running) ∧
    (let s := owned ready0
     let e : Envelope := { envNone 0 with rsvd := true }
     (s.admitted e 0x0101).isSome = true ∧ precheck (entered s e 0x0101) e (partWide 0x0101 0 bySessions) = .inl stBadArg) ∧
    (State.reset.boundTo 0 1 = none ∧ (owned ready0).boundTo 0 1 = some 0 ∧ byOwner.bound = false ∧ byBoundOrOwner.bound = true ∧
      (fnEnv 1 0).rsvd = false ∧ (env 0).target ≠ 0xFFFF ∧ (5 : BitVec 16).toNat ≠ 0) ∧
    ((three (some 2)).owner ≠ some 1 ∧ byOwner.other = false ∧ (three (some 1)).owner = some 1 ∧
      ({ byOwner with owner := false } : Perm).owner = false) ∧
    (permitted (owned ready0) (env 4065) (ofPart 0x0203 0 byBoundOrOwner .scrub) none = true ∧ (env 4065).length.toNat = 4065 ∧
      (owned ready0).part 7 = none) ∧
    (let s := { State.reset with eps := [(0, { funcs := [(0, { vecMask := 0 })] })] }
     s.fnEnabled 0 0 = true ∧ (s.func 0 0).cause.getLsbD 0 = false ∧ (s.func 0 0).mask.getLsbD 0 = false ∧
       (s.func 0 0).msixMask = false ∧ (s.func 0 0).vecMask.getLsbD 0 = false) ∧
    fmGet (three none).sessions 3 = some ⟨.observer, 2, {}⟩ := by decide +kernel

def cred0 (a : Bool) : Credential := ⟨.operator, a, [0x30]⟩

theorem meets_accepted : [(0, cred0 false)].find? (fun q => q.2.accepts [[0x30]]) = some (0, cred0 false) := by
  simp [Credential.accepts, cred0]

theorem meets_Ownership :
    (∀ o ∈ [none, some 1, some 2], let e := frameOf 1 0
     ((three o).admitted e 0x0101).isSome = true ∧ precheck (entered (three o) e 0x0101) e (partWide 0x0101 0 bySessions) = .inr none ∧
       (entered (three o) e 0x0101).owner = o) ∧
    (∀ x ∈ [1, 2, 3, 8], let s := three (some 1)
     (s.admitted (frameOf 1 8) 0x0102).isSome = true ∧
       precheck (entered s (frameOf 1 8) 0x0102) (frameOf 1 8) (partWide 0x0102 8 byOwner) = .inr none ∧
       ((fmGet (entered s (frameOf 1 8) 0x0102).sessions x).map (·.role) = some .operator ↔ x = 1 ∨ x = 2)) ∧
    (∀ q ∈ [(0x0103, byOwner), (0x0104, bySessions)], let s := three (some 1)
     (s.admitted (frameOf 1 0) q.1).isSome = true ∧
       precheck (entered s (frameOf 1 0) q.1) (frameOf 1 0) (partWide q.1 0 q.2) = .inr none) ∧
    (let s := { State.reset with sessions := [(1, ⟨.operator, 0, { state := .running }⟩)] }
     s.serves = true ∧ (s.mboxOf (.session 1)).map (·.state) = some .running) ∧
    (three none).owner = none ∧ (three (some 2)).owner = some 2 ∧ (three (some 2)).log.used + 1 < 4096 := by decide +kernel

def withCreds (s : State) (cs : FMap Credential) : State := { s with nvm := { s.nvm with creds := cs } }

/-- Beside these CRED.ENROLL needs a certificate; which byte strings are certificates is left open (log entry 44). -/
theorem meets_SessionsAndCredentials :
    (let s := withCreds (three none) [(0, cred0 false)]
     s.serves = true ∧ fmGet s.sessions 4 = none ∧ (∀ m < 4, 1 ≤ m → fmGet s.sessions m ≠ none) ∧
       (∀ q ∈ s.nvm.creds, q.2.accepts [] = false)) ∧
    (let s := { State.reset with sessions := (List.range 8).map fun k => (k + 1, ⟨.observer, 0, {}⟩) }
     ∀ n < 9, 1 ≤ n → fmGet s.sessions n ≠ none) ∧
    (fmGet State.reset.sessions 1 = none ∧ fmGet State.reset.log.hour (3 * 4096) = none) ∧
    (let s := withCreds (three (some 1)) [(0, cred0 true)]
     let e := frameOf 1 9
     (s.admitted e 0x0105).isSome = true ∧ precheck (entered s e 0x0105) e
        (partWide 0x0105 (8 + (1 : BitVec 16).toNat) { bound := false, pf := true, owner := true, other := false }) = .inr none ∧
       fmGet (entered s e 0x0105).nvm.creds 1 = none ∧ fmGet (entered s e 0x0105).nvm.creds 0 ≠ none) ∧
    let s := withCreds (three (some 1)) [(0, cred0 false), (1, cred0 true), (2, ⟨.observer, false, [1]⟩)]
    (s.admitted (frameOf 1 8) 0x0106).isSome = true ∧
      precheck (entered s (frameOf 1 8) 0x0106) (frameOf 1 8) (partWide 0x0106 8 byOwner) = .inr none ∧
      fmGet s.nvm.creds 31 = none ∧ (s.nvm.creds.filter fun q => q.2.role == .operator).length = 2 ∧
      s.sessions.Pairwise (fun a b => a.1 < b.1) := by decide +kernel

def withSettings (s : State) (x : Settings) : State := { s with settings := x }

theorem meets_StatusAndSettings :
    (∀ q ∈ [(identifySpec, 0), (logReadSpec, 16), (partWide 0x0801 1 byEveryone, 1), (partWide 0x0802 0 byOwner, 8),
        (partWide 0x0803 0 byOwner, 0), (partWide 0x0603 8 byOwner, 8), (partWide 0x0701 2112 byOwner, 2112)],
      ((owned ready0).admitted (envNone q.2) q.1.code).isSome = true ∧
        precheck (entered (owned ready0) (envNone q.2) q.1.code) (envNone q.2) q.1 = .inr none) ∧
    (((owned ready0).admitted (env 16) 0x0003).isSome = true ∧
      precheck (entered (owned ready0) (env 16) 0x0003) (env 16) logReadSpec = .inr (some 0) ∧
      precheck (entered (owned ready0) (env 0) 0x0002) (env 0) statusSpec = .inr (some 0) ∧
      (owned ready0).active.digest.length = 48 ∧ ready0.hostDie < 2 ∧ ready0.fn < 17) ∧
    (({} : Settings).put 1 [3] = some { capClass := 3 } ∧ ({} : Settings).put 1 [4] = none) ∧
    ((owned ready0).settings = (owned ready0).nvm.settings ∧
      (withSettings (owned ready0) { capClass := 1 }).settings ≠ (withSettings (owned ready0) { capClass := 1 }).nvm.settings) ∧
    (∀ q ∈ (owned ready0).parts, q.2.state ≠ .developed ∧ q.2.state ≠ .running ∧ q.2.state ≠ .halted ∧ q.2.inAgree = false) ∧
    ∃ q ∈ (owned part0).parts, q.2.state = .running := by decide +kernel

def staging0 (s : State) (got : Bytes) (total : Nat) : State := { s with staging := some ⟨1, total, got⟩ }

theorem meets_FirmwareImages :
    (∀ q ∈ [(0x0804, 16), (0x0804, 17), (0x0805, 0)],
      ((owned ready0).admitted (envNone (BitVec.ofNat 16 q.2)) q.1).isSome = true ∧
        precheck (entered (owned ready0) (envNone (BitVec.ofNat 16 q.2)) q.1) (envNone (BitVec.ofNat 16 q.2)) (partWide q.1 q.2 byOwner) = .inr none) ∧
    ((owned ready0).staging = none ∧ (staging0 (owned ready0) [1] 2).staging = some ⟨1, 2, [1]⟩) ∧
    ((8388608 : BitVec 32).toNat ≤ 8388608 ∧ (8388609 : BitVec 32).toNat ≠ 8388608) ∧ (readImage [1]).genuine = false ∧
    (owned ready0).staged = none ∧ ({ owned ready0 with staged := some (true, factoryImage) } : State).staged = some (true, factoryImage) ∧
    (staging0 (owned ready0) [] 4).owner = some 1 := by decide +kernel

def lifeSpecs : List (CmdSpec × Nat) := [(ofPart 0x0202 0 byOwner .destroy, 0), (ofPart 0x0203 0 byBoundOrOwner .scrub, 0),
  (ofPart 0x0004 8 byBoundOrOwner .reset, 8), (ofPart 0x0303 0 byBoundOrOwner .halt, 0),
  (ofPart 0x0301 24 byBoundOrOpenOwner .develop, 24), (ofPart 0x0302 40 byBoundOrOpenOwner .expose, 40),
  (ofPart 0x0304 32 byBoundOrOpenOwner .epoch, 32), (ofPart 0x0401 16 byBoundOrOpenOwner .darkslide, 16),
  (ofPart 0x0402 24 byBoundOrOpenOwner .resume, 24), (ofPart 0x0403 757 byBoundOrOpenOwner .export_, 757),
  (ofPart 0x0404 16 byBoundOrOpenOwner .plain, 16), (ofPart 0x0501 32 byEveryone .proof, 32)]

/-- Every command of a partition is accepted from the owner, whatever the state of an Open partition is. -/
theorem meets_partition_commands : ∀ st ∈ [PartState.empty, .tainted, .ready, .developed, .running, .halted, .faulted],
    ∀ q ∈ lifeSpecs, let s := owned { part0 with state := st }
      (s.admitted (env (BitVec.ofNat 16 q.2)) q.1.code).isSome = true ∧
        precheck (entered s (env (BitVec.ofNat 16 q.2)) q.1.code) (env (BitVec.ofNat 16 q.2)) q.1 = .inr (some 0) ∧
        (entered s (env (BitVec.ofNat 16 q.2)) q.1.code).part 0 = some { part0 with state := st } := by decide +kernel

theorem meets_PartitionLife :
    (((owned ready0).admitted (envNone 8) 0x0201).isSome = true ∧
      precheck (entered (owned ready0) (envNone 8) 0x0201) (envNone 8) (partWide 0x0201 8 byOwner) = .inr none ∧
      (∀ d < 16, (0xC : BitVec 16).getLsbD d = true → (owned ready0).ownerOf d = none ∧ d ∉ (owned ready0).power.degraded) ∧
      (owned ready0).boundTo 1 16 = none ∧ ((owned ready0).endpoint 1).enabled = true ∧ (owned ready0).nvm.generation ≠ 0xFFFFFFFF) ∧
    (owned ready0).boundTo ready0.hostDie ready0.fn = some 0 ∧
    (let p := { ready0 with busy := some (.scrub (some (.session 1))) }
     (owned p).part 0 = some p ∧ memWf (owned p).mem = true) ∧
    (((owned ready0).admitted (envNone 8) 0x0204).isSome = true ∧
      precheck (entered (owned ready0) (envNone 8) 0x0204) (envNone 8) (partWide 0x0204 8 byOwner) = .inr none ∧
      fmGet (owned ready0).nvm.remap 95 = none ∧ (95, 6) ∉ (owned ready0).boot.failing ∧
      (owned ready0).regionOwner 0 = some (0, 0) ∧ (owned ready0).regionOwner 95 = none) := by decide +kernel

theorem meets_noHostWrite : noHostWrite (owned ready0) ready0 ∧ noHostWrite (owned part0) part0 := by unfold noHostWrite; decide

theorem meets_regionBusy : regionBusy (owned ready0) 0 ∧ ¬regionBusy (owned ready0) 95 ∧ memWf (owned ready0).mem = true :=
  ⟨⟨0, 0, ready0, by decide, rfl, by decide, by decide⟩,
    (fun ⟨_, _, _, h, _⟩ => by rw [show (owned ready0).regionOwner 95 = none from by decide] at h; cases h), rfl⟩

theorem meets_wholeSet : wholeSet .zx940 0xC ∧ ¬wholeSet .zx940 0x6 := by unfold wholeSet; decide

theorem meets_ResetsAndHalts :
    (∀ c ∈ [(⟨0x0004, 8, byOwner, .none_, .plain, false, true⟩ : CmdSpec)], ((owned ready0).admitted (envNone 8) c.code).isSome = true ∧
      precheck (entered (owned ready0) (envNone 8) c.code) (envNone 8) c = .inr none) ∧
    (let s := { owned part0 with eps := [(0, { vfEnable := true, numVfs := 1 })] }
     s.serves = true ∧ s.fnEnabled 0 1 = true ∧ s.boot.fatal = none ∧ s.boundTo 0 1 = some 0 ∧ s.part 0 = some part0 ∧
       part0.expose = none ∧ part0.slide = none ∧ part0.busy = none ∧ part0.frame.late = false) ∧
    (let p := { part0 with frame := { part0.frame with fatal := some ⟨0x1406, 0⟩, late := true } }
     (owned p).part 0 = some p ∧ p.frame.fatal ≠ none ∧ (35 : Nat) < 36 * p.tiles.length ∧ p.tiles.Nodup ∧ p.frame.late = true) := by decide +kernel

/-! ### Hosts, and the secure link of an endpoint -/

def hosted0 (e : Endpoint) (p : Partition) : State := { owned p with eps := [(0, e)] }
def ep1 : Endpoint := { vfEnable := true, numVfs := 16 }
def f1 : FnId := ⟨0, 1⟩
def withFunc (f : Func) : Endpoint := { ep1 with funcs := [(1, f)] }

theorem meets_HostRegisters :
    ((hosted0 ep1 ready0).fnEnabled 0 0 = true ∧ (hosted0 ep1 ready0).fnEnabled 0 1 = true ∧ (hosted0 ep1 ready0).fnEnabled 0 16 = true ∧
      (hosted0 ep1 ready0).boundTo 0 1 = some 0 ∧ (hosted0 ep1 ready0).boundTo 0 2 = none ∧ (hosted0 ep1 ready0).teeFails 0 1 false = false ∧
      ((hosted0 ep1 ready0).func 0 1).post = false ∧ 0x7100 ≤ (0x7100 : BitVec 16).toNat) ∧
    (hosted0 ep1 { ready0 with dark := true }).teeFails 0 1 true = true ∧
    (let s := hosted0 (withFunc { cause := 0x8001, mask := 0x8001, vecMask := 0xFFFE, pba := 0x8000 }) ready0
     (s.func 0 1).cause.getLsbD 15 = true ∧ (s.func 0 1).mask.getLsbD 0 = true ∧ (s.func 0 1).msixMask = false ∧
       (s.func 0 1).vecMask.getLsbD 0 = false ∧ (s.func 0 1).pba.getLsbD 15 = true) ∧
    (ready0.toLocal .zx960 0x3FFFFFFFC0 64 = some 0x3FFFFFFFC0 ∧ ready0.toLocal .zx960 0x3FFFFFFFC1 64 = none ∧
      ready0.sealedWrite .zx960 0 64 = false ∧ ready0.hitsInUse 0 64 = false) ∧
    let w : Window := ⟨0, 0x1000, 0x2000, 0x3000, 64⟩
    ({ part0 with neg := some { neg0 with inputs := [w] } } : Partition).hitsInUse 0x2000 1 = true := by decide +kernel

theorem meets_served : served ready0 ∧ ¬served { ready0 with state := .tainted } := by unfold served; decide

theorem meets_EndpointResets :
    ((hosted0 ep1 ready0).nvm.generation ≠ 0xFFFFFFFF ∧ ready0.busy = none ∧ ready0.hostDie = 0 ∧ ready0.fn = 1) ∧
    (State.reset.fnEnabled 1 0 = true ∧ State.reset.boot.supply48 = true ∧ State.reset.boot.standby = true ∧ 4 ≤ State.reset.boot.step ∧
      Domain.host 1 ∉ State.reset.power.off ∧ (State.reset.endpoint 1).enabled = true) := by decide +kernel

/-- A Darkroom partition whose interface runs: a hot reset halts it (15 R443). -/
theorem meets_EndpointResets_hot :
    let p : Partition := { ready0 with dark := true, state := .running }
    let s := hosted0 { ep1 with funcs := [(1, { tdi := .run })] } p
    s.fnEnabled 0 0 = true ∧ s.boundTo 0 1 = some 0 ∧ s.part 0 = some p ∧ (s.func 0 1).tdi = .run ∧ p.frame.late = false := by
  decide +kernel

def desc0 (dir : Byte) : Descriptor := ⟨0x1000, 0, 64, dir, true, true, false⟩
def queue0 (q : Queue) : State := hosted0 (withFunc { queues := [(7, q)] }) ready0

theorem meets_Queues :
    ((queue0 {}).fnEnabled 0 1 = true ∧ ((queue0 {}).queue 0 1 7).enable = false ∧
      ((queue0 { enable := true }).queue 0 1 7).enable = true ∧ ((queue0 { enable := true }).queue 0 1 7).cur = none ∧
      ((queue0 { enable := true, cur := some (desc0 0) }).queue 0 1 7).cur = some (desc0 0)) ∧
    ((queue0 { enable := true, phase := true }).queue 0 1 7).phase = (desc0 0).phase ∧
    ((nextHead { head := 15 }).1 = 0 ∧ (nextHead { head := 15 }).2 = true ∧ (nextHead { head := 14, phase := true }) = (15, true)) ∧
    (∀ d ∈ [(0 : BitVec 8), 1], let s := queue0 { enable := true, cur := some (desc0 d) }
     (s.queue 0 1 7).verdict = 0 ∧ descVerdict s 0 1 (desc0 d) false = 0 ∧ s.boundTo 0 1 = some 0 ∧ s.part 0 = some ready0 ∧
       ready0.toLocal s.model 0 64 = some 0 ∧ s.poison = [] ∧ memWf s.mem = true ∧ ready0.hitsInUse 0 64 = false) ∧
    ((queue0 { cur := some (desc0 0), verdict := 7 }).queue 0 1 7).verdict ≠ 0 := by decide +kernel

/-- A descriptor that writes into a store of a running partition, and one part-way through it. -/
theorem meets_underWrite :
    underWrite (hosted0 ep1 part0) f1 { desc0 0 with part := 0x900000000000 } 0x900000000000 ∧
    ¬underWrite (hosted0 ep1 ready0) f1 (desc0 0) 0 ∧
    closed State.reset { underway := some (0x40, [1]) } = [(0x40, 1)] :=
  ⟨⟨0, part0, 0x900000000000, by decide +kernel⟩, (fun ⟨_, _, _, _, _, _, _, h, _⟩ => absurd h (by decide)), by decide⟩

theorem meets_firstStatus :
    firstStatus (queue0 {}) f1 { desc0 2 with rsvd := true } false 6 ∧
    firstStatus (hosted0 ep1 { ready0 with dark := true }) f1 (desc0 0) false 7 ∧ ¬firstStatus (queue0 {}) f1 (desc0 0) false 6 ∧
    ¬firstStatus (queue0 {}) f1 (desc0 0) false 7 :=
  ⟨.inr (.inl rfl), by simp only [firstStatus]; decide, by simp only [firstStatus]; decide, by simp only [firstStatus]; decide⟩

def req (session : Option Nat) : SpdmReq := ⟨0, 0x12, 0, 0, session, true, []⟩
def open0 : SpdmSession := ⟨1, true, 0, 0⟩
def hostAt (c : SpdmConn) : State := hosted0 { ep1 with spdm := c } ready0
def secured (x : SpdmSession) (f : Func) (p : Partition) : State :=
  hosted0 { withFunc f with spdm := .negotiated, sessions := [x], secure := [5],
                            ide := [⟨5, false, 0, 0, 0, false⟩, ⟨5, true, 5, 0, 0, true⟩] } p

theorem meets_spdmAt (c : SpdmConn) (h : c ∈ [SpdmConn.start, .version, .capabilities, .negotiated]) : spdmAt (hostAt c) (req none) c := by
  unfold spdmAt spdmUp hostAt
  rcases List.mem_cons.mp h with rfl | h
  · decide
  rcases List.mem_cons.mp h with rfl | h
  · decide
  rcases List.mem_cons.mp h with rfl | h
  · decide
  · rw [List.mem_singleton.mp h]; decide

theorem secured_in (f : Func) (p : Partition) : spdmIn (secured open0 f p) (req (some 1)) open0 :=
  ⟨⟨⟨by decide, rfl, rfl, rfl, Or.inr ⟨rfl, rfl⟩⟩, Or.inl rfl, rfl⟩, rfl, rfl⟩

theorem meets_SecureHostLink :
    (∀ st ∈ [TdiState.unlocked, .locked, .run, .error], tdispOn (secured open0 { tdi := st, stream := some 5 } ready0) (req (some 1)) 1) ∧
    (secured open0 {} ready0).boundTo 0 1 = some 0 ∧ (secured open0 {} (({ ready0 with fn := 2 } : Partition))).boundTo 0 1 = none ∧
    5 ∈ ((secured open0 {} ready0).endpoint 0).secure ∧ 6 ∉ ((secured open0 {} ready0).endpoint 0).secure ∧
    ((hostAt .negotiated).endpoint 0).sessions.length < 4 ∧
    (∃ y ∈ ((secured open0 {} ready0).endpoint 0).ide, y.stream = 5 ∧ y.set_ = false ∧ y.sub = 0 ∧ y.active = false) ∧
    (secured open0 { tdi := .run, stream := some 5 } ready0).fnEnabled 0 1 = true ∧
    0 < (interfaceReport { tdi := .locked }).length ∧ (({ ready0 with dark := true } : Partition).busy = none) := by
  refine ⟨fun st _ => ⟨⟨open0, secured_in _ _⟩, by decide, rfl⟩, ?_⟩
  decide +kernel

theorem meets_SecureHostLink_sessions :
    (let s := secured { open0 with open_ := false } {} ready0
     spdmAt s (req (some 1)) .negotiated ∧ (s.endpoint 0).session (req (some 1)) = some { open0 with open_ := false }) ∧
    (let s := hosted0 { ep1 with spdm := .negotiated, sessions := List.replicate 4 open0 } ready0
     spdmAt s (req none) .negotiated ∧ 4 ≤ (s.endpoint 0).sessions.length) ∧
    (let s := hosted0 { ep1 with spdm := .negotiated, chunkHandle := 3, chunkSeq := 0, chunkOut := [1, 2] } ready0
     let r : SpdmReq := { req none with p2 := 3 }
     spdmAt s r .negotiated ∧ (s.endpoint 0).chunkOut ≠ [] ∧ r.p2.toNat = (s.endpoint 0).chunkHandle ∧ num r.body 2 2 = 0) ∧
    let body : Bytes := [0, 0, 0, 0, 1, 0, 0, 0, 9, 0, 0, 0, 7]
    num body 0 2 = 0 ∧ num body 4 4 = 1 ∧ 12 + 1 ≤ body.length := by
  unfold spdmAt spdmUp; decide +kernel

/-! ### The loader and the hashes, on strings made outside the model -/

/-- FIPS 180-4, the digest of "abc" under SHA-384. -/
theorem test_sha384 : sha384 [0x61, 0x62, 0x63] = [203, 0, 117, 63, 69, 163, 94, 139, 181, 160, 61, 105, 154, 198, 80, 7, 39, 
  44, 50, 171, 14, 222, 209, 99, 26, 139, 96, 90, 67, 255, 91, 237, 128, 134, 7, 43, 161, 231, 204, 35, 88, 186, 236, 161, 52, 
  200, 37, 167] := by decide +kernel

/-- A Negative of one tile without bundles: header, section table, FRAME, JOB, MEMMAP with the commit record, trailer (08 R209 to
R222). The digest is SHA-384 as FIPS 180-4 gives it, computed outside the model. -/
def negBytes : List (Nat × Bytes) :=
  [(0, [90, 78, 69, 71, 1]), (8, [128]), (12, [3]), (17, [1]), (24, [64, 6]), (36, [1]), (50, [1]), (256, [1]), (265, [2]),
    (272, [64, 1]), (288, [4]), (297, [4]), (304, [16]), (312, [1]), (320, [32]), (329, [5]), (336, [48]), (344, [1]), (348,
    [48]), (512, [208, 7]), (516, [232, 3]), (520, [220, 5, 220, 5, 220, 5, 100, 0, 208, 7]), (532, [100]), (536, [16]),
    (1024, [52, 18]), (1028, [1]), (1032, [7, 0, 1]), (1280, [4]), (1290, [1]), (1296, [64]), (1536, [182, 5, 254, 5, 193,
    164, 33, 100, 244, 254, 55, 213, 44, 183, 154, 65, 193, 33, 75, 34, 213, 245, 37, 21, 127, 233, 154, 162, 232, 78, 172,
    81, 207, 164, 74, 161, 253, 226, 236, 176, 204, 233, 53, 130, 187, 76, 252, 231, 90, 69, 78, 68])]

def plan0 : Plan := ⟨7, 0, 1, 1000000, []⟩
/-- The Negative stands at logical address 0 of a READY partition on a part with identity 7. -/
def negState : State :=
  { owned ready0 with nvm := { State.reset.nvm with plan := some plan0 }, mem := negBytes.foldl (fun m x => memWrite m x.1 x.2) [] }

/-- Checks 1 to 13 (08 R234) pass on it, and the Negative reads as it was written. -/
theorem meets_loadNegative : (match negState.loadNegative 0 ready0 0 1600 false with
    | .ok (n, im) => decide (n.jobTag = 0x1234 ∧ n.frameCount = 2000 ∧ n.schedLen = 1000 ∧ n.commitAddr = 0x10000 ∧
        n.jobParts = 1 ∧ n.members = [(7, 1)] ∧ im = [] ∧ (negState.loadImages 0 n im).2 = none)
    | .error _ => false) = true := by decide +kernel

/-- A flipped bit of the digest ends it at check 3 with INTEGRITY (08 R213). -/
theorem test_loadNegative_refuses :
    (match ({ negState with mem := memWrite negState.mem 1536 [183] } : State).loadNegative 0 ready0 0 1600 false with
      | .ok _ => none
      | .error r => some (r.check, r.status)) = some (3, stIntegrity) := by decide +kernel

/-! ### Negatives, launches, Darkslides, records and time -/

def darkEnv (len : BitVec 16) : Envelope := { fnEnv 1 len with tee := true }
/-- A Darkroom partition behind a TDI in RUN. -/
def darkState (st : PartState) (n : Neg) : State :=
  hosted0 { ep1 with funcs := [(1, { tdi := .run })] } { part0 with state := st, dark := true, neg := some n }

/-- A Darkroom partition takes its commands from its own function alone, and there each of them is accepted. -/
theorem meets_dark_commands : ∀ q ∈ lifeSpecs.drop 1, q.1.perm.bound = true →
    let s := darkState .ready neg0
    (s.admitted (darkEnv (BitVec.ofNat 16 q.2)) q.1.code).isSome = true ∧
      precheck (entered s (darkEnv (BitVec.ofNat 16 q.2)) q.1.code) (darkEnv (BitVec.ofNat 16 q.2)) q.1 = .inr (some 0) ∧
      ((entered s (darkEnv (BitVec.ofNat 16 q.2)) q.1.code).part 0).map (·.dark) = some true := by decide +kernel

/-- The Negative of a job of two members, and of three; the partition has rank 1, or rank 0 as the leader. -/
def jobNeg (parts rank : Nat) : Neg :=
  { neg0 with jobParts := parts, rank := BitVec.ofNat 16 rank, members := (List.range parts).map fun k => (k + 1, 1) }
def agree0 (leader : Bool) (hs : List (Nat × Bytes × Option Nat)) : Agree := ⟨leader, 5, hs, some ([4], none)⟩
def agreeState (n : Neg) (a : Agree) : State :=
  owned { ready0 with dark := true, neg := none, busy := some (.agree (.session 1) n none a) }
/-- The head of a message of a type from a member. -/
def message (type sender : Byte) : Bytes := [type, 0, sender, 0, 0, 0, 0, 0, 0, 0, 0, 0, 0, 0, 0, 0]

theorem meets_agreeing (n : Neg) (a : Agree) : agreeing (agreeState n a) 0 (.session 1) n a := ⟨_, rfl, rfl, rfl⟩

theorem short_hello_fails (n : Neg) (m : Bytes) (h : m.length < 148) : helloFails n m = some 1 := by
  unfold helloFails
  refine if_pos (.inr (.inl fun hx => ?_))
  have hl := congrArg List.length hx
  have hn : (helloNonce n ((m.drop 16).take 97)).length = 32 := by
    unfold helloNonce sha384
    simp [beBytes, leBytes]
  rw [hn] at hl
  simp at hl
  omega

theorem meets_NegativesAndLaunch_agree :
    (agreeMsgOk (jobNeg 3 0) 1 (message 1 2) = true ∧ ([] ++ [(num (message 1 2) 2 2, [], some 1)] : List (Nat × Bytes × Option Nat)).length + 1 < 3) ∧
    (agreeMsgOk (jobNeg 2 0) 1 (message 1 2) = true ∧ helloFails (jobNeg 2 0) (message 1 2) ≠ none) ∧
    (agreeMsgOk (jobNeg 2 1) 1 (message 1 1) = true ∧ num (message 1 1) 2 2 = (jobNeg 2 1).master ∧
      helloFails (jobNeg 2 1) (message 1 1) ≠ none) ∧
    (agreeMsgOk (jobNeg 2 1) 2 (message 2 1 ++ [2]) = true ∧ num (message 2 1 ++ [2]) 16 2 = (jobNeg 2 1).ownPart) ∧
    agreeMsgOk (jobNeg 2 1) 3 (message 3 1) = true := by
  refine ⟨by decide, ⟨by decide, ?_⟩, ⟨by decide, by decide, ?_⟩, by decide, by decide⟩
  · rw [short_hello_fails _ _ (by decide)]; decide
  · rw [short_hello_fails _ _ (by decide)]; decide

def ft0 : FTime := { state := .locked, time := 30000, hops := 0 }

theorem meets_exposeFits :
    (let p : Partition := { part0 with state := .developed }
     exposeFits (owned p) p 0 0 0) ∧
    (let p : Partition := { part0 with state := .halted, neg := some { neg0 with seedAtExpose := true } }
     exposeFits { owned p with time := { state := 1 } } p 3 2592000000000000 7) := by
  unfold exposeFits; decide +kernel

theorem meets_NegativesAndLaunch :
    (match (owned ready0).loadNegative 0 ready0 1 64 false with | .ok _ => false | .error r => r.check == 1) = true ∧
    (ready0.state = .ready ∧ ready0.dark = false ∧ (owned ready0).lockout = false ∧ (3 : Byte).toNat ≤ 3) ∧
    (part0.bank ≠ .retiring ∧ part0.switchAt = none ∧ (0 : BitVec 64).toNat ≤ part0.frame.shutter.toNat ∧
      part0.frame.shutter.toNat < (1 : BitVec 64).toNat ∧ ({ part0 with switchAt := some 5 } : Partition).switchAt ≠ none) ∧
    (let p : Partition := { part0 with bank := .retiring, switchedAt := 10000, ftime := some ft0 }
     (owned p).part 0 = some p ∧ p.switchedAt + 20000 ≤ ft0.time ∧ (owned p).heldOf p (!p.activeBank) = false) := by decide +kernel

/-- A checkpoint area at 0, with a plain slice header of this Negative. -/
def negSlide : Neg := { neg0 with digest := List.replicate 48 0, checkpoint := some (0, 0x1000000) }
def slided (p : Partition) (cells : List Host.Cell) : State := { owned p with mem := cells }
def plainHead : List Host.Cell :=
  memWrite [(0, 0x5A), (1, 0x44), (2, 0x53), (3, 0x4C), (4, 1), (8, 1)] 168 ((List.replicate 5 (sha384 [])).flatten)
def boundHead : List Host.Cell := [(0, 0x5A), (1, 0x44), (2, 0x53), (3, 0x4C), (4, 1), (8, 1), (10, 4), (4104, 1)]
def haltedSlide : Partition := { part0 with state := .halted, neg := some negSlide, slideValid := true }

theorem meets_DarkslidesAndRecords :
    (areaLength part0 = 0 ∧ areaLength haltedSlide ≠ 0 ∧ part0.frame.partialState = false ∧ part0.negative.jobParts = 1) ∧
    (slideChecks (slided haltedSlide plainHead) haltedSlide false .good (slideHeads (slided haltedSlide plainHead) haltedSlide) = none ∧
      slideChecks (slided haltedSlide []) haltedSlide false .good (slideHeads (slided haltedSlide []) haltedSlide) = some (1, stBadArg)) ∧
    (slideShapeOk haltedSlide (slideHeads (slided haltedSlide boundHead) haltedSlide) = true ∧
      num ((slideHeads (slided haltedSlide boundHead) haltedSlide).headD []) 10 1 / 4 % 4 = 1 ∧
      num ((slideHeads (slided haltedSlide boundHead) haltedSlide).headD []) 4104 8 = (owned haltedSlide).id.serial.toNat ∧
      (slideHeads (slided haltedSlide boundHead) haltedSlide).length = 1) := by decide +kernel

theorem not_poisoned (s : State) (p : Partition) (h : s.poison = []) : ¬slidePoisoned s p ∧ ¬areaPoisoned s p := by
  constructor
  · rintro ⟨_, _, _, hx⟩
    simp [State.poisoned, h] at hx
  · rintro ⟨_, _, _, hx⟩
    simp [State.poisoned, h] at hx

theorem meets_allBound : allBound (slided haltedSlide boundHead) haltedSlide := by unfold allBound; decide +kernel

theorem meets_DarkslidesAndRecords_slides :
    (∀ ph ∈ [SlidePhase.pending, .writing, .held, .lateEnd],
      let p : Partition := { haltedSlide with slide := some ⟨.session 1, 5, 0, ph, none, 0, 0⟩ }
      (owned p).part 0 = some p ∧ (owned p).poison = []) ∧
    (let p : Partition := { haltedSlide with slide := some ⟨.session 1, 5, 9, .writing, none, 0, 0⟩, state := .running }
     slidePoisoned { owned { p with neg := some { negSlide with data := [(0x2000000, 256)] } } with poison := [0x80000] }
       { p with neg := some { negSlide with data := [(0x2000000, 256)] } }) ∧
    (∀ r ∈ [none, some (Route.session 1)], let p : Partition := { haltedSlide with busy := some (.restore r .good) }
     (owned p).part 0 = some p ∧ (owned p).poison = []) := by
  refine ⟨by decide, ⟨(0x2000000, 256), by decide +kernel, by decide, by decide +kernel⟩, by decide⟩

def printEnt (k : Nat) : PrintEnt :=
  ⟨k, [], [], false, false, false, 0, 0, 0, 0, 0, [0, 0, 0, 0, 0], false, false, 0, 0, false, 0, 0⟩
def fixedPart : Partition := { part0 with neg := some { neg0 with fixed := true }, ring := [printEnt 4, printEnt 5] }

theorem meets_DarkslidesAndRecords_print : part0.negative.fixed = false ∧ fixedPart.negative.fixed = true ∧
    (fixedPart.ring.filter fun x => decide (4 ≤ x.index) && decide (x.index ≤ 5)).length = 5 - 4 + 1 ∧
    (fixedPart.ring.filter fun x => decide (4 ≤ x.index) && decide (x.index ≤ 6)).length ≠ 6 - 4 + 1 ∧
    (fixedPart.switches.filter fun x => decide (4 ≤ x.1) && decide (x.1 ≤ 5)).length ≤ 64 ∧
    ∀ x ∈ fixedPart.ring, ∀ y ∈ fixedPart.ring, x.origin = y.origin ∧ x.seed = y.seed := by decide

def timeState (t : TimeUnit) : State := { owned part0 with time := t }

theorem meets_AuditTime :
    (∀ q ∈ [0x0601, 0x0602], ∀ st ∈ [(0 : BitVec 3), 1, 3], let s := timeState { state := st }
     (s.admitted (envNone 16) q).isSome = true ∧ precheck (entered s (envNone 16) q) (envNone 16) (partWide q 16 byOwner) = .inr none ∧
       (entered s (envNone 16) q).settings.ptpEnable = 0 ∧ (entered s (envNone 16) q).time.state = st) ∧
    ({ owned part0 with settings := { ptpEnable := 1 } } : State).settings.ptpEnable ≠ 0 ∧
    ((timeState { slewing := true }).time.slewing = true ∧ State.reset.extStale = false) ∧
    (∃ a : BitVec 56, (timeState { acc := a, state := 1 }).extStale = true) := by
  exact ⟨by decide +kernel, by decide, by decide, 0xFFFFFFFFFFFFFF, by decide⟩

theorem meets_AuditTime_limits :
    withinJump (timeState { state := 1 }) 1000000 ∧ withinJump (timeState { state := 1 }) (-1000000) ∧
    ¬withinJump (timeState { state := 1 }) 1000001 ∧ (0x09FD70A4 : BitVec 32).toNat ≤ (0x0A028F5C : BitVec 32).toNat := by
  unfold withinJump; decide

theorem meets_AuditTime_ptp :
    let s : State := { timeState { state := 2, master := some 9, t1 := some 1, t2 := some 2, t3 := some 3 } with settings := { ptpEnable := 1 } }
    ptpHeard s 9 ∧ ¬ptpHeard s 8 ∧ (0 : Byte) = s.settings.ptpDomain ∧ s.time.window.length < 15 ∧
      15 ≤ ({ s with time := { s.time with window := List.replicate 15 ⟨0, 0⟩ } } : State).time.window.length ∧
      ({ s with time := { s.time with t1 := none } } : State).time.t1 = none := by unfold ptpHeard; decide +kernel

/-! ### Frames, fabric, links, power, bring-up, monitor and JTAG -/

def obs0 : ShutterObs := ⟨100, false, false, true⟩
def framed (p : Partition) (b : Block) : State := { owned p with blocks := [(0, b)] }
def running0 : Partition := { part0 with ftime := some ft0 }
/-- Its regions stand at cycle 0: their start offsets, which the model leaves free, do not count. -/
def still0 : Partition := { running0 with step := 0 }

theorem meets_ShuttersAndExposures :
    (∀ at_ ∈ [true, false], let s := framed still0 { atTick := at_ }
     s.part 0 = some still0 ∧ still0.fab ≠ none ∧ still0.slide = none ∧
       ((frameEnd s 0 still0 ft0 obs0).part 0).map (fun y => (decide (y.state = .running), y.slide, y.negative.attempts,
         decide ((frameEnd s 0 still0 ft0 obs0).incomplete y = none))) = some (true, none, 0, at_)) ∧
    (let p : Partition := { still0 with neg := some { neg0 with attempts := 2 }, slideValid := true, frame := { still0.frame with attempts := 1 } }
     let s := framed p { atTick := false }
     ((frameEnd s 0 p ft0 obs0).part 0).map (fun y => (y.negative.attempts, y.frame.attempts, y.slideValid, y.haltDue,
       decide ((frameEnd s 0 p ft0 obs0).incomplete y = none))) = some (2, 1, true, false, false)) := by decide +kernel

def exposed (late : Bool) (st : FState) : Partition :=
  { part0 with state := .developed, ftime := some { ft0 with state := st, launch := some 1 }, expose := some ⟨.session 1, 5, 0, none, true, late⟩ }

theorem meets_ShuttersAndExposures_launch :
    (∀ l ∈ [false, true], launchDue (exposed l .locked) ⟨.session 1, 5, 0, none, true, l⟩ { ft0 with launch := some 1 }) ∧
    launchDue (exposed false .holdover) ⟨.session 1, 5, 0, none, true, false⟩ { ft0 with state := .holdover, launch := some 1 } ∧
    (let s := owned (exposed false .locked)
     let u := ({ s with power := { s.power with a1 := obs0.a1 } }).tick 0 (exposed false .locked) { ft0 with launch := some 1 }
     Partition.mayLaunch s (exposed false .locked) = true ∧ (u.part 0).map (fun y => u.launchStep y) = some (some 1500) ∧
       fmGet s.sessions 1 ≠ none) := by unfold launchDue; decide +kernel

theorem meets_ShuttersAndExposures_samples :
    (State.reset.part 0 = none ∧ (exposed false .locked).frame.rollback = .idle ∧ part0.expose = none ∧ part0.switchAt = none) ∧
    (let s := hosted0 { ep1 with funcs := [(1, { post := true })] } running0
     (s.func 0 1).post = true ∧ (s.func 0 1).postWaits = 0 ∧ running0.state = .running ∧ running0.slide = none) ∧
    (let p : Partition := { part0 with ftime := some ft0, expose := some ⟨.session 1, 0, 0, some 5, false, false⟩ }
     (owned p).part 0 = some p ∧ p.negative.isMaster = true ∧ p.periodNs ≠ 0) := by decide +kernel

/-- A packet of the job with tag 7, for part 1 or 2, frame tag 0. -/
def packet (dest : Byte) (service : Byte) : Packet :=
  ⟨[0, 0, 0, 0, 0, 0, dest, service, 64, 0, 1, 0, 7, 0, 0, 3, 0, 0, 0, 0, 0, 0, 0, 0, 0, 0, 0, 0, 0, 0, 0, 0], List.replicate 64 9, []⟩
def fabNeg : Neg := { jobNeg 2 0 with jobTag := 7 }
def fabPart : Partition := { part0 with neg := some fabNeg, fab := some fabNeg, frame := { started := true } }
def upPort : Port := { state := .up, verdict := .match_, vcs := 1, credits := [(0, { advertised := 100 }), (16, { advertised := 100 })] }
def fabState (p : Partition) (x : Port) (t : PortTx) (hops : List HopEnt) : State :=
  { owned p with ports := [(0, x)], tx := [(0, t)], dies := [(0, { owner := some 0, jobTag := some 7, hop0 := hops })] }

theorem meets_ScheduledTransfers_arrivals :
    (∀ d ∈ [(1 : BitVec 8), 2], let k := packet d 0
     let s := fabState fabPart { upPort with rx := [(k, 0, 1)] } {} [⟨0xFF, 0⟩, ⟨0xFE, 0⟩, ⟨1, 0⟩]
     (s.port 0).rx = [(k, 0, 1)] ∧ enters s 0 k 0 fabPart ∧ k.service = false ∧ k.frameTag = fabPart.frame.shutter.toNat % 65536 ∧
       k.enc = fabPart.dark ∧ fabPart.toLocal s.model k.destAddr k.length ≠ none ∧ k.destPart = d.toNat ∧
       ((s.die 0).hops k.epoch)[2]? = some ⟨1, 0⟩ ∧ (s.txOf 1).transit.length < 8) ∧
    (let k := packet 1 0x80
     k.enc ≠ fabPart.dark ∧ k.keyIndex < 4 ∧ ({ fabPart with dark := true, jobSecret := some 5 } : Partition).jobSecret = some 5) ∧
    (State.reset.port 0).rx = [] ∧ (State.reset.die 0).owner = none := by unfold enters; decide +kernel

theorem meets_forThisPart : forThisPart fabPart (packet 1 0) ∧ ¬forThisPart fabPart (packet 2 0) :=
  ⟨⟨fabNeg, rfl, by decide⟩, fun ⟨n, hn, hd⟩ => by cases hn; exact absurd hd (by decide)⟩

def dueEntry : SlotEnt := { slot := 5, kind := .packet, len := 64, destPart := 2 }

/-- A partition whose regions stand at cycle 0: their start offsets, which the model leaves free, do not count. -/
def duePart : Partition := { fabPart with step := 0 }
def dueAt (p : Partition) (x : Port) (t : PortTx) : State := fabState p x { t with pos := 5 } []
def dueState (x : Port) (t : PortTx) : State := (dueAt duePart x t).slotReached 0 0 5 duePart

theorem standsAt_of {u : State} {y : Partition} {n : Neg} (hn : y.fab = some n) (h : u.part 0 = some y ∧ (u.txOf 0).pos = 5 ∧
    (u.txOf 0).reach < 36 * 6 ∧ (u.txOf 0).reach < 36 * n.guardFrom) : standsAt u 0 5 0 y :=
  ⟨h.1, h.2.1, by decide, h.2.2.1, n, hn, h.2.2.2⟩

theorem dueAt_live : ∀ x ∈ [upPort, { upPort with credits := [] }], ∀ t ∈ [({} : PortTx)], (dueAt duePart x t).livePort 0 = true ∧
    ((dueAt duePart x t).die 0).owner = some 0 ∧ (dueAt duePart x t).part 0 = some duePart := by decide

theorem entryDue_of {u : State} {e : SlotEnt} (h1 : u.part 0 = some duePart ∧ (u.txOf 0).pos = 5 ∧ (u.txOf 0).reach < 36 * 6 ∧
      (u.txOf 0).reach < 36 * fabNeg.guardFrom)
    (h2 : (u.txOf 0).table.zipIdx.find? (fun x => x.1.slot == 5) = some (e, 0) ∧ e.kind ≠ .reserved ∧ (u.txOf 0).seq + 2 < 2 ^ 58 ∧
      (u.txOf 0).debt ≤ 36 * fabNeg.retryLag ∧ u.feeders duePart 0 0 = [] ∧ e.destPart.toNat ≠ fabNeg.ownPart) :
    entryDue u 0 5 0 duePart fabNeg e 0 :=
  ⟨standsAt_of rfl h1, rfl, rfl, rfl, rfl, h2⟩

theorem meets_ScheduledTransfers_departs :
    (let u := dueState upPort { bank0 := [dueEntry, { dueEntry with slot := 9 }] }
     entryDue u 0 5 0 duePart fabNeg dueEntry 0 ∧ entryHold u 0 duePart dueEntry = .go ∧ fmGet (u.txOf 0).staging 0 = none) ∧
    (let u := dueState upPort { bank0 := [dueEntry], staging := [(0, ⟨0, List.replicate 64 1, some 0, 0⟩)] }
     entryDue u 0 5 0 duePart fabNeg dueEntry 0 ∧ entryHold u 0 duePart dueEntry = .go ∧
       fmGet (u.txOf 0).staging 0 = some ⟨0, List.replicate 64 1, some 0, 0⟩ ∧
       0 ≤ duePart.cycleAt (duePart.logicalOf 0 / 6) (435 * (u.txOf 0).reach / 36)) ∧
    (let u := dueState { upPort with credits := [] } { bank0 := [dueEntry] }
     entryDue u 0 5 0 duePart fabNeg dueEntry 0 ∧ entryHold u 0 duePart dueEntry = .credit) :=
  ⟨⟨entryDue_of (by decide +kernel) (by decide +kernel), by decide +kernel, by decide +kernel⟩,
    ⟨entryDue_of (by decide +kernel) (by decide +kernel), by decide +kernel, by decide +kernel, Nat.zero_le _⟩,
    entryDue_of (by decide +kernel) (by decide +kernel), by decide +kernel⟩

theorem meets_ScheduledTransfers_positions :
    (standsAt (dueState upPort {}) 0 5 0 duePart ∧ ∀ e ∈ ((dueState upPort {}).txOf 0).table, e.slot ≠ 5) ∧
    (let e := { dueEntry with kind := .reserved }
     let u := dueState upPort { bank0 := [e], debt := 1 }
     standsAt u 0 5 0 duePart ∧ (u.txOf 0).table.zipIdx.find? (fun x => x.1.slot == 5) = some (e, 0) ∧ (u.txOf 0).debt ≠ 0 ∧
       (u.txOf 0).held = false) ∧
    (let e := { dueEntry with kind := .reserved }
     let u := dueState upPort { bank0 := [e], transit := [⟨packet 2 0, 0, -3⟩] }
     standsAt u 0 5 0 duePart ∧ (u.txOf 0).table.zipIdx.find? (fun x => x.1.slot == 5) = some (e, 0) ∧ (u.txOf 0).debt = 0 ∧
       (u.txOf 0).transit = [⟨packet 2 0, 0, -3⟩] ∧ (-3 : Int) + 8 ≤ 5 ∧
       (u.port 0).holdOf u.now (packet 2 0).service 0 (packet 2 0).units = .go ∧
       (u.port 0).outstanding + (packet 2 0).units ≤ (u.port 0).capacity) :=
  ⟨⟨standsAt_of rfl (by decide +kernel), by decide +kernel⟩, ⟨standsAt_of rfl (by decide +kernel), by decide +kernel⟩,
    standsAt_of rfl (by decide +kernel), by decide +kernel⟩

/-- A port of a die without tables, with a service packet that waits. -/
theorem meets_ScheduledTransfers_bare :
    let s : State := { State.reset with ports := [(0, { upPort with credits := [(8, { advertised := 9 }), (24, { advertised := 9 })] })], tx := [(0, { service := [packet 1 0x80] })] }
    s.livePort 0 = true ∧ (s.die 0).owner = none ∧ (s.txOf 0).service = [packet 1 0x80] ∧
      (s.port 0).holdOf s.now true 0 (packet 1 0x80).units = .go := by decide +kernel

theorem meets_ScheduledTransfers_landing :
    let l : Landed := ⟨[(0x40, 2)], [1, 2], some (35, 15), 0, false, 3⟩
    let p : Partition := { fabPart with landing := [l], step := 0 }
    let s := owned p
    let u := (s.updPart 0 fun x => { x with landing := [] }).reachLanding 0 4 p l
    s.part 0 = some p ∧ l.pieces = [(0x40, l.data.length)] ∧ memWf u.mem = true ∧ u.poison = [] ∧ landingDone u 3 0x40 = none ∧
      (let v := { u with regions := [(0, { reqs := [⟨.landing, 3, 0, 0, 0, 1, 0, 0x40, 0, 0, 3, 0, 0, [], 0⟩] })] }
       landingDone v 3 0x40 = some 0) := by decide +kernel

def linkState (x : Port) : State := { State.reset with ports := [(63, x)] }
/-- A unit of 256 bytes of the PACKET kind, with acknowledge field 1 and its CRC under sequence number 0. -/
def unit0 : Bytes :=
  let head : Bytes := List.replicate 240 0 ++ leBytes 8 0x101
  head ++ leBytes 8 (unitCrc 0 head).toNat
def txUnit0 : TxUnit := ⟨true, 0, false, 1, []⟩

theorem meets_livePortAt (x : Port) (h : x.patch = none) : livePortAt (linkState x) 63 x := by
  refine ⟨?_, rfl⟩
  show (decide (63 < 64) && _ && x.patch.isNone) = true
  rw [h]
  exact (by decide : (decide (63 < 64) && (variantFabric .zx960).testBit (63 / 4) && (none : Option Nat).isNone) = true)

theorem leNat_leBytes : ∀ n x : Nat, x < 256 ^ n → leNat (leBytes n x) = x
  | 0, x, h => by simp [leBytes, leNat]; omega
  | n + 1, x, h => by
    have hx : x / 256 < 256 ^ n := by rw [Nat.pow_succ] at h; omega
    simp only [leBytes, leNat, leNat_leBytes n (x / 256) hx, BitVec.toNat_ofNat]; omega

theorem unit0_crcFits : crcFits unit0 0 := by
  let head : Bytes := List.replicate 240 0 ++ leBytes 8 0x101
  have h1 : head.length = 248 := by rw [List.length_append, List.length_replicate]; rfl
  have h2 (c : Nat) : (leBytes 8 c).length = 8 := rfl
  show (unitCrc 0 ((head ++ leBytes 8 (unitCrc 0 head).toNat).take 248)).toNat =
    leNat (((head ++ leBytes 8 (unitCrc 0 head).toNat).drop 248).take 8)
  rw [List.take_left' h1, List.drop_left' h1, List.take_of_length_le (Nat.le_of_eq (h2 _)), leNat_leBytes]
  exact (unitCrc 0 head).isLt

theorem meets_LinkLayer :
    (cleanUnit unit0 ⟨[], 0, 0⟩ ∧ unitKind unit0 = 1 ∧ crcFits unit0 0) ∧
    ((1 : BitVec 16) - ({ upPort with replay := [txUnit0] } : Port).ackBase).toNat ≤ 1 ∧
    ({ upPort with replay := [txUnit0] } : Port).replay.length < ((2 : BitVec 16) - 0).toNat ∧
    linkInUse upPort ∧ linkInUse { upPort with state := .remapping } ∧ linkInUse { upPort with state := .degraded } ∧
    (∃ u < 36, ({ upPort with credits := [] } : Port).hasCredit false 0 u = false) ∧ (∀ u < 36, upPort.hasCredit false 0 u = true) ∧
    ({ upPort with credits := [(8, { advertised := 10, consumed := 9 }), (24, { advertised := 10 })] } : Port).serviceLow = true ∧
    (upPort.serviceLow = false ∧ State.reset.livePort 64 = false) ∧
    ((fmGetD State.reset.bonds 71 {}).failed = [] ∧ 131 ∉ (fmGetD State.reset.bonds 71 {}).failed) := by
  refine ⟨⟨⟨rfl, by rw [unit0, List.length_append, List.length_append, List.length_replicate]; rfl⟩, ?_, unit0_crcFits⟩, ?_⟩
  · unfold unitKind; decide +kernel
  · unfold linkInUse; decide +kernel

/-- Lane-control words, a rewind that needs nothing of the spill ring, bonds that join fitted dies or not, a patched port. -/
theorem meets_LinkLayer_words :
    (readLaneWord (laneWord 1 6 640) = some (1, 6) ∧ readLaneWord (laneWord 2 6 0) = some (2, 6) ∧ readLaneWord 0x00010061 = none) ∧
    ringReady State.reset upPort .badTag ∧ ringReady State.reset { upPort with ringAt := [0] } .good ∧
    (hasBond .zx960 71 = true ∧ hasBond .zx960 72 = false) ∧
    (let s := linkState { upPort with patch := some 7 }
     s.livePort 63 = false ∧ (s.port 63).patch = some 7) ∧
    (({ upPort with spillUnits := 8, replay := List.replicate 2056 txUnit0 } : Port).capacity = 2056) :=
  ⟨by decide +kernel, .inl rfl, .inr ⟨rfl, rfl⟩, by decide, by decide, by decide +kernel⟩

def planned (e : PlanPort) : State :=
  { fabState { fabPart with ftime := some ft0 } upPort {} [] with nvm := { State.reset.nvm with plan := some ⟨1, 0, 1, 1000000, [e]⟩ } }
def planPort0 : PlanPort := ⟨true, 1, 2, 0, 77, none, 0⟩
def beacon0 : BeaconMsg := ⟨7, 2, 1, 0, true, false, false, false, 5, 0, 0, 0, 100, 0, 0, 0⟩

theorem meets_FabricTime :
    (beaconPort (planned planPort0) 0 0 { fabPart with ftime := some ft0 } ft0 fabNeg planPort0 ∧
      beacon0.jobTag = fabNeg.jobTag ∧ planPort0.linked = true ∧ beacon0.srcPart = planPort0.nbPart ∧
      beacon0.frameCount.toNat = fabNeg.frameCount ∧ beacon0.masterPart.toNat = fabNeg.master ∧ fabNeg.isMaster = true ∧
      (∀ k ∈ (planned planPort0).log.once, k.1 ≠ 0)) ∧
    ({ beacon0 with jobTag := 8 } : BeaconMsg).jobTag ≠ fabNeg.jobTag ∧
    (let n := { fabNeg with rank := 1 }
     n.isMaster = false ∧ (planned planPort0).candidates fabPart n ft0 = []) := by unfold beaconPort; decide +kernel

theorem meets_beaconOurs : beaconOurs fabNeg planPort0 beacon0 ∧ ¬beaconOurs fabNeg planPort0 { beacon0 with jobTag := 8 } :=
  ⟨⟨by decide, rfl, .inl rfl⟩, fun h => absurd h.1 (by decide)⟩

theorem meets_PowerAndClocks :
    (7800 ≤ capWatts State.reset.power.cls ∧ capWatts State.reset.power.cls < 7801 ∧ State.reset.power.limiter = none ∧
      98 * capWatts 0 ≤ 100 * 7644 ∧ 100 * 7643 < 98 * capWatts 0 ∧ capStep 0 < ({ part0 with step := 1650 } : Partition).step) ∧
    ((owned part0).regionOwner 5 = some (0, 5) ∧ (owned part0).part 0 = some part0) ∧
    (∀ k ∈ [DieKind.compute, .sram, .stack, .fabric], (heatOf k).2.1 - 5 < (heatOf k).2.1 ∧ (heatOf k).2.1 < (heatOf k).2.2.2) ∧
    (4 ≤ State.reset.boot.step ∧ State.reset.boot.supply48 = true ∧ State.reset.regionOwner 95 = none) ∧
    ∃ r ∈ [(⟨0, 10⟩ : Reservation)], r.part = 0 := by decide

theorem meets_dies :
    (hasDie .zx960 .fabric 15 = true ∧ hasDie .zx960 .fabric 16 = false ∧ hasDie .zx940 .fabric 1 = false) ∧
    (hasDie .zx960 .stack 31 = true ∧ hasDie .zx920 .stack 1 = false) ∧
    (hasDomain .zx960 (.region 95) = true ∧ hasDomain .zx960 (.region 96) = false ∧ hasDomain .zx920 (.stack 1) = false) := by decide

theorem meets_idleRegion : idleRegion (owned ready0) 5 0 ∧ (∀ pid, ¬idleRegion (owned ready0) 6 pid) ∧
    hitBy (owned part0) (.stack 1) part0 ∧ hitBy (owned part0) (.host 0) part0 :=
  ⟨⟨5, ready0, by decide, rfl, by decide⟩, (fun _ ⟨_, _, h, _⟩ => by
    rw [show (owned ready0).regionOwner 6 = none from by decide] at h; cases h), ⟨0, by decide, by decide⟩, rfl⟩

def boot0 : BootObs := ⟨true, (true, true), 0, [], [], true, true, false, none, true⟩

theorem meets_BringUpAndMemory :
    goodBoot State.reset boot0 ∧ goodBoot State.reset { boot0 with supply48 := true } ∧
    (let s : State := { State.reset with boot := { step := 3, supply48 := false } }
     s.boot.standby = true ∧ s.boot.fatal = none ∧ s.boot.easelDead = false ∧ s.boot.held = false ∧ boot0.missed = none) ∧
    (State.reset.boot.standby = true ∧ State.reset.boot.held = false ∧ State.reset.jtagHolds = false ∧ State.reset.boot.warmPending = false) ∧
    (({ State.reset with boot := { held := true } } : State).jtagHolds = false) ∧
    (hasStack State.reset 31 ∧ ¬hasStack State.reset 32 ∧ ¬hasStack { State.reset with model := .zx920 } 1 ∧
      0x3FFFFFFFFC0 / 0x4000000000 ≤ 15 ∧ hasStack State.reset (hbmChannel .zx960 0x3FFFFFFFFC0).1 ∧
      64 * 31 + 63 ∉ State.reset.power.failedChannels ∧ State.reset.ownerOf 15 = none) :=
  ⟨⟨rfl, rfl, rfl, rfl, factoryImage, by decide⟩, ⟨rfl, rfl, rfl, rfl, factoryImage, by decide⟩, by decide, by decide, by decide,
    by unfold hasStack; decide +kernel⟩

theorem meets_noImage : noImage State.reset { boot0 with imageOk := (false, false) } := ⟨fun _ _ _ => rfl, fun _ _ _ => rfl⟩

theorem meets_MonitorAndJtag :
    (monOn State.reset ∧ ¬monOn { State.reset with boot := { step := 8 } }) ∧
    (State.reset.lockout = false ∧ (owned { part0 with dark := true }).lockout = true ∧ (owned part0).ownerOf (35 / 36) ≠ none) ∧
    (jtagFree State.reset ∧ ({ State.reset with jtag := { ir := 4 } } : State).jtagHolds = true) ∧
    (({ State.reset with mon := { prof := some (35, 1, 0) } } : State).mon.prof = some (35, 1, 0)) ∧
    ((State.reset.block 0).perfSnap.length = 16 ∧ ∀ w ∈ (State.reset.block 0).perfSnap, w < 2 ^ 64) := by
  unfold monOn jtagFree; decide

/-! ### What WellFormed refuses, and what it lets through -/

def badFn : FnId := ⟨0, 17⟩
def badHost : FnId := ⟨2, 0⟩
def goodFn : FnId := ⟨1, 16⟩
def doe (h : Nat) : SpdmReq := ⟨h, 0x12, 0, 0, none, false, []⟩
def issAt (p b : Nat) : Issue := { iss with part := p, block := b }
def descr : Descriptor := ⟨0, 0, 64, 0, false, false, false⟩
def quiet : UnitObs := ⟨[], 0, 0⟩
def train0 : TrainMsg := ⟨true, false, 0, 1, 0xFF, 9, 0, [], (0, 0)⟩
def announce (logSync : Int) : Instr := .ptpAnnounce 1 1 0 logSync 37 true

theorem test_wf_senders : ([
    .identify { env 0 with route := .session 0 }, .identify { env 0 with route := .session 9 }, .identify { env 0 with route := .fn 2 0 },
    .identify { env 0 with route := .fn 0 17 }, .halt { env 0 with route := .session 9 }, .fwCommit { env 0 with route := .fn 1 17 } true,
    .credEnroll (env 0) 0 0 3 [1, 2] true, .proof (env 32) (List.replicate 31 0), .fwStageData (env 0) 0 4 4 [1, 2, 3],
    .sessionClose 0, .sessionIdleTimeout 9] : List Instr).all (fun i => !WellFormed i) = true := by decide

theorem test_wf_host : ([
    .mbxHalt badFn 0, .hifPost badHost 0 false true, .hifCauseMask badFn 0, .registerWrite goodFn 0 2 0 false,
    .registerWrite badFn 0 4 0 false, .bar2Read goodFn 0 0 false .good, .bar2Read badFn 0 4 false .good, .bar2Write goodFn 0 [] ⟨false, .good⟩,
    .queueEnable goodFn 8, .queueDisable goodFn 8 [] .good, .hifQdoorbell goodFn 8 descr false, .queueConfigurationWrite goodFn 0 3 0,
    .queueConfigurationWrite goodFn 8 0 0, .dmaDescriptorComplete goodFn 8 [] .ok .good descr false, .flrVf badFn, .vfEnableClear 2 true 1,
    .flrPf 2, .hotReset 2, .perstNRelease 2, .msixVectorUnmask goodFn (some 16), .msixVectorUnmask badFn none, .tdispConfigurationChange badHost,
    .getVersion (doe 2), .query (doe 2), .keyProg (doe 0) 256 false 0 0 0, .kSetGo (doe 0) 256 false 0, .kSetStop (doe 2) 0 false 0,
    .lockInterfaceRequest (doe 0) 0 256, .startInterfaceRequest (doe 0) 0 []] : List Instr).all (fun i => !WellFormed i) = true := by decide

theorem test_wf_parts : ([
    .hello 16 [], .key 16 [], .reject 16 [], .keyAgreementTimeout 16, .shutter 16 obs0, .inputPostSample 16, .darkslideWriteEnd 16 ⟨true, .good, []⟩,
    .restoreComplete ⟨16, .good⟩, .timedLaunchTakeup 16, .scrubPassComplete 16 none, .scrubPassComplete 0 (some 16), .epochRetire 16,
    .fabricLanding 16 0, .interimBeacon 16, .tickHoldover 16, .masterListenEnd 16, .reservationExpiry 16, .helloResend 16,
    .computeReset 0 576, .loop (issAt 16 0) 0 0, .mma (issAt 0 576) ⟨0, 0, 0, 0, 0, 0, 0, false, false, false, 0, 0, 0, 0⟩ .good,
    .draw (issAt 0 576) ⟨0, 0, 0, 0, 0, 0, 0, 0⟩, .commit (issAt 16 0) ⟨0, 0, false, 0, 0, false⟩ .good, .waitcyExpiry 0 576 0,
    .syncTokenArrival 16 0 0 0, .tankLanding 0 576 0 0, .writeBufferDrain 0 576 0 0 0, .arbiterWake 16 0 0 0,
    .streamComplete 0 576 0 .good 0] : List Instr).all (fun i => !WellFormed i) = true := by decide +kernel

theorem test_wf_links : ([
    .slotTime 64 0, .packetArrival 64 0, .flowUnitReceive 64 (List.replicate 256 0) quiet, .flowUnitReceive 0 (List.replicate 255 0) quiet,
    .nak 64 ⟨0, .good⟩, .nakTimer 64, .replayTimeout ⟨64, .good⟩, .retrainRequest 0 0 64 0, .retrainRequest 0 0 0 256, .train 64 train0 0 ⟨0, .good⟩, .cableMismatch 64,
    .linkDown 64, .trainingAttempt 64, .laneFailure (.port 0) 9, .laneFailure (.port 64) 0, .laneFailure (.bond 72) 0, .laneFailure (.bond 0) 132,
    .remapRequest 64 0, .remapDone 64 ⟨0, 0⟩, .creditTimeout 0 8, .serviceWindowLow 64, .spillStall 64 0, .beacon 64 beacon0 0,
    .retrainRequestRepeat 64] : List Instr).all (fun i => !WellFormed i) = true := by decide +kernel

theorem test_wf_physical : ([
    announce (-129), announce 128, .thermalSample [(.compute, 16, 0)], .thermalSample [(.stack, 0, 0), (.sram, 32, 0)], .supplyDroop 96 1 1 false,
    .domainFault (.host 2), .domainFault (.fabric 16), .domainFault (.stack 32), .domainFault (.sram 32), .domainFault (.region 96),
    .clockWake 96 true, .clockGeneratorFault 96, .regionIdleStop 96, .hbmRefresh 32 0, .patrolScrub 0x40000000000 .good, .patrolScrub 32 .good,
    .hbmChannelFailed 32 0, .hbmChannelFailed 0 64, .easelFault 4, .monitorHelp ⟨1, [1, 2], []⟩, .bypass 0x01 boot0,
    .bypass 0x02 boot0] : List Instr).all (fun i => !WellFormed i) = true := by decide

theorem test_wf_accepts : ([
    .identify (env 0), .halt { env 0 with route := .fn 1 16 }, .sessionClose 8, .registerWrite goodFn 0 8 0 false, .queueEnable goodFn 7,
    .getVersion (doe 1), .scrubPassComplete 15 (some 15), .computeReset 15 575, .loop (issAt 15 575) 0 0, .slotTime 63 0,
    .flowUnitReceive 63 (List.replicate 256 0) quiet, .laneFailure (.bond 71) 131, .laneFailure (.port 63) 8, announce (-128), announce 127,
    .domainFault (.region 95), .patrolScrub 0x3FFFFFFFFC0 .good, .hbmChannelFailed 31 63, .easelFault 3, .monitorHelp ⟨2, [1, 2], []⟩,
    .bypass 0xFF boot0, .inputSupplyFault 72001 0, .logCommit] : List Instr).all WellFormed = true := by decide +kernel

/-! ### The queue, the table's words and reset -/

theorem test_no_bits (n w : Nat) : decodeTableWord n w = none ∧ State.reset.withFetchWord n w = State.reset := ⟨rfl, rfl⟩
theorem test_front_runs_first : (match step { State.reset with pending := [.masterListenEnd 0, .timInc 5] } with
    | .next t => t.pending | _ => []) = [.timInc 5] := by decide
theorem test_reset : State.reset.pending = [] ∧ State.reset.mem = [] ∧ State.reset.parts = [] ∧ State.reset.owner = none ∧
    memWf State.reset.mem = true ∧ State.reset.log.used ≤ 4096 := by decide

/-! ### Stored bundles -/

/-- The first bundle of the worked example of 05, field by field (R122, R123, R133, R138): TANK.BASE 0xF, −10, and an MMA
B4 × B4 on ar1 to ar4 with increment. A bundle with WAITTICK alone, and one with a reserved opcode in its X slot. -/
theorem test_bundle :
    decodeBundle 0 5 0 (BitVec.ofNat 256 (3 + 2 ^ 8 * (0x06 + 2 ^ 8 * 0xF + 2 ^ 12 * (1024 - 10)) +
      2 ^ 40 * (0x01 + 2 ^ 6 * 0xF + 2 ^ 18 * 1 + 2 ^ 22 * 2 + 2 ^ 26 * 3 + 2 ^ 30 * 4 + 2 ^ 34))) =
      [.tankBase ⟨0, 5, 0, 0, .good, false⟩ 0xF (-10),
       .mma ⟨0, 5, 0, 0, .good, false⟩ ⟨0xF, 0, 0, 1, 2, 3, 4, true, false, false, 0, 0, 0, 0⟩ .good] ∧
    decodeBundle 0 0 0 0x401 = [.waittick iss] ∧
    (decodeBundle 0 0 0 (BitVec.ofNat 256 (16 + 2 ^ 208 * 0x3F))).map (fun i => match i with
      | .chkarr i _ _ _ => i.rsvd
      | _ => false) = [true] := by decide +kernel

/-! ### The spec's own worked examples -/

/-- Worked encodings of 03: −3 in B4, T2 byte 0xA7, B3 elements of 0xEE1, 3.0 and −0.5 in F4, 2.5 to even. -/
theorem test_encodings : decodeElem 0 0xD = .fin true 3 0 ∧ (List.range 5).map (t2Digit 0xA7) = [2, 1, 0, 0, 2] ∧
    (List.range 4).map (fun n => signedOf 3 (field 3 0xEE1 n)) = [1, -4, 3, -1] ∧ encodeSat fmtF4 .near (.fin false 3 0) = (0x5, false) ∧
    encodeSat fmtF4 .near (.fin true 1 (-1)) = (0x9, false) ∧ encodeSat fmtF4 .near (.fin false 5 (-1)) = (0x4, false) := by decide +kernel
/-- The same table: 0.3 (as FP32), −3.5 and 448 in F8E4, 1.0 in F8E5, −3.5 in BF16. -/
theorem test_encodings_float : encodeSat fmtF8E4 .near (decodeFloat fmtFP32 0x3E99999A) = (0x2A, false) ∧
    encodeSat fmtF8E4 .near (.fin true 7 (-1)) = (0xC6, false) ∧ encodeSat fmtF8E4 .near (.fin false 448 0) = (0x7E, false) ∧
    encodeSat fmtF8E5 .near (.fin false 1 0) = (0x3C, false) ∧ encodeSat fmtBF16 .near (.fin true 7 (-1)) = (0xC060, false) := by decide +kernel
/-- Quantising 2.6, −1.3, 0.4 and 29 zeros into B4 (03, after R66). -/
theorem test_quantise : quantBlock 0 ([0x40266666, 0xBFA66666, 0x3ECCCCCD].map (decodeFloat fmtFP32) ++ List.replicate 29 (.fin false 0 0))
    (List.replicate 32 .near) = (0x7E, [0x5, 0xD, 0x1] ++ List.replicate 29 0, 0) := by decide +kernel
/-- One contribution: −1792 × 2^−9 at bases −10, 1 and 2 (03, after R72). -/
theorem test_contribution : [(-10 : Int), 1, 2].map (fun b => tankContribution (-1792) (-9 - b)) = [(-3584, false), (-1, false), (0, false)] := by
  decide +kernel
/-- Readout of T = −3584 and of T = 512,000 at base −10 (03, after R77). -/
theorem test_readout : readoutElem 7 (-3584) (-10) false none = (0xC060, false, false) ∧
    readoutElem 5 (-3584) (-10) false none = (0xC6, false, false) ∧ readoutElem 5 512000 (-10) false none = (0x7E, true, false) := by decide +kernel
/-- Grain test vectors 1 and 2 (03, after R94). -/
theorem test_grain : grain (grainKey 1 0) 0 = [0x8E61E233, 0x488DC507, 0x50D97FFB, 0xD1D9F016] ∧
    (List.range 4).map (word32 (grainCounter 1000 4 41 37 4800)) = [0x3E8, 0x0E090400, 0x0012C000, 0] := by decide +kernel
/-- Grain test vector 3: the uniform value 9,331,170 × 2^−24, and 0x3F80_4000 rounded stochastically to BF16. -/
theorem test_grain_uses : decodeFloat fmtFP32 (uniformOf 0x8E61E233) = .fin false 9331170 (-24) ∧
    encodeSat fmtBF16 (.stoch 0x8E61E233) (decodeFloat fmtFP32 0x3F804000) = (0x3F81, false) := by decide +kernel

/-- Placing one address of a partition of tiles 3 and 9 (07, after R189). -/
theorem test_placing : ({ part0 with tiles := [3, 9] } : Partition).toLocal .zx960 0x5012345600 64 = some 0x25012345600 ∧
    ({ part0 with tiles := [3, 9], dark := true } : Partition).toLocal .zx960 0x5012345600 64 = some 0x25812345600 ∧
    [0x25012345600, 0x25812345600].map (hbmChannel .zx960) = [(19, 55), (18, 55)] ∧
    [0x25012345600, 0x25812345600].map (hbmIndex .zx960) = [0x202468, 0x302468] := by decide
/-- Slots of the worked 500 µs frame (02) and the departure of slot 3,218 (06). -/
theorem test_slots : frameSlots 50000 = 11494 ∧ usableSlots 50000 120 = 11490 ∧ slotWall 3218 0 = 1399830 := by decide
/-- The tile handed across a die: h = 3 from region 36 to region 41, 120 cycles to its stated completion (06, after R169). -/
theorem test_across_die : rrHops 0 5 0 = 3 ∧ rrLatency 64 3 1500 1500 = 120 := by decide

def smallSheet : Sheet := ⟨2, 2, true, 2304, 8, 4, 200, []⟩
def smallRoute (p : Nat × Nat) : RouteEnt := ⟨p.1, p.2, 0, leBytes 4 p.1⟩
/-- A small sheet (06, after R179). -/
theorem test_sheet :
    let p := [(100, 0), (100, 1), (101, 0), (102, 0), (102, 1), (103, 1)].foldl (fun p e => placeRoute smallSheet 0 p (smallRoute e))
      ([(96, 1), (97, 1), (98, 1)].foldl (fun p e => placeDeferred smallSheet 0 p (smallRoute e)) ⟨[], [], 0, 0⟩)
    p.slots.map (fun x => (x.1, x.2.1)) = [(1, 96), (1, 97), (0, 100), (0, 101)] ∧
      p.out_ = [100, 102, 102, 103].map (leBytes 4) ∧ p.dropped = 1 ∧ p.deferred = 4 ∧ smallSheet.packetLen = 4864 ∧ smallSheet.occupancy = 55 := by
  decide +kernel

/-- The path delay of part 37 towards part 5: t1 to t4 give 15 ns (11, after R322). -/
theorem test_path_delay : pathDelay { beacon0 with txStamp := 1000040000, echoStamp := 1000000000, echoRx := 1000000008 } 1000040022 0 = some 15 := by
  decide
/-- The launch at 7,200 s: 41 grid Shutters after number 14,399,950 (12, after R342). -/
theorem test_launch_time : chooseLaunch { part0 with neg := some { neg0 with jobParts := 128, frameCount := 50000 } }
    { ft0 with grid := 14399950, time := 14399950 * 500000 + 150000, capture := 7199979850000 } (some 7200000000000) = 14399991 := by decide
/-- The governor of the worked boost: raises at 6,120 W, not at 6,480 W with 1,200 W reserved, again at 6,510 W (14). -/
theorem test_boost :
    let p : Partition := { part0 with tiles := [8, 9, 10, 11, 12, 13, 14, 15] }
    let at_ (a : Nat) (r : List Reservation) : Bool := ({ State.reset with power := { State.reset.power with a1 := a, reservations := r } }).raiseOk p
    at_ 6120 [] = true ∧ at_ 6480 [⟨1, 1200⟩] = false ∧ at_ 6510 [] = true := by decide

/-- Known answers of the published algorithms: CRC-64 of "123456789" without reflection, inverted at both ends (the CRC
catalogue's CRC-64/WE), and AES-256 of FIPS 197, C.3. -/
theorem test_crc64 : crc64 (asciiBytes "123456789") = 0x62EC59E3F1A4F00A := by decide +kernel
theorem test_aes : beNat (aesBlock (aesKeys ((List.range 32).map (BitVec.ofNat 8 ·))) ((List.range 16).map fun i => BitVec.ofNat 8 (0x11 * i))) =
    0x8ea2b7ca516745bfeafc49904b496089 := by decide +kernel

end Sys2Proof.Tests
end

/-! # Memory and sparse tables: what is read after a write -/

namespace Sys2Proof.Machine

/-! ### What memory reads after a write -/

/-- Below its first cell memory reads 0. -/
theorem memGet_of_lt {l : List Host.Cell} {k x : Nat} (h : memWfFrom k l = true) (hx : x < k) : memGet l x = 0 := by
  cases l with
  | nil => rfl
  | cons p rest =>
    simp only [memWfFrom, Bool.and_eq_true, decide_eq_true_eq] at h
    exact if_pos (Nat.lt_of_lt_of_le hx h.1.1)

/-- The cells below `a` hold what stands below `a`; the cells that follow them hold the rest. -/
theorem memGet_takeWhile_append {l r : List Host.Cell} {lo a : Nat} (h : memWfFrom lo l = true) (hr : memWfFrom a r = true)
    (x : Nat) :
    memGet (l.takeWhile (fun p => decide (p.1 < a)) ++ r) x = if x < a then memGet l x else memGet r x := by
  induction l generalizing lo with
  | nil =>
    split
    · exact memGet_of_lt hr ‹_›
    · rfl
  | cons p rest ih =>
    simp only [memWfFrom, Bool.and_eq_true, decide_eq_true_eq] at h
    by_cases hp : p.1 < a
    · simp only [List.takeWhile_cons, hp, decide_true, if_true, List.cons_append, memGet, ih h.2]
      grind
    · simp only [List.takeWhile_cons, hp, decide_false, Bool.false_eq_true, if_false, List.nil_append, memGet]
      split
      · rw [if_pos (by omega), memGet_of_lt hr ‹_›]
      · rfl

/-- The cells from `k` on hold what stands from `k` on. -/
theorem memGet_dropWhile {l : List Host.Cell} {lo k : Nat} (h : memWfFrom lo l = true) {x : Nat} (hx : k ≤ x) :
    memGet (l.dropWhile (fun p => decide (p.1 < k))) x = memGet l x := by
  induction l generalizing lo with
  | nil => rfl
  | cons p rest ih =>
    simp only [memWfFrom, Bool.and_eq_true, decide_eq_true_eq] at h
    by_cases hp : p.1 < k
    · simp only [List.dropWhile_cons, hp, decide_true, if_true, ih h.2, memGet]
      rw [if_neg (by omega), if_neg (by omega)]
    · simp only [List.dropWhile_cons, hp, decide_false, Bool.false_eq_true, if_false]

/-- The cells of a byte string at `a` hold its bytes; those that follow them hold the rest. -/
theorem memGet_memCells_append {r : List Host.Cell} (bs : Bytes) {a : Nat} (hr : memWfFrom (a + bs.length) r = true)
    {x : Nat} (hx : a ≤ x) :
    memGet (memCells a bs ++ r) x = if x < a + bs.length then bs.getD (x - a) 0 else memGet r x := by
  induction bs generalizing a with
  | nil => exact (if_neg (Nat.not_lt.2 hx)).symm
  | cons b rest ih =>
    have hr' : memWfFrom (a + 1 + rest.length) r = true := by
      rw [List.length_cons] at hr
      rwa [Nat.add_assoc, Nat.add_comm 1]
    rcases Nat.eq_or_lt_of_le hx with rfl | hlt
    · rw [if_pos (by simp), Nat.sub_self, List.getD_cons_zero]
      unfold memCells
      split
      · rename_i hb
        rw [hb]
        exact memGet_of_lt (memWfFrom_memCells_append rest hr') (Nat.lt_succ_self a)
      · simp [memGet]
    · have hs : x - a = (x - (a + 1)) + 1 := by omega
      have hl : a + (b :: rest).length = a + 1 + rest.length := by simp only [List.length_cons]; omega
      rw [hs, List.getD_cons_succ, hl, ← ih hr' hlt, memCells]
      split
      · rfl
      · simp only [List.cons_append, memGet]
        rw [if_neg (by omega), if_neg (by omega)]

theorem memGet_memWrite {m : List Host.Cell} (h : memWf m = true) (a : Nat) (bs : Bytes) (x : Nat) :
    memGet (memWrite m a bs) x = if a ≤ x ∧ x < a + bs.length then bs.getD (x - a) 0 else memGet m x := by
  have hd : memWfFrom (a + bs.length) (m.dropWhile fun p => decide (p.1 < a + bs.length)) = true := memWfFrom_dropWhile h
  unfold memWrite
  rw [List.append_assoc, memGet_takeWhile_append h (memWfFrom_memCells_append bs hd)]
  by_cases hx : x < a
  · rw [if_pos hx, if_neg (by omega)]
  · rw [if_neg hx, memGet_memCells_append bs hd (Nat.le_of_not_lt hx)]
    by_cases hb : x < a + bs.length
    · rw [if_pos hb, if_pos ⟨Nat.le_of_not_lt hx, hb⟩]
    · rw [if_neg hb, if_neg (fun hc => hb hc.2), memGet_dropWhile h (Nat.le_of_not_lt hb)]

theorem memGet_memClear {m : List Host.Cell} (h : memWf m = true) (a n x : Nat) :
    memGet (memClear m a n) x = if a ≤ x ∧ x < a + n then 0 else memGet m x := by
  have hd : memWfFrom (a + n) (m.dropWhile fun p => decide (p.1 < a + n)) = true := memWfFrom_dropWhile h
  unfold memClear
  rw [memGet_takeWhile_append h (memWfFrom_mono hd (Nat.le_add_right a n))]
  by_cases hx : x < a
  · rw [if_pos hx, if_neg (by omega)]
  · rw [if_neg hx]
    by_cases hb : x < a + n
    · rw [if_pos ⟨Nat.le_of_not_lt hx, hb⟩, memGet_of_lt hd hb]
    · rw [if_neg (fun hc => hb hc.2), memGet_dropWhile h (Nat.le_of_not_lt hb)]

/-- A range that becomes free values: they are drawn by their place in the range (04 R112, R118). -/
theorem State.freeRange_mem {s : State} (h : memWf s.mem = true) (a n x : Nat) :
    memGet (s.freeRange a n).mem x =
      if a ≤ x ∧ x < a + n then BitVec.ofNat 8 (Config.freeBits s.free (x - a)) else memGet s.mem x := by
  unfold State.freeRange State.write
  rw [memGet_memWrite h, List.length_map, List.length_range]
  split
  · rw [List.getD_eq_getElem _ _ (by simp; omega)]
    simp
  · rfl

/-! ### Sparse tables -/

theorem fmGet_eq_none {α : Type} {m : FMap α} {k : Nat} (h : ∀ q ∈ m, q.1 ≠ k) : fmGet m k = none := by
  induction m with
  | nil => rfl
  | cons p rest ih =>
    obtain ⟨hp, hrest⟩ := List.forall_mem_cons.1 h
    obtain ⟨j, v⟩ := p
    simp only [fmGet, ih hrest]
    split
    · rfl
    · exact if_neg fun hk => hp hk.symm

/-- A table without the entries that a test of the key refuses. -/
theorem fmGet_filter_none {α : Type} (m : FMap α) {k : Nat} (f : Nat × α → Bool) (hf : ∀ v, f (k, v) = false) :
    fmGet (m.filter f) k = none :=
  fmGet_eq_none fun q hq hk => by
    obtain ⟨j, v⟩ := q
    cases hk
    exact absurd (List.mem_filter.1 hq).2 (by simp [hf])

@[simp] theorem fmGet_fmErase_self {α : Type} (m : FMap α) (k : Nat) : fmGet (fmErase m k) k = none :=
  fmGet_filter_none m _ fun _ => by simp

/-- What a table holds under another key is still found when a key is gone. -/
theorem fmGet_fmErase_of_some {α : Type} {m : FMap α} {k j : Nat} {v : α} (hj : j ≠ k) (h : fmGet m j = some v) :
    fmGet (fmErase m k) j = some v := by
  induction m with
  | nil => cases h
  | cons p rest ih =>
    obtain ⟨i, w⟩ := p
    simp only [fmGet] at h
    have ⟨hlt, h⟩ : ¬j < i ∧ (if j = i then some w else fmGet rest j) = some v := by
      split at h
      · cases h
      · exact ⟨‹_›, h⟩
    unfold fmErase at ih ⊢
    by_cases hi : i = k
    · rw [if_neg (hi ▸ hj)] at h
      simpa [List.filter_cons, hi] using ih h
    · simp only [List.filter_cons, bne_iff_ne.2 hi, if_true, fmGet, if_neg hlt]
      split
      · rwa [if_pos ‹_›] at h
      · rw [if_neg ‹_›] at h
        exact ih h

/-- A table whose entries are changed one by one, each under its own key. -/
theorem fmGet_map_key {α β : Type} (m : FMap α) (f : Nat × α → Nat × β) (hf : ∀ q, (f q).1 = q.1) (k : Nat) :
    fmGet (m.map f) k = (fmGet m k).map fun v => (f (k, v)).2 := by
  rw [← fmGet_map m (fun j v => (f (j, v)).2)]
  exact congrArg (fmGet · k) (List.map_congr_left fun q _ => Prod.ext (hf q) rfl)

theorem fmGet_fmMap {α β : Type} (f : Nat → α → β) (m : FMap α) (k : Nat) : fmGet (fmMap f m) k = (fmGet m k).map (f k) :=
  fmGet_map m f k

/-- Setting a key that is present changes no value but its own. -/
theorem fmMap_fmSet {α β : Type} (f : Nat → α → β) {m : FMap α} {k : Nat} {v w : α} (h : fmGet m k = some v)
    (hf : f k w = f k v) : fmMap f (fmSet m k w) = fmMap f m := by
  induction m with
  | nil => cases h
  | cons p rest ih =>
    obtain ⟨j, u⟩ := p
    simp only [fmGet] at h
    unfold fmSet
    split at h
    · cases h
    · rename_i hlt
      rw [if_neg hlt]
      split at h
      · rename_i hk
        cases h
        cases hk
        simp [fmMap, hf]
      · rename_i hk
        rw [if_neg hk]
        exact congrArg ((j, f j u) :: ·) (ih h)

end Sys2Proof.Machine

/-! # Work on one partition spares the others -/

namespace Sys2Proof.Machine

/-! ### What work on one partition spares -/

/-- Where a partition lies and whom it serves: it keeps that for life (15 R398). -/
def Partition.place (p : Partition) : Nat × Nat × List Nat := (p.hostDie, p.fn, p.tiles)

/-- The places of all partitions. -/
def State.places (s : State) : FMap (Nat × Nat × List Nat) := fmMap (fun _ p => p.place) s.parts

/-- From `s` to `t` work was done on partition `pid` alone: bundle memory, power, the other partitions and the place of each
one are as they were, and where `quiet` holds so are memory and what host transfers have under way. -/
structure Spares (pid : Nat) (quiet : Prop) (s t : State) : Prop where
  bundles : ∀ x, (t.block x).bundles = (s.block x).bundles
  others : Claims.OtherParts s t pid
  places : t.places = s.places
  power : t.power = s.power
  mem : quiet → t.mem = s.mem
  underway : quiet → ∀ h k q, (t.queue h k q).underway = (s.queue h k q).underway

theorem State.boundTo_places (s : State) (h k : Nat) :
    s.boundTo h k = if k = 0 then none else (s.places.find? fun q => q.2.1 == h && q.2.2.1 == k).map (·.1) := by
  unfold State.boundTo State.places fmMap
  rw [List.find?_map, Option.map_map]
  rfl

theorem State.part_place (s : State) (j : Nat) : fmGet s.places j = (s.part j).map Partition.place := fmGet_fmMap ..

section
variable {pid : Nat} {quiet : Prop} {s t u : State}

theorem Spares.refl (s : State) : Spares pid quiet s s :=
  ⟨fun _ => rfl, fun _ _ => rfl, rfl, rfl, fun _ => rfl, fun _ _ _ _ => rfl⟩

theorem Spares.trans (h : Spares pid quiet s t) (k : Spares pid quiet t u) : Spares pid quiet s u where
  bundles x := (k.bundles x).trans (h.bundles x)
  others j hj := (k.others j hj).trans (h.others j hj)
  places := k.places.trans h.places
  power := k.power.trans h.power
  mem hq := (k.mem hq).trans (h.mem hq)
  underway hq a b c := (k.underway hq a b c).trans (h.underway hq a b c)

/-- A change elsewhere in the state. -/
theorem Spares.of_same (hb : t.blocks = s.blocks) (hp : t.parts = s.parts) (he : t.eps = s.eps) (hw : t.power = s.power)
    (hm : t.mem = s.mem) : Spares pid quiet s t where
  bundles x := by simp [State.block, hb]
  others j _ := by simp [State.part, hp]
  places := by simp [State.places, hp]
  power := hw
  mem _ := hm
  underway _ h k q := by simp [State.queue, State.func, State.endpoint, he]

theorem Spares.foldl {α : Type} {f : State → α → State} (l : List α) (s : State)
    (hf : ∀ t, ∀ a ∈ l, Spares pid quiet s t → Spares pid quiet t (f t a)) : Spares pid quiet s (l.foldl f s) :=
  List.foldlRecOn l f (motive := Spares pid quiet s) (.refl s) fun t ht a ha => ht.trans (hf t a ha ht)

/-- The partition itself keeps its place. -/
theorem Spares.exists_part (h : Spares pid quiet s t) {j : Nat} {p : Partition} (hp : s.part j = some p) :
    ∃ p', t.part j = some p' ∧ p'.place = p.place := by
  have hj := h.places ▸ t.part_place j
  rw [s.part_place j, hp] at hj
  exact Option.map_eq_some_iff.1 hj.symm

theorem Spares.boundTo_eq (h : Spares pid quiet s t) (a k : Nat) : t.boundTo a k = s.boundTo a k := by
  rw [t.boundTo_places, s.boundTo_places, h.places]

end

section
variable {pid : Nat} {quiet : Prop} (s : State)

theorem State.func_updFunc (h k a b : Nat) (f : Func → Func) :
    (s.updFunc h k f).func a b = if a = h ∧ b = k then f (s.func a b) else s.func a b := by
  by_cases ha : a = h
  · subst ha
    by_cases hb : b = k
    · subst hb
      simp
    · simp [State.updFunc, State.func, fmGetD, fmGet_fmSet_ne _ _ hb, hb]
  · simp [State.updFunc, State.func, State.updEp_endpoint_ne _ _ ha, ha]

theorem emit_spares (o : OutEv) : Spares pid quiet s (s.emit o) := .of_same rfl rfl rfl rfl rfl

/-- An update of a function that keeps what its queues have under way. -/
theorem updFunc_spares (h k : Nat) (f : Func → Func)
    (hf : quiet → ∀ x q, (fmGetD (f x).queues q {}).underway = (fmGetD x.queues q {}).underway) :
    Spares pid quiet s (s.updFunc h k f) where
  bundles _ := rfl
  others _ _ := rfl
  places := rfl
  power := rfl
  mem _ := rfl
  underway hq a b q := by
    simp only [State.queue, State.func_updFunc]
    split
    · exact hf hq _ q
    · rfl

theorem updQueue_spares (h k q : Nat) (f : Queue → Queue) (hf : quiet → ∀ x, (f x).underway = x.underway) :
    Spares pid quiet s (s.updQueue h k q f) :=
  updFunc_spares s h k _ fun hq x j => by
    by_cases hj : j = q
    · subst hj
      simp [fmGetD, hf hq]
    · simp [fmGetD, fmGet_fmSet_ne _ _ hj]

/-- An update of the partition that keeps its place. -/
theorem updPart_spares (f : Partition → Partition) (hf : ∀ x, (f x).place = x.place) :
    Spares pid quiet s (s.updPart pid f) where
  bundles x := by simp [State.block]
  others j hj := State.updPart_part_ne s f hj
  places := by
    unfold State.updPart
    cases hp : fmGet s.parts pid with
    | none => rfl
    | some x => exact fmMap_fmSet _ hp (hf x)
  power := by simp
  mem _ := by simp
  underway _ h k q := by simp [State.queue, State.func, State.endpoint]

/-- Blocks and regions change one by one, and bundle memory stays. -/
theorem mapBlocks_spares (f : Nat × Block → Nat × Block) (rs : FMap Region) (hk : ∀ q, (f q).1 = q.1)
    (hf : ∀ q, (f q).2.bundles = q.2.bundles) :
    Spares pid quiet s { s with blocks := s.blocks.map f, regions := rs } where
  bundles x := by
    simp only [State.block, fmGetD, fmGet_map_key _ _ hk]
    cases fmGet s.blocks x with
    | none => rfl
    | some b => exact hf (x, b)
  others _ _ := rfl
  places := rfl
  power := rfl
  mem _ := rfl
  underway _ _ _ _ := rfl

/-! ### Interrupts, log entries and answers -/

theorem setCause_spares (h k n : Nat) : Spares pid quiet s (s.setCause h k n) := by
  have hvec (t : State) (v : Nat) : Spares pid quiet t (t.sendVector h k v) := by
    unfold State.sendVector
    simp only
    split
    · exact updFunc_spares _ _ _ _ fun _ _ _ => rfl
    · exact emit_spares ..
  have hbit : Spares pid quiet s (s.updFunc h k fun f => { f with cause := f.cause ||| (1#32 <<< n) }) :=
    updFunc_spares _ _ _ _ fun _ _ _ => rfl
  unfold State.setCause
  simp only
  split
  · exact .refl s
  · split
    · exact hbit
    · exact hbit.trans (hvec ..)

theorem noteEntry_spares (code n : Nat) : Spares pid quiet s (s.noteEntry code pid n) := by
  have tail (t : State) : Spares pid quiet t (if code / 4096 = 2 ∨ code / 4096 = 3 then (t.setCause 0 0 6).setCause 1 0 6 else t) := by
    split
    · exact (setCause_spares ..).trans (setCause_spares ..)
    · exact .refl t
  unfold State.noteEntry
  refine .trans ?_ (tail _)
  split
  · exact .refl s
  · by_cases h0 : code / 4096 = 0
    · simp only [h0, if_true]
      exact updFunc_spares _ _ _ _ fun _ _ _ => rfl
    · simp only [h0, if_false]
      refine .trans ?_ (setCause_spares ..)
      refine .trans ?_ (updFunc_spares _ _ _ _ fun _ _ _ => rfl)
      exact updPart_spares _ _ fun _ => rfl

theorem log_spares (l : Log) : Spares pid quiet s { s with log := l } := .of_same rfl rfl rfl rfl rfl

theorem logEv_spares (code : Nat) (u : LogUnit) (d : Nat) (cs : List Bytes) : Spares pid quiet s (s.logEv code pid u d cs) := by
  unfold State.logEv
  simp only
  split
  · exact (log_spares ..).trans (noteEntry_spares ..)
  · exact (log_spares ..).trans (noteEntry_spares ..)

theorem complete_spares (r : Route) (mark : Nat) (st : Byte) (resp : Bytes) : Spares pid quiet s (s.complete r mark st resp) := by
  unfold State.complete
  cases r with
  | fn h k =>
    refine .trans ?_ (setCause_spares ..)
    exact updFunc_spares _ _ _ _ fun _ _ _ => rfl
  | session n =>
    simp only
    split
    · exact .refl s
    · exact .of_same rfl rfl rfl rfl rfl

@[simp] theorem setCause_parts (h k n : Nat) : (s.setCause h k n).parts = s.parts := by
  have hvec (t : State) (v : Nat) : (t.sendVector h k v).parts = t.parts := by
    unfold State.sendVector
    simp only
    split <;> rfl
  unfold State.setCause
  simp only
  split
  · rfl
  · split
    · rfl
    · exact hvec ..

@[simp] theorem complete_parts (r : Route) (mark : Nat) (st : Byte) (resp : Bytes) : (s.complete r mark st resp).parts = s.parts := by
  unfold State.complete
  cases r with
  | fn h k => simp
  | session n =>
    simp only
    split <;> rfl

/-! ### Shared operations on a partition -/

theorem drawGen_spares : Spares pid quiet s (s.drawGen pid).1 := by
  unfold State.drawGen
  simp only
  split
  · exact logEv_spares ..
  · exact .of_same rfl rfl rfl rfl rfl

theorem cancelTimed_spares : Spares pid quiet s (s.cancelTimed pid) := by
  unfold State.cancelTimed
  split
  · exact .refl s
  · split
    · exact .refl s
    · rename_i x _
      have hlog : Spares pid quiet s (if x.tReq.isSome then s.logEv 0x0233 pid noUnit 0 else s) := by
        split
        · exact logEv_spares ..
        · exact .refl s
      refine .trans ?_ (updPart_spares _ _ fun _ => rfl)
      exact hlog.trans (complete_spares ..)

theorem abortWaiting_spares (mark : Nat) (st : Byte) : Spares pid quiet s (s.abortWaiting pid mark st) := by
  unfold State.abortWaiting
  split
  · exact .refl s
  · refine .trans ?_ (updPart_spares _ _ fun _ => rfl)
    exact .foldl _ _ fun t r _ _ => complete_spares t r ..

theorem destroyKeys_spares : Spares pid quiet s (s.destroyKeys pid) := updPart_spares _ _ fun _ => rfl

theorem stopUnits_spares : Spares pid quiet s (s.stopUnits pid) := by
  unfold State.stopUnits
  split
  · exact .refl s
  · refine mapBlocks_spares _ _ _ (fun q => ?_) fun q => ?_
    · split <;> rfl
    · split <;> rfl

theorem dropTraffic_spares (j : Nat) : Spares pid quiet s (s.dropTraffic j) := by
  unfold State.dropTraffic
  split
  · exact .refl s
  · refine mapBlocks_spares _ _ _ (fun q => ?_) fun q => ?_
    · split <;> rfl
    · split <;> rfl

theorem recordPart_spares (j : Nat) : Spares pid quiet s (s.recordPart j) := by
  unfold State.recordPart
  split <;> exact .of_same rfl rfl rfl rfl rfl

theorem leaveNegative_spares (j : Nat) : Spares pid quiet s (s.leaveNegative j) := by
  unfold State.leaveNegative
  split
  · exact .refl s
  · refine .foldl _ _ fun t f _ _ => ?_
    refine .trans (t := t.updDie f fun d => { d with agree := none }) (.of_same rfl rfl rfl rfl rfl) ?_
    exact .foldl _ _ fun t k _ _ => .of_same rfl rfl rfl rfl rfl

theorem discardPost_spares (h k : Nat) : Spares pid quiet s (s.discardPost h k) := updFunc_spares _ _ _ _ fun _ _ _ => rfl

theorem clearBinding_spares (h k : Nat) : Spares pid quiet s (s.clearBinding h k) := updFunc_spares _ _ _ _ fun _ _ _ => rfl

theorem faultPart_spares (mark : Nat) : Spares pid quiet s (s.faultPart pid mark) := by
  unfold State.faultPart
  split
  · exact .refl s
  · refine .trans (.trans ?_ (recordPart_spares ..)) (setCause_spares ..)
    refine .trans ?_ (updPart_spares _ _ fun _ => rfl)
    exact ((abortWaiting_spares ..).trans (destroyKeys_spares ..)).trans (stopUnits_spares ..)

/-! ### Queues that stop -/

theorem closeHost_spares (h k q : Nat) (hq : quiet → (s.queue h k q).underway = none) : Spares pid quiet s (s.closeHost h k q) := by
  unfold State.closeHost
  extract_lets tag t
  have ht : Spares pid quiet s t := mapBlocks_spares s _ _ (fun _ => rfl) fun _ => rfl
  refine ht.trans ?_
  split
  · rename_i a old hu
    have hno : ¬quiet := fun hx => by cases (hq hx).symm.trans hu
    refine .trans (t := t.write a old) ?_ (updQueue_spares _ _ _ _ _ fun hx => absurd hx hno)
    exact ⟨fun _ => rfl, fun _ _ => rfl, rfl, rfl, fun hx => absurd hx hno, fun hx => absurd hx hno⟩
  · exact .refl t

theorem completeDesc_spares (h k q n : Nat) (hq : quiet → (s.queue h k q).underway = none) :
    Spares pid quiet s (s.completeDesc h k q dsAborted n) := by
  have hemit (t : State) (b : Bool) (o : OutEv) : Spares pid quiet t (if b then t.emit o else t) := by
    split
    · exact emit_spares ..
    · exact .refl t
  have hcause (t : State) (b : Bool) (j : Nat) : Spares pid quiet t (if b then t.setCause h k j else t) := by
    split
    · exact setCause_spares ..
    · exact .refl t
  unfold State.completeDesc
  simp only
  split
  · exact .refl s
  · refine .trans ?_ (hcause ..)
    refine .trans ?_ (updQueue_spares _ _ _ _ _ fun _ _ => rfl)
    refine .trans ?_ (hemit ..)
    exact closeHost_spares s h k q hq

/-- Descriptors that stop without a transfer change memory only where one was under way. -/
theorem stopQueues_spares (h k : Nat) (hq : quiet → ∀ q < 8, (s.queue h k q).underway = none) :
    Spares pid quiet s (s.stopQueues h k dsAborted false) := by
  unfold State.stopQueues
  refine .foldl _ _ fun t q hmem ht => ?_
  have htq : quiet → (t.queue h k q).underway = none := fun hx => (ht.underway hx h k q).trans (hq hx q (List.mem_range.1 hmem))
  split
  · exact .refl t
  · split
    · exact completeDesc_spares t h k q 0 htq
    · refine .trans (t := { t with free := t.free + 1 }) (.of_same rfl rfl rfl rfl rfl) ?_
      exact completeDesc_spares _ h k q _ htq

/-! ### Reset, and what leaves the fabric -/

theorem resetPartition_spares (trigger : Nat)
    (hq : ∀ p, s.part pid = some p → quiet → ∀ q < 8, (s.queue p.hostDie p.fn q).underway = none) :
    Spares pid quiet s (s.resetPartition pid trigger) := by
  unfold State.resetPartition
  split
  · exact .refl s
  · rename_i p hp
    split
    · exact .refl s
    · extract_lets mark s1 s2 s3 s4 s5 g state s6
      have h1 : Spares pid quiet s s1 := (destroyKeys_spares s).trans (stopUnits_spares _)
      have h2 : Spares pid quiet s1 s2 := by
        refine .trans (stopQueues_spares s1 _ _ fun hx q hlt => ?_) (discardPost_spares ..)
        rw [h1.underway hx]
        exact hq p hp hx q hlt
      have h3 : Spares pid quiet s2 s3 := ((cancelTimed_spares _).trans (dropTraffic_spares ..)).trans (leaveNegative_spares ..)
      have h4 : Spares pid quiet s3 s4 := by
        unfold s4
        split
        · exact .refl s3
        · exact abortWaiting_spares ..
      have h5 : Spares pid quiet s4 s5 := updPart_spares _ _ fun _ => rfl
      have h6 : Spares pid quiet s5 s6 := by
        refine .trans (drawGen_spares s5) ?_
        unfold s6
        split
        · exact faultPart_spares ..
        · extract_lets t
          have ht : Spares pid quiet g.1 t := updPart_spares _ _ fun _ => rfl
          refine ht.trans ?_
          split
          · exact logEv_spares ..
          · exact .refl t
      have h7 : Spares pid quiet s6 (((s6.recordPart pid).logEv 0x000C pid noUnit (3 + 16 * trigger)).setCause p.hostDie p.fn 2) :=
        ((recordPart_spares ..).trans (logEv_spares ..)).trans (setCause_spares ..)
      exact ((((((h1.trans h2).trans h3).trans h4).trans h5).trans h6).trans h7)

theorem tdiError_spares (h k : Nat) (hb : ∀ j, s.boundTo h k = some j → j = pid) : Spares pid quiet s (s.tdiError h k) := by
  have htdi : Spares pid quiet s (s.updFunc h k fun f => { f with tdi := .error }) := updFunc_spares _ _ _ _ fun _ _ _ => rfl
  unfold State.tdiError
  extract_lets f s1
  split
  · exact .refl s
  · refine htdi.trans ?_
    split
    · exact .refl _
    · rename_i j hj
      obtain rfl := hb j hj
      split
      · exact .refl _
      · split
        · exact (logEv_spares ..).trans (updPart_spares _ _ fun _ => rfl)
        · exact .refl _

theorem startRetrain_spares (q reason : Nat) : Spares pid quiet s (s.startRetrain q reason) := by
  unfold State.startRetrain
  split
  · exact .of_same rfl rfl rfl rfl rfl
  · exact .refl s

theorem removeTables_spares : Spares pid quiet s (s.removeTables pid) := by
  unfold State.removeTables
  have hpart (t : State) : Spares pid quiet t (t.updPart pid fun p => { p with
      fab := none, epoch := 0, bank := .empty, switchAt := none, landing := [], tokens := 0 }) := updPart_spares _ _ fun _ => rfl
  refine .trans ((dropTraffic_spares s pid).trans (hpart _)) ?_
  refine .foldl _ _ fun t f _ _ => ?_
  refine .trans (t := { t with dies := fmErase t.dies f }) (.of_same rfl rfl rfl rfl rfl) ?_
  refine .foldl _ _ fun t k _ _ => ?_
  extract_lets q p s1 s2
  refine .trans (t := s2) (.of_same rfl rfl rfl rfl rfl) ?_
  split
  · exact .of_same rfl rfl rfl rfl rfl
  · split
    · exact startRetrain_spares ..
    · exact .refl s2

end
end Sys2Proof.Machine

/-! # PART.CREATE (16 R440) -/

namespace Sys2Proof.Machine

/-! ### Commands that answer at once -/

/-- A command whose body answers completes with that answer. -/
theorem completes_of_reply {s s1 s2 : State} {i : Instr} {e : Envelope} {c : CmdSpec} {t : Option Nat}
    {body : State → Option Nat → Answer} {st : Byte} {resp : Bytes} (h : Accepts s e c s1 t)
    (hi : exec i s = .next (runCmd s e c body)) (hb : body s1 t = reply s2 st resp) : Claims.Completes s s1 i e s2 st resp := by
  unfold Claims.Completes
  rw [hi, runCmd_accepts body h, hb]
  rfl

theorem State.drawGen_of_ne (s : State) (part : Nat) (h : s.nvm.generation ≠ 0xFFFFFFFF) :
    s.drawGen part = ({ s with nvm := { s.nvm with generation := s.nvm.generation + 1 } }, some (s.nvm.generation + 1)) :=
  if_neg h

@[simp] theorem recordPart_parts (s : State) (j : Nat) : (s.recordPart j).parts = s.parts := by
  unfold State.recordPart
  split <;> rfl

@[simp] theorem recordPart_mem (s : State) (j : Nat) : (s.recordPart j).mem = s.mem := by
  unfold State.recordPart
  split <;> rfl

/-! ### Tile sets of PART.CREATE (00 R4) -/

theorem mem_tilesOf {m : BitVec 16} {d : Nat} : d ∈ tilesOf m ↔ m.getLsbD d = true := by
  unfold tilesOf
  rw [List.mem_filter, List.mem_range]
  exact ⟨And.right, fun h => ⟨BitVec.lt_of_getLsbD h, h⟩⟩

theorem tilesOf_eq_nil {m : BitVec 16} : tilesOf m = [] ↔ m = 0 := by
  rw [List.eq_nil_iff_forall_not_mem]
  constructor
  · intro h
    refine BitVec.eq_of_getLsbD_eq fun d _ => ?_
    simpa using fun hd => h d (mem_tilesOf.2 hd)
  · rintro rfl d hd
    simpa using mem_tilesOf.1 hd

/-- The first tile of a set is its lowest. -/
theorem tilesOf_head {m : BitVec 16} (hm : m ≠ 0) :
    m.getLsbD ((tilesOf m).headD 0) = true ∧ ∀ d < (tilesOf m).headD 0, m.getLsbD d = false := by
  have hsorted : (tilesOf m).Pairwise (· < ·) := List.pairwise_lt_range.filter _
  cases hts : tilesOf m with
  | nil => exact absurd (tilesOf_eq_nil.1 hts) hm
  | cons x rest =>
    have hmem (d : Nat) : d ∈ x :: rest ↔ m.getLsbD d = true := hts ▸ mem_tilesOf
    rw [hts] at hsorted
    refine ⟨(hmem x).1 List.mem_cons_self, fun d hd => ?_⟩
    by_contra hbit
    rcases List.mem_cons.1 ((hmem d).2 (by simpa using hbit)) with rfl | hrest
    · exact Nat.lt_irrefl _ hd
    · exact Nat.lt_asymm hd ((List.pairwise_cons.1 hsorted).1 d hrest)

theorem wholeGroups_tilesOf (v : Variant) (m : BitVec 16) : wholeGroups v (tilesOf m) = true ↔ Claims.wholeSet v m := by
  have hg : Claims.groupSize v = variantGroup v := by cases v <;> rfl
  unfold wholeGroups Claims.wholeSet
  simp only [List.all_eq_true, List.mem_range, List.contains_iff_mem, mem_tilesOf, hg]
  exact ⟨fun h d _ hd => h d hd, fun h d hd => h d (BitVec.lt_of_getLsbD hd) hd⟩

/-- What PART.CREATE refuses as an argument (16 R440). -/
theorem createArgs_iff (v : Variant) (m : BitVec 16) (h k fl : Byte) :
    (tilesOf m = [] ∨ 1 < h.toNat ∨ k.toNat = 0 ∨ 16 < k.toNat ∨ 1 < fl.toNat ∨ wholeGroups v (tilesOf m) = false) ↔
      (m = 0 ∨ 1 < h.toNat ∨ k = 0 ∨ 16 < k.toNat ∨ 1 < fl.toNat ∨ ¬Claims.wholeSet v m) := by
  have hk : k.toNat = 0 ↔ k = 0 := (BitVec.toNat_eq (y := 0)).symm
  rw [tilesOf_eq_nil, ← wholeGroups_tilesOf, Bool.not_eq_true, hk]

theorem partCreate_badArg {s s1 : State} {e : Envelope} {m : BitVec 16} {h k fl : Byte} {t : Option Nat}
    (ha : Accepts s e (Claims.partWide 0x0201 8 Claims.byOwner) s1 t)
    (hbad : m = 0 ∨ 1 < h.toNat ∨ k = 0 ∨ 16 < k.toNat ∨ 1 < fl.toNat ∨ ¬Claims.wholeSet s1.model m) :
    Claims.Completes s s1 (.partCreate e m h k fl) e s1 stBadArg [] :=
  completes_of_reply ha rfl (if_pos ((createArgs_iff ..).2 hbad))

/-- The partition that PART.CREATE makes (16 R440). -/
def createdPart (s : State) (m : BitVec 16) (h k fl : Byte) : Partition :=
  { tiles := tilesOf m, hostDie := h.toNat, fn := k.toNat, dark := fl == 1, state := .tainted, gen := s.nvm.generation + 1,
    created := s.log.next }

/-- The part with that partition, recorded in NVM and bound, its tiles on (14 R385, 15 R398, R403). -/
def State.withCreated (s : State) (m : BitVec 16) (h k fl : Byte) : State :=
  let s0 : State := { s with nvm := { s.nvm with generation := s.nvm.generation + 1 } }
  let t := ((s0.setPart ((tilesOf m).headD 0) (createdPart s m h k fl)).recordPart ((tilesOf m).headD 0)).clearBinding h.toNat k.toNat
  { t with power := { t.power with tilesOn := t.power.tilesOn ++ tilesOf m } }

/-- The debug lockout that a Darkroom partition brings: the counters of every partition stand still (15 R423, 19 R504). -/
def Partition.perfOff (p : Partition) : Partition := { p with frame := { p.frame with perfOff := true } }

/-- The part after PART.CREATE. -/
def State.afterCreate (s : State) (m : BitVec 16) (h k fl : Byte) : State :=
  let t := s.withCreated m h k fl
  if (fl == 1) = true then { t with parts := fmMap (fun _ x => x.perfOff) t.parts } else t

theorem partCreate_completes {s s1 : State} {e : Envelope} {m : BitVec 16} {h k fl : Byte} {t : Option Nat}
    (ha : Accepts s e (Claims.partWide 0x0201 8 Claims.byOwner) s1 t)
    (hgood : ¬(m = 0 ∨ 1 < h.toNat ∨ k = 0 ∨ 16 < k.toNat ∨ 1 < fl.toNat ∨ ¬Claims.wholeSet s1.model m))
    (hfree : ∀ d < 16, m.getLsbD d = true → s1.ownerOf d = none ∧ d ∉ s1.power.degraded)
    (hunbound : s1.boundTo h.toNat k.toNat = none) (hen : (s1.endpoint h.toNat).enabled = true)
    (hjtag : fl = 1 → s1.jtagOpen = false) (hgen : s1.nvm.generation ≠ 0xFFFFFFFF) :
    Claims.Completes s s1 (.partCreate e m h k fl) e (s1.afterCreate m h k fl) stOk
      ([BitVec.ofNat 8 ((tilesOf m).headD 0), 1, 0, 0] ++ leBytes 4 (s1.nvm.generation + 1).toNat) := by
  have htiles : ((tilesOf m).any fun d => (s1.ownerOf d).isSome || s1.power.degraded.contains d) = false := by
    refine List.any_eq_false.2 fun d hd => ?_
    have hbit := mem_tilesOf.1 hd
    obtain ⟨howner, hdeg⟩ := hfree d (BitVec.lt_of_getLsbD hbit) hbit
    simp [howner, hdeg]
  have hdark : ¬((fl == 1) = true ∧ s1.jtagOpen = true) := fun ⟨hf, hj⟩ => by
    rw [hjtag (eq_of_beq hf)] at hj
    cases hj
  refine completes_of_reply ha rfl ?_
  refine (if_neg fun hc => hgood ((createArgs_iff ..).1 hc)).trans ?_
  refine (if_neg hdark).trans ?_
  refine (if_neg (by rw [htiles, hunbound, hen]; decide)).trans ?_
  simp only [State.drawGen_of_ne _ _ hgen]
  rfl

theorem withCreated_parts (s : State) (m : BitVec 16) (h k fl : Byte) :
    (s.withCreated m h k fl).parts = fmSet s.parts ((tilesOf m).headD 0) (createdPart s m h k fl) :=
  recordPart_parts ..

theorem withCreated_nvm (s : State) (m : BitVec 16) (h k fl : Byte) :
    (s.withCreated m h k fl).nvm = { s.nvm with
      generation := s.nvm.generation + 1
      records := fmSet s.nvm.records ((tilesOf m).headD 0) ⟨tilesOf m, h.toNat, k.toNat, fl == 1, false, false, s.log.next⟩ } := by
  unfold State.withCreated State.recordPart
  simp only [State.clearBinding, State.updFunc_nvm, State.setPart_part_self]
  rfl

theorem afterCreate_nvm (s : State) (m : BitVec 16) (h k fl : Byte) :
    (s.afterCreate m h k fl).nvm = (s.withCreated m h k fl).nvm := by
  unfold State.afterCreate
  simp only
  split <;> rfl

theorem afterCreate_mem (s : State) (m : BitVec 16) (h k fl : Byte) : (s.afterCreate m h k fl).mem = s.mem := by
  have hmem : (s.withCreated m h k fl).mem = s.mem := recordPart_mem ..
  unfold State.afterCreate
  simp only
  split <;> exact hmem

/-- The new partition, but for the lockout in its frame. -/
theorem afterCreate_part (s : State) (m : BitVec 16) (h k fl : Byte) :
    ∃ f, (s.afterCreate m h k fl).part ((tilesOf m).headD 0) = some { createdPart s m h k fl with frame := f } := by
  have hpart : fmGet (s.withCreated m h k fl).parts ((tilesOf m).headD 0) = some (createdPart s m h k fl) := by
    rw [withCreated_parts, fmGet_fmSet_self]
  unfold State.afterCreate State.part
  simp only
  split
  · exact ⟨_, by rw [fmGet_fmMap, hpart]; rfl⟩
  · exact ⟨_, hpart⟩

/-- Without the Darkroom flag no other partition changes. -/
theorem afterCreate_others (s : State) (m : BitVec 16) (h k : Byte) :
    Claims.OtherParts s (s.afterCreate m h k 0) ((tilesOf m).headD 0) := by
  intro j hj
  have hparts : (s.afterCreate m h k 0).parts = _ := withCreated_parts s m h k 0
  rw [State.part, hparts, fmGet_fmSet_ne _ _ hj]
  rfl

theorem partCreate_creates {s s1 : State} {e : Envelope} {m : BitVec 16} {h k fl : Byte} {t : Option Nat}
    (ha : Accepts s e (Claims.partWide 0x0201 8 Claims.byOwner) s1 t)
    (hgood : ¬(m = 0 ∨ 1 < h.toNat ∨ k = 0 ∨ 16 < k.toNat ∨ 1 < fl.toNat ∨ ¬Claims.wholeSet s1.model m))
    (hfree : ∀ d < 16, m.getLsbD d = true → s1.ownerOf d = none ∧ d ∉ s1.power.degraded)
    (hunbound : s1.boundTo h.toNat k.toNat = none) (hen : (s1.endpoint h.toNat).enabled = true)
    (hjtag : fl = 1 → s1.jtagOpen = false) (hgen : s1.nvm.generation ≠ 0xFFFFFFFF) :
    ∃ s2 pid p, Claims.Completes s s1 (.partCreate e m h k fl) e s2 stOk
        ([BitVec.ofNat 8 pid, 1, 0, 0] ++ leBytes 4 (s1.nvm.generation + 1).toNat) ∧
      m.getLsbD pid = true ∧ (∀ d < pid, m.getLsbD d = false) ∧ s2.part pid = some p ∧
      (∀ d, d ∈ p.tiles ↔ m.getLsbD d = true) ∧ p.hostDie = h.toNat ∧ p.fn = k.toNat ∧ p.dark = (fl == 1) ∧ p.state = .tainted ∧
      p.gen = s1.nvm.generation + 1 ∧ s2.nvm.generation = s1.nvm.generation + 1 ∧ p.neg = none ∧ s2.mem = s1.mem ∧
      (fl = 0 → Claims.OtherParts s1 s2 pid) ∧ ∃ r, fmGet s2.nvm.records pid = some r ∧ r.tiles = p.tiles ∧ r.dark = p.dark := by
  have hc := partCreate_completes ha hgood hfree hunbound hen hjtag hgen
  obtain ⟨hlow, hless⟩ := tilesOf_head fun hm => hgood (.inl hm)
  obtain ⟨f, hpart⟩ := afterCreate_part s1 m h k fl
  have hnvm := (afterCreate_nvm s1 m h k fl).trans (withCreated_nvm s1 m h k fl)
  refine ⟨_, _, _, hc, hlow, hless, hpart, fun _ => mem_tilesOf, rfl, rfl, rfl, rfl, rfl, congrArg Nvm.generation hnvm, rfl,
    afterCreate_mem .., ?_, ?_⟩
  · rintro rfl
    exact afterCreate_others s1 m h k
  · rw [hnvm]
    exact ⟨_, fmGet_fmSet_self .., rfl, rfl⟩

end Sys2Proof.Machine

/-! # PART.DESTROY, SCRUB and REMAP (04 R118, 15 R398, R424) -/

namespace Sys2Proof.Machine

@[simp] theorem recordPart_blocks (s : State) (j : Nat) : (s.recordPart j).blocks = s.blocks := by
  unfold State.recordPart
  split <;> rfl

@[simp] theorem stopUnits_parts (s : State) (j : Nat) : (s.stopUnits j).parts = s.parts := by
  unfold State.stopUnits
  split <;> rfl

/-! ### PART.DESTROY (15 R398) -/

theorem keepBundles_get (bs : FMap Block) (gone : Nat → Bool) (x : Nat) :
    fmGetD (keepBundles bs gone) x {} =
      if gone (x / 36) = true then { bundles := (fmGetD bs x {}).bundles } else fmGetD bs x {} := by
  have hkey : ∀ q : Nat × Block, (if gone (q.1 / 36) then (q.1, ({ bundles := q.2.bundles } : Block)) else q).1 = q.1 := by
    intro q
    split <;> rfl
  unfold keepBundles fmGetD
  rw [fmGet_map_key _ _ hkey]
  cases fmGet bs x with
  | none => simp
  | some b =>
    simp only [Option.map_some, Option.getD_some]
    split <;> rfl

section
variable (s : State) (pid : Nat) (p : Partition)

theorem releasePart_part_self : (s.releasePart pid p).part pid = none := fmGet_fmErase_self ..

theorem releasePart_record_self : fmGet (s.releasePart pid p).nvm.records pid = none := fmGet_fmErase_self ..

theorem releasePart_part_of_some {j : Nat} {q : Partition} (hj : j ≠ pid) (h : s.part j = some q) :
    (s.releasePart pid p).part j = some q :=
  fmGet_fmErase_of_some hj (((removeTables_spares (quiet := True) s).others j hj).trans h)

theorem releasePart_mem : (s.releasePart pid p).mem = s.mem := (removeTables_spares (pid := pid) s).mem trivial

/-- Of the blocks of its tiles only bundle memory stays (04 R109). -/
theorem releasePart_block {x : Nat} (hx : x / 36 ∈ p.tiles) :
    (s.releasePart pid p).block x = { bundles := (s.block x).bundles } := by
  rw [← (removeTables_spares (pid := pid) (quiet := True) s).bundles x]
  exact (keepBundles_get ..).trans (if_pos (List.contains_iff_mem.2 hx))

theorem releasePart_tilesOn {d : Nat} (hd : d ∈ p.tiles) : d ∉ (s.releasePart pid p).power.tilesOn := fun h => by
  simpa [hd] using (List.mem_filter.1 h).2

theorem releasePart_region {r : Nat} (hr : r / 6 ∈ p.tiles) : (s.releasePart pid p).region r = {} := by
  have hgone : fmGet (s.releasePart pid p).regions r = none := fmGet_filter_none _ _ fun _ => by simp [hr]
  rw [State.region, fmGetD, hgone]
  rfl

end

/-- The partition as PART.DESTROY leaves it before it goes: aborted, reset, and its interface in ERROR where it is dark. -/
def State.beforeRelease (s : State) (pid : Nat) (p : Partition) : State :=
  let t := ((s.cancelTimed pid).abortWaiting pid s.log.next stAborted).resetPartition pid 0
  (if p.dark = true then t.tdiError p.hostDie p.fn else t).destroyKeys pid

theorem partDestroy_completes {s s1 : State} {e : Envelope} {pid : Nat} {p : Partition}
    (ha : Accepts s e (Claims.ofPart 0x0202 0 Claims.byOwner .destroy) s1 (some pid)) (hp : s1.part pid = some p) :
    Claims.Completes s s1 (.partDestroy e) e ((s1.beforeRelease pid p).releasePart pid p) stOk [] := by
  refine completes_of_reply ha rfl ?_
  simp only [hp]
  rfl

/-- What comes before the release of a partition spares the rest; an interface that is shared with another partition could
reach that one. -/
theorem beforeRelease_spares {s : State} {pid : Nat} {p : Partition} (hp : s.part pid = some p) :
    ∃ t u, Spares pid (Claims.noHostWrite s p) s t ∧ Spares ((s.boundTo p.hostDie p.fn).getD pid) (Claims.noHostWrite s p) t u ∧
      Spares pid (Claims.noHostWrite s p) u (s.beforeRelease pid p) := by
  let a := (s.cancelTimed pid).abortWaiting pid s.log.next stAborted
  have ha : Spares pid (Claims.noHostWrite s p) s a := (cancelTimed_spares s).trans (abortWaiting_spares ..)
  have hreset : Spares pid (Claims.noHostWrite s p) a (a.resetPartition pid 0) := by
    refine resetPartition_spares a 0 fun p' hp' hq q hlt => ?_
    obtain ⟨p'', hp'', hplace⟩ := ha.exists_part hp
    cases hp'.symm.trans hp''
    obtain ⟨hdie, hfn, _⟩ : p'.hostDie = p.hostDie ∧ p'.fn = p.fn ∧ p'.tiles = p.tiles := by
      simpa [Partition.place] using hplace
    rw [ha.underway hq, hdie, hfn]
    exact hq q hlt
  have ht := ha.trans hreset
  refine ⟨_, _, ht, ?_, destroyKeys_spares _⟩
  split
  · refine tdiError_spares _ _ _ fun j hj => ?_
    rw [ht.boundTo_eq] at hj
    rw [hj]
    rfl
  · exact .refl _

theorem partDestroy_removes {s s1 : State} {e : Envelope} {pid : Nat} {p : Partition}
    (ha : Accepts s e (Claims.ofPart 0x0202 0 Claims.byOwner .destroy) s1 (some pid)) (hp : s1.part pid = some p) :
    ∃ s2, Claims.Completes s s1 (.partDestroy e) e s2 stOk [] ∧ s2.part pid = none ∧ fmGet s2.nvm.records pid = none ∧
      (∀ x, x / 36 ∈ p.tiles → s2.block x = { bundles := (s1.block x).bundles }) ∧ (∀ d ∈ p.tiles, d ∉ s2.power.tilesOn) ∧
      (∀ r, r / 6 ∈ p.tiles → s2.region r = {}) ∧ (Claims.noHostWrite s1 p → s2.mem = s1.mem) ∧
      (s1.boundTo p.hostDie p.fn = some pid → ∀ j q, j ≠ pid → s1.part j = some q → s2.part j = some q) := by
  obtain ⟨t, u, ht, hu, hr⟩ := beforeRelease_spares hp
  refine ⟨_, partDestroy_completes ha hp, releasePart_part_self .., releasePart_record_self .., fun x hx => ?_,
    fun d hd => releasePart_tilesOn _ _ _ hd, fun r hx => releasePart_region _ _ _ hx, fun hq => ?_, fun hbound j q hj hq => ?_⟩
  · rw [releasePart_block _ _ _ hx, hr.bundles, hu.bundles, ht.bundles]
  · rw [releasePart_mem, hr.mem hq, hu.mem hq, ht.mem hq]
  · rw [hbound] at hu
    refine releasePart_part_of_some _ _ _ hj ?_
    rw [hr.others j hj, hu.others j hj, ht.others j hj, hq]

/-! ### SCRUB (15 R424) -/

/-- The partition while its passes run: without Negative, job keys and Print ring, under a new generation. -/
def Partition.scrubbing (p : Partition) (r : Route) (gen : BitVec 32) : Partition :=
  { p with
    state := .tainted, neg := none, jobSecret := none, seed := 0, ring := [], origins := [], switches := []
    hazard := {}, gen := gen, keys := true, busy := some (.scrub (some r)), slideValid := false
    frame := p.frame.stopped, imageDigest := [] }

/-- The part while its passes run. -/
def State.scrubbing (s : State) (pid : Nat) (r : Route) : State :=
  let s0 : State := { s with nvm := { s.nvm with generation := s.nvm.generation + 1 } }
  (((s0.cancelTimed pid).removeTables pid).updPart pid (·.scrubbing r (s.nvm.generation + 1))).recordPart pid

theorem scrub_wrongState {s s1 : State} {e : Envelope} {pid : Nat} {p : Partition}
    (ha : Accepts s e (Claims.ofPart 0x0203 0 Claims.byBoundOrOwner .scrub) s1 (some pid)) (hp : s1.part pid = some p)
    (hst : p.state = .running ∨ p.state = .faulted) : Claims.Completes s s1 (.scrub e) e s1 stWrongState [] := by
  refine completes_of_reply ha rfl ?_
  simp only [hp]
  exact if_pos hst

theorem exec_scrub {s s1 : State} {e : Envelope} {pid : Nat} {p : Partition}
    (ha : Accepts s e (Claims.ofPart 0x0203 0 Claims.byBoundOrOwner .scrub) s1 (some pid)) (hp : s1.part pid = some p)
    (hst : ¬(p.state = .running ∨ p.state = .faulted)) (hgen : s1.nvm.generation ≠ 0xFFFFFFFF) :
    exec (.scrub e) s = .next (s1.scrubbing pid e.route) := by
  refine (congrArg Host.Outcome.next (runCmd_accepts _ ha)).trans ?_
  simp only [hp, if_neg hst, State.drawGen_of_ne _ _ hgen]
  rfl

theorem scrub_starts {s s1 : State} {e : Envelope} {pid : Nat} {p : Partition}
    (ha : Accepts s e (Claims.ofPart 0x0203 0 Claims.byBoundOrOwner .scrub) s1 (some pid)) (hp : s1.part pid = some p)
    (hst : ¬(p.state = .running ∨ p.state = .faulted)) (hgen : s1.nvm.generation ≠ 0xFFFFFFFF) :
    ∃ s2 q, exec (.scrub e) s = .next s2 ∧
      s2.part pid = some q ∧ q.state = .tainted ∧ q.neg = none ∧ q.jobSecret = none ∧ q.ring = [] ∧ q.origins = [] ∧
      q.gen = s1.nvm.generation + 1 ∧ q.busy = some (.scrub (some e.route)) ∧ q.tiles = p.tiles ∧ s2.mem = s1.mem ∧
      Claims.OtherParts s1 s2 pid := by
  let s0 : State := { s1 with nvm := { s1.nvm with generation := s1.nvm.generation + 1 } }
  have h0 : Spares pid True s0 ((s0.cancelTimed pid).removeTables pid) := (cancelTimed_spares s0).trans (removeTables_spares _)
  obtain ⟨q, hq, hplace⟩ := h0.exists_part (p := p) hp
  have hpart : (s1.scrubbing pid e.route).part pid = some (q.scrubbing e.route (s1.nvm.generation + 1)) := by
    rw [State.part, State.scrubbing, recordPart_parts]
    exact (State.updPart_part_self ..).trans (congrArg _ hq)
  have hall : Spares pid True s0 (s1.scrubbing pid e.route) := by
    refine .trans (h0.trans ?_) (recordPart_spares ..)
    exact updPart_spares _ _ fun _ => rfl
  exact ⟨_, _, exec_scrub ha hp hst hgen, hpart, rfl, rfl, rfl, rfl, rfl, rfl, rfl, congrArg (·.2.2) hplace, hall.mem trivial,
    hall.others⟩

/-! ### The passes of SCRUB end (15 R424) -/

/-- Memory with one tile cleared: its HBM, region stores and cell stores. -/
def clearTile (m : List Host.Cell) (d : Nat) : List Host.Cell :=
  memClear (memClear (memClear m (d * 0x4000000000) 0x4000000000) (regionBase (6 * d)) (6 * 0x20000000))
    (cellBase (144 * d)) (144 * 0x100000)

theorem clearTile_wf {m : List Host.Cell} (h : memWf m = true) (d : Nat) : memWf (clearTile m d) = true :=
  memClear_wf (memClear_wf (memClear_wf h ..) ..) ..

theorem memGet_clearTile_in {m : List Host.Cell} (h : memWf m = true) {d a : Nat} (ha : Claims.inTile d a) :
    memGet (clearTile m d) a = 0 := by
  unfold clearTile
  rw [memGet_memClear (memClear_wf (memClear_wf h ..) ..), memGet_memClear (memClear_wf h ..), memGet_memClear h]
  unfold Claims.inTile at ha
  unfold regionBase cellBase at *
  rcases ha with hhbm | hregion | hcell
  · simp only [ite_eq_left_iff]
    omega
  · simp only [ite_eq_left_iff]
    omega
  · simp only [ite_eq_left_iff]
    omega

theorem memGet_clearTile_out {m : List Host.Cell} (h : memWf m = true) {d a : Nat} (ha : ¬Claims.inTile d a) :
    memGet (clearTile m d) a = memGet m a := by
  unfold clearTile
  unfold Claims.inTile at ha
  unfold regionBase cellBase at *
  rw [memGet_memClear (memClear_wf (memClear_wf h ..) ..), if_neg (by omega), memGet_memClear (memClear_wf h ..), if_neg (by omega),
    memGet_memClear h, if_neg (by omega)]

/-- Tiles are cleared one by one: what lies in none of them stays, and what lies in one reads 0. -/
theorem memGet_clearTiles {ts : List Nat} {m : List Host.Cell} (h : memWf m = true) (a : Nat) :
    ((∃ d ∈ ts, Claims.inTile d a) → memGet (ts.foldl clearTile m) a = 0) ∧
      ((∀ d ∈ ts, ¬Claims.inTile d a) → memGet (ts.foldl clearTile m) a = memGet m a) := by
  induction ts generalizing m with
  | nil => exact ⟨fun ⟨_, hd, _⟩ => (nomatch hd), fun _ => rfl⟩
  | cons d rest ih =>
    obtain ⟨hin, hout⟩ := ih (clearTile_wf h d)
    simp only [List.foldl_cons, List.exists_mem_cons_iff, List.forall_mem_cons]
    refine ⟨fun hex => ?_, fun ⟨hd, hrest⟩ => (hout hrest).trans (memGet_clearTile_out h hd)⟩
    by_cases hrest : ∃ d ∈ rest, Claims.inTile d a
    · exact hin hrest
    · have hd : Claims.inTile d a := hex.resolve_right hrest
      exact (hout fun j hj hja => hrest ⟨j, hj, hja⟩).trans (memGet_clearTile_in h hd)

theorem scrubTiles_mem (s : State) (ts : List Nat) : (s.scrubTiles ts).mem = ts.foldl clearTile s.mem :=
  (List.foldl_hom State.mem fun _ _ => rfl).symm

theorem scrubTiles_parts (s : State) (ts : List Nat) : (s.scrubTiles ts).parts = s.parts :=
  List.foldlRecOn ts _ (motive := fun t : State => t.parts = s.parts) rfl fun _ ht _ _ => ht

theorem scrubTiles_blocks (s : State) (ts : List Nat) :
    (s.scrubTiles ts).blocks = ts.foldl (fun bs d => keepBundles bs (· == d)) s.blocks :=
  (List.foldl_hom State.blocks fun _ _ => rfl).symm

/-- Blocks of the tiles that are scrubbed keep their bundle memory alone. -/
theorem keepBundles_foldl_get (ts : List Nat) (bs : FMap Block) (x : Nat) :
    fmGetD (ts.foldl (fun bs d => keepBundles bs (· == d)) bs) x {} =
      if x / 36 ∈ ts then { bundles := (fmGetD bs x {}).bundles } else fmGetD bs x {} := by
  induction ts generalizing bs with
  | nil => rfl
  | cons d rest ih =>
    rw [List.foldl_cons, ih, keepBundles_get]
    by_cases hd : x / 36 = d
    · simp [hd]
    · simp [hd]

theorem scrubTiles_block (s : State) {ts : List Nat} {x : Nat} (hx : x / 36 ∈ ts) :
    (s.scrubTiles ts).block x = { bundles := (s.block x).bundles } := by
  rw [State.block, scrubTiles_blocks, keepBundles_foldl_get, if_pos hx]
  rfl

/-- The part when the passes have ended well, before the answer. -/
def State.scrubbed (s : State) (pid : Nat) (p : Partition) : State :=
  ((s.scrubTiles p.tiles).updPart pid fun p => { p with state := .ready, busy := none }).recordPart pid

theorem scrubPass_ready {s : State} {pid : Nat} {p : Partition} {r : Route} (hp : s.part pid = some p)
    (hbusy : p.busy = some (.scrub (some r))) (hm : memWf s.mem = true) :
    ∃ u q, exec (.scrubPassComplete pid none) s = .next (u.complete r s.log.next stOk (leBytes 4 p.gen.toNat)) ∧
      u.part pid = some q ∧ q.state = .ready ∧ q.busy = none ∧ Claims.OtherParts s u pid ∧
      (∀ d ∈ p.tiles, ∀ a, Claims.inTile d a → memGet u.mem a = 0) ∧
      (∀ a, (∀ d ∈ p.tiles, ¬Claims.inTile d a) → memGet u.mem a = memGet s.mem a) ∧
      ∀ x, x / 36 ∈ p.tiles → u.block x = { bundles := (s.block x).bundles } := by
  have hexec : exec (.scrubPassComplete pid none) s = execScrubPassComplete pid none s := rfl
  have hmem : (s.scrubbed pid p).mem = p.tiles.foldl clearTile s.mem := by
    simp [State.scrubbed, scrubTiles_mem]
  have hwork : Spares pid True (s.scrubTiles p.tiles) (s.scrubbed pid p) := by
    refine .trans ?_ (recordPart_spares ..)
    exact updPart_spares _ _ fun _ => rfl
  have hsame (j : Nat) : (s.scrubTiles p.tiles).part j = s.part j := congrArg (fmGet · j) (scrubTiles_parts ..)
  refine ⟨s.scrubbed pid p, { p with state := .ready, busy := none }, ?_, ?_, rfl, rfl, fun j hj => ?_, fun d hd a ha => ?_,
    fun a ha => ?_, fun x hx => ?_⟩
  · rw [hexec, execScrubPassComplete]
    simp only [hp, hbusy]
    rfl
  · rw [State.part, State.scrubbed, recordPart_parts]
    exact (State.updPart_part_self ..).trans (congrArg _ ((hsame pid).trans hp))
  · exact (hwork.others j hj).trans (hsame j)
  · rw [hmem]
    exact (memGet_clearTiles hm a).1 ⟨d, hd, ha⟩
  · rw [hmem]
    exact (memGet_clearTiles hm a).2 ha
  · rw [← scrubTiles_block s hx]
    simp [State.scrubbed, State.block]

/-- A partition-fatal fault leaves the partition FAULTED, without keys and with no command waiting (18 R487). -/
theorem faultPart_part {s : State} {pid : Nat} {p : Partition} (hp : s.part pid = some p) (mark : Nat) :
    ∃ q, (s.faultPart pid mark).part pid = some q ∧ q.state = .faulted ∧ q.keys = false ∧ q.busy = none := by
  have habort : ∃ q, (s.abortWaiting pid mark stAborted).part pid = some q ∧ q.busy = none := by
    have hfold : (p.waiting.foldl (fun t r => t.complete r mark stAborted []) s).part pid = some p :=
      List.foldlRecOn p.waiting _ (motive := fun t : State => t.part pid = some p) hp
        fun t ht r _ => (congrArg (fmGet · pid) (complete_parts t r ..)).trans ht
    unfold State.abortWaiting
    simp only [hp, State.updPart_part_self, hfold]
    exact ⟨_, rfl, rfl⟩
  obtain ⟨q, hq, hbusy⟩ := habort
  unfold State.faultPart
  simp only [hp]
  refine ⟨{ q with keys := false, jobSecret := none, state := .faulted }, ?_, rfl, rfl, hbusy⟩
  rw [State.part, setCause_parts, recordPart_parts]
  refine (State.updPart_part_self ..).trans ?_
  rw [State.part, stopUnits_parts]
  exact congrArg (Option.map _) ((State.updPart_part_self ..).trans (congrArg _ hq))

theorem mem_degrade (s : State) (d : Nat) : d ∈ (s.degrade [d]).power.degraded := by
  simp [State.degrade, Classical.em]

/-- The part when a pass has found a tile that does not hold its zeros (15 R424, entry 56). -/
def State.scrubFailed (s : State) (pid d : Nat) (r : Route) : State :=
  let t := ((s.logEv 0x2807 pid (tileUnit d) 0).degrade [d]).complete r s.log.next stIntegrity []
  (t.updPart pid fun p => { p with busy := none }).faultPart pid s.log.next

theorem scrubPass_faulted {s : State} {pid : Nat} {p : Partition} {r : Route} (hp : s.part pid = some p)
    (hbusy : p.busy = some (.scrub (some r))) (d : Nat) :
    ∃ t q, exec (.scrubPassComplete pid (some d)) s = .next t ∧ t.part pid = some q ∧ q.state = .faulted ∧ q.keys = false ∧
      q.busy = none ∧ d ∈ t.power.degraded ∧ t.mem = s.mem ∧ Claims.OtherParts s t pid := by
  have hexec : exec (.scrubPassComplete pid (some d)) s = .next (s.scrubFailed pid d r) := by
    change execScrubPassComplete pid (some d) s = _
    unfold execScrubPassComplete
    simp only [hp, hbusy]
    rfl
  let a := s.logEv 0x2807 pid (tileUnit d) 0
  let b := a.degrade [d]
  let c := (b.complete r s.log.next stIntegrity []).updPart pid fun p => { p with busy := none }
  have ha : Spares pid True s a := logEv_spares ..
  have hc : Spares pid True b c := (complete_spares ..).trans (updPart_spares _ _ fun _ => rfl)
  have ht : Spares pid True b (s.scrubFailed pid d r) := hc.trans (faultPart_spares ..)
  obtain ⟨p', hp', _⟩ := ha.exists_part hp
  obtain ⟨p'', hp'', _⟩ := hc.exists_part (p := p') hp'
  obtain ⟨q, hq, hstate, hkeys, hnone⟩ := faultPart_part hp'' s.log.next
  exact ⟨_, q, hexec, hq, hstate, hkeys, hnone, ht.power ▸ mem_degrade a d, (ht.mem trivial).trans (ha.mem trivial),
    fun j hj => (ht.others j hj).trans (ha.others j hj)⟩

/-! ### REMAP (04 R118) -/

theorem regionBusy_iff (s : State) (r : Nat) : Claims.regionBusy s r ↔ s.remapBlocked r = true := by
  unfold Claims.regionBusy State.remapBlocked
  constructor
  · rintro ⟨pid, l, p, ho, hp, hne, hnt⟩
    simp [ho, hp, hne, hnt]
  · intro h
    split at h
    · rename_i pid l ho
      split at h
      · rename_i p hp
        exact ⟨pid, l, p, ho, hp, by simpa using h⟩
      · cases h
    · cases h

/-- The part with another remap table, after a committed write; the cell stores of the block that moves hold free bytes. -/
def State.afterRemap (s : State) (r b : Nat) (table : FMap Nat) : State :=
  ((s.commitNvm true fun n => { n with remap := table }).1).freeRange (cellBase (4 * (6 * r + b))) 0x400000

theorem afterRemap_mem (s : State) (r b : Nat) (table : FMap Nat) : Claims.RemapMem s (s.afterRemap r b table) r b :=
  fun h _ => State.freeRange_mem (s := (s.commitNvm true fun n => { n with remap := table }).1) h ..

theorem afterRemap_same (s : State) (r b : Nat) (table : FMap Nat) :
    { s.afterRemap r b table with nvm := s.nvm, mem := s.mem, free := s.free } = s := rfl

theorem logEv_nvm (s : State) (code part : Nat) (u : LogUnit) (d : Nat) : (s.logEv code part u d).nvm = s.nvm := by
  have h := congrArg State.nvm (logEv_reports s code part u d []).same
  exact h

/-- The spare of a region carries a block already, or has failed. -/
theorem spareTaken_iff (s : State) (r : Nat) :
    ((fmGet s.nvm.remap r).isSome = true ∨ s.boot.failing.contains (r, 6) = true) ↔
      (fmGet s.nvm.remap r ≠ none ∨ (r, 6) ∈ s.boot.failing) := by
  rw [Option.ne_none_iff_isSome, List.contains_iff_mem]

section
variable {s s1 : State} {e : Envelope} {r b dir : Byte} {ok : Bool} {t : Option Nat}

theorem remap_badArg (ha : Accepts s e (Claims.partWide 0x0204 8 Claims.byOwner) s1 t)
    (hbad : 95 < r.toNat ∨ 5 < b.toNat ∨ 1 < dir.toNat) : Claims.Completes s s1 (.remap e r b dir ok) e s1 stBadArg [] :=
  completes_of_reply ha rfl (if_pos hbad)

theorem remap_wrongState (ha : Accepts s e (Claims.partWide 0x0204 8 Claims.byOwner) s1 t)
    (hgood : ¬(95 < r.toNat ∨ 5 < b.toNat ∨ 1 < dir.toNat)) (hbusy : Claims.regionBusy s1 r.toNat) :
    Claims.Completes s s1 (.remap e r b dir ok) e s1 stWrongState [] :=
  completes_of_reply ha rfl ((if_neg hgood).trans (if_pos ((regionBusy_iff ..).1 hbusy)))

section
variable (ha : Accepts s e (Claims.partWide 0x0204 8 Claims.byOwner) s1 t)
  (hgood : ¬(95 < r.toNat ∨ 5 < b.toNat ∨ 1 < dir.toNat)) (hidle : ¬s1.remapBlocked r.toNat = true)
include ha hgood hidle

theorem remap_toSpare (hdir : dir = 0) (hspare : ¬(fmGet s1.nvm.remap r.toNat ≠ none ∨ (r.toNat, 6) ∈ s1.boot.failing)) :
    (ok = true → ∃ s2, Claims.Completes s s1 (.remap e r b dir ok) e s2 stOk [6, 0, 0, 0] ∧
      { s2 with nvm := s1.nvm, mem := s1.mem, free := s1.free } = s1 ∧ Claims.RemapMem s1 s2 r.toNat b.toNat ∧
      s2.nvm.remap = fmSet s1.nvm.remap r.toNat b.toNat ∧ s2.nvm.sequence = s1.nvm.sequence + 1) ∧
    (ok = false → ∃ s2, Claims.Completes s s1 (.remap e r b dir ok) e s2 stIntegrity [] ∧ s2.nvm = s1.nvm) := by
  rw [← spareTaken_iff] at hspare
  constructor
  · rintro rfl
    exact ⟨s1.afterRemap r.toNat b.toNat (fmSet s1.nvm.remap r.toNat b.toNat),
      completes_of_reply ha rfl ((if_neg hgood).trans ((if_neg hidle).trans ((if_pos hdir).trans (if_neg hspare)))),
      afterRemap_same .., afterRemap_mem _ _ _ _, rfl, rfl⟩
  · rintro rfl
    exact ⟨s1.logEv 0x000A 0xFF controlUnit 0,
      completes_of_reply ha rfl ((if_neg hgood).trans ((if_neg hidle).trans ((if_pos hdir).trans (if_neg hspare)))),
      logEv_nvm ..⟩

theorem remap_noResource (hdir : dir = 0) (hspare : fmGet s1.nvm.remap r.toNat ≠ none ∨ (r.toNat, 6) ∈ s1.boot.failing) :
    Claims.Completes s s1 (.remap e r b dir ok) e s1 stNoResource [] := by
  rw [← spareTaken_iff] at hspare
  exact completes_of_reply ha rfl ((if_neg hgood).trans ((if_neg hidle).trans ((if_pos hdir).trans (if_pos hspare))))

theorem remap_back (hdir : dir = 1) (hcarried : fmGet s1.nvm.remap r.toNat = some b.toNat) (hok : ok = true) :
    ∃ s2, Claims.Completes s s1 (.remap e r b dir ok) e s2 stOk [b, 0, 0, 0] ∧
      { s2 with nvm := s1.nvm, mem := s1.mem, free := s1.free } = s1 ∧ Claims.RemapMem s1 s2 r.toNat b.toNat ∧
      fmGet s2.nvm.remap r.toNat = none := by
  subst hok hdir
  exact ⟨s1.afterRemap r.toNat b.toNat (fmErase s1.nvm.remap r.toNat),
    completes_of_reply ha rfl ((if_neg hgood).trans ((if_neg hidle).trans ((if_neg (by decide)).trans (if_pos hcarried)))),
    afterRemap_same .., afterRemap_mem _ _ _ _, fmGet_fmErase_self ..⟩

/-- The spare does not carry the block: nothing is written (entry 57). -/
theorem remap_back_notCarried (hdir : dir = 1) (hcarried : fmGet s1.nvm.remap r.toNat ≠ some b.toNat) :
    Claims.Completes s s1 (.remap e r b dir ok) e s1 stOk [b, 0, 0, 0] := by
  subst hdir
  exact completes_of_reply ha rfl ((if_neg hgood).trans ((if_neg hidle).trans ((if_neg (by decide)).trans (if_neg hcarried))))

end

end

/-- Settles O45: each command by what its body does, and PART.DESTROY and SCRUB by what their shared steps spare. -/
theorem partitionLife : Obligations.PartitionLife := by
  unfold Obligations.PartitionLife
  refine ⟨fun s s1 e m h k fl t ha => ⟨partCreate_badArg ha, fun hm hh hk hk16 hfl hset hfree hunbound hen hjtag hgen => ?_⟩,
    fun s s1 e pid p ha hp => partDestroy_removes ha hp,
    fun s s1 e pid p ha hp => ⟨scrub_wrongState ha hp, fun hrun hfault => scrub_starts ha hp (not_or.2 ⟨hrun, hfault⟩)⟩,
    fun s pid p r hp hbusy hmem => ⟨scrubPass_ready hp hbusy hmem, scrubPass_faulted hp hbusy⟩,
    fun s s1 e r b dir ok t ha => ⟨remap_badArg ha, fun hr hb hd => ?_⟩⟩
  · refine partCreate_creates ha ?_ hfree hunbound hen hjtag hgen
    simp only [not_or, not_not]
    exact ⟨hm, Nat.not_lt.2 hh, hk, Nat.not_lt.2 hk16, Nat.not_lt.2 hfl, hset⟩
  · have hgood : ¬(95 < r.toNat ∨ 5 < b.toNat ∨ 1 < dir.toNat) := by omega
    refine ⟨remap_wrongState ha hgood, fun hidle => ?_⟩
    rw [regionBusy_iff] at hidle
    exact ⟨fun hdir hnone hspare => remap_toSpare ha hgood hidle hdir (not_or.2 ⟨not_not.2 hnone, hspare⟩),
      remap_noResource ha hgood hidle, remap_back ha hgood hidle, remap_back_notCarried ha hgood hidle⟩

end Sys2Proof.Machine

/-! # What reports, answers and events leave alone -/

namespace Sys2Proof.Machine

/-! ### Reports, field by field -/

section
variable {s t u : State}

theorem Reports.exists_part (h : Reports s t) {j : Nat} {p : Partition} (hp : s.part j = some p) :
    ∃ q, t.part j = some q ∧ q.quiet = p.quiet := by
  have hj := h.part j
  rw [hp] at hj
  exact Option.map_eq_some_iff.1 hj

theorem Reports.power (h : Reports s t) : t.power = s.power := by
  have hf := congrArg State.power h.same
  exact hf

/-! ### Answers and events -/

/-- From `s` to `t` only the log, the endpoints, the sessions and what goes out changed: answers and events of severity 0. -/
def Noted (s t : State) : Prop := { t with log := s.log, eps := s.eps, sessions := s.sessions, out := s.out } = s

theorem Noted.refl (s : State) : Noted s s := rfl

theorem Noted.trans (h : Noted s t) (k : Noted t u) : Noted s u := by
  unfold Noted at h k ⊢
  rw [← k] at h
  exact h

theorem Noted.foldl {α : Type} {f : State → α → State} (l : List α) (s : State) (hf : ∀ t a, Noted t (f t a)) :
    Noted s (l.foldl f s) :=
  List.foldlRecOn l f (motive := Noted s) (.refl s) fun t ht a _ => ht.trans (hf t a)

theorem Noted.parts (h : Noted s t) : t.parts = s.parts := by
  have hf := congrArg State.parts h
  exact hf
theorem Noted.part (h : Noted s t) (j : Nat) : t.part j = s.part j := congrArg (fmGet · j) h.parts
theorem Noted.blocks (h : Noted s t) : t.blocks = s.blocks := by
  have hf := congrArg State.blocks h
  exact hf
theorem Noted.nvm (h : Noted s t) : t.nvm = s.nvm := by
  have hf := congrArg State.nvm h
  exact hf
theorem Noted.power (h : Noted s t) : t.power = s.power := by
  have hf := congrArg State.power h
  exact hf
theorem Noted.boot (h : Noted s t) : t.boot = s.boot := by
  have hf := congrArg State.boot h
  exact hf

end

section
variable (s : State)

theorem log_noted (l : Log) : Noted s { s with log := l } := rfl
theorem updFunc_noted (h k : Nat) (f : Func → Func) : Noted s (s.updFunc h k f) := rfl
theorem emit_noted (o : OutEv) : Noted s (s.emit o) := rfl

theorem sendVector_noted (h k v : Nat) : Noted s (s.sendVector h k v) := by
  unfold State.sendVector
  simp only
  split
  · exact updFunc_noted ..
  · exact emit_noted ..

theorem setCause_noted (h k n : Nat) : Noted s (s.setCause h k n) := by
  unfold State.setCause
  simp only
  split
  · exact .refl s
  · split
    · exact updFunc_noted ..
    · exact (updFunc_noted ..).trans (sendVector_noted ..)

theorem complete_noted (r : Route) (mark : Nat) (st : Byte) (resp : Bytes) : Noted s (s.complete r mark st resp) := by
  unfold State.complete
  cases r with
  | fn h k => exact (updFunc_noted ..).trans (setCause_noted ..)
  | session n =>
    simp only
    split
    · exact .refl s
    · rfl

theorem partCause_noted (pid n : Nat) : Noted s (s.partCause pid n) := by
  unfold State.partCause
  split
  · exact setCause_noted ..
  · exact .refl s

theorem noteEntry_noted {code : Nat} (hc : code < 4096) (part n : Nat) : Noted s (s.noteEntry code part n) := by
  have h0 : code / 4096 = 0 := Nat.div_eq_of_lt hc
  unfold State.noteEntry
  simp only [h0, if_true]
  rw [if_neg (by decide)]
  split
  · exact .refl s
  · exact updFunc_noted ..

/-- An event of severity 0 changes no partition (18 R491). -/
theorem logEv_noted {code : Nat} (hc : code < 4096) (part : Nat) (u : LogUnit) (d : Nat) (cs : List Bytes) :
    Noted s (s.logEv code part u d cs) := by
  unfold State.logEv
  simp only
  split
  · exact (log_noted ..).trans (noteEntry_noted _ hc ..)
  · exact (log_noted ..).trans (noteEntry_noted _ hc ..)

theorem logOnce_noted {code : Nat} (hc : code < 4096) (part key : Nat) (u : LogUnit) (d : Nat) :
    Noted s (s.logOnce code part key u d) := by
  unfold State.logOnce
  split
  · exact log_noted ..
  · exact (logEv_noted s hc part u d []).trans (log_noted ..)

/-! ### The log buffer (18 R491) -/

@[simp] theorem setCause_log (h k n : Nat) : (s.setCause h k n).log = s.log := by
  have hvec (t : State) (v : Nat) : (t.sendVector h k v).log = t.log := by
    unfold State.sendVector
    simp only
    split <;> rfl
  unfold State.setCause
  simp only
  split
  · rfl
  · split
    · rfl
    · exact hvec ..

@[simp] theorem complete_log (r : Route) (mark : Nat) (st : Byte) (resp : Bytes) : (s.complete r mark st resp).log = s.log := by
  unfold State.complete
  cases r with
  | fn h k => exact setCause_log ..
  | session n =>
    simp only
    split <;> rfl

@[simp] theorem noteEntry_log (code part n : Nat) : (s.noteEntry code part n).log = s.log := by
  have tail (t : State) : (if code / 4096 = 2 ∨ code / 4096 = 3 then (t.setCause 0 0 6).setCause 1 0 6 else t).log = t.log := by
    split <;> simp
  unfold State.noteEntry
  simp only
  rw [tail]
  split
  · rfl
  · by_cases h0 : code / 4096 = 0
    · simp [h0]
    · simp [h0]

end

/-- An event enters a buffer that has room for it. -/
theorem logEv_buf {s : State} (hroom : s.log.used < 4096) (code part : Nat) (u : LogUnit) (d : Nat) :
    ∃ e, (s.logEv code part u d).log.buf = s.log.buf ++ [e] ∧ e.index = s.log.next ∧ e.code = BitVec.ofNat 16 code ∧ e.size = 1 := by
  have hno : ¬4096 < s.log.used + 1 + ([] : List Bytes).length := Nat.not_lt.2 hroom
  unfold State.logEv
  simp only [if_neg hno, noteEntry_log]
  exact ⟨_, rfl, rfl, rfl, rfl⟩

theorem logEv_logged (s : State) {code : Nat} (hc : code < 65536) (part : Nat) (u : LogUnit) (d : Nat) :
    Claims.Logged s (s.logEv code part u d) code := by
  intro hroom
  obtain ⟨e, hbuf, hix, hcode, _⟩ := logEv_buf hroom code part u d
  refine ⟨e, by simp [hbuf], hix.ge, ?_⟩
  rw [hcode, BitVec.toNat_ofNat, Nat.mod_eq_of_lt hc]

end Sys2Proof.Machine

/-! # RESET, HALT and the compute reset (16 R435, R439, R441, 18 R483, R484) -/

namespace Sys2Proof.Machine

/-! ### What a partition reset leaves of the blocks (18 R483) -/

/-- Blocks keep everything but the requests that wait at port F of their cells. -/
def PortFOnly (s t : State) : Prop := ∀ x, Claims.SameButPortF s t x

theorem PortFOnly.of_blocks {s t : State} (h : t.blocks = s.blocks) : PortFOnly s t := fun x => by
  simp [Claims.SameButPortF, State.block, h]

theorem PortFOnly.trans {s t u : State} (h : PortFOnly s t) (k : PortFOnly t u) : PortFOnly s u := fun x => by
  have hx := h x
  have kx := k x
  unfold Claims.SameButPortF at hx kx ⊢
  rw [← hx, ← kx]

/-- Blocks change one by one, and only at port F. -/
theorem PortFOnly.of_map {s t : State} (f : Nat × Block → Nat × Block) (ht : t.blocks = s.blocks.map f)
    (hk : ∀ q, (f q).1 = q.1) (hf : ∀ q, ({ (f q).2 with pf := q.2.pf } : Block) = q.2) : PortFOnly s t := fun x => by
  simp only [Claims.SameButPortF, State.block, fmGetD, ht, fmGet_map_key _ _ hk]
  cases fmGet s.blocks x with
  | none => rfl
  | some b => exact hf (x, b)

/-- Blocks of a list change, and the others stay. -/
theorem fmGet_map_if {α : Type} (m : FMap α) (c : Nat → Bool) (f : α → α) (x : Nat) :
    fmGet (m.map fun q => if c q.1 then (q.1, f q.2) else q) x = (fmGet m x).map fun v => if c x then f v else v := by
  rw [fmGet_map_key _ _ fun q => by split <;> rfl]
  congr 1
  funext v
  split <;> rfl

section
variable (s : State)

theorem closeHost_portF (h k q : Nat) : PortFOnly s (s.closeHost h k q) := by
  unfold State.closeHost
  extract_lets tag t
  have ht : PortFOnly s t := .of_map _ rfl (fun _ => rfl) fun _ => rfl
  refine ht.trans ?_
  split <;> exact .of_blocks rfl

theorem closeHost_parts (h k q : Nat) : (s.closeHost h k q).parts = s.parts := by
  unfold State.closeHost
  simp only
  split <;> rfl

theorem closeHost_nvm (h k q : Nat) : (s.closeHost h k q).nvm = s.nvm := by
  unfold State.closeHost
  simp only
  split <;> rfl

/-- A stopped descriptor closes its transfer, and its end is told. -/
theorem completeDesc_closes (h k q n : Nat) :
    Noted s (s.completeDesc h k q dsAborted n) ∨ Noted (s.closeHost h k q) (s.completeDesc h k q dsAborted n) := by
  have hemit (t : State) (b : Bool) (o : OutEv) : Noted t (if b then t.emit o else t) := by
    split
    · exact emit_noted ..
    · exact .refl t
  have hcause (t : State) (b : Bool) (j : Nat) : Noted t (if b then t.setCause h k j else t) := by
    split
    · exact setCause_noted ..
    · exact .refl t
  unfold State.completeDesc
  simp only
  split
  · exact .inl (.refl s)
  · refine .inr (.trans ?_ (hcause ..))
    refine .trans ?_ (updFunc_noted ..)
    exact hemit ..

/-- What the end of host transfers leaves: partitions, NVM, and the blocks but for port F. -/
structure Freed (s t : State) : Prop where
  parts : t.parts = s.parts
  nvm : t.nvm = s.nvm
  blocks : PortFOnly s t

theorem Freed.trans {s t u : State} (h : Freed s t) (k : Freed t u) : Freed s u :=
  ⟨k.parts.trans h.parts, k.nvm.trans h.nvm, h.blocks.trans k.blocks⟩

theorem Noted.freed {s t : State} (h : Noted s t) : Freed s t := ⟨h.parts, h.nvm, .of_blocks h.blocks⟩

theorem completeDesc_freed (h k q n : Nat) : Freed s (s.completeDesc h k q dsAborted n) := by
  rcases completeDesc_closes s h k q n with hn | hn
  · exact hn.freed
  · exact .trans ⟨closeHost_parts .., closeHost_nvm .., closeHost_portF s h k q⟩ hn.freed

theorem stopQueues_freed (h k : Nat) : Freed s (s.stopQueues h k dsAborted false) := by
  unfold State.stopQueues
  refine List.foldlRecOn _ _ (motive := Freed s) (Noted.refl s).freed fun t ht q _ => ht.trans ?_
  split
  · exact (Noted.refl t).freed
  · split
    · exact completeDesc_freed ..
    · exact .trans (t := { t with free := t.free + 1 }) ⟨rfl, rfl, .of_blocks rfl⟩ (completeDesc_freed ..)

theorem dropTraffic_freed (pid : Nat) : Freed s (s.dropTraffic pid) := by
  unfold State.dropTraffic
  split
  · exact (Noted.refl s).freed
  · refine ⟨rfl, rfl, .of_map _ rfl (fun q => ?_) fun q => ?_⟩
    · split <;> rfl
    · split <;> rfl

theorem leaveNegative_freed (pid : Nat) : Freed s (s.leaveNegative pid) := by
  unfold State.leaveNegative
  split
  · exact (Noted.refl s).freed
  · refine List.foldlRecOn _ _ (motive := Freed s) (Noted.refl s).freed fun t ht f _ => ht.trans ?_
    refine List.foldlRecOn _ _ (motive := Freed t) ⟨rfl, rfl, .of_blocks rfl⟩ fun u hu k _ => hu.trans ⟨rfl, rfl, .of_blocks rfl⟩

theorem cancelTimed_of_none {pid : Nat} {p : Partition} (hp : s.part pid = some p) (hx : p.expose = none) :
    s.cancelTimed pid = s := by
  simp [State.cancelTimed, hp, hx]

end

end Sys2Proof.Machine

namespace Sys2Proof.Machine

/-! ### The partition after its reset (16 R439, 18 R483) -/

section
variable {s : State} {pid : Nat} {p : Partition}

/-- A queued EXPOSE of the partition ends (12 R343). -/
theorem cancelTimed_part (hp : s.part pid = some p) :
    ∃ f, (s.cancelTimed pid).part pid = some { p with expose := none, ftime := f } := by
  unfold State.cancelTimed
  simp only [hp]
  split
  · rename_i hx
    exact ⟨p.ftime, by rw [hp, ← hx]⟩
  · rename_i x hx
    have hlog : Noted s (if x.tReq.isSome = true then s.logEv 0x0233 pid noUnit 0 else s) := by
      split
      · exact logEv_noted s (by decide) ..
      · exact .refl s
    rw [State.updPart_part_self, (hlog.trans (complete_noted ..)).part, hp]
    exact ⟨_, rfl⟩

theorem cancelTimed_rest (s : State) (pid : Nat) :
    (s.cancelTimed pid).nvm = s.nvm ∧ (s.cancelTimed pid).blocks = s.blocks := by
  unfold State.cancelTimed
  split
  · exact ⟨rfl, rfl⟩
  · split
    · exact ⟨rfl, rfl⟩
    · rename_i x _
      have hlog : Noted s (if x.tReq.isSome = true then s.logEv 0x0233 pid noUnit 0 else s) := by
        split
        · exact logEv_noted s (by decide) ..
        · exact .refl s
      have hall := hlog.trans (complete_noted (if x.tReq.isSome = true then s.logEv 0x0233 pid noUnit 0 else s) x.route s.log.next stWrongState [])
      simp [hall.nvm, hall.blocks]

/-- Every command that waits on the partition ends (16 R437). -/
theorem abortWaiting_part (hp : s.part pid = some p) (mark : Nat) (st : Byte) :
    (s.abortWaiting pid mark st).part pid =
      some { p with expose := none, slide := none, busy := none, frame := p.frame.noHalts } := by
  have hfold : Noted s (p.waiting.foldl (fun t r => t.complete r mark st []) s) := .foldl _ _ fun t r => complete_noted ..
  unfold State.abortWaiting
  simp only [hp]
  rw [State.updPart_part_self, hfold.part, hp]
  rfl

theorem abortWaiting_rest (s : State) (pid mark : Nat) (st : Byte) :
    (s.abortWaiting pid mark st).nvm = s.nvm ∧ (s.abortWaiting pid mark st).blocks = s.blocks := by
  unfold State.abortWaiting
  split
  · exact ⟨rfl, rfl⟩
  · rename_i p _
    have hfold : Noted s (p.waiting.foldl (fun t r => t.complete r mark st []) s) := .foldl _ _ fun t r => complete_noted ..
    simp [hfold.nvm, hfold.blocks]

end

end Sys2Proof.Machine

namespace Sys2Proof.Machine

/-- A block whose units have stopped (18 R483). -/
def Block.stopped (b : Block) : Block :=
  { b with
    atTick := true, streams := [], pf := b.pf.filter (!·.own), commits := [], fills := [], timed := [], entering := []
    faults := [], loads := [], vpend := [], mpend := [], tokensDue := [] }

section
variable {s : State} {pid : Nat} {p : Partition}

theorem stopUnits_get (hp : s.part pid = some p) (x : Nat) :
    fmGet (s.stopUnits pid).blocks x = (fmGet s.blocks x).map fun v => if p.blockList.contains x then v.stopped else v := by
  rw [← fmGet_map_if]
  unfold State.stopUnits
  simp only [hp]
  rfl

theorem stopUnits_block_out (hp : s.part pid = some p) {x : Nat} (hx : x ∉ p.blockList) :
    (s.stopUnits pid).block x = s.block x := by
  have hc : p.blockList.contains x = false := by simpa using hx
  rw [State.block, fmGetD, stopUnits_get hp, hc]
  simp [State.block, fmGetD]

theorem stopUnits_block_in (hp : s.part pid = some p) {x : Nat} (hx : x ∈ p.blockList) (hb : fmGet s.blocks x ≠ none) :
    (s.stopUnits pid).block x = (s.block x).stopped := by
  obtain ⟨b, hb⟩ := Option.ne_none_iff_exists'.1 hb
  have hc : p.blockList.contains x = true := by simpa using hx
  simp only [State.block, fmGetD, stopUnits_get hp, hc, hb]
  rfl

theorem stopUnits_nvm (s : State) (pid : Nat) : (s.stopUnits pid).nvm = s.nvm := by
  unfold State.stopUnits
  split <;> rfl

/-- The part once the keys of a partition are gone and its units have stopped: the first steps of its reset. -/
def State.unitsOff (s : State) (pid : Nat) : State := (s.destroyKeys pid).stopUnits pid

/-- The part before a partition that is reset draws its generation. -/
def State.wiped (s : State) (pid : Nat) (p : Partition) : State :=
  let b := ((s.unitsOff pid).stopQueues p.hostDie p.fn dsAborted false).discardPost p.hostDie p.fn
  let c := ((b.cancelTimed pid).dropTraffic pid).leaveNegative pid
  (if p.inScrub then c else c.abortWaiting pid s.log.next stAborted).updPart pid fun p => { p with
    neg := none, slideValid := false, landing := [], switchLate := false, frame := p.frame.stopped }

theorem unitsOff_part (hp : s.part pid = some p) :
    (s.unitsOff pid).part pid = some { p with keys := false, jobSecret := none } := by
  rw [State.part, State.unitsOff, stopUnits_parts]
  exact (State.updPart_part_self ..).trans (congrArg (Option.map _) hp)

theorem unitsOff_nvm (s : State) (pid : Nat) : (s.unitsOff pid).nvm = s.nvm := by
  simp [State.unitsOff, stopUnits_nvm, State.destroyKeys]

/-- What lies between: the partition keeps its tiles and waits for nothing. -/
theorem wiped_work (hp : s.part pid = some p) :
    (∃ q, (s.wiped pid p).part pid = some q ∧ q.tiles = p.tiles ∧ q.jobSecret = none ∧ q.expose = none ∧ q.neg = none ∧
      q.slideValid = false ∧ q.inScrub = p.inScrub) ∧ (s.wiped pid p).nvm = s.nvm ∧ PortFOnly (s.unitsOff pid) (s.wiped pid p) := by
  let a := ((s.unitsOff pid).stopQueues p.hostDie p.fn dsAborted false).discardPost p.hostDie p.fn
  let c := ((a.cancelTimed pid).dropTraffic pid).leaveNegative pid
  have ha : Freed (s.unitsOff pid) a := (stopQueues_freed ..).trans (updFunc_noted ..).freed
  have hc : Freed (a.cancelTimed pid) c := (dropTraffic_freed ..).trans (leaveNegative_freed ..)
  have hapart : a.part pid = some { p with keys := false, jobSecret := none } :=
    (congrArg (fmGet · pid) ha.parts).trans (unitsOff_part hp)
  obtain ⟨f, hcancel⟩ := cancelTimed_part hapart
  have hcpart := (congrArg (fmGet · pid) hc.parts).trans hcancel
  obtain ⟨hn, hb⟩ := cancelTimed_rest a pid
  have hnvm : c.nvm = s.nvm := ((hc.nvm.trans hn).trans ha.nvm).trans (unitsOff_nvm s pid)
  have hblocks : PortFOnly (s.unitsOff pid) c := (ha.blocks.trans (.of_blocks hb)).trans hc.blocks
  unfold State.wiped
  simp only
  rw [State.updPart_part_self, State.updPart_nvm]
  split
  · refine ⟨?_, hnvm, hblocks.trans (.of_blocks (State.updPart_blocks ..))⟩
    rw [show c.part pid = _ from hcpart]
    exact ⟨_, rfl, rfl, rfl, rfl, rfl, rfl, rfl⟩
  · rename_i hscrub
    obtain ⟨hn', hb'⟩ := abortWaiting_rest c pid s.log.next stAborted
    refine ⟨?_, hn'.trans hnvm, hblocks.trans (.of_blocks ((State.updPart_blocks ..).trans hb'))⟩
    rw [abortWaiting_part hcpart]
    exact ⟨_, rfl, rfl, rfl, rfl, rfl, rfl, (Bool.eq_false_of_not_eq_true hscrub).symm⟩

/-- The part once the partition has its new generation. -/
def State.renewed (s : State) (pid : Nat) (p : Partition) : State :=
  let g := s.nvm.generation + 1
  let c := s.wiped pid p
  let t := ({ c with nvm := { c.nvm with generation := g } } : State).updPart pid fun q => { q with
    gen := g, state := if p.inScrub ∨ p.inAgree then .tainted else .empty, keys := q.inScrub }
  if p.inScrub then t.logEv 0x0806 pid noUnit 0 else t

theorem resetPartition_eq (hp : s.part pid = some p) (hst : p.state ≠ .faulted) (hgen : s.nvm.generation ≠ 0xFFFFFFFF)
    (trigger : Nat) : s.resetPartition pid trigger =
      (((s.renewed pid p).recordPart pid).logEv 0x000C pid noUnit (3 + 16 * trigger)).setCause p.hostDie p.fn 2 := by
  have hnvm := (wiped_work hp).2.1
  have hdraw : (s.wiped pid p).drawGen pid = ({ s.wiped pid p with nvm := { (s.wiped pid p).nvm with
      generation := s.nvm.generation + 1 } }, some (s.nvm.generation + 1)) := by
    rw [State.drawGen_of_ne _ _ (hnvm ▸ hgen), hnvm]
  have hunfold : s.resetPartition pid trigger = (((match ((s.wiped pid p).drawGen pid).2 with
      | none => ((s.wiped pid p).drawGen pid).1.faultPart pid s.log.next
      | some gen =>
        let t := ((s.wiped pid p).drawGen pid).1.updPart pid fun q => { q with
          gen := gen, state := if p.inScrub ∨ p.inAgree then .tainted else .empty, keys := q.inScrub }
        if p.inScrub then t.logEv 0x0806 pid noUnit 0 else t).recordPart pid).logEv 0x000C pid noUnit
          (3 + 16 * trigger)).setCause p.hostDie p.fn 2 := by
    unfold State.resetPartition
    simp only [hp, if_neg hst]
    rfl
  rw [hunfold, hdraw]
  rfl

theorem resetPartition_part (hp : s.part pid = some p) (hst : p.state ≠ .faulted) (hgen : s.nvm.generation ≠ 0xFFFFFFFF)
    (trigger : Nat) : ∃ q, (s.resetPartition pid trigger).part pid = some q ∧
      q.state = (if p.inScrub ∨ p.inAgree then .tainted else .empty) ∧ q.neg = none ∧ q.jobSecret = none ∧ q.keys = p.inScrub ∧
      q.gen = s.nvm.generation + 1 ∧ q.tiles = p.tiles ∧ q.expose = none ∧ q.slideValid = false := by
  obtain ⟨⟨q, hq, htiles, hsecret, hexp, hneg, hslide, hscrub⟩, _⟩ := wiped_work hp
  let c := s.wiped pid p
  have hq' : ({ c with nvm := { c.nvm with generation := s.nvm.generation + 1 } } : State).part pid = some q := hq
  have hrenew : (s.renewed pid p).part pid = some { q with
      gen := s.nvm.generation + 1, state := if p.inScrub ∨ p.inAgree then .tainted else .empty, keys := q.inScrub } := by
    unfold State.renewed
    simp only
    split
    · rw [(logEv_noted _ (by decide) ..).part, State.updPart_part_self, hq']
      rfl
    · rw [State.updPart_part_self, hq']
      rfl
  rw [resetPartition_eq hp hst hgen, (setCause_noted ..).part, (logEv_noted _ (by decide) ..).part, State.part, recordPart_parts]
  exact ⟨_, hrenew, rfl, hneg, hsecret, hscrub, rfl, htiles, hexp, hslide⟩

theorem resetPartition_blocks (hp : s.part pid = some p) (hst : p.state ≠ .faulted) (hgen : s.nvm.generation ≠ 0xFFFFFFFF)
    (trigger : Nat) : PortFOnly (s.unitsOff pid) (s.resetPartition pid trigger) := by
  have hblocks : (s.renewed pid p).blocks = (s.wiped pid p).blocks := by
    unfold State.renewed
    simp only
    split
    · rw [(logEv_noted _ (by decide) ..).blocks, State.updPart_blocks]
    · rw [State.updPart_blocks]
  refine (wiped_work hp).2.2.trans (.of_blocks ?_)
  rw [resetPartition_eq hp hst hgen, (setCause_noted ..).blocks, (logEv_noted _ (by decide) ..).blocks, recordPart_blocks, hblocks]

end

end Sys2Proof.Machine

namespace Sys2Proof.Machine

/-! ### RESET as a command (16 R439, R447) -/

section
variable {s s1 : State} {e : Envelope} {pid : Nat} {p : Partition}

theorem exec_reset {kind : Byte} (hk : kind ≠ 1) (s : State) : exec (.reset e kind) s =
    .next (runCmd s e (Claims.ofPart 0x0004 8 Claims.byBoundOrOwner .reset) fun s t =>
      if kind ≠ 0 then reply s stBadArg else resetBody s t) :=
  congrArg Host.Outcome.next (if_neg hk)

theorem reset_badArg {kind : Byte} (ha : Accepts s e (Claims.ofPart 0x0004 8 Claims.byBoundOrOwner .reset) s1 (some pid))
    (hk : 1 < kind.toNat) : Claims.Completes s s1 (.reset e kind) e s1 stBadArg [] := by
  have h0 : kind ≠ 0 := by rintro rfl; exact absurd hk (by decide)
  have h1 : kind ≠ 1 := by rintro rfl; exact absurd hk (by decide)
  exact completes_of_reply ha (exec_reset h1 s) (if_pos h0)

theorem reset_wrongState (ha : Accepts s e (Claims.ofPart 0x0004 8 Claims.byBoundOrOwner .reset) s1 (some pid))
    (hp : s1.part pid = some p) (hst : p.state = .faulted) : Claims.Completes s s1 (.reset e 0) e s1 stWrongState [] := by
  refine completes_of_reply ha (exec_reset (by decide) s) ((if_neg (by decide)).trans ?_)
  simp only [resetBody, hp]
  exact if_pos hst

theorem reset_completes (ha : Accepts s e (Claims.ofPart 0x0004 8 Claims.byBoundOrOwner .reset) s1 (some pid))
    (hp : s1.part pid = some p) (hst : p.state ≠ .faulted) (hgen : s1.nvm.generation ≠ 0xFFFFFFFF) :
    Claims.Completes s s1 (.reset e 0) e (s1.resetPartition pid 0) stOk [] := by
  obtain ⟨q, hq, hstate, _⟩ := resetPartition_part hp hst hgen 0
  have hok : q.state ≠ .faulted := by
    rw [hstate]
    split <;> decide
  refine completes_of_reply ha (exec_reset (by decide) s) ((if_neg (by decide)).trans ?_)
  simp only [resetBody, hp, if_neg hst, hq, if_neg hok]

theorem reset_resets (ha : Accepts s e (Claims.ofPart 0x0004 8 Claims.byBoundOrOwner .reset) s1 (some pid))
    (hp : s1.part pid = some p) (hst : p.state ≠ .faulted) (hgen : s1.nvm.generation ≠ 0xFFFFFFFF) :
    ∃ s2 q, Claims.Completes s s1 (.reset e 0) e s2 stOk [] ∧
      s2.part pid = some q ∧ q.state = (if p.inScrub ∨ p.inAgree then .tainted else .empty) ∧ q.neg = none ∧ q.jobSecret = none ∧
      q.keys = p.inScrub ∧ q.gen = s1.nvm.generation + 1 ∧ q.tiles = p.tiles ∧ q.expose = none ∧ q.slideValid = false ∧
      (Claims.noHostWrite s1 p → s2.mem = s1.mem) ∧ (∀ x, x ∉ p.blockList → Claims.SameButPortF s1 s2 x) ∧
      (∀ x ∈ p.blockList, fmGet s1.blocks x ≠ none → (s2.block x).streams = [] ∧ (s2.block x).atTick = true) ∧
      (s1.boundTo p.hostDie p.fn = some pid → Claims.OtherParts s1 s2 pid) := by
  obtain ⟨q, hq, hstate, hneg, hsecret, hkeys, hgen', htiles, hexp, hslide⟩ := resetPartition_part hp hst hgen 0
  have hspares : Spares pid (Claims.noHostWrite s1 p) s1 (s1.resetPartition pid 0) :=
    resetPartition_spares s1 0 fun p' hp' hq => by
      cases hp.symm.trans hp'
      exact hq
  have hblocks := resetPartition_blocks hp hst hgen 0
  have hkeysOff : (s1.destroyKeys pid).part pid = some { p with keys := false, jobSecret := none } :=
    (State.updPart_part_self ..).trans (congrArg (Option.map _) hp)
  have hsame : (s1.destroyKeys pid).blocks = s1.blocks := State.updPart_blocks ..
  refine ⟨_, q, reset_completes ha hp hst hgen, hq, hstate, hneg, hsecret, hkeys, hgen', htiles, hexp, hslide, hspares.mem,
    fun x hx => ?_, fun x hx hb => ?_, fun _ => hspares.others⟩
  · have hout : (s1.unitsOff pid).block x = s1.block x := by
      refine (stopUnits_block_out hkeysOff hx).trans ?_
      simp [State.block, hsame]
    have hx := hblocks x
    unfold Claims.SameButPortF at hx ⊢
    rwa [hout] at hx
  · have hin : (s1.unitsOff pid).block x = (s1.block x).stopped := by
      refine (stopUnits_block_in hkeysOff hx (hsame ▸ hb)).trans ?_
      simp [State.block, hsame]
    have hx := hblocks x
    unfold Claims.SameButPortF at hx
    rw [hin] at hx
    have hstreams := congrArg Block.streams hx
    have htick := congrArg Block.atTick hx
    exact ⟨hstreams, htick⟩

end

/-- The sessions are told one by one: nothing but what goes out changes, and each one hears it (16 R447). -/
theorem foldl_notice (kind fault : Nat) (l : List (Nat × Session)) (s : State) :
    let t := l.foldl (fun (s : State) q => s.notice q.1 kind (s.owner.getD 0) fault) s
    { t with out := s.out } = s ∧ (∀ o ∈ s.out, o ∈ t.out) ∧
      ∀ n x, (n, x) ∈ l → ∃ d, .frame n (d ++ Claims.noticeBytes s kind (s.owner.getD 0) fault) ∈ t.out := by
  induction l generalizing s with
  | nil => exact ⟨rfl, fun _ h => h, fun _ _ h => nomatch h⟩
  | cons q rest ih =>
    obtain ⟨hsame, hkept, hrest⟩ := ih (s.notice q.1 kind (s.owner.getD 0) fault)
    refine ⟨?_, fun o ho => hkept o (List.mem_cons_of_mem _ ho), fun n x hx => ?_⟩
    · exact congrArg (fun u : State => { u with out := s.out }) hsame
    · rcases List.mem_cons.1 hx with rfl | hx
      · exact ⟨_, hkept _ List.mem_cons_self⟩
      · exact hrest n x hx

theorem resetWarm_completes {s s1 : State} {e : Envelope} {t : Option Nat}
    (ha : Accepts s e ⟨0x0004, 8, Claims.byOwner, .none_, .plain, false, true⟩ s1 t) :
    ∃ s2, Claims.Completes s s1 (.resetWarm e) e s2 stOk [] ∧ Claims.Completes s s1 (.reset e 1) e s2 stOk [] ∧
      { s2 with out := s1.out, boot := s1.boot } = s1 ∧ s2.boot = { s1.boot with warmPending := true } ∧
      ∀ n x, (n, x) ∈ s1.sessions → ∃ d, .frame n (d ++ Claims.noticeBytes s1 5 (s1.owner.getD 0) 0) ∈ s2.out := by
  obtain ⟨hsame, -, htold⟩ := foldl_notice 5 0 s1.sessions s1
  have hboot := congrArg (fun u : State => { u.boot with warmPending := true }) hsame
  refine ⟨_, completes_of_reply ha rfl rfl, completes_of_reply ha (congrArg Host.Outcome.next (if_pos rfl)) rfl, ?_, hboot, htold⟩
  exact congrArg (fun u : State => { u with boot := s1.boot }) hsame

/-! ### HALT and MBX_HALT (16 R435, R441) -/

section
variable {s : State} {pid : Nat} {p : Partition}

/-- A halt that waits for the coming Shutter, or for the one after it (02 R55). -/
def Frame.awaitHalt (f : Frame) (r : List Route) : Frame :=
  if f.late then { f with haltLate := true, lateRoutes := f.lateRoutes ++ r }
  else { f with haltCmd := true, haltRoutes := f.haltRoutes ++ r }

theorem requestHalt_running (hp : s.part pid = some p) (hx : p.expose = none) (hs : p.slide = none) (hst : p.state = .running)
    (r : Option Route) : s.requestHalt pid r = (s.updFrame pid fun f => f.awaitHalt r.toList, none) := by
  unfold State.requestHalt
  simp only [hp, hst, cancelTimed_of_none s hp hx, hs]
  rfl

theorem requestHalt_halted (hp : s.part pid = some p) (hx : p.expose = none) (hst : p.state = .halted) (r : Option Route) :
    s.requestHalt pid r = (s, some stOk) := by
  unfold State.requestHalt
  simp only [hp, hst, cancelTimed_of_none s hp hx]

theorem requestHalt_refused (hp : s.part pid = some p) (hx : p.expose = none) (hh : p.state ≠ .halted) (hr : p.state ≠ .running)
    (r : Option Route) : s.requestHalt pid r = (s, some stWrongState) := by
  unfold State.requestHalt
  simp only [hp]
  cases hst : p.state with
  | halted => exact absurd hst hh
  | running => exact absurd hst hr
  | developed => simp [hx]
  | empty => rfl
  | ready => rfl
  | faulted => rfl
  | tainted => rfl

/-- A frame of one partition changes. -/
theorem updFrame_part (hp : s.part pid = some p) (f : Frame → Frame) :
    (s.updFrame pid f).part pid = some { p with frame := f p.frame } :=
  (State.updPart_part_self ..).trans (congrArg (Option.map _) hp)

theorem updPart_same (s : State) (pid : Nat) (f : Partition → Partition) : { s.updPart pid f with parts := s.parts } = s := by
  unfold State.updPart
  split <;> rfl

theorem mbxHalt_one {f : FnId} (hserves : s.serves = true) (hen : s.fnEnabled f.h f.k = true) (hfatal : s.boot.fatal = none)
    (hbound : s.boundTo f.h f.k = some pid) (hp : s.part pid = some p) (hst : p.state = .running) (hx : p.expose = none)
    (hs : p.slide = none) (hb : p.busy = none) : exec (.mbxHalt f 1) s = .next (s.updFrame pid fun f => f.awaitHalt []) := by
  have hconflict : conflict p .halt = none := by
    unfold conflict
    simp [hb, Partition.slideBusy, hs, hx]
  have hhalt := requestHalt_running hp hx hs hst none
  change execMbxHalt f 1 s = _
  simp [execMbxHalt, hserves, hen, hfatal, hbound, hp, hconflict, hhalt]

theorem mbxHalt_other (f : FnId) {v : BitVec 32} (hv : v ≠ 1) (s : State) : exec (.mbxHalt f v) s = .next s := by
  have hskip : (!s.serves || v != 1 || !s.fnEnabled f.h f.k || s.boot.fatal.isSome) = true := by
    rw [bne_iff_ne.2 hv]
    simp
  exact congrArg Host.Outcome.next (if_pos hskip)

end

end Sys2Proof.Machine

namespace Sys2Proof.Machine

/-! ### The compute reset (18 R484) -/

/-- The logical blocks of a partition with distinct tiles are distinct. -/
theorem blockList_nodup {p : Partition} (h : p.tiles.Nodup) : p.blockList.Nodup := by
  unfold Partition.blockList
  refine List.nodup_flatMap.2 ⟨fun d _ => ?_, h.imp fun {a b} hab => ?_⟩
  · exact (List.nodup_range).map fun i j hij => Nat.add_left_cancel hij
  · intro x hx hy
    obtain ⟨i, hi, rfl⟩ := List.mem_map.1 hx
    obtain ⟨j, hj, hij⟩ := List.mem_map.1 hy
    rw [List.mem_range] at hi hj
    exact hab (by omega)

/-- Blocks of a list are updated one by one. -/
theorem foldl_updBlock_out (f : Nat × Nat → Block → Block) (l : List (Nat × Nat)) (s : State) {x : Nat}
    (hx : x ∉ l.map Prod.fst) : (l.foldl (fun (s : State) b => s.updBlock b.1 (f b)) s).block x = s.block x := by
  induction l generalizing s with
  | nil => rfl
  | cons b rest ih =>
    obtain ⟨hb, hrest⟩ := not_or.1 (List.mem_cons.not.1 hx)
    exact (ih _ hrest).trans (State.updBlock_block_ne _ _ hb)

theorem foldl_updBlock_in (f : Nat × Nat → Block → Block) {l : List (Nat × Nat)} (hl : (l.map Prod.fst).Nodup) (s : State)
    {b : Nat × Nat} (hb : b ∈ l) : (l.foldl (fun (s : State) b => s.updBlock b.1 (f b)) s).block b.1 = f b (s.block b.1) := by
  induction l generalizing s with
  | nil => nomatch hb
  | cons c rest ih =>
    obtain ⟨hc, hrest⟩ := List.nodup_cons.1 hl
    rcases List.mem_cons.1 hb with rfl | hmem
    · exact (foldl_updBlock_out f rest _ hc).trans (State.updBlock_block_self ..)
    · have hne : b.1 ≠ c.1 := fun h => hc (h ▸ List.mem_map_of_mem hmem)
      exact (ih hrest _ hmem).trans (congrArg (f b) (State.updBlock_block_ne _ _ hne))

/-- What every one of the updates keeps of a block stays. -/
theorem foldl_updBlock_keeps {α : Type} (g : Block → α) (f : Nat × Nat → Block → Block) (hf : ∀ b v, g (f b v) = g v)
    (l : List (Nat × Nat)) (s : State) (x : Nat) :
    g ((l.foldl (fun (s : State) b => s.updBlock b.1 (f b)) s).block x) = g (s.block x) := by
  induction l generalizing s with
  | nil => rfl
  | cons b rest ih =>
    refine (ih _).trans ?_
    by_cases hx : x = b.1
    · subst hx
      rw [State.updBlock_block_self, hf]
    · rw [State.updBlock_block_ne _ _ hx]

/-- What a compute reset makes of a block of a partition; `b` is the block and its place in the partition. -/
def Partition.scramble (p : Partition) (free : Nat) (b : Nat × Nat) : Block → Block :=
  scrambleBlock free (1000 * b.1) (fmGetD p.negative.bundles b.2 [])

/-- The part with scrambled blocks of a partition. -/
def State.blocksScrambled (s : State) (p : Partition) : State :=
  p.blockList.zipIdx.foldl (fun (t : State) b => t.updBlock b.1 (p.scramble s.free b)) { s with free := s.free + 1 }

/-- The part with the registers and bundles of a partition's blocks and cells after a compute reset. -/
def State.scrambled (s : State) (p : Partition) : State :=
  (p.blockList.flatMap fun b => (List.range 4).map (4 * b + ·)).foldl (fun (t : State) c =>
    t.updCell c (scrambleCell s.free (10000000 + 20000 * c))) (s.blocksScrambled p)

theorem scrambled_same (s : State) (p : Partition) :
    { s.scrambled p with blocks := s.blocks, cells := s.cells, free := s.free } = s := by
  have hblocks : { s.blocksScrambled p with blocks := s.blocks, cells := s.cells, free := s.free } = s :=
    List.foldlRecOn _ _ (motive := fun t : State => { t with blocks := s.blocks, cells := s.cells, free := s.free } = s) rfl
      fun _ ht _ _ => ht
  exact List.foldlRecOn _ _ (motive := fun t : State => { t with blocks := s.blocks, cells := s.cells, free := s.free } = s)
    hblocks fun _ ht _ _ => ht

theorem scrambled_block_eq (s : State) (p : Partition) (x : Nat) : (s.scrambled p).block x = (s.blocksScrambled p).block x :=
  List.foldlRecOn _ _ (motive := fun t : State => t.block x = (s.blocksScrambled p).block x) rfl fun _ ht _ _ => ht

/-- Stopped units stay stopped. -/
theorem scrambled_stopped (s : State) (p : Partition) (x : Nat) :
    ((s.scrambled p).block x).streams = (s.block x).streams ∧ ((s.scrambled p).block x).atTick = (s.block x).atTick := by
  rw [scrambled_block_eq]
  exact ⟨foldl_updBlock_keeps Block.streams (p.scramble s.free) (fun _ _ => rfl) _ _ x,
    foldl_updBlock_keeps Block.atTick (p.scramble s.free) (fun _ _ => rfl) _ _ x⟩

theorem scrambled_block_out (s : State) (p : Partition) {x : Nat} (hx : x ∉ p.blockList) :
    (s.scrambled p).block x = s.block x := by
  rw [scrambled_block_eq]
  refine foldl_updBlock_out (p.scramble s.free) _ _ ?_
  rwa [List.zipIdx_map_fst]

/-- The bundles of a block are those of the Negative. -/
theorem scrambled_bundles (s : State) {p : Partition} (hn : p.tiles.Nodup) {k x : Nat} (hk : p.blockList[k]? = some x) :
    ((s.scrambled p).block x).bundles = fmGetD p.negative.bundles k [] := by
  have hnodup : (p.blockList.zipIdx.map Prod.fst).Nodup := by
    rw [List.zipIdx_map_fst]
    exact blockList_nodup hn
  have hmem : (x, k) ∈ p.blockList.zipIdx := by simpa [List.mem_zipIdx_iff_getElem?] using hk
  rw [scrambled_block_eq]
  exact congrArg Block.bundles (foldl_updBlock_in (p.scramble s.free) hnodup _ hmem)

/-! ### An Exposure-fatal fault (02 R52) -/

theorem countBlockErr_noted (s : State) (code : Nat) (u : LogUnit) : Noted s (s.countBlockErr code u) := by
  unfold State.countBlockErr
  split
  · exact log_noted ..
  · split
    · exact log_noted ..
    · exact .refl s

section
variable {pid : Nat} {quiet : Prop} (s : State)

theorem countBlockErr_spares (code : Nat) (u : LogUnit) : Spares pid quiet s (s.countBlockErr code u) := by
  unfold State.countBlockErr
  split
  · exact log_spares ..
  · split
    · exact log_spares ..
    · exact .refl s

theorem updFrame_spares (f : Frame → Frame) : Spares pid quiet s (s.updFrame pid f) := updPart_spares _ _ fun _ => rfl

theorem cancelStreams_spares (p : Partition) : Spares pid quiet s (s.cancelStreams p) := by
  unfold State.cancelStreams
  refine mapBlocks_spares _ _ _ (fun q => ?_) fun q => ?_
  · split <;> rfl
  · split <;> rfl

theorem raiseFatal_spares (code : Nat) (u : LogUnit) (d t : Nat) : Spares pid quiet s (s.raiseFatal pid code u d t) := by
  have hlog : Spares pid quiet s ((s.logEv code pid u d).countBlockErr code u) :=
    (logEv_spares s code u d []).trans (countBlockErr_spares ..)
  unfold State.raiseFatal
  simp only
  split
  · exact hlog
  · split
    · exact hlog.trans ((updFrame_spares ..).trans (cancelStreams_spares ..))
    · exact hlog

end

theorem logEv_blocks (s : State) (code part : Nat) (u : LogUnit) (d : Nat) : (s.logEv code part u d).blocks = s.blocks := by
  have hnote (t : State) (n : Nat) : (t.noteEntry code part n).blocks = t.blocks := by
    have tail (t : State) : (if code / 4096 = 2 ∨ code / 4096 = 3 then (t.setCause 0 0 6).setCause 1 0 6 else t).blocks = t.blocks := by
      split
      · exact ((setCause_noted ..).trans (setCause_noted ..)).blocks
      · rfl
    unfold State.noteEntry
    simp only
    rw [tail]
    split
    · rfl
    · by_cases h0 : code / 4096 = 0
      · simp [h0]
      · simp [h0, (setCause_noted ..).blocks]
  unfold State.logEv
  simp only
  split
  · exact hnote ..
  · exact hnote ..

/-- The fault that an Exposure keeps: the first in time, the lower code at a tie (02 R52). -/
def Partition.firstFatal (p : Partition) (code time : Nat) : FatalRec :=
  match p.frame.fatal with
  | none => ⟨BitVec.ofNat 16 code, time⟩
  | some o => if time < o.time ∨ (time = o.time ∧ code < o.code.toNat) then ⟨BitVec.ofNat 16 code, time⟩ else o

/-- A frame that a fault stands against, with the blocks that it names. -/
def Frame.withFatal (f : Frame) (r : FatalRec) (failing : List Nat) : Frame :=
  { f with fatal := some r, failing := failing ++ f.failing }

/-- A fault of a running partition is logged, is noted in its frame, and cancels its streams (02 R52). -/
theorem raiseFatal_running {s : State} {pid : Nat} {p : Partition} (hp : s.part pid = some p) (hst : p.state = .running)
    (code : Nat) (u : LogUnit) (d t : Nat) : ∃ q, q.quiet = p.quiet ∧
      ((s.logEv code pid u d).countBlockErr code u).part pid = some q ∧
      s.raiseFatal pid code u d t = (((s.logEv code pid u d).countBlockErr code u).updFrame pid
        (·.withFatal (q.firstFatal code t) (s.failingBlocks u))).cancelStreams q := by
  obtain ⟨q, hq, hquiet⟩ := ((logEv_reports s code pid u d []).trans (countBlockErr_reports ..)).exists_part hp
  have hstate := congrArg Partition.state hquiet
  have hrun : q.state = .running := hstate.trans hst
  refine ⟨q, hquiet, hq, ?_⟩
  unfold State.raiseFatal
  simp only [hq, if_pos hrun]
  rfl

theorem blockList_of_quiet {p q : Partition} (h : q.quiet = p.quiet) : q.blockList = p.blockList := by
  have hlist := congrArg Partition.blockList h
  exact hlist

section
variable {s : State} {pid : Nat} {p : Partition} (hp : s.part pid = some p) (hst : p.state = .running)
include hp hst

theorem raiseFatal_get (code : Nat) (u : LogUnit) (d t x : Nat) : fmGet (s.raiseFatal pid code u d t).blocks x =
    (fmGet s.blocks x).map fun v => if p.blockList.contains x then { v with streams := [] } else v := by
  obtain ⟨q, hquiet, hq, heq⟩ := raiseFatal_running hp hst code u d t
  have hblocks (f : Frame → Frame) :
      (((s.logEv code pid u d).countBlockErr code u).updFrame pid f).blocks = s.blocks := by
    rw [State.updFrame_blocks, (countBlockErr_noted ..).blocks, logEv_blocks]
  rw [heq, ← blockList_of_quiet hquiet, ← fmGet_map_if s.blocks q.blockList.contains fun v => { v with streams := [] }, ← hblocks]
  rfl

theorem raiseFatal_log (code : Nat) (u : LogUnit) (d t : Nat) :
    (s.raiseFatal pid code u d t).log = ((s.logEv code pid u d).countBlockErr code u).log := by
  obtain ⟨q, _, _, heq⟩ := raiseFatal_running hp hst code u d t
  rw [heq]
  exact State.updFrame_log ..

theorem raiseFatal_fatal (code : Nat) (u : LogUnit) (d t : Nat) : Claims.FatalAt (s.raiseFatal pid code u d t) pid := by
  obtain ⟨q, _, hq, heq⟩ := raiseFatal_running hp hst code u d t
  rw [heq]
  exact ⟨_, updFrame_part hq _, Option.some_ne_none _⟩

/-! ### COMPUTE_RESET (18 R484, R493) -/

theorem exec_computeReset (hf : p.frame.fatal ≠ none) {b : Nat} (hb : b < 36 * p.tiles.length) :
    exec (.computeReset pid b) s = .next (((((s.raiseFatal pid 0x1443 (s.blockUnit (p.blockIx b) b) 0 (s.presentCycle pid)).logEv
      0x000C pid noUnit 4).stopUnits pid).scrambled p)) := by
  have hgo : ¬(p.state ≠ .running ∨ p.frame.fatal = none ∨ 36 * p.tiles.length ≤ b) := by
    simp only [hst, hf, not_or, not_le]
    exact ⟨fun h => h rfl, id, hb⟩
  change execComputeReset pid b s = _
  unfold execComputeReset
  simp only [hp, if_neg hgo]
  rfl

theorem computeReset_resets (hf : p.frame.fatal ≠ none) {b : Nat} (hb : b < 36 * p.tiles.length) :
    ∃ t, exec (.computeReset pid b) s = .next t ∧ t.mem = s.mem ∧ (∀ x, x ∉ p.blockList → t.block x = s.block x) ∧
      (∀ x ∈ p.blockList, fmGet s.blocks x ≠ none → (t.block x).streams = [] ∧ (t.block x).atTick = true) ∧
      (p.tiles.Nodup → ∀ (k x : Nat), p.blockList[k]? = some x → (t.block x).bundles = fmGetD p.negative.bundles k []) ∧
      Claims.OtherParts s t pid ∧
      (s.log.used + 1 < 4096 → ∃ x y, t.log.buf = s.log.buf ++ [x, y] ∧ x.code = 0x1443 ∧ y.code = 0x000C) := by
  let u := s.blockUnit (p.blockIx b) b
  let a := s.raiseFatal pid 0x1443 u 0 (s.presentCycle pid)
  let c := a.logEv 0x000C pid noUnit 4
  let d := c.stopUnits pid
  have ha : Reports s a := raiseFatal_reports ..
  have hnote : Noted a c := logEv_noted a (by decide) ..
  have hwork : Spares pid True s d := ((raiseFatal_spares ..).trans (logEv_spares a 0x000C noUnit 4 [])).trans (stopUnits_spares ..)
  obtain ⟨q, hq, hquiet⟩ := ha.exists_part hp
  have hlist := blockList_of_quiet hquiet
  have hcq : c.part pid = some q := (hnote.part pid).trans hq
  have hget (x : Nat) : fmGet c.blocks x = _ := (congrArg (fmGet · x) hnote.blocks).trans (raiseFatal_get hp hst 0x1443 u 0 _ x)
  have hsame := scrambled_same d p
  have hmem := congrArg State.mem hsame
  have hparts := congrArg State.parts hsame
  have hlog := congrArg State.log hsame
  refine ⟨_, exec_computeReset hp hst hf hb, hmem.trans (hwork.mem trivial), fun x hx => ?_, fun x hx hpresent => ?_,
    fun hn k x hk => scrambled_bundles d hn hk, fun j hj => (congrArg (fmGet · j) hparts).trans (hwork.others j hj), fun hroom => ?_⟩
  · have hc : p.blockList.contains x = false := by simpa using hx
    refine (scrambled_block_out d p hx).trans ((stopUnits_block_out hcq (hlist ▸ hx)).trans ?_)
    rw [State.block, fmGetD, hget, hc]
    simp [State.block, fmGetD]
  · obtain ⟨v, hv⟩ := Option.ne_none_iff_exists'.1 hpresent
    have hthere : fmGet c.blocks x ≠ none := by
      rw [hget, hv]
      exact Option.some_ne_none _
    have hstop := stopUnits_block_in hcq (hlist ▸ hx) hthere
    obtain ⟨hstreams, htick⟩ := scrambled_stopped d p x
    exact ⟨hstreams.trans (congrArg Block.streams hstop), htick.trans (congrArg Block.atTick hstop)⟩
  · obtain ⟨x, hx, _, hxc, hsize⟩ := logEv_buf (Nat.lt_of_succ_lt hroom) 0x1443 pid u 0
    have halog : a.log.buf = s.log.buf ++ [x] := (congrArg Log.buf (raiseFatal_log hp hst 0x1443 u 0 _)).trans hx
    have hused : a.log.used < 4096 := by
      simpa [Log.used, halog, hsize] using hroom
    obtain ⟨y, hy, _, hyc, _⟩ := logEv_buf hused 0x000C pid noUnit 4
    have hdlog : d.log = c.log := by
      have h := congrArg State.log (show { d with blocks := c.blocks, regions := c.regions } = c from by
        unfold d State.stopUnits
        split <;> rfl)
      exact h
    exact ⟨x, y, by rw [hlog, hdlog, hy, halog, List.append_assoc]; rfl, hxc, hyc⟩

end

end Sys2Proof.Machine

namespace Sys2Proof.Machine

/-- Settles O46: the resets by what each of their steps leaves, and the halts by what a request does in each state. -/
theorem resetsAndHalts : Obligations.ResetsAndHalts := by
  unfold Obligations.ResetsAndHalts
  refine ⟨fun s s1 e pid p ha hp => ⟨reset_wrongState ha hp, fun kind hk => reset_badArg ha hk, reset_resets ha hp⟩,
    fun s s1 e t ha => resetWarm_completes ha, fun s s1 e pid p ha hp hx => ⟨fun hst => ?_, fun hh hr => ?_, fun hst hs => ?_⟩,
    fun s f pid p hserves hen hfatal hbound hp hst hx hs hb => ⟨?_, fun v hv => mbxHalt_other f hv s⟩,
    fun s pid b p hp => ⟨fun hno => ?_, fun hst hf hb => computeReset_resets hp hst hf hb⟩⟩
  · refine completes_of_reply ha rfl ?_
    simp only [requestHalt_halted hp hx hst]
    rfl
  · refine completes_of_reply ha rfl ?_
    simp only [requestHalt_refused hp hx hh hr]
    rfl
  · have hexec : exec (.halt e) s = .next (s1.updFrame pid fun f => f.awaitHalt [e.route]) := by
      refine (congrArg Host.Outcome.next (runCmd_accepts _ ha)).trans ?_
      simp only [requestHalt_running hp hx hs hst]
      rfl
    exact ⟨_, _, hexec, updFrame_part hp _, hst, fun hl => by simp [Frame.awaitHalt, hl], fun hl => by simp [Frame.awaitHalt, hl],
      updPart_same .., fun j hj => State.updPart_part_ne s1 _ hj⟩
  · refine ⟨_, _, mbxHalt_one hserves hen hfatal hbound hp hst hx hs hb, updFrame_part hp _, ?_, updPart_same ..,
      fun j hj => State.updPart_part_ne s _ hj⟩
    simp [Frame.awaitHalt]
  · have hskip : p.state ≠ .running ∨ p.frame.fatal = none ∨ 36 * p.tiles.length ≤ b := by tauto
    change execComputeReset pid b s = _
    unfold execComputeReset
    simp only [hp, if_pos hskip]

end Sys2Proof.Machine

/-! # Limiter, sensors, domains, supplies and generators (14 R376 to R394) -/

namespace Sys2Proof.Machine

/-! ### What bookkeeping on partitions leaves alone -/

/-- From `s` to `t` only partitions, the log, the endpoints, the sessions and what goes out changed. -/
def Framed (s t : State) : Prop :=
  { t with parts := s.parts, log := s.log, eps := s.eps, sessions := s.sessions, out := s.out } = s

section
variable {s t u : State}

theorem Framed.refl (s : State) : Framed s s := rfl

theorem Framed.trans (h : Framed s t) (k : Framed t u) : Framed s u := by
  unfold Framed at h k ⊢
  rw [← k] at h
  exact h

theorem Framed.foldl {α : Type} {f : State → α → State} (l : List α) (s : State) (hf : ∀ t a, Framed t (f t a)) :
    Framed s (l.foldl f s) :=
  List.foldlRecOn l f (motive := Framed s) (.refl s) fun t ht a _ => ht.trans (hf t a)

theorem Noted.framed (h : Noted s t) : Framed s t := by
  have hf := congrArg (fun x : State => { x with parts := s.parts }) h
  exact hf

theorem Framed.mem (h : Framed s t) : t.mem = s.mem := by
  have hf := congrArg State.mem h
  exact hf
theorem Framed.power (h : Framed s t) : t.power = s.power := by
  have hf := congrArg State.power h
  exact hf
theorem Framed.boot (h : Framed s t) : t.boot = s.boot := by
  have hf := congrArg State.boot h
  exact hf
theorem Framed.model (h : Framed s t) : t.model = s.model := by
  have hf := congrArg State.model h
  exact hf
theorem Framed.pins (h : Framed s t) : t.pins = s.pins := by
  have hf := congrArg State.pins h
  exact hf

end

section
variable (s : State)

theorem updPart_framed (pid : Nat) (f : Partition → Partition) : Framed s (s.updPart pid f) := by
  unfold State.updPart
  split <;> rfl

theorem updFrame_framed (pid : Nat) (f : Frame → Frame) : Framed s (s.updFrame pid f) := updPart_framed ..

theorem noteEntry_framed (code part n : Nat) : Framed s (s.noteEntry code part n) := by
  have tail (t : State) : Framed t (if code / 4096 = 2 ∨ code / 4096 = 3 then (t.setCause 0 0 6).setCause 1 0 6 else t) := by
    split
    · exact ((setCause_noted ..).trans (setCause_noted ..)).framed
    · exact .refl t
  unfold State.noteEntry
  refine .trans ?_ (tail _)
  split
  · exact .refl s
  · by_cases h0 : code / 4096 = 0
    · simp only [h0, if_true]
      exact (updFunc_noted ..).framed
    · simp only [h0, if_false]
      refine .trans ?_ (setCause_noted ..).framed
      exact (updPart_framed ..).trans (updFunc_noted ..).framed

theorem logEv_framed (code part : Nat) (u : LogUnit) (d : Nat) (cs : List Bytes) : Framed s (s.logEv code part u d cs) := by
  unfold State.logEv
  simp only
  split
  · exact (log_noted ..).framed.trans (noteEntry_framed ..)
  · exact (log_noted ..).framed.trans (noteEntry_framed ..)

/-! ### Stretch counters (02 R45, 14 R377) -/

theorem addStretch_framed (r ns : Nat) : Framed s (s.addStretch r ns) := by
  unfold State.addStretch
  split
  · exact .refl s
  · split
    · exact .refl s
    · split
      · exact .refl s
      · simp only
        split
        · exact (updFrame_framed ..).trans ((logOnce_noted _ (by decide) ..).framed.trans (updFrame_framed ..))
        · exact updFrame_framed ..

end

/-- What stretching a region of a running partition leaves (02 R45). -/
theorem addStretch_running {s : State} {r pid l : Nat} {p : Partition} (ho : s.regionOwner r = some (pid, l))
    (hp : s.part pid = some p) (hst : p.state = .running) (ns : Nat) :
    let v := Nat.min (fmGetD p.frame.stretchNs l 0 + ns) 0xFFFFFFFF
    (∃ q, (s.addStretch r ns).part pid = some q ∧ fmGetD q.frame.stretchNs l 0 = v ∧
      (p.negative.stretch * p.negative.schedLen < v * 10 * p.step → q.frame.stretchOver = true)) ∧
    Claims.OtherParts s (s.addStretch r ns) pid := by
  intro v
  let a := s.updFrame pid fun f => { f with stretchNs := fmSet f.stretchNs l v }
  let b := a.logOnce 0x0203 pid r (regionUnit r l) 0
  have ha : a.part pid = some { p with frame := { p.frame with stretchNs := fmSet p.frame.stretchNs l v } } := updFrame_part hp _
  have hb : Noted a b := logOnce_noted a (by decide) ..
  have heq : s.addStretch r ns = if p.overStretch v = true then b.updFrame pid fun f => { f with stretchOver := true } else a := by
    unfold State.addStretch
    simp only [ho, hp, hst, ne_eq, not_true_eq_false, if_false]
    rfl
  have hothers : Claims.OtherParts s a pid := fun j hj => State.updPart_part_ne s _ hj
  rw [heq]
  split
  · refine ⟨⟨_, updFrame_part ((hb.part pid).trans ha) _, by simp [fmGetD], fun _ => rfl⟩, fun j hj => ?_⟩
    exact (State.updPart_part_ne b _ hj).trans ((hb.part j).trans (hothers j hj))
  · rename_i hover
    exact ⟨⟨_, ha, by simp [fmGetD], fun hlt => absurd (decide_eq_true hlt) hover⟩, hothers⟩

theorem addStretch_idle {s : State} {r pid l : Nat} {p : Partition} (ho : s.regionOwner r = some (pid, l))
    (hp : s.part pid = some p) (hst : p.state ≠ .running) (ns : Nat) : s.addStretch r ns = s := by
  unfold State.addStretch
  simp [ho, hp, hst]

/-! ### The fast limiter (14 R389, R392) -/

theorem classLimit_eq (c : Nat) : classLimit c = Claims.capWatts c := by
  match c with
  | 0 => rfl
  | 1 => rfl
  | 2 => rfl
  | _ + 3 => rfl

theorem classStep_eq (c : Nat) : classStep c = Claims.capStep c := by
  match c with
  | 0 => rfl
  | 1 => rfl
  | 2 => rfl
  | _ + 3 => rfl

theorem mem_of_fmGet {α : Type} {m : FMap α} {k : Nat} {v : α} (h : fmGet m k = some v) : (k, v) ∈ m := by
  by_contra hno
  induction m with
  | nil => cases h
  | cons q rest ih =>
    obtain ⟨j, w⟩ := q
    obtain ⟨hne, hrest⟩ := not_or.1 (List.mem_cons.not.1 hno)
    simp only [fmGet] at h
    split at h
    · cases h
    · split at h
      · rename_i hk
        cases h
        exact hne (by rw [hk])
      · exact ih h hrest

/-- A partition that the limiter touches. -/
def Partition.slowed (p : Partition) : Partition := { p with frame := { p.frame with limited := true } }

/-- What the limiter does to a partition that it touches (14 R392, R395). -/
def State.limitPart (s : State) (pid : Nat) : State :=
  let t := (s.logEv 0x0902 pid noUnit 0).updFrame pid fun f => { f with limited := true }
  match t.part pid with
  | some p => t.updFunc p.hostDie p.fn fun x => { x with pwrEvents := x.pwrEvents ||| 1 }
  | none => t

theorem limitPart_part (s : State) (pid j : Nat) :
    (s.limitPart pid).part j = (s.part j).map fun p => if j = pid then p.slowed else p := by
  have hlog : Noted s (s.logEv 0x0902 pid noUnit 0) := logEv_noted s (by decide) ..
  have hparts : (s.limitPart pid).parts = ((s.logEv 0x0902 pid noUnit 0).updFrame pid fun f => { f with limited := true }).parts := by
    unfold State.limitPart
    simp only
    split <;> rfl
  rw [State.part, hparts]
  by_cases hj : j = pid
  · subst hj
    simp only [if_true]
    exact (State.updPart_part_self ..).trans (congrArg _ (hlog.part j))
  · simp only [hj, if_false, Option.map_id']
    exact (State.updPart_part_ne _ _ hj).trans (hlog.part j)

theorem foldl_limitPart (l : List Nat) (s : State) (j : Nat) :
    (l.foldl State.limitPart s).part j = (s.part j).map fun p => if j ∈ l then p.slowed else p := by
  induction l generalizing s with
  | nil => simp
  | cons pid rest ih =>
    rw [List.foldl_cons, ih, limitPart_part, Option.map_map]
    congr 1
    funext p
    by_cases hj : j = pid
    · simp [hj, Partition.slowed]
    · simp [hj]

/-- The bit of an event on a function. -/
def State.eventBit (s : State) (h k n : Nat) : Bool := (s.func h k).pwrEvents.getLsbD n

theorem updFunc_eventBit (s : State) (h k a b n : Nat) (f : Func → Func)
    (hf : ∀ x : Func, x.pwrEvents.getLsbD n = true → (f x).pwrEvents.getLsbD n = true) (hb : s.eventBit a b n = true) :
    (s.updFunc h k f).eventBit a b n = true := by
  unfold State.eventBit at hb ⊢
  rw [State.func_updFunc]
  split
  · exact hf _ hb
  · exact hb

theorem logEv_eventBit (s : State) {code : Nat} (hc : code < 4096) (part : Nat) (u : LogUnit) (d a b n : Nat)
    (hb : s.eventBit a b n = true) : (s.logEv code part u d).eventBit a b n = true := by
  have h0 : code / 4096 = 0 := Nat.div_eq_of_lt hc
  have hnote (t : State) (k : Nat) (ht : t.eventBit a b n = true) : (t.noteEntry code part k).eventBit a b n = true := by
    unfold State.noteEntry
    simp only [h0, if_true]
    rw [if_neg (by decide)]
    split
    · exact ht
    · exact updFunc_eventBit _ _ _ _ _ _ _ (fun _ h => h) ht
  unfold State.logEv
  simp only
  split
  · exact hnote _ _ hb
  · exact hnote _ _ hb

theorem limitPart_framed (s : State) (pid : Nat) : Framed s (s.limitPart pid) := by
  unfold State.limitPart
  simp only
  split
  · exact (logEv_framed s 0x0902 pid noUnit 0 []).trans ((updFrame_framed ..).trans (updFunc_noted ..).framed)
  · exact (logEv_framed s 0x0902 pid noUnit 0 []).trans (updFrame_framed ..)

theorem limitPart_eventBit (s : State) (pid : Nat) (hb : s.eventBit 0 0 0 = true) : (s.limitPart pid).eventBit 0 0 0 = true := by
  have hlog := logEv_eventBit s (code := 0x0902) (by decide) pid noUnit 0 0 0 0 hb
  have hframe (f : Frame → Frame) : ((s.logEv 0x0902 pid noUnit 0).updFrame pid f).eventBit 0 0 0 = true := by
    simpa [State.eventBit, State.func, State.endpoint] using hlog
  unfold State.limitPart
  simp only
  split
  · exact updFunc_eventBit _ _ _ _ _ _ _ (fun x _ => by simp) (hframe _)
  · exact hframe _

end Sys2Proof.Machine

namespace Sys2Proof.Machine

section
variable {s : State} {a : Nat}

theorem fastLimiter_idle (h : a ≤ Claims.capWatts s.power.cls ∨ s.power.limiter ≠ none) :
    exec (.fastLimiter a) s = .next { s with power := { s.power with a20 := a } } := by
  have hc : a ≤ classLimit s.power.cls ∨ s.power.limiter.isSome = true := by
    rwa [classLimit_eq, ← Option.ne_none_iff_isSome]
  exact congrArg Host.Outcome.next (if_pos hc)

/-- The part as the limiter starts to act on regions. -/
def State.limiterOn (s : State) (a : Nat) (rs : List Nat) : State :=
  let t : State := { s with power := { s.power with a20 := a, limiter := some rs } }
  (t.updFunc 0 0 fun x => { x with pwrEvents := x.pwrEvents ||| 1 }).updFunc 1 0 fun x => { x with pwrEvents := x.pwrEvents ||| 1 }

theorem fastLimiter_acts (hover : Claims.capWatts s.power.cls < a) (hno : s.power.limiter = none) :
    exec (.fastLimiter a) s = .next ((s.touched s.limiterChoice).foldl State.limitPart (s.limiterOn a s.limiterChoice)) := by
  have hc : ¬(a ≤ classLimit s.power.cls ∨ s.power.limiter.isSome = true) := by
    rw [classLimit_eq, hno]
    simpa using hover
  exact congrArg Host.Outcome.next (if_neg hc)

/-- Every region of a fast running partition is chosen, and the partition is touched. -/
theorem limiterChoice_fast {pid : Nat} {p : Partition} (hp : s.part pid = some p) (hst : p.state = .running)
    (hfast : Claims.capStep s.power.cls < p.step) :
    (∀ d ∈ p.tiles, ∀ k < 6, 6 * d + k ∈ s.limiterChoice) ∧ (p.tiles ≠ [] → pid ∈ s.touched s.limiterChoice) := by
  have hmem := mem_of_fmGet hp
  have hin : (pid, p) ∈ s.parts.filter fun q => q.2.state == .running && decide (classStep s.power.cls < q.2.step) := by
    rw [List.mem_filter]
    refine ⟨hmem, ?_⟩
    rw [classStep_eq]
    simp [hst, hfast]
  have hregion (d : Nat) (hd : d ∈ p.tiles) (k : Nat) (hk : k < 6) : 6 * d + k ∈ runningRegions (pid, p) := by
    unfold runningRegions
    rw [if_pos hst]
    exact List.mem_flatMap.2 ⟨d, hd, List.mem_map_of_mem (List.mem_range.2 hk)⟩
  have hchosen (d : Nat) (hd : d ∈ p.tiles) (k : Nat) (hk : k < 6) : 6 * d + k ∈ s.limiterChoice := by
    unfold State.limiterChoice
    simp only
    split
    · rename_i hempty
      rw [List.isEmpty_iff] at hempty
      rw [hempty] at hin
      cases hin
    · exact List.mem_flatMap.2 ⟨_, hin, hregion d hd k hk⟩
  refine ⟨hchosen, fun hne => ?_⟩
  obtain ⟨d, hd⟩ := List.exists_mem_of_ne_nil _ hne
  refine List.mem_map.2 ⟨(pid, p), List.mem_filter.2 ⟨hmem, ?_⟩, rfl⟩
  exact List.any_eq_true.2 ⟨_, hregion d hd 0 (by decide), List.contains_iff_mem.2 (hchosen d hd 0 (by decide))⟩

theorem fastLimiter_limits (hover : Claims.capWatts s.power.cls < a) (hno : s.power.limiter = none) :
    ∃ t rs, exec (.fastLimiter a) s = .next t ∧ t.power.limiter = some rs ∧ t.power.a20 = a ∧
      (t.func 0 0).pwrEvents.getLsbD 0 = true ∧
      ∀ pid p, s.part pid = some p → p.state = .running → Claims.capStep s.power.cls < p.step → p.tiles ≠ [] →
        (∀ d ∈ p.tiles, ∀ k < 6, 6 * d + k ∈ rs) ∧ ∃ q, t.part pid = some q ∧ q.frame.limited = true ∧
          { q with frame := p.frame } = p := by
  let u := s.limiterOn a s.limiterChoice
  have hframed : Framed u ((s.touched s.limiterChoice).foldl State.limitPart u) := .foldl _ _ limitPart_framed
  have hu : u.eventBit 0 0 0 = true := by
    refine updFunc_eventBit _ _ _ _ _ _ _ (fun x _ => by simp) ?_
    simp [State.eventBit]
  have hbit : ((s.touched s.limiterChoice).foldl State.limitPart u).eventBit 0 0 0 = true :=
    List.foldlRecOn _ _ (motive := fun t : State => t.eventBit 0 0 0 = true) hu fun t ht pid _ => limitPart_eventBit t pid ht
  refine ⟨_, _, fastLimiter_acts hover hno, congrArg Power.limiter hframed.power, congrArg Power.a20 hframed.power, hbit,
    fun pid p hp hst hfast hne => ?_⟩
  obtain ⟨hregions, htouched⟩ := limiterChoice_fast hp hst hfast
  have hpart : u.part pid = some p := hp
  refine ⟨hregions, p.slowed, ?_, rfl, rfl⟩
  rw [foldl_limitPart, hpart]
  simp [htouched hne]

theorem limiterStop_idle (ns : Nat) (h : s.power.limiter = none ∨ 98 * Claims.capWatts s.power.cls ≤ 100 * a) :
    exec (.limiterStop a ns) s = .next { s with power := { s.power with a20 := a } } := by
  change execLimiterStop a ns s = _
  unfold execLimiterStop
  simp only
  split
  · rfl
  · rename_i rs hl
    have hc : 98 * classLimit s.power.cls ≤ 100 * a := by
      rw [classLimit_eq]
      exact h.resolve_left (by simp [hl])
    rw [if_pos hc]

theorem limiterStop_stops (ns : Nat) (hon : s.power.limiter ≠ none) (hlow : 100 * a < 98 * Claims.capWatts s.power.cls) :
    ∃ t, exec (.limiterStop a ns) s = .next t ∧ t.power.limiter = none ∧ t.power.a20 = a ∧ t.mem = s.mem := by
  obtain ⟨rs, hl⟩ := Option.ne_none_iff_exists'.1 hon
  have hc : ¬98 * classLimit s.power.cls ≤ 100 * a := by rwa [classLimit_eq, Nat.not_le]
  let u : State := { s with power := { s.power with a20 := a } }
  let b := (u.touched rs).foldl (fun (s : State) pid => s.updFrame pid fun f => { f with limited := true }) u
  let c := rs.foldl (fun (s : State) r => s.addStretch r (ns / 9)) b
  have hframed : Framed u c := (Framed.foldl _ u fun t pid => updFrame_framed ..).trans (.foldl _ b fun t r => addStretch_framed ..)
  have hexec : exec (.limiterStop a ns) s = .next { c with power := { c.power with limiter := none } } := by
    change execLimiterStop a ns s = _
    unfold execLimiterStop
    simp only
    split
    · rename_i hno
      exact absurd hno hon
    · rename_i rs' hl'
      cases hl.symm.trans hl'
      rw [if_neg hc]
  exact ⟨_, hexec, rfl, congrArg Power.a20 hframed.power, hframed.mem⟩

/-! ### RESERVATION_EXPIRY (14 R390) -/

theorem reservationExpiry_none {pid : Nat} (h : ∀ r ∈ s.power.reservations, r.part ≠ pid) :
    exec (.reservationExpiry pid) s = .next s := by
  have hfind : s.power.reservations.find? (fun r => r.part == pid) = none := List.find?_eq_none.2 fun r hr => by simpa using h r hr
  change execReservationExpiry pid s = _
  simp [execReservationExpiry, hfind]

theorem reservationExpiry_drops {pid : Nat} (h : ∃ r ∈ s.power.reservations, r.part = pid) :
    ∃ t, exec (.reservationExpiry pid) s = .next t ∧
      t.power.reservations.length + 1 = s.power.reservations.length ∧ { t with power := s.power } = s ∧
      t.power.reservations.filter (fun r => r.part != pid) = s.power.reservations.filter fun r => r.part != pid := by
  obtain ⟨x, hx, hpart⟩ := h
  have hsome : (s.power.reservations.find? fun r => r.part == pid).isSome = true := List.find?_isSome.2 ⟨x, hx, by simpa using hpart⟩
  obtain ⟨r, hr⟩ := Option.isSome_iff_exists.1 hsome
  have hmem := List.mem_of_find?_eq_some hr
  have hrpart : r.part = pid := by simpa using List.find?_some hr
  refine ⟨{ s with power := { s.power with reservations := s.power.reservations.erase r } }, ?_, ?_, rfl, ?_⟩
  · change execReservationExpiry pid s = _
    simp [execReservationExpiry, hr]
  · have hpos := List.length_pos_of_mem hmem
    rw [List.length_erase_of_mem hmem]
    omega
  · have hnot : r ∉ s.power.reservations.filter fun r => r.part != pid := by simp [hrpart]
    exact (List.erase_filter ..).symm.trans (List.erase_of_not_mem hnot)

/-! ### SUPPLY_DROOP (14 R376, R378) -/

section
variable {r pid l : Nat} {p : Partition} (ho : s.regionOwner r = some (pid, l)) (hp : s.part pid = some p)
include ho hp

theorem exec_supplyDroop (pct n : Nat) : exec (.supplyDroop r pct n false) s =
    .next (s.addStretch r (n * Nat.min pct 8 * 125 / p.step)) := by
  change execSupplyDroop r pct n false s = _
  simp [execSupplyDroop, ho, hp]

theorem supplyDroop_low (hst : p.state = .running) (pct n : Nat) :
    ∃ t, exec (.supplyDroop r pct n true) s = .next t ∧ Claims.FatalAt t pid ∧ r ∈ t.power.gated := by
  let u : State := { s with power := { s.power with gated := r :: s.power.gated } }
  have hup : u.part pid = some p := hp
  have hexec : exec (.supplyDroop r pct n true) s = .next (u.raiseFatal pid 0x1905 (regionUnit r l) 0 (u.presentCycle pid)) := by
    change execSupplyDroop r pct n true s = _
    simp [execSupplyDroop, ho, hp, u]
  refine ⟨_, hexec, raiseFatal_fatal hup hst .., ?_⟩
  rw [(raiseFatal_reports ..).power]
  exact List.mem_cons_self

end

end

end Sys2Proof.Machine

/-! # Faults of the whole part, of domains and of generators (18 R487, R488; 14 R379, R386, R393, R394) -/

namespace Sys2Proof.Machine

/-! ### Partitions that a fault takes -/

/-- A partition-fatal fault leaves the partition FAULTED and without keys (18 R487). -/
theorem faultPart_faulted {s : State} {pid : Nat} {p : Partition} (hp : s.part pid = some p) (mark : Nat) :
    Claims.FaultedAt (s.faultPart pid mark) pid := by
  obtain ⟨q, hq, _⟩ := (abortWaiting_spares (pid := pid) (quiet := False) s mark stAborted).exists_part hp
  unfold State.faultPart
  simp only [hp]
  refine ⟨{ q with keys := false, jobSecret := none, state := .faulted }, ?_, rfl, rfl, rfl⟩
  rw [State.part, setCause_parts, recordPart_parts]
  refine (State.updPart_part_self ..).trans ?_
  rw [State.part, stopUnits_parts]
  exact congrArg (Option.map _) ((State.updPart_part_self ..).trans (congrArg _ hq))

/-- A step that works on one partition and takes it where it exists. -/
structure Faulting (f : State → Nat → State) : Prop where
  spares : ∀ s pid, Spares pid False s (f s pid)
  hits : ∀ s pid p, s.part pid = some p → Claims.FaultedAt (f s pid) pid

namespace Faulting

variable {f : State → Nat → State} (h : Faulting f)
include h

theorem stays {s : State} {j : Nat} (hj : Claims.FaultedAt s j) (pid : Nat) : Claims.FaultedAt (f s pid) j := by
  obtain ⟨q, hq, hrest⟩ := hj
  by_cases he : j = pid
  · subst he
    exact h.hits s j q hq
  · exact ⟨q, ((h.spares s pid).others j he).trans hq, hrest⟩

/-- Taking every partition of a list leaves each of them taken. -/
theorem foldl {l : List Nat} {s : State} {j : Nat} {p : Partition} (hp : s.part j = some p) (hj : j ∈ l) :
    Claims.FaultedAt (l.foldl f s) j := by
  induction l generalizing s p with
  | nil => cases hj
  | cons pid rest ih =>
    rcases List.mem_cons.1 hj with rfl | hmem
    · exact List.foldlRecOn rest f (motive := (Claims.FaultedAt · j)) (h.hits s j p hp) fun t ht a _ => h.stays ht a
    · obtain ⟨q, hq, _⟩ := (h.spares s pid).exists_part hp
      exact ih hq hmem

theorem foldl_power (l : List Nat) (s : State) : (l.foldl f s).power = s.power :=
  List.foldlRecOn l f (motive := fun t : State => t.power = s.power) rfl fun t ht a _ => (h.spares t a).power.trans ht

end Faulting

theorem faultPart_faulting (mark : Nat) : Faulting fun s pid => s.faultPart pid mark :=
  ⟨fun s _ => faultPart_spares s mark, fun _ _ _ hp => faultPart_faulted hp mark⟩

theorem partitionFatal_faulting (code : Nat) (u : LogUnit) (detail : Nat) :
    Faulting fun s pid => s.partitionFatal pid code u detail [] where
  spares s _ := (logEv_spares s code u detail []).trans (faultPart_spares ..)
  hits s pid p hp := by
    obtain ⟨q, hq, _⟩ := (logEv_spares (pid := pid) (quiet := False) s code u detail []).exists_part hp
    exact faultPart_faulted hq _

theorem faultEach_faulted {s : State} {l : List Nat} {j : Nat} {p : Partition} (hp : s.part j = some p) (hj : j ∈ l) (code : Nat)
    (u : LogUnit) (detail : Nat) : Claims.FaultedAt (s.faultEach l code u detail) j := by
  cases l with
  | nil => cases hj
  | cons a rest => exact (partitionFatal_faulting code u detail).foldl hp hj

theorem faultEach_power (s : State) (l : List Nat) (code : Nat) (u : LogUnit) (detail : Nat) :
    (s.faultEach l code u detail).power = s.power := by
  cases l with
  | nil => exact (logEv_framed ..).power
  | cons a rest => exact (partitionFatal_faulting code u detail).foldl_power ..

/-! ### A part-fatal fault (18 R488) -/

theorem logEv_exists_part (s : State) (code part : Nat) (u : LogUnit) (d : Nat) {j : Nat} {p : Partition}
    (hp : s.part j = some p) : ∃ q, (s.logEv code part u d).part j = some q :=
  let ⟨q, hq, _⟩ := (logEv_spares (pid := part) (quiet := False) s code u d []).exists_part hp
  ⟨q, hq⟩

theorem notice_noted (s : State) (n kind owner fault : Nat) : Noted s (s.notice n kind owner fault) :=
  emit_noted ..

/-- The part with nothing in it running any more. -/
def State.unpowered (s : State) (code : Nat) : State :=
  { s with
    boot := { s.boot with fatal := some (BitVec.ofNat 16 code) }
    pins := { s.pins with pwrOk := false, fault := true }
    power := { s.power with tilesOn := [], awake := [] }
    dies := [], tx := []
    ports := (List.range 64).map fun q => (q, { s.port q with state := .off }) }

theorem partDown_noted (s : State) (code mark : Nat) :
    Noted (((s.parts.map Prod.fst).foldl (fun s pid => s.faultPart pid mark) s).unpowered code) (s.partDown code mark) := by
  unfold State.partDown
  simp only [List.foldl_map]
  refine .trans (.foldl _ _ fun t q => notice_noted ..) (.foldl _ _ fun t h => ?_)
  split
  · exact emit_noted ..
  · exact .refl t

theorem logEv_boot (s : State) (code part : Nat) (u : LogUnit) (d : Nat) : (s.logEv code part u d).boot = s.boot :=
  (logEv_framed s code part u d []).boot

theorem abortWaiting_framed (s : State) (pid mark : Nat) (st : Byte) : Framed s (s.abortWaiting pid mark st) := by
  unfold State.abortWaiting
  split
  · exact .refl s
  · exact (Noted.foldl _ _ fun t r => complete_noted ..).framed.trans (updPart_framed ..)

theorem faultPart_boot (s : State) (pid mark : Nat) : (s.faultPart pid mark).boot = s.boot := by
  have hstop (t : State) : (t.stopUnits pid).boot = t.boot := by
    unfold State.stopUnits
    split <;> rfl
  have hrecord (t : State) : (t.recordPart pid).boot = t.boot := by
    unfold State.recordPart
    split <;> rfl
  unfold State.faultPart
  split
  · rfl
  · simp only [(setCause_noted ..).boot, hrecord, (updPart_framed ..).boot, hstop, State.destroyKeys, (abortWaiting_framed ..).boot]

/-- What a part-fatal fault leaves (18 R488). -/
theorem partDown_leaves (s : State) (code mark : Nat) :
    (s.partDown code mark).boot = { s.boot with fatal := some (BitVec.ofNat 16 code) } ∧ (s.partDown code mark).pins.pwrOk = false ∧
      ∀ pid p, s.part pid = some p → Claims.FaultedAt (s.partDown code mark) pid := by
  have hnoted := partDown_noted s code mark
  have hboot : ((s.parts.map Prod.fst).foldl (fun s pid => s.faultPart pid mark) s).boot = s.boot :=
    List.foldlRecOn _ _ (motive := fun t : State => t.boot = s.boot) rfl fun t ht pid _ => (faultPart_boot t pid _).trans ht
  refine ⟨hnoted.boot.trans ?_, congrArg Pins.pwrOk hnoted.framed.pins, fun pid p hp => ?_⟩
  · exact congrArg (fun b : Boot => { b with fatal := some (BitVec.ofNat 16 code) }) hboot
  · have hin : pid ∈ s.parts.map Prod.fst := List.mem_map.2 ⟨(pid, p), mem_of_fmGet hp, rfl⟩
    obtain ⟨x, hx, hrest⟩ := (faultPart_faulting mark).foldl hp hin
    exact ⟨x, (hnoted.part pid).trans hx, hrest⟩

theorem partFatal_leaves (s : State) (code part : Nat) (u : LogUnit) (d : Nat) :
    (s.partFatal code part u d).boot = { s.boot with fatal := some (BitVec.ofNat 16 code) } ∧
      (s.partFatal code part u d).pins.pwrOk = false ∧
      ∀ pid, (s.part pid).isSome = true → Claims.FaultedAt (s.partFatal code part u d) pid := by
  obtain ⟨hboot, hpwr, hfaulted⟩ := partDown_leaves (s.logEv code part u d) code s.log.next
  rw [logEv_boot] at hboot
  refine ⟨hboot, hpwr, fun pid hpid => ?_⟩
  obtain ⟨p, hp⟩ := Option.isSome_iff_exists.1 hpid
  obtain ⟨q, hq⟩ := logEv_exists_part s code part u d hp
  exact hfaulted pid q hq

theorem partFatal_power (s : State) (code part : Nat) (u : LogUnit) (d : Nat) :
    (s.partFatal code part u d).power = { s.power with tilesOn := [], awake := [] } := by
  have hfold := (faultPart_faulting s.log.next).foldl_power ((s.logEv code part u d).parts.map Prod.fst) (s.logEv code part u d)
  refine (partDown_noted (s.logEv code part u d) code s.log.next).power.trans ?_
  exact congrArg (fun w : Power => { w with tilesOn := [], awake := [] }) (hfold.trans (logEv_framed s code part u d []).power)

end Sys2Proof.Machine

namespace Sys2Proof.Machine

/-! ### DOMAIN_FAULT (14 R386) -/

/-- The partitions that a fault of a domain takes. -/
def State.domainOwners (s : State) (d : Domain) : List Nat :=
  match d with
  | .host h => (s.parts.filter fun q => q.2.hostDie == h).map (·.1)
  | _ => (s.parts.filter fun q => q.2.tiles.any fun t => (domainTiles s.model d).contains t).map (·.1)

theorem mem_domainOwners {s : State} {d : Domain} {pid : Nat} {p : Partition} (hp : s.part pid = some p)
    (hhit : Claims.hitBy s d p) : pid ∈ s.domainOwners d := by
  have hmem (f : Nat × Partition → Bool) (hf : f (pid, p) = true) : pid ∈ (s.parts.filter f).map (·.1) :=
    List.mem_map.2 ⟨(pid, p), List.mem_filter.2 ⟨mem_of_fmGet hp, hf⟩, rfl⟩
  have htile (h : ∃ t ∈ p.tiles, t ∈ domainTiles s.model d) : (p.tiles.any fun t => (domainTiles s.model d).contains t) = true := by
    obtain ⟨t, ht, hd⟩ := h
    exact List.any_eq_true.2 ⟨t, ht, List.contains_iff_mem.2 hd⟩
  cases d with
  | host h => exact hmem _ (beq_iff_eq.2 hhit)
  | _ => exact hmem _ (htile hhit)

/-- The part when the partitions of a domain have been taken; `n` names the domain in the log. -/
def State.domainTaken (s : State) (d : Domain) (u : LogUnit) (n : Nat) : State :=
  ({ s with free := s.free + 1, power := { s.power with off := d :: s.power.off } }.degrade (domainTiles s.model d)).faultEach
    (s.domainOwners d) 0x2906 u n

theorem domainTaken_takes (s : State) (d : Domain) (u : LogUnit) (n : Nat) :
    d ∈ (s.domainTaken d u n).power.off ∧ (∀ x ∈ domainTiles s.model d, x ∈ (s.domainTaken d u n).power.degraded) ∧
      ∀ pid p, s.part pid = some p → Claims.hitBy s d p → Claims.FaultedAt (s.domainTaken d u n) pid := by
  have hpower := faultEach_power ({ s with free := s.free + 1, power := { s.power with off := d :: s.power.off } }.degrade
    (domainTiles s.model d)) (s.domainOwners d) 0x2906 u n
  refine ⟨?_, fun x hx => ?_, fun pid p hp hhit => ?_⟩
  · exact (congrArg (d ∈ ·.off) hpower).mpr List.mem_cons_self
  · refine (congrArg (x ∈ ·.degraded) hpower).mpr ?_
    by_cases hold : x ∈ s.power.degraded
    · exact List.mem_append_left _ hold
    · exact List.mem_append_right _ (List.mem_filter.2 ⟨hx, by simpa using hold⟩)
  · exact faultEach_faulted (s := ({ s with free := s.free + 1, power := { s.power with off := d :: s.power.off } }.degrade
      (domainTiles s.model d))) hp (mem_domainOwners hp hhit) ..

theorem dropDie_port (s : State) (f : Nat) {k : Nat} (hk : k < 4) : ((s.dropDie f).port (4 * f + k)).state = .off := by
  have hports : (s.dropDie f).ports = [0, 1, 2, 3].foldl (fun (ps : FMap Port) k =>
      fmSet ps (4 * f + k) { s.port (4 * f + k) with state := .off }) s.ports := rfl
  unfold State.port fmGetD
  rw [hports]
  match k, hk with
  | 0, _ | 1, _ | 2, _ | 3, _ => simp [List.foldl, fmGet_fmSet_ne]

theorem domainFault_none {s : State} {d : Domain} (hd : hasDomain s.model d = false) : exec (.domainFault d) s = .next s := by
  change execDomainFault d s = _
  simp [execDomainFault, hd]

theorem domainFault_takes {s : State} {d : Domain} (hd : hasDomain s.model d = true) :
    ∃ t, exec (.domainFault d) s = .next t ∧ d ∈ t.power.off ∧
      (∀ x ∈ domainTiles s.model d, x ∈ t.power.degraded) ∧
      (∀ pid p, s.part pid = some p → Claims.hitBy s d p → Claims.FaultedAt t pid) ∧
      (∀ h, d = .host h → (t.endpoint h).linkUp = false) ∧
      ∀ f, d = .fabric f → ∀ k < 4, (t.port (4 * f + k)).state = .off := by
  change ∃ t, execDomainFault d s = _ ∧ _
  unfold execDomainFault
  simp only [hd, Bool.not_true, Bool.false_eq_true, if_false]
  have htaken (u : LogUnit) := domainTaken_takes s d u (s.draw 32 3).1
  cases d with
  | host h =>
    obtain ⟨hoff, hdeg, hparts⟩ := htaken (dieUnit h)
    exact ⟨_, rfl, hoff, hdeg, hparts, fun h' he => by cases he; simp, fun _ he => by cases he⟩
  | fabric f =>
    obtain ⟨hoff, hdeg, hparts⟩ := htaken (fabricUnit f)
    exact ⟨_, rfl, hoff, hdeg, hparts, fun _ he => (by cases he), fun f' he k hk => by cases he; exact dropDie_port _ _ hk⟩
  | stack k =>
    obtain ⟨hoff, hdeg, hparts⟩ := htaken (tileUnit (k / 2))
    exact ⟨_, rfl, hoff, hdeg, hparts, fun _ he => (by cases he), fun _ he => by cases he⟩
  | sram k =>
    obtain ⟨hoff, hdeg, hparts⟩ := htaken (tileUnit (k / 2))
    exact ⟨_, rfl, hoff, hdeg, hparts, fun _ he => (by cases he), fun _ he => by cases he⟩
  | region r =>
    obtain ⟨hoff, hdeg, hparts⟩ := htaken (regionUnit r 0xFFFF)
    exact ⟨_, rfl, hoff, hdeg, hparts, fun _ he => (by cases he), fun _ he => by cases he⟩

/-! ### INPUT_SUPPLY_FAULT and STANDBY_LOSS (14 R394) -/

section
variable {s : State} {mv us : Nat}

theorem inputSupply_destroys (h : 72000 < mv) : exec (.inputSupplyFault mv us) s = .fault .inputAbove72V := if_pos h

theorem inputSupply_inRange (hlow : 40000 ≤ mv) (hhigh : mv ≤ 60000) :
    exec (.inputSupplyFault mv us) s = .next { s with power := { s.power with millivolts := mv } } := by
  change execInputSupplyFault mv us s = _
  have hno : ¬72000 < mv := by omega
  simp [execInputSupplyFault, hno, hlow, hhigh]

theorem inputSupply_short (hlow : 30000 ≤ mv) (hhigh : mv ≤ 72000) (hus : us ≤ 100) (hstep : 4 ≤ s.boot.step) :
    exec (.inputSupplyFault mv us) s = .next { s with power := { s.power with millivolts := mv } } := by
  refine (if_neg (Nat.not_lt.2 hhigh)).trans (congrArg Host.Outcome.next ?_)
  refine ite_eq_left_iff.2 fun _ => ?_
  have hlong : ¬(100 < us ∨ mv < 30000 ∧ (({ s with power := { s.power with millivolts := mv } } : State).draw 1 4).1 = 1) := by
    rintro (h | ⟨h, _⟩) <;> omega
  exact (if_neg (Nat.not_lt.2 hstep)).trans ((if_neg hlong).trans (if_neg (Nat.not_lt.2 hlow)))

/-- The part when its 48 V are gone (14 R394). -/
def State.supplyLost (s : State) (mv : Nat) : State :=
  { s with power := { s.power with millivolts := mv }, boot := { s.boot with supply48 := false } }

/-- Both endpoints of the part have lost their link. -/
def State.linksDown (s : State) : State :=
  (s.updEp 0 fun e => { e with linkUp := false }).updEp 1 fun e => { e with linkUp := false }

theorem linksDown_boot (s : State) : s.linksDown.boot = s.boot := rfl
theorem linksDown_pins (s : State) : s.linksDown.pins = s.pins := rfl

theorem linksDown_faulted {s : State} {pid : Nat} : Claims.FaultedAt s.linksDown pid ↔ Claims.FaultedAt s pid := .rfl

theorem linksDown_linkUp (s : State) : (s.linksDown.endpoint 0).linkUp = false ∧ (s.linksDown.endpoint 1).linkUp = false := by
  constructor <;> simp [State.linksDown, State.updEp_endpoint_ne]

theorem inputSupply_down (hout : mv < 40000 ∨ 60000 < mv) (hhigh : mv ≤ 72000) (hsup : s.boot.supply48 = true)
    (hstep : 4 ≤ s.boot.step) (hus : 100 < us) : ∃ t, exec (.inputSupplyFault mv us) s = .next t ∧
      t.boot.fatal = some 0x3908 ∧ t.boot.supply48 = false ∧ t.pins.pwrOk = false ∧
      (t.endpoint 0).linkUp = false ∧ (t.endpoint 1).linkUp = false ∧
      ∀ pid, (s.part pid).isSome = true → Claims.FaultedAt t pid := by
  have hexec : exec (.inputSupplyFault mv us) s =
      .next ((s.supplyLost mv).partFatal 0x3908 0xFF controlUnit 0).linksDown := by
    refine (if_neg (Nat.not_lt.2 hhigh)).trans (congrArg Host.Outcome.next ?_)
    refine (if_neg ?_).trans ((if_neg (Nat.not_lt.2 hstep)).trans ((if_pos (.inl hus)).trans ?_))
    · simp only [Bool.and_eq_true, decide_eq_true_eq, hsup, Bool.true_eq_false, or_false]
      omega
    · rw [if_pos hus]
      rfl
  obtain ⟨hboot, hpwr, hfaulted⟩ := partFatal_leaves (s.supplyLost mv) 0x3908 0xFF controlUnit 0
  obtain ⟨h0, h1⟩ := linksDown_linkUp ((s.supplyLost mv).partFatal 0x3908 0xFF controlUnit 0)
  refine ⟨_, hexec, ?_, ?_, ?_, h0, h1, fun pid hpid => linksDown_faulted.2 (hfaulted pid hpid)⟩
  · exact (congrArg Boot.fatal (linksDown_boot _)).trans (congrArg Boot.fatal hboot)
  · exact (congrArg Boot.supply48 (linksDown_boot _)).trans (congrArg Boot.supply48 hboot)
  · rw [linksDown_pins, hpwr]

end

theorem standbyLoss_keeps (s : State) : ∃ t, exec .standbyLoss s = .next t ∧ t.parts = [] ∧ t.sessions = [] ∧ t.owner = none ∧
    t.model = s.model ∧ t.id = s.id ∧ t.nvm = s.nvm ∧ t.log.ring = s.log.ring ∧ t.log.next = s.log.next ∧ t.log.buf = [] ∧
    t.time.state = 0 ∧ t.boot.standby = false ∧ t.serves = false ∧ (∀ a, memGet t.mem a = 0) ∧ t.pending = s.pending :=
  ⟨_, rfl, rfl, rfl, rfl, rfl, rfl, rfl, rfl, rfl, rfl, rfl, rfl, rfl, fun _ => rfl, rfl⟩

/-! ### Clock generators (04 R120, 14 R379) -/

section
variable {s : State} {r : Nat}

theorem stoppedRegion_iff : s.stoppedRegion r = true ↔ ∃ pid, Claims.idleRegion s r pid := by
  unfold State.stoppedRegion Claims.idleRegion
  cases ho : s.regionOwner r with
  | none => simp
  | some x =>
    obtain ⟨pid, l⟩ := x
    cases hp : s.part pid with
    | none => simp [hp]
    | some p => simp [hp, or_assoc]

theorem generatorFault_faulted {pid l : Nat} {p : Partition} (ho : s.regionOwner r = some (pid, l)) (hp : s.part pid = some p) :
    Claims.FaultedAt (s.generatorFault r) pid := by
  unfold State.generatorFault
  simp only [ho]
  exact faultEach_faulted hp List.mem_cons_self ..

theorem regionOwner_part {pid l : Nat} (ho : s.regionOwner r = some (pid, l)) : ∃ p, s.part pid = some p := by
  unfold State.regionOwner at ho
  split at ho
  · cases ho
  · split at ho
    · rename_i p hp
      cases ho
      exact ⟨p, hp⟩
    · cases ho

theorem clockWake_busy (hno : ∀ pid, ¬Claims.idleRegion s r pid) :
    (∀ b, exec (.clockWake r b) s = .next s) ∧ exec (.regionIdleStop r) s = .next s := by
  have hstop : s.stoppedRegion r = false := by
    rw [← Bool.not_eq_true, stoppedRegion_iff]
    exact fun ⟨pid, h⟩ => hno pid h
  exact ⟨fun b => congrArg Host.Outcome.next (if_pos (by simp [hstop])), congrArg Host.Outcome.next (if_neg (by simp [hstop]))⟩

theorem clockWake_idle {pid : Nat} (h : Claims.idleRegion s r pid) :
    (∃ t, exec (.clockWake r true) s = .next t ∧ r ∈ t.power.awake ∧ t.parts = s.parts) ∧
      (∃ t, exec (.clockWake r false) s = .next t ∧ Claims.FaultedAt t pid) ∧
      ∃ t, exec (.regionIdleStop r) s = .next t ∧ r ∉ t.power.awake ∧ { t with power := s.power } = s := by
  have hstop : s.stoppedRegion r = true := stoppedRegion_iff.2 ⟨pid, h⟩
  obtain ⟨l, p, ho, hp, _⟩ := h
  refine ⟨?_, ⟨s.generatorFault r, ?_, generatorFault_faulted ho hp⟩, _, congrArg Host.Outcome.next (if_pos hstop), by simp, rfl⟩
  · change ∃ t, execClockWake r true s = _ ∧ _
    unfold execClockWake
    simp only [hstop, Bool.not_true, Bool.false_eq_true, if_false, if_true]
    split
    · rename_i hin
      exact ⟨s, rfl, List.contains_iff_mem.1 hin, rfl⟩
    · exact ⟨_, rfl, List.mem_cons_self, rfl⟩
  · change execClockWake r false s = _
    simp [execClockWake, hstop]

theorem clockGeneratorFault_absent (h : 96 ≤ r) : exec (.clockGeneratorFault r) s = .next s :=
  congrArg Host.Outcome.next (if_neg (Nat.not_lt.2 h))

theorem clockGeneratorFault_free (h : r < 96) (ho : s.regionOwner r = none) : ∃ t, exec (.clockGeneratorFault r) s = .next t ∧
    (∀ j, j ≠ 0xFF → t.part j = s.part j) ∧ Claims.Logged s t 0x2505 := by
  have hfault : s.generatorFault r = s.logEv 0x2505 0xFF (regionUnit r 0xFFFF) 0 := by
    unfold State.generatorFault
    simp [ho, State.faultEach]
  refine ⟨_, (congrArg Host.Outcome.next (if_pos h)).trans (congrArg _ hfault), ?_, logEv_logged s (by decide) _ _ _⟩
  exact (logEv_spares (pid := 0xFF) (quiet := False) ..).others

theorem clockGeneratorFault_owned (h : r < 96) {pid l : Nat} (ho : s.regionOwner r = some (pid, l)) :
    ∃ t, exec (.clockGeneratorFault r) s = .next t ∧ Claims.FaultedAt t pid := by
  obtain ⟨p, hp⟩ := regionOwner_part ho
  exact ⟨_, congrArg Host.Outcome.next (if_pos h), generatorFault_faulted ho hp⟩

end

end Sys2Proof.Machine

namespace Sys2Proof.Machine

/-! ### THERMAL_SAMPLE (14 R393) -/

theorem dieClass_eq (k : DieKind) : dieClass k = Claims.heatOf k := by cases k <;> rfl

theorem thermalEvent_noted (s : State) (key : Nat) : Noted s (s.thermalEvent key) := by
  unfold State.thermalEvent
  refine .trans ((updFunc_noted ..).trans (updFunc_noted ..)) (.foldl _ _ fun t d => ?_)
  split
  · split
    · exact updFunc_noted ..
    · exact .refl t
  · exact .refl t

/-- The key of a die. -/
def dieKey (k : DieKind) (i : Nat) : Nat := 64 * (dieClass k).1 + i

/-- The part after the warning of a die has been checked. -/
def State.readWarning (s : State) (k : DieKind) (i : Nat) (c : Int) : State :=
  let key := dieKey k i
  let tile := (tileOfDie s.model key).headD 0
  let s : State := { s with power := { s.power with temps := fmSet s.power.temps key c } }
  if (dieClass k).2.1 ≤ c ∧ ¬ s.power.warn.contains key then
    (({ s with power := { s.power with warn := key :: s.power.warn } }).logEv 0x0903 ((s.ownerOf tile).getD 0xFF)
      (if (dieClass k).1 = 3 then fabricUnit i else tileUnit tile) 0).thermalEvent key
  else if c ≤ (dieClass k).2.1 - 5 then { s with power := { s.power with warn := s.power.warn.filter (· != key) } }
  else s

/-- The regions of the tiles of a die that is limited have been slowed over the time since the reading before. -/
def State.slowLimited (s : State) (key : Nat) : State :=
  if s.power.limit.contains key then
    ((tileOfDie s.model key).flatMap fun d => (List.range 6).map (6 * d + ·)).foldl (fun (s : State) r => s.addStretch r 20000) s
  else s

/-- The limiter of a die is noted as on or off. -/
def State.markLimited (s : State) (key : Nat) (hot : Prop) [Decidable hot] : State :=
  if hot then
    if s.power.limit.contains key then s
    else ({ s with power := { s.power with limit := key :: s.power.limit } }).thermalEvent key
  else { s with power := { s.power with limit := s.power.limit.filter (· != key) } }

/-- The part after the limiter of a die has been checked. -/
def State.readLimit (s : State) (k : DieKind) (i : Nat) (c : Int) : State :=
  match (dieClass k).2.2.1 with
  | none => s
  | some l => (s.slowLimited (dieKey k i)).markLimited (dieKey k i) (l ≤ c)

theorem readDie_eq (s : State) (k : DieKind) (i : Nat) (c : Int) :
    s.readDie (k, i, c) = (s.readWarning k i c).readLimit k i c := by
  cases k <;> rfl

/-- Boot state and the set of partitions are as they were. -/
structure Keeps (s t : State) : Prop where
  boot : t.boot = s.boot
  present : ∀ j, (s.part j).isSome = true → (t.part j).isSome = true

theorem Keeps.refl (s : State) : Keeps s s := ⟨rfl, fun _ => id⟩
theorem Keeps.trans {s t u : State} (h : Keeps s t) (k : Keeps t u) : Keeps s u :=
  ⟨k.boot.trans h.boot, fun j hj => k.present j (h.present j hj)⟩
theorem Noted.keeps {s t : State} (h : Noted s t) : Keeps s t := ⟨h.boot, fun j hj => (h.part j).symm ▸ hj⟩

theorem updPart_keeps (s : State) (pid : Nat) (f : Partition → Partition) : Keeps s (s.updPart pid f) where
  boot := (updPart_framed ..).boot
  present j hj := by
    by_cases he : j = pid
    · subst he
      rwa [State.updPart_part_self, Option.isSome_map]
    · rwa [State.updPart_part_ne _ _ he]

theorem addStretch_keeps (s : State) (r ns : Nat) : Keeps s (s.addStretch r ns) := by
  unfold State.addStretch
  split
  · exact .refl s
  · split
    · exact .refl s
    · split
      · exact .refl s
      · simp only
        split
        · exact (updPart_keeps ..).trans ((logOnce_noted _ (by decide) ..).keeps.trans (updPart_keeps ..))
        · exact updPart_keeps ..

section
variable (s : State) (k : DieKind) (i : Nat) (c : Int)

theorem readWarning_reads : Keeps s (s.readWarning k i c) ∧
    (s.readWarning k i c).power.temps = fmSet s.power.temps (dieKey k i) c ∧
    ((dieClass k).2.1 ≤ c → dieKey k i ∈ (s.readWarning k i c).power.warn) ∧
    (c ≤ (dieClass k).2.1 - 5 → dieKey k i ∉ (s.readWarning k i c).power.warn) := by
  unfold State.readWarning
  simp only
  split
  · rename_i hwarm
    have hnoted {u : State} {part : Nat} {x : LogUnit} :
        Noted u ((u.logEv 0x0903 part x 0).thermalEvent (dieKey k i)) := (logEv_noted _ (by decide) ..).trans (thermalEvent_noted ..)
    refine ⟨⟨hnoted.boot, fun j hj => (hnoted.part j).symm ▸ hj⟩, congrArg Power.temps hnoted.power, fun _ => ?_, fun hcold => ?_⟩
    · rw [hnoted.power]
      exact List.mem_cons_self
    · omega
  · rename_i hno
    split
    · exact ⟨⟨rfl, fun _ => id⟩, rfl, fun hwarm => by omega, fun _ => by simp⟩
    · rename_i hmild
      refine ⟨⟨rfl, fun _ => id⟩, rfl, fun hwarm => ?_, fun hcold => absurd hcold hmild⟩
      simpa [hwarm] using hno

theorem slowLimited_reads (key : Nat) : Keeps s (s.slowLimited key) ∧ (s.slowLimited key).power = s.power := by
  unfold State.slowLimited
  split
  · exact ⟨List.foldlRecOn _ _ (motive := Keeps s) (.refl s) fun t ht r _ => ht.trans (addStretch_keeps t r _),
      (Framed.foldl _ _ fun t r => addStretch_framed ..).power⟩
  · exact ⟨.refl s, rfl⟩

theorem markLimited_reads (key : Nat) (hot : Prop) [Decidable hot] : Keeps s (s.markLimited key hot) ∧
    (s.markLimited key hot).power.temps = s.power.temps ∧ (s.markLimited key hot).power.warn = s.power.warn := by
  have hevent := thermalEvent_noted { s with power := { s.power with limit := key :: s.power.limit } } key
  unfold State.markLimited
  split
  · split
    · exact ⟨.refl s, rfl, rfl⟩
    · rw [hevent.power]
      exact ⟨⟨hevent.boot, hevent.keeps.present⟩, rfl, rfl⟩
  · exact ⟨⟨rfl, fun _ => id⟩, rfl, rfl⟩

theorem readLimit_reads : Keeps s (s.readLimit k i c) ∧
    (s.readLimit k i c).power.temps = s.power.temps ∧ (s.readLimit k i c).power.warn = s.power.warn := by
  unfold State.readLimit
  split
  · exact ⟨.refl s, rfl, rfl⟩
  · rename_i l _
    obtain ⟨hslow, hpower⟩ := slowLimited_reads s (dieKey k i)
    obtain ⟨hmark, htemps, hwarn⟩ := markLimited_reads (s.slowLimited (dieKey k i)) (dieKey k i) (l ≤ c)
    exact ⟨hslow.trans hmark, htemps.trans (congrArg Power.temps hpower), hwarn.trans (congrArg Power.warn hpower)⟩

/-- What one reading leaves. -/
theorem readDie_reads : Keeps s (s.readDie (k, i, c)) ∧
    fmGet (s.readDie (k, i, c)).power.temps (dieKey k i) = some c ∧
    ((dieClass k).2.1 ≤ c → dieKey k i ∈ (s.readDie (k, i, c)).power.warn) ∧
    (c ≤ (dieClass k).2.1 - 5 → dieKey k i ∉ (s.readDie (k, i, c)).power.warn) := by
  obtain ⟨hkeeps, htemps, hwarm, hcold⟩ := readWarning_reads s k i c
  obtain ⟨hkeeps', htemps', hwarn'⟩ := readLimit_reads (s.readWarning k i c) k i c
  rw [readDie_eq, hwarn', htemps', htemps]
  exact ⟨hkeeps.trans hkeeps', fmGet_fmSet_self .., hwarm, hcold⟩

end

end Sys2Proof.Machine

namespace Sys2Proof.Machine

/-- A die lies within the part, and its key names its kind. -/
theorem keyClass_dieKey {v : Variant} {k : DieKind} {i : Nat} (h : hasDie v k i = true) : keyClass (dieKey k i) = dieClass k := by
  have hi : i < 64 := by
    cases k <;> simp [hasDie] at h <;> omega
  unfold keyClass dieKey
  rw [Nat.mul_add_div (by decide), Nat.div_eq_of_lt hi]
  cases k <;> rfl

theorem thermalSample_noDie {s : State} {k : DieKind} {i : Nat} (c : Int) (h : hasDie s.model k i = false) :
    ∃ t, exec (.thermalSample [(k, i, c)]) s = .next t ∧ { t with pins := s.pins } = s := by
  change ∃ t, execThermalSample [(k, i, c)] s = _ ∧ _
  simp [execThermalSample, h]

/-- The pin shows whether a die is above its limiter's temperature. -/
def State.showHeat (s : State) : State :=
  let hot := s.power.temps.any fun q => match (keyClass q.1).2.2.1 with
    | some l => decide (l ≤ q.2)
    | none => false
  { s with pins := { s.pins with therm := hot || s.boot.fatal == some 0x3907 } }

/-- What a die at its shutdown temperature does to the part. -/
def State.overheat (s : State) (k : DieKind) (i : Nat) : State :=
  let tile := (tileOfDie s.model (dieKey k i)).headD 0
  if s.boot.fatal = some 0x3907 then s
  else if s.boot.step < 4 then { s with pins := { s.pins with therm := true } }
  else
    let t := s.partFatal 0x3907 ((s.ownerOf tile).getD 0xFF) (if k = .fabric then fabricUnit i else tileUnit tile) 0
    { t with pins := { t.pins with therm := true } }

theorem exec_thermalSample {s : State} {k : DieKind} {i : Nat} (c : Int) (h : hasDie s.model k i = true) :
    exec (.thermalSample [(k, i, c)]) s = .next (
      if (dieClass k).2.2.2 ≤ c then (s.readDie (k, i, c)).overheat k i else (s.readDie (k, i, c)).showHeat) := by
  change execThermalSample [(k, i, c)] s = _
  unfold execThermalSample
  by_cases hc : (dieClass k).2.2.2 ≤ c
  · simp only [List.filter_cons, h, if_true, List.filter_nil, List.find?_cons, hc, decide_true]
    rfl
  · simp only [List.filter_cons, h, if_true, List.filter_nil, List.find?_cons, hc, decide_false, List.find?_nil, if_false]
    rfl

theorem showHeat_therm {s : State} {k : DieKind} {i : Nat} {c x : Int} (hclass : keyClass (dieKey k i) = dieClass k)
    (hread : fmGet s.power.temps (dieKey k i) = some c) (hl : (dieClass k).2.2.1 = some x) (hx : x ≤ c) :
    s.showHeat.pins.therm = true := by
  refine Bool.or_eq_true_iff.2 (.inl (List.any_eq_true.2 ⟨_, mem_of_fmGet hread, ?_⟩))
  simp [hclass, hl, hx]

theorem overheat_power (s : State) (k : DieKind) (i : Nat) :
    (s.overheat k i).power.temps = s.power.temps ∧ (s.overheat k i).power.warn = s.power.warn := by
  unfold State.overheat
  simp only
  split
  · exact ⟨rfl, rfl⟩
  · split
    · exact ⟨rfl, rfl⟩
    · simp only [partFatal_power, and_self]

theorem overheat_therm {s : State} (k : DieKind) (i : Nat) (h : s.boot.fatal ≠ some 0x3907) : (s.overheat k i).pins.therm = true := by
  unfold State.overheat
  simp only [h, if_false]
  split <;> rfl

theorem overheat_fatal {s : State} (k : DieKind) (i : Nat) (hstep : 4 ≤ s.boot.step) (h : s.boot.fatal ≠ some 0x3907) :
    (s.overheat k i).boot.fatal = some 0x3907 ∧ ∀ pid, (s.part pid).isSome = true → Claims.FaultedAt (s.overheat k i) pid := by
  have heq : ∃ part u, (s.overheat k i).boot = (s.partFatal 0x3907 part u 0).boot ∧
      (s.overheat k i).parts = (s.partFatal 0x3907 part u 0).parts := by
    unfold State.overheat
    simp only [h, Nat.not_lt.2 hstep, if_false]
    exact ⟨_, _, rfl, rfl⟩
  obtain ⟨part, u, hboot, hparts⟩ := heq
  obtain ⟨hfatal, _, hfaulted⟩ := partFatal_leaves s 0x3907 part u 0
  refine ⟨congrArg Boot.fatal (hboot.trans hfatal), fun pid hpid => ?_⟩
  obtain ⟨q, hq, hrest⟩ := hfaulted pid hpid
  exact ⟨q, (congrArg (fmGet · pid) hparts).trans hq, hrest⟩

theorem thermalSample_reads {s : State} {k : DieKind} {i : Nat} (c : Int) (h : hasDie s.model k i = true) :
    ∃ t, exec (.thermalSample [(k, i, c)]) s = .next t ∧
      (let key := 64 * (Claims.heatOf k).1 + i
      fmGet t.power.temps key = some c ∧ ((Claims.heatOf k).2.1 ≤ c → key ∈ t.power.warn) ∧
        (c ≤ (Claims.heatOf k).2.1 - 5 → key ∉ t.power.warn)) ∧
      (∀ x, (Claims.heatOf k).2.2.1 = some x → x ≤ c → t.pins.therm = true ∨ s.boot.fatal = some 0x3907) ∧
      (c < (Claims.heatOf k).2.2.2 → t.boot = s.boot) ∧
      ((Claims.heatOf k).2.2.2 ≤ c → 4 ≤ s.boot.step → s.boot.fatal ≠ some 0x3907 → t.boot.fatal = some 0x3907 ∧
        t.pins.therm = true ∧ ∀ pid, (s.part pid).isSome = true → Claims.FaultedAt t pid) := by
  obtain ⟨hkeeps, hreads⟩ := readDie_reads s k i c
  have hexec := exec_thermalSample c h
  rw [← dieClass_eq]
  by_cases hc : (dieClass k).2.2.2 ≤ c
  · rw [if_pos hc] at hexec
    obtain ⟨htemps, hwarn⟩ := overheat_power (s.readDie (k, i, c)) k i
    rw [← htemps, ← hwarn] at hreads
    refine ⟨_, hexec, hreads, fun x _ _ => ?_, fun hlt => absurd hc (not_le.2 hlt), fun _ hstep hfatal => ?_⟩
    · by_cases hfatal : s.boot.fatal = some 0x3907
      · exact .inr hfatal
      · exact .inl (overheat_therm k i (hkeeps.boot ▸ hfatal))
    · rw [← hkeeps.boot] at hstep hfatal
      obtain ⟨hf, hparts⟩ := overheat_fatal k i hstep hfatal
      exact ⟨hf, overheat_therm k i hfatal, fun pid hpid => hparts pid (hkeeps.present pid hpid)⟩
  · rw [if_neg hc] at hexec
    exact ⟨_, hexec, hreads, fun x hx hle => .inl (showHeat_therm (keyClass_dieKey h) hreads.1 hx hle), fun _ => hkeeps.boot,
      fun hle => absurd hle hc⟩

/-! ### PowerAndClocks -/

/-- Settles O58: one lemma per case of the limiter, the sensors, the droop, the domains, the supplies and the generators. -/
theorem powerAndClocks : Obligations.PowerAndClocks := by
  refine ⟨fun s a => ⟨fastLimiter_idle, fastLimiter_limits, fun ns => ⟨limiterStop_idle ns, limiterStop_stops ns⟩⟩,
    fun s pid => ⟨reservationExpiry_none, reservationExpiry_drops⟩, fun s r pct n pid l p ho hp => ⟨fun hst => ?_, fun hst => ⟨?_, ?_⟩⟩,
    fun s k i c => thermalSample_noDie c, fun s k i c => thermalSample_reads c, fun s d => domainFault_none,
    fun s d => domainFault_takes, fun s mv us => ⟨inputSupply_destroys, inputSupply_inRange, inputSupply_short, inputSupply_down⟩,
    standbyLoss_keeps, fun s r => ⟨fun pid => clockWake_idle, clockWake_busy, clockGeneratorFault_absent,
      fun h => ⟨clockGeneratorFault_free h, fun pid l => clockGeneratorFault_owned h⟩⟩⟩
  · rw [exec_supplyDroop ho hp, addStretch_idle ho hp hst]
  · obtain ⟨⟨q, hq, hcount⟩, hothers⟩ := addStretch_running ho hp hst (n * Nat.min pct 8 * 125 / p.step)
    exact ⟨_, q, exec_supplyDroop ho hp pct n, hq, hcount, hothers, (addStretch_framed ..).mem⟩
  · exact supplyDroop_low ho hp hst pct n

end Sys2Proof.Machine

/-! # What running the blocks of a partition leaves of its schedule -/

namespace Sys2Proof.Machine

/-- What the blocks of a partition do not touch: its fabric time, the packets that wait for their landing, and the Exposure
that step 7 is to start. -/
def Partition.schedule (p : Partition) : Option FTime × List Landed × Option (Nat × Nat × Bool) :=
  (p.ftime, p.landing, p.frame.starting)

/-- The schedule of a partition of the part. -/
def State.schedule (s : State) (j : Nat) : Option (Option FTime × List Landed × Option (Nat × Nat × Bool)) :=
  (s.part j).map Partition.schedule

section
variable {s t : State} {j : Nat}

theorem schedule_of_parts (h : t.parts = s.parts) : t.schedule j = s.schedule j := by
  unfold State.schedule State.part
  rw [h]

theorem Reports.schedule (h : Reports s t) : t.schedule j = s.schedule j := by
  have hq := congrArg (Option.map Partition.schedule) (h.part j)
  rw [Option.map_map, Option.map_map] at hq
  exact hq

@[simp] theorem ite_schedule {c : Prop} [Decidable c] : (if c then s else t).schedule j = if c then s.schedule j else t.schedule j :=
  apply_ite (State.schedule · j) ..

@[simp] theorem foldl_schedule {α : Type} {f : State → α → State} (l : List α) (s : State)
    (hf : ∀ t a, (f t a).schedule j = t.schedule j) : (l.foldl f s).schedule j = s.schedule j :=
  List.foldlRecOn l f (motive := fun t : State => t.schedule j = s.schedule j) rfl fun t ht a _ => (hf t a).trans ht

end

section
variable (s : State) (j : Nat)

@[simp] theorem updBlock_schedule (b : Nat) (f : Block → Block) : (s.updBlock b f).schedule j = s.schedule j := schedule_of_parts rfl
@[simp] theorem setBlock_schedule (b : Nat) (x : Block) : (s.setBlock b x).schedule j = s.schedule j := schedule_of_parts rfl
@[simp] theorem updCell_schedule (c : Nat) (f : Cell → Cell) : (s.updCell c f).schedule j = s.schedule j := schedule_of_parts rfl
@[simp] theorem setCell_schedule (c : Nat) (x : Cell) : (s.setCell c x).schedule j = s.schedule j := schedule_of_parts rfl
@[simp] theorem updRegion_schedule (r : Nat) (f : Region → Region) : (s.updRegion r f).schedule j = s.schedule j := schedule_of_parts rfl
@[simp] theorem updTx_schedule (q : Nat) (f : PortTx → PortTx) : (s.updTx q f).schedule j = s.schedule j := schedule_of_parts rfl
@[simp] theorem write_schedule (a : Nat) (bs : Bytes) : (s.write a bs).schedule j = s.schedule j := schedule_of_parts rfl
@[simp] theorem draw_schedule (w k : Nat) : (s.draw w k).2.schedule j = s.schedule j := schedule_of_parts rfl
@[simp] theorem openCycle_schedule (lo hi k : Nat) : (s.openCycle lo hi k).2.schedule j = s.schedule j := schedule_of_parts rfl

/-- An update of a partition that keeps its schedule. -/
theorem updPart_schedule (pid : Nat) {f : Partition → Partition} (hf : ∀ p, (f p).schedule = p.schedule) :
    (s.updPart pid f).schedule j = s.schedule j := by
  unfold State.schedule
  by_cases h : j = pid
  · subst h
    rw [State.updPart_part_self, Option.map_map]
    exact congrArg (Option.map · _) (funext hf)
  · rw [State.updPart_part_ne _ _ h]

theorem setPart_schedule {pid : Nat} {p q : Partition} (hp : s.part pid = some p) (hq : q.schedule = p.schedule) :
    (s.setPart pid q).schedule j = s.schedule j := by
  unfold State.schedule State.part State.setPart
  by_cases h : j = pid
  · subst h
    rw [fmGet_fmSet_self]
    exact (congrArg some hq).trans (congrArg (Option.map _) hp).symm
  · rw [fmGet_fmSet_ne _ _ h]

theorem updFrame_schedule (pid : Nat) {f : Frame → Frame} (hf : ∀ x, (f x).starting = x.starting) :
    (s.updFrame pid f).schedule j = s.schedule j := updPart_schedule _ _ _ fun p => by simp [Partition.schedule, hf]

/-! ### Reports -/

@[simp] theorem logEv_schedule (code part : Nat) (u : LogUnit) (d : Nat) (cs : List Bytes) :
    (s.logEv code part u d cs).schedule j = s.schedule j := (logEv_reports ..).schedule
@[simp] theorem logOnce_schedule (code part key : Nat) (u : LogUnit) (d : Nat) : (s.logOnce code part key u d).schedule j = s.schedule j :=
  (logOnce_reports ..).schedule
@[simp] theorem raiseFatal_schedule (pid code : Nat) (u : LogUnit) (d t : Nat) : (s.raiseFatal pid code u d t).schedule j = s.schedule j :=
  (raiseFatal_reports ..).schedule
@[simp] theorem blockFatal_schedule (pid b code d t : Nat) : (s.blockFatal pid b code d t).schedule j = s.schedule j :=
  (blockFatal_reports ..).schedule
@[simp] theorem cellFatal_schedule (pid c code d t : Nat) : (s.cellFatal pid c code d t).schedule j = s.schedule j :=
  raiseFatal_schedule ..
@[simp] theorem hazard_schedule (c : Ctx) (k w t e : Nat) : (hazard s c k w t e).schedule j = s.schedule j := (hazard_reports ..).schedule
@[simp] theorem hazardIf_schedule (b : Bool) (c : Ctx) (k w t e : Nat) : (hazardIf b s c k w t e).schedule j = s.schedule j :=
  (hazardIf_reports ..).schedule
@[simp] theorem hazVec_schedule (c : Ctx) (r : BitVec 6) : (hazVec c s r).schedule j = s.schedule j := (hazVec_reports ..).schedule
@[simp] theorem hazDouble_schedule (c : Ctx) (d : Nat) (r : BitVec 6) : (hazDouble c d s r).schedule j = s.schedule j :=
  (hazDouble_reports ..).schedule
@[simp] theorem hazMask_schedule (c : Ctx) (k : BitVec 3) : (hazMask c s k).schedule j = s.schedule j := (hazMask_reports ..).schedule
@[simp] theorem hazPred_schedule (c : Ctx) (t : Nat) : (hazPred s c t).schedule j = s.schedule j := (hazPred_reports ..).schedule

end

end Sys2Proof.Machine

namespace Sys2Proof.Machine

/-! ### Stores and cells -/

section
variable (s : State) (j : Nat)

@[simp] theorem captureReads_schedule (c : Nat) (t : Int) : (s.captureReads c t).schedule j = s.schedule j := by
  unfold State.captureReads
  simp only
  split
  · rfl
  · split <;> simp

@[simp] theorem cellWrite_schedule (c off : Nat) (bs : Bytes) (cyc d st w : Nat) :
    (s.cellWrite c off bs cyc d st w).schedule j = s.schedule j := by
  simp [State.cellWrite]

@[simp] theorem storeWrite_schedule (a : Nat) (bs : Bytes) (cyc d st w : Nat) :
    (s.storeWrite a bs cyc d st w).schedule j = s.schedule j := by
  simp [State.storeWrite]

@[simp] theorem failReads_schedule (pid c bank cyc : Nat) : (failReads s pid c bank cyc).schedule j = s.schedule j := by
  simp [failReads]

@[simp] theorem drainBlock_schedule (pid b cyc : Nat) (pf : Nat → List Nat) : (drainBlock s pid b cyc pf).schedule j = s.schedule j := by
  refine foldl_schedule _ _ fun t a => ?_
  simp

@[simp] theorem enterTimed_schedule (w : TimedWrite) (cyc : Nat) : (enterTimed s w cyc).schedule j = s.schedule j :=
  foldl_schedule _ _ fun t k => by simp

@[simp] theorem enterBlock_schedule (b cyc : Nat) : (enterBlock s b cyc).schedule j = s.schedule j := by
  simp [enterBlock]

/-! ### Landings of the matrix engine -/

@[simp] theorem landMop_schedule (pid c : Nat) (m : Mop) (g : List Mop) : (landMop s pid c m g).schedule j = s.schedule j := by
  unfold landMop
  simp only
  split
  · simp only [ite_schedule, logOnce_schedule, setCell_schedule, ite_self]
  · simp
  · simp
  · simp
  · have halarm (t : State) : (t.updFrame pid fun f => { f with precision := true }).schedule j = t.schedule j :=
      updFrame_schedule _ _ _ fun _ => rfl
    simp [halarm]

@[simp] theorem landCell_schedule (pid c cyc : Nat) : (landCell s pid c cyc).schedule j = s.schedule j := by
  refine foldl_schedule _ _ fun t m => ?_
  simp

/-! ### What port F serves -/

@[simp] theorem stageUnit_schedule (pid port e b off cyc : Nat) (bs : Bytes) :
    (stageUnit s pid port e b off cyc bs).1.schedule j = s.schedule j := by
  unfold stageUnit
  simp only
  split
  · rfl
  · split
    · rfl
    · simp

@[simp] theorem stageDone_schedule (port e b st v : Nat) : (stageDone s port e b st v).schedule j = s.schedule j := schedule_of_parts rfl

@[simp] theorem raiseReadFail_schedule (pid b : Nat) (c : BitVec 2) (cyc : Nat) (k : ReadFail) :
    (raiseReadFail s pid b c cyc k).schedule j = s.schedule j := by
  cases k <;> simp [raiseReadFail]

@[simp] theorem commitStep_schedule (pid b : Nat) (q : CommitReq) (cyc : Nat) (bs : Bytes) :
    (commitStep s pid b q cyc bs).schedule j = s.schedule j := by
  simp [commitStep]

@[simp] theorem commitUnit_schedule (pid b cyc : Nat) : (commitUnit s pid b cyc).schedule j = s.schedule j := by
  refine foldl_schedule _ _ fun t q => ?_
  simp only
  split
  · rfl
  · split
    · simp
    · split <;> simp

@[simp] theorem loadUnit_schedule (pid b cyc : Nat) : (loadUnit s pid b cyc).schedule j = s.schedule j := by
  refine foldl_schedule _ _ fun t q => ?_
  simp only
  split
  · rfl
  · split <;> simp

@[simp] theorem portReads_schedule (pid b cyc : Nat) : (portReads s pid b cyc).schedule j = s.schedule j := by
  simp [portReads]

@[simp] theorem endFill_schedule (b i : Nat) : (s.endFill b i).schedule j = s.schedule j := schedule_of_parts rfl

@[simp] theorem placeFill_schedule (pid b cyc : Nat) (q : FillReq) (g : Sheet) (l : Bytes) :
    (placeFill s pid b cyc q g l).schedule j = s.schedule j := by
  have hcount (t : State) (x y : Nat) : (t.updFrame pid fun fr => { fr with
      dropped := satAdd fr.dropped x, deferred := satAdd fr.deferred y }).schedule j = t.schedule j :=
    updFrame_schedule _ _ _ fun _ => rfl
  unfold placeFill
  simp only
  split
  · simp
  · simp [hcount]

@[simp] theorem fillRow_schedule (pid b cyc : Nat) (q : FillReq) (g : Sheet) (k : Nat) (bs : Bytes) :
    (fillRow s pid b cyc q g k bs).schedule j = s.schedule j := by
  have hindex (t : State) (port e : Nat) (l : List (Bytes × Nat)) :
      (l.foldl (fun (s : State) u => (stageUnit s pid port e b (256 * u.2) cyc u.1).1) t).schedule j = t.schedule j :=
    foldl_schedule _ _ fun t u => stageUnit_schedule ..
  unfold fillRow
  split
  · simp only [ite_schedule, stageDone_schedule, stageUnit_schedule, hindex, updBlock_schedule, blockFatal_schedule, ite_self]
  · rfl

@[simp] theorem fillUnit_schedule (pid b cyc : Nat) (r : PfReq) (q : FillReq) (g : Sheet) :
    (fillUnit s pid b cyc r q g).schedule j = s.schedule j := by
  unfold fillUnit
  simp only
  split <;> simp

@[simp] theorem unitDone_schedule (pid b cyc : Nat) (r : PfReq) : (unitDone pid s b cyc r).schedule j = s.schedule j := by
  unfold unitDone
  split
  · split <;> rfl
  · simp
  · split
    · split
      · simp
      · rfl
    · rfl
  · simp
  · rfl
  · rfl

end

end Sys2Proof.Machine

namespace Sys2Proof.Machine

/-! ### Region cycles -/

section
variable (s : State) (j : Nat)

@[simp] theorem portCycle_schedule (pid b cyc : Nat) : (portCycle s pid b cyc).1.schedule j = s.schedule j := by
  unfold portCycle
  simp only
  split
  · rfl
  · refine List.foldlRecOn _ _ (motive := fun acc : State × (Nat → List Nat) => acc.1.schedule j = s.schedule j) rfl
      fun acc hacc k _ => ?_
    split
    · exact hacc
    · simpa using hacc

@[simp] theorem regionReadCheck_schedule (pid b a n cyc : Nat) : (regionReadCheck s pid b a n cyc).1.schedule j = s.schedule j := by
  unfold regionReadCheck
  simp only
  split
  · simp
  · split
    · simp
    · rfl

@[simp] theorem rsUnit_schedule (pid r cyc : Nat) (q : RsReq) : (rsUnit s pid r cyc q).schedule j = s.schedule j := by
  unfold rsUnit
  simp only
  split
  · simp
  · split <;> simp
  · simp
  · split <;> simp
  · split
    · rfl
    · simp
  · split
    · rfl
    · split
      · rfl
      · simp
  · split
    · rfl
    · rw [ite_schedule]
      split
      · simp
      · split <;> simp
  · split <;> simp
  · rfl
  · rfl
  · rfl

@[simp] theorem regionArbiter_schedule (pid r cyc : Nat) : (regionArbiter s pid r cyc).schedule j = s.schedule j := by
  unfold regionArbiter
  simp only
  split
  · rfl
  · simp

@[simp] theorem noteSlack_schedule (pid b n : Nat) : (s.noteSlack pid b n).schedule j = s.schedule j :=
  updFrame_schedule _ _ _ fun _ => rfl

@[simp] theorem dropStream_schedule (b : Nat) (q : StreamReq) : (s.dropStream b q).schedule j = s.schedule j := schedule_of_parts rfl

@[simp] theorem streamEnds_schedule (pid b : Nat) (q : StreamReq) (cyc : Nat) : (streamEnds s pid b q cyc).schedule j = s.schedule j := by
  simp [streamEnds]

@[simp] theorem closeStreams_schedule (pid b cyc : Nat) : (closeStreams s pid b cyc).schedule j = s.schedule j := by
  simp [closeStreams]

@[simp] theorem hbmWrite_schedule (a : Nat) (bs : Bytes) : (s.hbmWrite a bs).schedule j = s.schedule j := schedule_of_parts rfl

@[simp] theorem writePieces_schedule (ps : List (Nat × Nat)) (bs : Bytes) : (s.writePieces ps bs).schedule j = s.schedule j := by
  induction ps generalizing s bs with
  | nil => rfl
  | cons p rest ih => exact (ih ..).trans (hbmWrite_schedule ..)

@[simp] theorem moveLine_schedule (pid b : Nat) (q : StreamReq) (cyc : Nat) : (moveLine s pid b q cyc).schedule j = s.schedule j := by
  unfold moveLine
  simp only
  split
  · split <;> simp
  · simp

@[simp] theorem landHbm_schedule (pid a : Nat) (bs : Bytes) (cyc : Nat) : (s.landHbm pid a bs cyc).schedule j = s.schedule j :=
  foldl_schedule _ _ fun t p => by simp

@[simp] theorem landLine_schedule (pid r : Nat) (q : RsReq) (cyc : Nat) : (landLine s pid r q cyc).schedule j = s.schedule j := by
  unfold landLine
  simp only [updRegion_schedule]
  split <;> simp

@[simp] theorem hbmSlot_schedule (pid r cyc : Nat) : (hbmSlot s pid r cyc).schedule j = s.schedule j := by
  unfold hbmSlot
  split <;> simp

@[simp] theorem slotCycle_schedule (pid r cyc : Nat) : (slotCycle s pid r cyc).schedule j = s.schedule j := by
  unfold slotCycle
  split
  · rfl
  · refine List.foldlRecOn _ _ (motive := fun acc : State × Nat => acc.1.schedule j = s.schedule j) ?_ fun acc hacc x _ => ?_
    · simp
    · cases x <;> exact hacc

@[simp] theorem enterPhase_schedule (pid r cyc : Nat) : (enterPhase s pid r cyc).schedule j = s.schedule j := by
  simp [enterPhase]

@[simp] theorem showFaults_schedule (pid b cyc : Nat) : (showFaults s pid b cyc).schedule j = s.schedule j := by
  simp [showFaults]

@[simp] theorem regionCycle_schedule (pid r cyc : Nat) : (regionCycle s pid r cyc).schedule j = s.schedule j := by
  simp [regionCycle]

@[simp] theorem regionTo_schedule (fuel pid r t : Nat) : (regionTo fuel s pid r t).schedule j = s.schedule j := by
  induction fuel generalizing s with
  | zero => exact enterPhase_schedule ..
  | succ fuel ih =>
    unfold regionTo
    simp only
    split
    · simp
    · simp [ih]

@[simp] theorem feedRegion_schedule (pid r t : Nat) : (feedRegion s pid r t).schedule j = s.schedule j :=
  foldl_schedule _ _ fun t q => by simp

@[simp] theorem dropUnit_schedule (b : Nat) : (s.dropUnit b).schedule j = s.schedule j := schedule_of_parts rfl

@[simp] theorem dropFailing_schedule (pid : Nat) : (s.dropFailing pid).schedule j = s.schedule j := by
  unfold State.dropFailing
  split
  · rfl
  · refine (updFrame_schedule _ _ _ ?_).trans ?_
    · exact fun _ => rfl
    · simp

@[simp] theorem advanceRegion_schedule (pid b t : Nat) : (advanceRegion s pid b t).schedule j = s.schedule j := by
  simp [advanceRegion]

/-! ### The issue of an operation -/

@[simp] theorem saveBundle_schedule (pid b t : Nat) : (s.saveBundle pid b t).schedule j = s.schedule j := by
  unfold State.saveBundle
  split
  · split <;> rfl
  · rfl

@[simp] theorem noteBundle_schedule (b : Nat) (f : BundleSave → BundleSave) : (s.noteBundle b f).schedule j = s.schedule j := by
  unfold State.noteBundle
  split <;> rfl

@[simp] theorem dropBundle_schedule (c : Ctx) : (dropBundle s c).schedule j = s.schedule j := by
  have hregions (t : State) (rs : FMap Region) : State.schedule { t with regions := rs } j = t.schedule j := schedule_of_parts rfl
  have hposts (t : State) (l : List (Nat × Nat × BitVec 4)) : (l.foldl (fun (s : State) x => if x.1 = c.bix then s else
      s.updBlock x.1 fun b => { b with tokensDue := b.tokensDue.erase x.2 }) t).schedule j = t.schedule j :=
    foldl_schedule _ _ fun t x => by simp
  have hcells (l : List (Cell × Nat)) (b : Block) :
      (l.foldl (fun (s : State) p => s.setCell (4 * c.bix + p.2) p.1) (s.setBlock c.bix b)).schedule j = s.schedule j :=
    (foldl_schedule _ _ fun t x => by simp).trans (setBlock_schedule ..)
  unfold dropBundle
  split
  · rfl
  · rename_i v _
    split
    · rfl
    · extract_lets s1 s2 s3 s4
      have h3 : s3.schedule j = s.schedule j := (hposts ..).trans ((hregions ..).trans (hcells ..))
      have h4 : s4.schedule j = s3.schedule j := by
        unfold s4
        split
        · exact updTx_schedule ..
        · rfl
      refine (updFrame_schedule _ _ _ ?_).trans (h4.trans h3)
      exact fun _ => rfl

@[simp] theorem illegal_schedule (c : Ctx) (k : Nat) : (illegal s c k).schedule j = s.schedule j := by
  simp [illegal]

@[simp] theorem openIssue_schedule (i : Issue) (slot : Nat) : (openIssue s i slot).1.schedule j = s.schedule j := by
  unfold openIssue
  simp only
  split
  · rfl
  · split
    · simp
    · split
      · simp
      · split
        · simp
        · split <;> simp
        · split <;> simp

@[simp] theorem countSlot_schedule (c : Ctx) : (s.countSlot c).schedule j = s.schedule j := by
  simp [State.countSlot]

theorem runSlot_schedule (i : Issue) (slot : Nat) (always : Bool) (bits : List (Nat × Bool)) (checks : State → Ctx → List (Nat × Bool))
    {eff skip : State → Ctx → State} (heff : ∀ t c, (eff t c).schedule j = t.schedule j)
    (hskip : ∀ t c, (skip t c).schedule j = t.schedule j) :
    (runSlot s i slot always bits checks eff skip).schedule j = s.schedule j := by
  have hopen := openIssue_schedule s j i slot
  unfold runSlot
  split
  · rename_i t ho
    rwa [ho] at hopen
  · rename_i t c ho
    rw [ho] at hopen
    have hpred : (if always then t else hazPred t c c.t).schedule j = s.schedule j := by simpa using hopen
    generalize (if always then t else hazPred t c c.t) = u at hpred
    simp only
    split
    · rwa [illegal_schedule]
    · split
      · split
        · rwa [illegal_schedule]
        · rwa [countSlot_schedule, heff]
      · rwa [hskip]

@[simp] theorem hazForecast_schedule (b : Bool) (c : Ctx) (fc x : Nat) : (hazForecast b s c fc x).schedule j = s.schedule j := by
  unfold hazForecast
  split
  · rfl
  · split <;> simp

@[simp] theorem hazRead_schedule (c : Ctx) (a n cyc : Nat) (paced : Bool) : (hazRead s c a n cyc paced).schedule j = s.schedule j := by
  unfold hazRead
  split
  · rfl
  · simp only
    split
    · rfl
    · rw [ite_schedule, hazard_schedule, ite_self]
      split
      · rw [hazard_schedule]
        split <;> simp
      · split <;> simp

@[simp] theorem hazWriteIn_schedule (c : Ctx) (r a n : Nat) : (hazWriteIn s c r a n).schedule j = s.schedule j := hazardIf_schedule ..
@[simp] theorem hazWrite_schedule (c : Ctx) (a n : Nat) : (hazWrite s c a n).schedule j = s.schedule j := hazWriteIn_schedule ..

@[simp] theorem hazTrack_schedule (c : Ctx) (a : Nat) : (hazTrack s c a).schedule j = s.schedule j := by
  unfold hazTrack
  split
  · rfl
  · rename_i p hp
    have hset (h : Hazard) : (s.setPart c.pid { p with hazard := h }).schedule j = s.schedule j :=
      setPart_schedule s j hp rfl
    simp only
    split
    · rfl
    · split
      · rfl
      · split
        · rw [logOnce_schedule, hset]
        · rfl

end

end Sys2Proof.Machine

namespace Sys2Proof.Machine

/-! ### Operations of the C and V slots -/

section
variable (s : State) (j : Nat)

@[simp] theorem takeSpecial_schedule (c : Ctx) (n : Nat) : (takeSpecial s c n).schedule j = s.schedule j := by
  simp [takeSpecial]

theorem runV_schedule (i : Issue) (bits : List (Nat × Bool)) (occ : State → Ctx → Nat) {eff : State → Ctx → State}
    (heff : ∀ t c, (eff t c).schedule j = t.schedule j) : (runV i bits occ eff s).schedule j = s.schedule j :=
  runSlot_schedule _ _ _ _ _ _ _ (fun _ _ => (heff ..).trans (takeSpecial_schedule ..)) fun _ _ => rfl

@[simp] theorem putVec_schedule (c : Ctx) (due : Nat) (vd : BitVec 6) (val : Nat) (en : BitVec 1024) :
    (putVec s c due vd val en).schedule j = s.schedule j := by
  simp [putVec]

@[simp] theorem countClips_schedule (c : Ctx) (n : Nat) : (countClips s c n).schedule j = s.schedule j := by
  simp [countClips]

@[simp] theorem laneOp_schedule (f : VecF) (lat : Nat) (op : Nat → Nat → Nat → Nat → Nat) (n : Nat) (c : Ctx) :
    (laneOp f lat op n s c).schedule j = s.schedule j := by
  simp [laneOp]

@[simp] theorem cvtLanesOp_schedule (f : VecF) (lat : Nat) (rnd : Nat → Rnd) (c : Ctx) :
    (cvtLanesOp f lat rnd s c).schedule j = s.schedule j := by
  simp [cvtLanesOp]

@[simp] theorem advanceDraw_schedule (c : Ctx) : (advanceDraw s c).schedule j = s.schedule j := schedule_of_parts rfl

/-- An operation on the lanes of vector registers. -/
theorem laneRun_schedule (i : Issue) (bits : List (Nat × Bool)) (occ : State → Ctx → Nat) (f : VecF) (lat : Nat)
    (op : Nat → Nat → Nat → Nat → Nat) (n : Nat) : (runV i bits occ (laneOp f lat op n) s).schedule j = s.schedule j :=
  runV_schedule _ _ _ _ _ fun _ _ => laneOp_schedule ..

theorem runTr_schedule (fn : TFn) (i : Issue) (f : VecF) : (runTr fn i f s).schedule j = s.schedule j :=
  runV_schedule _ _ _ _ _ fun _ _ => laneOp_schedule ..

theorem runReduce_schedule (op : Val → Val → Val) (ident : Nat) (i : Issue) (f : VecF) :
    (runReduce op ident i f s).schedule j = s.schedule j :=
  runV_schedule _ _ _ _ _ fun t c => by
    simp only [putVec_schedule, hazMask_schedule, hazVec_schedule]

/-- The state after an operation. -/
def Out.after (s : State) (o : Out) : State := match o with
  | .next t => t
  | _ => s

theorem after_runV_schedule (i : Issue) (bits : List (Nat × Bool)) (occ : State → Ctx → Nat) {eff : State → Ctx → State}
    (heff : ∀ t c, (eff t c).schedule j = t.schedule j) :
    (Out.after s (.next (runV i bits occ eff s))).schedule j = s.schedule j := runV_schedule s j i bits occ heff

theorem execCmp_schedule (i : Issue) (f : VecF) : (Out.after s (execCmp i f s)).schedule j = s.schedule j :=
  after_runV_schedule _ _ _ _ _ fun _ _ => by
    simp only [updBlock_schedule, hazMask_schedule, hazVec_schedule]

theorem execSel_schedule (i : Issue) (f : VecF) : (Out.after s (execSel i f s)).schedule j = s.schedule j :=
  after_runV_schedule _ _ _ _ _ fun _ _ => by
    simp only [laneOp_schedule, hazMask_schedule]

theorem execPerm_schedule (i : Issue) (f : VecF) : (Out.after s (execPerm i f s)).schedule j = s.schedule j :=
  after_runV_schedule _ _ _ _ _ fun _ _ => laneOp_schedule ..

theorem execKlogic_schedule (i : Issue) (f : VecF) : (Out.after s (execKlogic i f s)).schedule j = s.schedule j :=
  after_runV_schedule _ _ _ _ _ fun _ _ => by
    simp only [updBlock_schedule, hazMask_schedule]

theorem execCvt_schedule (i : Issue) (f : VecF) : (Out.after s (execCvt i f s)).schedule j = s.schedule j :=
  after_runV_schedule _ _ _ _ _ fun _ _ => cvtLanesOp_schedule ..

theorem execCvtSr_schedule (i : Issue) (f : VecF) : (Out.after s (execCvtSr i f s)).schedule j = s.schedule j :=
  after_runV_schedule _ _ _ _ _ fun _ _ => (advanceDraw_schedule ..).trans (cvtLanesOp_schedule ..)

theorem execQuant_schedule (i : Issue) (f : VecF) : (Out.after s (execQuant i f s)).schedule j = s.schedule j := by
  have hfree (t : State) : State.schedule { t with free := t.free + 1 } j = t.schedule j := schedule_of_parts rfl
  exact after_runV_schedule _ _ _ _ _ fun _ _ => by
    simp only [ite_schedule, advanceDraw_schedule, hfree, countClips_schedule, putVec_schedule, hazVec_schedule, ite_self]

theorem execDeq_schedule (i : Issue) (f : VecF) : (Out.after s (execDeq i f s)).schedule j = s.schedule j :=
  after_runV_schedule _ _ _ _ _ fun _ _ => by
    simp only [countClips_schedule, putVec_schedule, hazVec_schedule]

theorem execDraw_schedule (i : Issue) (f : VecF) : (Out.after s (execDraw i f s)).schedule j = s.schedule j :=
  after_runV_schedule _ _ _ _ _ fun _ _ => by
    simp only [ite_schedule, advanceDraw_schedule, laneOp_schedule, ite_self]

/-- An operation of the V slot on the fields of 06 R153. -/
theorem runVecOp_schedule (c : Instr) : (Out.after s ((runVecOp c s).getD (.next s))).schedule j = s.schedule j := by
  unfold runVecOp
  split
  case h_1 | h_2 | h_3 | h_4 | h_5 | h_6 | h_7 | h_8 | h_9 | h_10 | h_11 | h_12 | h_13 | h_14 | h_17 | h_18 | h_19 | h_22 | h_23 =>
    exact laneRun_schedule ..
  case h_24 | h_25 | h_26 | h_27 | h_28 | h_29 | h_30 | h_31 | h_32 | h_33 | h_34 => exact runTr_schedule ..
  case h_39 | h_40 | h_41 => exact runReduce_schedule ..
  case h_15 => exact execCmp_schedule ..
  case h_16 => exact execSel_schedule ..
  case h_20 => exact execPerm_schedule ..
  case h_21 => exact execKlogic_schedule ..
  case h_35 => exact execCvt_schedule ..
  case h_36 => exact execCvtSr_schedule ..
  case h_37 => exact execQuant_schedule ..
  case h_38 => exact execDeq_schedule ..
  case h_42 => exact execDraw_schedule ..
  case h_43 => rfl

/-! ### The C slot -/

theorem after_runSlot_schedule (i : Issue) (slot : Nat) (always : Bool) (bits : List (Nat × Bool))
    (checks : State → Ctx → List (Nat × Bool)) {eff skip : State → Ctx → State} (heff : ∀ t c, (eff t c).schedule j = t.schedule j)
    (hskip : ∀ t c, (skip t c).schedule j = t.schedule j) :
    (Out.after s (.next (runSlot s i slot always bits checks eff skip))).schedule j = s.schedule j :=
  runSlot_schedule s j i slot always bits checks heff hskip

theorem runAr_schedule (i : Issue) (eff : ArEff) : (Out.after s (.next (runAr s i eff))).schedule j = s.schedule j :=
  after_runSlot_schedule _ _ _ _ _ _ _ (fun _ _ => updBlock_schedule ..) fun _ _ => updBlock_schedule ..

theorem execLoop_schedule (i : Issue) (e : BitVec 13) (n : BitVec 11) : (Out.after s (execLoop i e n s)).schedule j = s.schedule j :=
  after_runSlot_schedule _ _ _ _ _ _ _ (fun _ _ => updBlock_schedule ..) fun _ _ => rfl

theorem execLoopAr_schedule (i : Issue) (e : BitVec 13) (ar : BitVec 4) :
    (Out.after s (execLoopAr i e ar s)).schedule j = s.schedule j :=
  after_runSlot_schedule _ _ _ _ _ _ _ (fun _ _ => (updBlock_schedule ..).trans (hazForecast_schedule ..)) fun _ _ => rfl

theorem execWaitcy_schedule (i : Issue) (n : BitVec 20) : (Out.after s (execWaitcy i n s)).schedule j = s.schedule j :=
  after_runSlot_schedule _ _ _ _ _ _ _ (fun _ _ => updBlock_schedule ..) fun _ _ => rfl

theorem execWaittick_schedule (i : Issue) : (Out.after s (execWaittick i s)).schedule j = s.schedule j :=
  after_runSlot_schedule _ _ _ _ _ _ _ (fun _ _ => updBlock_schedule ..) fun _ _ => rfl

theorem execBundleHalt_schedule (i : Issue) (code : BitVec 8) : (Out.after s (execBundleHalt i code s)).schedule j = s.schedule j :=
  after_runSlot_schedule _ _ _ _ _ _ _ (fun t c => (updPart_schedule _ _ _ fun p => by
    unfold Partition.schedule
    split <;> rfl).trans (updBlock_schedule t j ..)) fun _ _ => rfl

theorem execTankBase_schedule (i : Issue) (cells : BitVec 4) (base : BitVec 10) :
    (Out.after s (execTankBase i cells base s)).schedule j = s.schedule j :=
  after_runSlot_schedule _ _ _ _ _ _ _ (fun _ _ => foldl_schedule _ _ fun _ _ => updCell_schedule ..) fun _ _ => rfl

theorem execChkflag_schedule (i : Issue) (mask : BitVec 16) (clear : Bool) :
    (Out.after s (execChkflag i mask clear s)).schedule j = s.schedule j :=
  after_runSlot_schedule _ _ _ _ _ _ _ (fun _ _ => by
    simp only [ite_schedule, updBlock_schedule, raiseFatal_schedule, ite_self]) fun _ _ => rfl

theorem execSyncPost_schedule (i : Issue) (target : BitVec 10) (token : BitVec 4) :
    (Out.after s (execSyncPost i target token s)).schedule j = s.schedule j :=
  after_runSlot_schedule _ _ _ _ _ _ _ (fun t c => by
    split
    · rw [noteBundle_schedule, updBlock_schedule]
      split
      · rfl
      · exact openCycle_schedule ..
    · rfl) fun _ _ => rfl

theorem execSyncChk_schedule (i : Issue) (mask : BitVec 16) (clear : Bool) :
    (Out.after s (execSyncChk i mask clear s)).schedule j = s.schedule j :=
  after_runSlot_schedule _ _ _ _ _ _ _ (fun t c => by
    simp only [ite_schedule, updBlock_schedule, blockFatal_schedule, ite_self]
    split
    · exact (hazard_schedule ..).trans (updBlock_schedule ..)
    · exact updBlock_schedule ..) fun _ _ => rfl

theorem execPset_schedule (i : Issue) (d fn : BitVec 3) (ops : BitVec 18) :
    (Out.after s (execPset i d fn ops s)).schedule j = s.schedule j :=
  after_runSlot_schedule _ _ _ _ _ _ _ (fun _ _ => updBlock_schedule ..) fun _ _ => rfl

end

end Sys2Proof.Machine

namespace Sys2Proof.Machine

/-! ### Operations of the M slot -/

section
variable (s : State) (j : Nat)

@[simp] theorem cellEcc_schedule (pid c off : Nat) (rd : Ecc) (t : Nat) : (cellEcc s pid c off rd t).schedule j = s.schedule j := by
  unfold cellEcc
  cases rd with
  | good => rfl
  | corrected => exact (logOnce_schedule ..).trans (updCell_schedule ..)
  | uncorrectable => exact raiseFatal_schedule ..

@[simp] theorem openM_schedule (i : Issue) (fr : Nat → Int) : (openM s i fr).1.schedule j = s.schedule j := by
  have hopen := openIssue_schedule s j i 2
  unfold openM
  split
  · rename_i t ho
    rwa [ho] at hopen
  · rename_i t c ho
    rw [ho] at hopen
    simpa using hopen

@[simp] theorem hazSample_schedule (c : Ctx) (cells : BitVec 4) (m : Bool) : (hazSample s c cells m).schedule j = s.schedule j :=
  foldl_schedule _ _ fun _ _ => foldl_schedule _ _ fun _ _ => by
    simp only [ite_schedule, hazard_schedule, ite_self]

@[simp] theorem hazCaps_schedule (c : Ctx) (cells : BitVec 4) (caps : Nat → List Cap) : (hazCaps s c cells caps).schedule j = s.schedule j := by
  unfold hazCaps
  split
  · rfl
  · split
    · rfl
    · refine foldl_schedule _ _ fun _ _ => foldl_schedule _ _ fun _ _ => ?_
      simp only [ite_schedule, hazard_schedule, ite_self]
      split
      · exact hazard_schedule ..
      · rfl

@[simp] theorem depthFault_schedule (c : Ctx) (x : Nat) : (depthFault s c x).schedule j = s.schedule j := raiseFatal_schedule ..
@[simp] theorem parityFault_schedule (c : Ctx) (x : Nat) : (parityFault s c x).schedule j = s.schedule j := raiseFatal_schedule ..

@[simp] theorem startM_schedule (c : Ctx) (x occ : Nat) (m : Mop) (rd : Ecc) : (startM s c x occ m rd).schedule j = s.schedule j := by
  unfold startM
  extract_lets _ _ _ forced _ s1 s2 s3 s4
  have h2 : s2.schedule j = s.schedule j := (updBlock_schedule ..).trans (updCell_schedule ..)
  have h3 : s3.schedule j = s2.schedule j := by
    unfold s3
    split
    · exact cellFatal_schedule ..
    · rfl
  have h4 : s4.schedule j = s3.schedule j := by
    unfold s4
    cases forced with
    | none => rfl
    | some k => exact cellFatal_schedule ..
  exact (cellEcc_schedule ..).trans ((captureReads_schedule ..).trans (h4.trans (h3.trans h2)))

@[simp] theorem mmaCell_schedule (c : Ctx) (f : MmaF) (r : FMap (BitVec 32)) (rd : Ecc) (x : Nat) :
    (mmaCell s c f r rd x).schedule j = s.schedule j := by
  unfold mmaCell
  simp only
  split
  · exact depthFault_schedule ..
  · exact (startM_schedule ..).trans (updCell_schedule ..)

theorem runMma_schedule (i : Issue) (f : MmaF) (rd : Ecc) : (runMma i f rd s).schedule j = s.schedule j := by
  unfold runMma
  simp only
  have hopen := openM_schedule s j i fun t => firstRead t (mmaCaps f [] t 0)
  split
  · rename_i t ho
    rwa [ho] at hopen
  · rename_i t c r on ho
    rw [ho] at hopen
    split
    · exact (illegal_schedule ..).trans hopen
    · split
      · exact (updBlock_schedule ..).trans hopen
      · split
        · exact (illegal_schedule ..).trans hopen
        · refine (updBlock_schedule ..).trans ((foldl_schedule _ _ fun _ _ => mmaCell_schedule ..).trans ?_)
          exact (hazCaps_schedule ..).trans hopen

theorem runM_schedule (i : Issue) (cells : BitVec 4) (fr : Nat → Int) (bits : List (Nat × Bool))
    (plan : FMap (BitVec 32) → Nat → MPlan) (more : State → Ctx → FMap (BitVec 32) → List (Nat × Bool)) (incs : List (BitVec 4 × Nat))
    {eff : FMap (BitVec 32) → Ctx → State → Nat → State} (heff : ∀ r c t x, (eff r c t x).schedule j = t.schedule j) :
    (Out.after s (.next (runM s i cells fr bits plan more incs eff))).schedule j = s.schedule j := by
  change (runM s i cells fr bits plan more incs eff).schedule j = _
  unfold runM
  have hopen := openM_schedule s j i fr
  split
  · rename_i t ho
    rwa [ho] at hopen
  · rename_i t c r on ho
    rw [ho] at hopen
    simp only
    split
    · exact (illegal_schedule ..).trans hopen
    · split
      · exact (updBlock_schedule ..).trans hopen
      · split
        · exact (illegal_schedule ..).trans hopen
        · refine (updBlock_schedule ..).trans ((foldl_schedule _ _ fun _ _ => heff ..).trans ?_)
          exact (hazCaps_schedule ..).trans hopen

@[simp] theorem readCell_schedule (f : TankReadF) (rd : Ecc) (parity : Bool) (r : FMap (BitVec 32)) (c : Ctx) (x : Nat) :
    (readCell f rd parity r c s x).schedule j = s.schedule j := by
  unfold readCell
  simp only [ite_schedule, logOnce_schedule, updCell_schedule, hazTrack_schedule, updBlock_schedule, hazWrite_schedule,
    parityFault_schedule, cellEcc_schedule, blockFatal_schedule, setCell_schedule, ite_self]

theorem execMmaDodge_schedule (i : Issue) (f : DodgeF) (rd : Ecc) : (Out.after s (execMmaDodge i f rd s)).schedule j = s.schedule j :=
  runM_schedule _ _ _ _ _ _ _ _ _ fun _ _ _ _ => by
    simp only [ite_schedule, depthFault_schedule, startM_schedule, updCell_schedule, ite_self]

theorem execTankRead_schedule (i : Issue) (f : TankReadF) (rd : Ecc) (parity : Bool) :
    (Out.after s (execTankRead i f rd parity s)).schedule j = s.schedule j :=
  runM_schedule _ _ _ _ _ _ _ _ _ fun _ _ _ _ => (readCell_schedule ..).trans (hazSample_schedule ..)

theorem execTankMerge_schedule (i : Issue) (cells ar : BitVec 4) (inc : Bool) (rd : Ecc) (parity : Bool) :
    (Out.after s (execTankMerge i cells ar inc rd parity s)).schedule j = s.schedule j :=
  runM_schedule _ _ _ _ _ _ _ _ _ fun _ _ _ _ => by
    simp only [ite_schedule, depthFault_schedule, parityFault_schedule, startM_schedule, updCell_schedule, hazSample_schedule, ite_self]

theorem execDodgeSet_schedule (i : Issue) (cells ar : BitVec 4) (n : BitVec 9) (rd : Ecc) :
    (Out.after s (execDodgeSet i cells ar n rd s)).schedule j = s.schedule j :=
  runM_schedule _ _ _ _ _ _ _ _ _ fun _ _ _ _ => startM_schedule ..

theorem execStripCheck_schedule (i : Issue) (cells : BitVec 4) (row : BitVec 7) (entry : BitVec 8) :
    (Out.after s (execStripCheck i cells row entry s)).schedule j = s.schedule j :=
  runM_schedule _ _ _ _ _ _ _ _ _ fun _ _ _ _ => (startM_schedule ..).trans ((updCell_schedule ..).trans (hazSample_schedule ..))

/-! ### LD and ST -/

@[simp] theorem claimDue_schedule (c : Ctx) (ds : List DueAcc) : (claimDue s c ds).schedule j = s.schedule j := schedule_of_parts rfl

@[simp] theorem loadEcc_schedule (c : Ctx) (ks : List Nat) (off : Nat) (rd : Ecc) : (loadEcc s c ks off rd).schedule j = s.schedule j := by
  unfold loadEcc
  split
  · rfl
  · exact (cellEcc_schedule ..).trans (draw_schedule ..)

@[simp] theorem loadReads_schedule (c : Ctx) (ks : List Nat) (off : Nat) : (loadReads s c ks off).1.schedule j = s.schedule j := by
  refine List.foldlRecOn _ _ (motive := fun acc : State × Bool => acc.1.schedule j = s.schedule j) rfl fun acc hacc k _ => ?_
  split
  · exact (raiseReadFail_schedule ..).trans hacc
  · exact hacc

theorem execLd_schedule (i : Issue) (f : LdStF) (rd : Ecc) : (Out.after s (execLd i f rd s)).schedule j = s.schedule j :=
  after_runSlot_schedule _ _ _ _ _ _ _ (fun t c => by
    simp only
    split
    · simp only [updBlock_schedule, hazDouble_schedule, hazRead_schedule, loadEcc_schedule, claimDue_schedule]
    · have hreads (u : State) (l : List Nat) (off : Nat) : (l.foldl (fun s k => hazRead s c (cellBase (4 * c.bix + k) + off) 256 c.t) u).schedule j = u.schedule j :=
        foldl_schedule _ _ fun _ _ => hazRead_schedule ..
      simp only [ite_schedule, putVec_schedule, hreads, loadReads_schedule, loadEcc_schedule, claimDue_schedule, ite_self])
    fun _ _ => rfl

theorem execSt_schedule (i : Issue) (f : LdStF) : (Out.after s (execSt i f s)).schedule j = s.schedule j :=
  after_runSlot_schedule _ _ _ _ _ _ _ (fun t c => by
    have hwrites (u : State) (l : List TimedWrite) : (l.foldl (fun s w => hazWrite s c w.addr w.data.length) u).schedule j = u.schedule j :=
      foldl_schedule _ _ fun _ _ => hazWrite_schedule ..
    have htracks (u : State) (l : List TimedWrite) : (l.foldl (fun s w => hazTrack s c w.addr) u).schedule j = u.schedule j :=
      foldl_schedule _ _ fun _ _ => hazTrack_schedule ..
    simp only [htracks, updBlock_schedule, hwrites, claimDue_schedule, hazVec_schedule]) fun _ _ => rfl

/-! ### Operations of the S and X slots -/

@[simp] theorem regionEcc_schedule (pid r l : Nat) (rd : Ecc) (t : Nat) : (s.regionEcc pid r l rd t).schedule j = s.schedule j := by
  cases rd with
  | good => rfl
  | corrected => exact logOnce_schedule ..
  | uncorrectable => exact raiseFatal_schedule ..

@[simp] theorem skipIncs_schedule (incs : List (BitVec 4 × Nat)) (c : Ctx) : (skipIncs incs s c).schedule j = s.schedule j :=
  schedule_of_parts rfl

theorem startCopy_schedule (kind : PfKind) (f : CopyF) (rd : Ecc) (c : Ctx) : (startCopy kind f rd s c).schedule j = s.schedule j := by
  unfold startCopy
  simp only [ite_schedule, hazTrack_schedule, updRegion_schedule, updBlock_schedule, hazWrite_schedule, hazRead_schedule,
    regionEcc_schedule, cellEcc_schedule, ite_self]

theorem startCopyRr_schedule (f : CopyRRF) (late : Bool) (rd : Ecc) (c : Ctx) : (startCopyRr f late rd s c).schedule j = s.schedule j := by
  unfold startCopyRr
  extract_lets _ _ _ _ _ _ _ s1 s2 s3
  have h3 : s3.schedule j = s.schedule j := by
    simp only [s3, s2, s1, updBlock_schedule, hazWriteIn_schedule, hazRead_schedule, ite_schedule, regionEcc_schedule, ite_self]
  split
  · exact h3
  · split
    · exact h3
    · exact (updRegion_schedule ..).trans ((updRegion_schedule ..).trans ((openCycle_schedule ..).trans h3))

theorem startStream_schedule (out_ : Bool) (f : StreamF) (c : Ctx) : (startStream out_ f s c).schedule j = s.schedule j := by
  unfold startStream
  split
  · simp only [ite_schedule, updRegion_schedule, updBlock_schedule, hazRead_schedule, hazWrite_schedule, raiseFatal_schedule,
      noteSlack_schedule, ite_self]
  · rfl

theorem execCopyRc_schedule (i : Issue) (f : CopyF) (rd : Ecc) : (Out.after s (execCopyRc i f rd s)).schedule j = s.schedule j :=
  after_runSlot_schedule _ _ _ _ _ _ _ (fun _ _ => startCopy_schedule ..) fun _ _ => skipIncs_schedule ..

theorem execCopyCr_schedule (i : Issue) (f : CopyF) (rd : Ecc) : (Out.after s (execCopyCr i f rd s)).schedule j = s.schedule j :=
  after_runSlot_schedule _ _ _ _ _ _ _ (fun _ _ => startCopy_schedule ..) fun _ _ => skipIncs_schedule ..

theorem execCopyRr_schedule (i : Issue) (f : CopyRRF) (late : Bool) (rd : Ecc) :
    (Out.after s (execCopyRr i f late rd s)).schedule j = s.schedule j :=
  after_runSlot_schedule _ _ _ _ _ _ _ (fun _ _ => startCopyRr_schedule ..) fun _ _ => skipIncs_schedule ..

theorem runStream_schedule (out_ : Bool) (i : Issue) (f : StreamF) : (Out.after s (.next (runStream out_ i f s))).schedule j = s.schedule j :=
  after_runSlot_schedule _ _ _ _ _ _ _ (fun _ _ => startStream_schedule ..) fun _ _ => skipIncs_schedule ..

theorem startCommit_schedule (f : CommitF) (rd : Ecc) (c : Ctx) : (startCommit f rd s c).schedule j = s.schedule j := by
  unfold startCommit
  split
  · rfl
  · simp only [ite_schedule, updRegion_schedule, updBlock_schedule, noteBundle_schedule, updTx_schedule, blockFatal_schedule,
      hazRead_schedule, regionEcc_schedule, cellEcc_schedule, claimDue_schedule, ite_self]

theorem execCommit_schedule (i : Issue) (f : CommitF) (rd : Ecc) : (Out.after s (execCommit i f rd s)).schedule j = s.schedule j :=
  after_runSlot_schedule _ _ _ _ _ _ _ (fun _ _ => startCommit_schedule ..) fun _ _ => skipIncs_schedule ..

theorem execChkarr_schedule (i : Issue) (counter ar : BitVec 4) (clear : Bool) :
    (Out.after s (execChkarr i counter ar clear s)).schedule j = s.schedule j :=
  after_runSlot_schedule _ _ _ _ _ _ _ (fun _ _ => by
    simp only [ite_schedule, blockFatal_schedule, updBlock_schedule, ite_self]) fun _ _ => rfl

theorem startFill_schedule (f : CsfillF) (rd : Ecc) (c : Ctx) : (startFill f rd s c).schedule j = s.schedule j := by
  unfold startFill
  split
  · rfl
  · simp only [ite_schedule, hazTrack_schedule, updRegion_schedule, updBlock_schedule, hazWrite_schedule, hazRead_schedule,
      cellEcc_schedule, ite_self]

theorem execCsfill_schedule (i : Issue) (f : CsfillF) (rd : Ecc) : (Out.after s (execCsfill i f rd s)).schedule j = s.schedule j :=
  after_runSlot_schedule _ _ _ _ _ _ _ (fun _ _ => startFill_schedule ..) fun _ _ => rfl

/-! ### Bundles, and an Exposure up to its Shutter -/

theorem runOp_schedule (c : Instr) : (Out.after s (runOp c s)).schedule j = s.schedule j := by
  unfold runOp
  split
  · exact execLoop_schedule ..
  · exact execLoopAr_schedule ..
  · exact execWaitcy_schedule ..
  · exact execWaittick_schedule ..
  · exact execBundleHalt_schedule ..
  · exact execTankBase_schedule ..
  · exact execChkflag_schedule ..
  · exact execSyncPost_schedule ..
  · exact execSyncChk_schedule ..
  · exact execPset_schedule ..
  · exact runAr_schedule ..
  · exact runAr_schedule ..
  · exact runAr_schedule ..
  · exact runAr_schedule ..
  · exact runMma_schedule ..
  · exact execMmaDodge_schedule ..
  · exact execTankRead_schedule ..
  · exact execTankMerge_schedule ..
  · exact execDodgeSet_schedule ..
  · exact execStripCheck_schedule ..
  · exact execLd_schedule ..
  · exact execSt_schedule ..
  · exact execCopyRc_schedule ..
  · exact execCopyCr_schedule ..
  · exact execCopyRr_schedule ..
  · exact runStream_schedule ..
  · exact runStream_schedule ..
  · exact execCommit_schedule ..
  · exact execChkarr_schedule ..
  · exact execCsfill_schedule ..
  · exact runVecOp_schedule ..

@[simp] theorem afterOp_schedule (c : Instr) : (s.afterOp c).schedule j = s.schedule j := by
  have heq : s.afterOp c = Out.after s (runOp c s) := by
    unfold State.afterOp Out.after
    cases runOp c s <;> rfl
  rw [heq, runOp_schedule]

@[simp] theorem issueStored_schedule (pid b : Nat) : (issueStored s pid b).schedule j = s.schedule j := by
  unfold issueStored
  split
  · rfl
  · simp only [ite_schedule, updBlock_schedule, setBlock_schedule, blockFatal_schedule, foldl_schedule, afterOp_schedule,
      implies_true, ite_self]

theorem runStored_schedule (fuel pid : Nat) (upto : Nat → Nat) (all : Bool) : (runStored fuel s pid upto all).schedule j = s.schedule j := by
  induction fuel generalizing s with
  | zero => rfl
  | succ fuel ih =>
    unfold runStored
    split
    · rfl
    · split
      · rfl
      · split
        · exact (ih ..).trans (issueStored_schedule ..)
        · rfl

@[simp] theorem runStreams_schedule (pid : Nat) (upto : Nat → Nat) (all : Bool) : (s.runStreams pid upto all).schedule j = s.schedule j := by
  unfold State.runStreams
  split
  · rfl
  · exact runStored_schedule ..

@[simp] theorem flushStores_schedule (p : Partition) : (s.flushStores p).schedule j = s.schedule j := by
  refine (foldl_schedule _ _ fun t r => foldl_schedule _ _ fun _ _ => write_schedule ..).trans (foldl_schedule _ _ fun t b => ?_)
  split
  · rfl
  · exact foldl_schedule _ _ fun _ _ => write_schedule ..

@[simp] theorem lateDigests_schedule (pid : Nat) (obs : ShutterObs) : (s.lateDigests pid obs).schedule j = s.schedule j := by
  unfold State.lateDigests
  split
  · rfl
  · simp only
    split
    · rfl
    · exact (logEv_schedule ..).trans (updPart_schedule _ _ _ fun _ => rfl)

@[simp] theorem tickOffset_schedule (pid : Nat) : (s.tickOffset pid).schedule j = s.schedule j := by
  unfold State.tickOffset
  split
  · rfl
  · split
    · rfl
    · simp only
      split
      · rfl
      · have hmax (v : Nat) (b : Bool) : (s.updFrame pid fun x => { x with tickMax := Nat.max x.tickMax v, tickOver := x.tickOver || b }).schedule j
            = s.schedule j := updFrame_schedule _ _ _ fun _ => rfl
        simp only [ite_schedule, logEv_schedule, hmax, ite_self]

/-- An Exposure that runs to its Shutter leaves the schedule of every partition. -/
theorem runOut_schedule (pid : Nat) (obs : ShutterObs) : (s.runOut pid obs).schedule j = s.schedule j := by
  unfold State.runOut
  split
  · rfl
  · simp only [tickOffset_schedule, lateDigests_schedule, flushStores_schedule, foldl_schedule, advanceRegion_schedule, runStreams_schedule,
      implies_true]

end

end Sys2Proof.Machine

/-! # What the steps of a Shutter leave of a partition (02 R35) -/

namespace Sys2Proof.Machine

/-- What `g` shows of a partition. -/
def State.view {α : Type} (s : State) (g : Partition → α) (j : Nat) : Option α := (s.part j).map g

section
variable {α : Type} {g : Partition → α} {s t : State} {j pid : Nat} {p : Partition}

theorem view_of_part (hp : s.part j = some p) : s.view g j = some (g p) := congrArg (Option.map g) hp

theorem part_of_view {x : α} (h : s.view g j = some x) : ∃ q, s.part j = some q ∧ g q = x := Option.map_eq_some_iff.1 h

theorem view_of_parts (h : t.parts = s.parts) : t.view g j = s.view g j := by
  unfold State.view State.part
  rw [h]

theorem Noted.view (h : Noted s t) : t.view g j = s.view g j := view_of_parts h.parts

theorem foldl_view {β : Type} {f : State → β → State} (l : List β) (s : State)
    (hf : ∀ t a, (f t a).view g j = t.view g j) : (l.foldl f s).view g j = s.view g j :=
  List.foldlRecOn l f (motive := fun t : State => t.view g j = s.view g j) rfl fun t ht a _ => (hf t a).trans ht

/-- A view of one partition that is updated. -/
theorem updPart_view_self (s : State) (pid : Nat) (f : Partition → Partition) :
    (s.updPart pid f).view g pid = s.view (fun p => g (f p)) pid := by
  unfold State.view
  rw [State.updPart_part_self, Option.map_map]
  rfl

theorem updPart_view (s : State) (pid : Nat) {f : Partition → Partition} (hf : ∀ p, g (f p) = g p) :
    (s.updPart pid f).view g j = s.view g j := by
  by_cases h : j = pid
  · subst h
    rw [updPart_view_self, funext hf]
  · unfold State.view
    rw [State.updPart_part_ne _ _ h]

section
variable (hg : ∀ p c, g { p with lastFault := c } = g p)
include hg

theorem noteEntry_view (s : State) (code part n : Nat) : (s.noteEntry code part n).view g j = s.view g j := by
  have tail (t : State) : (if code / 4096 = 2 ∨ code / 4096 = 3 then (t.setCause 0 0 6).setCause 1 0 6 else t).view g j = t.view g j := by
    split
    · exact ((setCause_noted ..).trans (setCause_noted ..)).view
    · rfl
  unfold State.noteEntry
  refine (tail _).trans ?_
  split
  · rfl
  · by_cases h0 : code / 4096 = 0
    · simp only [h0, if_true]
      exact (updFunc_noted ..).view
    · simp only [h0, if_false]
      refine (setCause_noted ..).view.trans ?_
      exact (updFunc_noted ..).view.trans (updPart_view s part fun p => hg p _)

/-- A log entry changes nothing of a partition but its last fault (18 R492). -/
theorem logEv_view (s : State) (code part : Nat) (u : LogUnit) (d : Nat) (cs : List Bytes) :
    (s.logEv code part u d cs).view g j = s.view g j := by
  unfold State.logEv
  simp only
  split
  · exact (noteEntry_view hg ..).trans (log_noted ..).view
  · exact (noteEntry_view hg ..).trans (log_noted ..).view

end

/-! ### The tick (02 R33) -/

/-- A partition at a tick: its fabric time, the time of the Shutter. -/
def Partition.ticked (p : Partition) (f : FTime) (at_ : Nat) : Partition :=
  { p with
    ftime := some f
    frame := { p.frame with
      starting := none, shutter := if p.frame.inExpose then p.frame.shutter + 1 else p.frame.shutter, shutterTime := at_ } }

/-- A partition whose fabric time runs on by `n` cycles of the time reference. -/
def Partition.aged (p : Partition) (n : Nat) : Partition := { p with ftime := p.ftime.map fun f => f.run (10 * n) }

theorem elapse_part (hp : s.part pid = some p) (n : Nat) : (s.elapse n).part pid = some (p.aged n) :=
  (fmGet_map_key s.parts (fun q => (q.1, q.2.aged n)) (fun _ => rfl) pid).trans (congrArg (Option.map _) hp)

theorem tick_part (hp : s.part pid = some p) {f : FTime} (hf : p.ftime = some f) :
    ∃ g at_, (s.tick pid p f).part pid = some (p.ticked g at_) ∧ g.grid = f.grid + 1 ∧ g.launch = f.launch ∧ g.state = f.state := by
  have hupd (t : State) {q : Partition} {h : FTime} (a : BitVec 64) (c : BitVec 3) (n : Partition → Nat) (hq : t.part pid = some q)
      (hh : q.ftime = some h) : (t.updPart pid fun p => { p with
        ftime := p.ftime.map fun f => { f with grid := f.grid + 1, capture := a, capState := c }
        frame := { p.frame with
          starting := none, shutter := if p.frame.inExpose then p.frame.shutter + 1 else p.frame.shutter, shutterTime := n p } }).part pid =
      some (q.ticked { h with grid := h.grid + 1, capture := a, capState := c } (n q)) := by
    rw [State.updPart_part_self, hq]
    unfold Partition.ticked
    simp only [Option.map_some, hh]
  unfold State.tick
  simp only
  split
  · have hrun (n : Nat) : p.ftime.map (fun f => f.run n) = some (f.run n) := congrArg _ hf
    refine ⟨_, _, (hupd (s.elapse _) _ _ (fun q => (f.grid + 1) * q.gridNs) (elapse_part hp _) (hrun _)).trans rfl, ?_⟩
    exact ⟨rfl, rfl, rfl⟩
  · refine ⟨_, _, hupd s _ _ (fun q => (f.grid + 1) * q.gridNs) hp hf, ?_⟩
    exact ⟨rfl, rfl, rfl⟩

/-- The tick touches nothing but the partitions and what measures time. -/
theorem tick_same (s : State) (pid : Nat) (p : Partition) (f : FTime) :
    { s.tick pid p f with parts := s.parts, time := s.time, now := s.now } = s := by
  unfold State.tick
  simp only
  have h (t : State) (k : Partition → Partition) : { t.updPart pid k with parts := s.parts, time := s.time, now := s.now } =
      { t with parts := s.parts, time := s.time, now := s.now } :=
    congrArg (fun x : State => { x with parts := s.parts, time := s.time, now := s.now }) (updPart_same t pid k)
  rw [h]
  split <;> rfl

/-! ### Steps 2 to 4 -/

theorem snapshot_parts (s : State) (pid : Nat) (b : Bool) : (s.snapshot pid b).parts = s.parts := by
  unfold State.snapshot
  split
  · rfl
  · refine List.foldlRecOn _ _ (motive := fun t : State => t.parts = s.parts) ?_ fun t ht a _ => ht
    unfold State.profShutter
    split
    · split <;> rfl
    · rfl

theorem takePost_view (hg : ∀ p i r, g { p with frame := { p.frame with inBuf := i, repeated := r, sampled := false } } = g p)
    (s : State) (pid : Nat) : (s.takePost pid).view g j = s.view g j := by
  unfold State.takePost
  split
  · rfl
  · split
    · rfl
    · have hf := updPart_view (g := g) (j := j) s pid (f := fun p => { p with frame := { p.frame with
        inBuf := if p.frame.sampled then !p.frame.inBuf else p.frame.inBuf, repeated := !p.frame.sampled, sampled := false } }) fun p => hg ..
      simp only
      split
      · exact ((updFunc_noted ..).trans (partCause_noted ..)).view.trans hf
      · exact hf

theorem switchEpoch_view (hg : ∀ p w l e b a n, g { p with switchAt := w, switchLate := l, epoch := e, bank := b, switchedAt := a, switches := n } = g p)
    (s : State) (pid : Nat) : (s.switchEpoch pid).view g j = s.view g j := by
  unfold State.switchEpoch
  split
  · rfl
  · rename_i p hp
    split
    · rfl
    · split
      · refine (updPart_view _ pid fun p => hg ..).trans ?_
        exact (logEv_noted s (by decide) ..).view
      · refine (updPart_view _ pid fun p => hg ..).trans ?_
        refine (foldl_view _ _ fun t q => view_of_parts (t := t.updTx q _) rfl).trans ?_
        exact foldl_view _ _ fun t f => view_of_parts (t := t.updDie f _) rfl

theorem switchEpoch_none (hp : s.part pid = some p) (hs : p.switchAt = none) : s.switchEpoch pid = s := by
  unfold State.switchEpoch
  simp [hp, hs]

/-! ### The commit (02 R56) -/

theorem ringEntry_view (hg : ∀ p r, g { p with ring := r } = g p) (s : State) (pid : Nat) (e : PrintEnt) :
    (s.ringEntry pid e).view g j = s.view g j := by
  unfold State.ringEntry
  split
  · rfl
  · split
    · exact updPart_view _ _ fun p => hg ..
    · have hring (r : Partition → List PrintEnt) : (s.updPart pid fun p => { p with ring := r p }).view g j = s.view g j :=
        updPart_view _ _ fun p => hg ..
      simp only
      split <;> split
      · exact ((logEv_noted _ (by decide) ..).trans (logEv_noted _ (by decide) ..)).view.trans (hring _)
      · exact (logEv_noted _ (by decide) ..).view.trans (hring _)
      · exact (logEv_noted _ (by decide) ..).view.trans (hring _)
      · exact hring _

theorem writeLogical_parts (s : State) (p : Partition) (x : Nat) (bs : Bytes) : (s.writeLogical p x bs).parts = s.parts := by
  unfold State.writeLogical
  split
  · split <;> rfl
  · rfl

/-- A partition whose Exposure commits. -/
def Partition.commit (p : Partition) : Partition :=
  { p with frame := { p.frame with
    outBuf := !p.frame.outBuf, commits := p.frame.commits + 1, exposure := p.frame.exposure + 1, afterRollback := false
    goodRun := p.frame.goodRun + 1
    attempts := if p.negative.attempts ≠ 0 ∧ 2 * 2 ^ p.negative.rejoinLog2 ≤ p.frame.goodRun + 1 then p.negative.attempts else p.frame.attempts } }

theorem commitExposure_view (hg : ∀ p r, g { p with ring := r } = g p) (hp : s.part pid = some p) (hf : p.ftime ≠ none) :
    (s.commitExposure pid).view g pid = some (g p.commit) := by
  obtain ⟨f, hf⟩ := Option.ne_none_iff_exists'.1 hf
  have hupd : (s.updPart pid fun q => { q with frame := p.commit.frame }).view g pid = some (g p.commit) := by
    rw [updPart_view_self, view_of_part hp]
    rfl
  have hdone (x : Nat) (bs : Bytes) (k : Func → Func) :
      ((((s.updPart pid fun q => { q with frame := p.commit.frame }).writeLogical p x bs).updFunc p.hostDie p.fn k).partCause pid 1).view g pid =
        some (g p.commit) :=
    ((updFunc_noted ..).trans (partCause_noted ..)).view.trans ((view_of_parts (writeLogical_parts ..)).trans hupd)
  unfold State.commitExposure
  simp only [hp, hf]
  split
  · exact hdone ..
  · split
    · exact hdone ..
    · exact (ringEntry_view hg ..).trans (hdone ..)

end
end Sys2Proof.Machine

namespace Sys2Proof.Machine

section
variable {α : Type} {g : Partition → α} {s t : State} {j pid : Nat} {p : Partition}

theorem updPart_some (hp : s.part pid = some p) (f : Partition → Partition) : (s.updPart pid f).part pid = some (f p) :=
  (State.updPart_part_self ..).trans (congrArg (Option.map f) hp)

/-! ### A halt, an overrun and the Exposure to come (02 R53, R55, 14 R374) -/

/-- A partition that a source halts. -/
def Partition.haltedBy (p : Partition) (source : Nat) (code : Byte) (block : BitVec 16) : Partition :=
  { p with
    state := .halted, haltSource := source, haltCode := code, haltBlock := block, slide := none
    frame := { p.frame.noHalts with started := false, stopAt := none } }

theorem haltPart_view (s : State) (pid source : Nat) (code : Byte) (block : BitVec 16) :
    (s.haltPart pid source code block).view g pid = s.view (fun p => g (p.haltedBy source code block)) pid := by
  unfold State.haltPart
  split
  · rename_i hp
    unfold State.view
    rw [hp]
    rfl
  · rename_i p hp
    refine (partCause_noted ..).view.trans ((updPart_view_self ..).trans ?_)
    refine (foldl_view _ _ fun _ _ => (complete_noted ..).view).trans ?_
    split
    · split
      · exact (complete_noted ..).view
      · rfl
    · rfl

/-- Attempts at a rollback are enabled and none is left. -/
def Partition.exhausted (p : Partition) : Bool := decide (p.negative.attempts ≠ 0) && decide (p.frame.attempts = 0)

/-- An overrun rolls back by itself. -/
def Partition.rollsBack (p : Partition) : Bool :=
  decide (p.negative.attempts ≠ 0) && p.slideValid && decide (p.frame.attempts ≠ 0) && !p.haltDue

/-- A partition whose Exposure is discarded; `roll` and `out` say how its attempts stand. -/
def Partition.overran (p : Partition) (busy : Option Busy) (roll out : Bool) : Partition :=
  { p with
    state := .halted, haltSource := if out then 6 else 3, haltCode := 0, haltBlock := 0xFFFF, slide := none
    busy := busy
    frame := { p.frame with
      partialState := true, started := false, haltRoutes := [], haltCmd := false, haltReq := false, tdiHalt := false
      goodRun := 0
      rollback := if roll then .restoring else .idle
      attempts := if roll then p.frame.attempts - 1 else p.frame.attempts } }

theorem overrun_view (hg : ∀ p c, g { p with lastFault := c } = g p) (hp : s.part pid = some p) (cond x : Nat) :
    (s.overrun pid cond x).view g pid =
      some (g (p.overran (if p.rollsBack then some (.restore none .good) else p.busy) p.rollsBack p.exhausted)) := by
  let k (q : Partition) : Partition := q.overran (if p.rollsBack then some (.restore none .good) else q.busy) p.rollsBack p.exhausted
  have hk : ∀ q c, g (k { q with lastFault := c }) = g (k q) := fun q c => hg (k q) c
  unfold State.overrun
  simp only [hp]
  refine (partCause_noted ..).view.trans ((updPart_view_self ..).trans ?_)
  change State.view _ (fun q => g (k q)) pid = some (g (k p))
  rw [← view_of_part (g := fun q => g (k q)) hp]
  have hlog (t : State) (code d : Nat) : (t.logEv code pid noUnit d).view (fun q => g (k q)) pid = t.view (fun q => g (k q)) pid :=
    logEv_view hk ..
  have hcut : ((((s.stopUnits pid).portsOf p).foldl (fun (s : State) q => s.updTx q fun t => { t with staging := [] })
      (s.stopUnits pid)).logEv 0x1201 pid noUnit (cond + 65536 * x)).view (fun q => g (k q)) pid = s.view (fun q => g (k q)) pid :=
    (hlog ..).trans ((foldl_view _ _ fun t q => view_of_parts (t := t.updTx q _) rfl).trans (view_of_parts (stopUnits_parts ..)))
  refine Eq.trans ?_ hcut
  have hslide (t u : State) (ht : t.view (fun q => g (k q)) pid = u.view (fun q => g (k q)) pid) (m : Nat) :
      (p.frame.haltRoutes.foldl (fun (s : State) r => s.complete r m stOk []) t).view (fun q => g (k q)) pid = u.view (fun q => g (k q)) pid :=
    (foldl_view _ _ fun _ _ => (complete_noted ..).view).trans ht
  split
  · refine (hlog ..).trans (hslide _ _ ?_ _)
    split
    · exact (complete_noted ..).view
    · rfl
  · refine hslide _ _ ?_ _
    split
    · exact (complete_noted ..).view
    · rfl

/-- A partition whose next Exposure step 7 is to start. -/
def Partition.startingAt (p : Partition) (x : Nat × Nat × Bool) : Partition := { p with frame := { p.frame with starting := some x } }

theorem lowerStep_parts (s : State) (pid f : Nat) : (s.lowerStep pid f).1.parts = s.parts := by
  have hlog : (s.logEv 0x0901 pid noUnit 0).parts = s.parts := (logEv_noted s (by decide) ..).parts
  unfold State.lowerStep
  simp only
  split
  · exact hlog
  · exact hlog

theorem governor_parts (s : State) (pid : Nat) (p : Partition) : (s.governor pid p).1.parts = s.parts := by
  unfold State.governor
  simp only
  split
  · rfl
  · split
    · split
      · exact lowerStep_parts ..
      · rfl
    · split
      · exact lowerStep_parts ..
      · split
        · split
          · exact lowerStep_parts ..
          · rfl
        · split <;> rfl

theorem nextExposure_view (hg : ∀ p c, g { p with lastFault := c } = g p) (hp : s.part pid = some p) (obs : ShutterObs) (moved : Bool) :
    (∃ source, (s.nextExposure pid obs moved).view g pid = some (g (p.haltedBy source 0 0xFFFF))) ∨
      ∃ x, (s.nextExposure pid obs moved).view g pid = some (g (p.startingAt x)) := by
  have hgov {α : Type} (g : Partition → α) : (s.governor pid p).1.view g pid = some (g p) :=
    (view_of_parts (governor_parts ..)).trans (view_of_part hp)
  have hhalt (source : Nat) (q : Partition) (c : BitVec 16) :
      g (Partition.haltedBy { q with lastFault := c } source 0 0xFFFF) = g (q.haltedBy source 0 0xFFFF) :=
    hg (q.haltedBy source 0 0xFFFF) c
  have hstart (t : State) (x : Nat × Nat × Bool) : (t.updFrame pid fun f => { f with starting := some x }).view g pid =
      t.view (fun q => g (q.startingAt x)) pid := updPart_view_self ..
  obtain ⟨q, hq, -⟩ := part_of_view (hgov id)
  unfold State.nextExposure
  simp only [hp]
  split
  · refine .inl ⟨4, ?_⟩
    unfold State.belowFloor
    simp only [hq]
    refine (haltPart_view ..).trans ?_
    refine (updFunc_noted ..).view.trans ?_
    exact (logEv_view (hhalt 4) ..).trans (hgov _)
  · split_ifs
    · refine .inl ⟨5, (haltPart_view ..).trans ?_⟩
      exact (logEv_view (hhalt 5) ..).trans (hgov _)
    · exact .inr ⟨_, (hstart ..).trans (hgov _)⟩
    · exact .inr ⟨_, (hstart ..).trans (hgov _)⟩

/-- Step 5 halts the partition or decides on its next Exposure (02 R55). -/
theorem stepFive_view (hg : ∀ p c, g { p with lastFault := c } = g p) (hp : s.part pid = some p) (hslide : p.slide = none) (obs : ShutterObs) :
    (∃ source code block, (s.stepFive pid obs).view g pid = some (g (p.haltedBy source code block)) ∧
      (p.frame.haltCmd = true → source = 1)) ∨
      p.frame.haltCmd = false ∧ ∃ x, (s.stepFive pid obs).view g pid = some (g (p.startingAt x)) := by
  unfold State.stepFive
  simp only [hp, hslide]
  split
  · rename_i x hx
    refine .inl ⟨x.1, x.2.1, x.2.2, (haltPart_view ..).trans (view_of_part hp), fun hc => ?_⟩
    unfold haltNow at hx
    simp only [hc, if_true, Option.some.injEq] at hx
    rw [← hx]
  · rename_i hx
    have hcmd : p.frame.haltCmd = false := by
      rw [← Bool.not_eq_true]
      intro hc
      unfold haltNow at hx
      simp [hc] at hx
    obtain ⟨source, h⟩ | ⟨x, h⟩ := nextExposure_view hg hp obs true
    · exact .inl ⟨source, 0, 0xFFFF, h, fun hc => absurd hc (by simp [hcmd])⟩
    · exact .inr ⟨hcmd, x, h⟩

/-! ### What every Shutter ends with -/

/-- A partition after its Shutter (02 R43, R55, R171). -/
def Partition.afterTick (p : Partition) (code : Byte × BitVec 16) : Partition :=
  { p with
    switchLate := false
    expose := p.expose.map fun x => { x with late := false }
    ftime := p.ftime.map fun f => { f with
      measured := false, launch := if p.negative.isMaster && f.launchPassed then none else f.launch }
    frame := { p.frame with
      sampled := false, late := false
      haltCmd := p.frame.haltCmd || p.frame.haltLate, haltReq := p.frame.haltReq || p.frame.reqLate
      tdiHalt := p.frame.tdiHalt || p.frame.tdiLate, haltRoutes := p.frame.haltRoutes ++ p.frame.lateRoutes
      heldCode := if p.frame.reqLate then some code else p.frame.heldCode
      haltLate := false, reqLate := false, tdiLate := false, lateRoutes := []
      arrived := if p.frame.started then p.frame.arrived else 0 } }

theorem afterShutter_part (hp : s.part pid = some p) : ∃ code, (s.afterShutter pid).part pid = some (p.afterTick code) := by
  unfold State.afterShutter
  simp only [hp]
  refine ⟨bundleHalt _ p, updPart_some (p := p) ?_ _⟩
  have htx (l : List Nat) (f : PortTx → PortTx) : (l.foldl (fun (s : State) q => s.updTx q f) s).part pid = s.part pid :=
    List.foldlRecOn _ _ (motive := fun t : State => t.part pid = s.part pid) rfl fun t ht q _ => ht
  exact (htx ..).trans hp

/-- A partition whose beacon has been sent. -/
def Partition.beaconed (p : Partition) : Partition := { p with ftime := p.ftime.map fun f => { f with sinceBeacon := 0 } }

theorem sendBeacons_part (hp : s.part pid = some p) (interim : Bool) :
    (s.sendBeacons pid interim).part pid = some p ∨ (s.sendBeacons pid interim).part pid = some p.beaconed := by
  unfold State.sendBeacons
  simp only [hp]
  split
  · refine .inr (updPart_some (p := p) ?_ _)
    refine (List.foldlRecOn _ _ (motive := fun t : State => t.part pid = s.part pid) rfl fun t ht q _ => ?_).trans hp
    split
    · exact ht
    · exact ht
  · exact .inl hp

end
end Sys2Proof.Machine

namespace Sys2Proof.Machine

section
variable {α : Type} {g : Partition → α} {s t : State} {j pid : Nat} {p : Partition}

/-! ### The start of an Exposure (02 R36) -/

/-- Grid, seed, Exposure index and commits, output buffer, Shutter number within an EXPOSE, its end, and the sampling of a post. -/
abbrev Carried : Type := Option Nat × BitVec 128 × BitVec 64 × BitVec 32 × Bool × BitVec 64 × Bool × Option Nat × Bool × Bool

/-- What step 7 carries into the Exposure that it starts. -/
def Partition.carried (p : Partition) : Carried :=
  (p.ftime.map (·.grid), p.seed, p.frame.exposure, p.frame.commits, p.frame.outBuf, p.frame.shutter, p.frame.inExpose, p.frame.stopAt,
    p.frame.sampled, p.frame.late)

/-- The same with how the partition runs. -/
def Partition.running (p : Partition) : PartState × Nat × Option ExposeReq × Carried :=
  (p.state, p.step, p.expose, p.carried)

theorem addStretch_view (hn : ∀ p m, g { p with frame := { p.frame with stretchNs := m } } = g p)
    (ho : ∀ p, g { p with frame := { p.frame with stretchOver := true } } = g p) (s : State) (r ns : Nat) :
    (s.addStretch r ns).view g j = s.view g j := by
  have hstretch (t : State) (pid : Nat) (m : Frame → FMap Nat) :
      (t.updFrame pid fun f => { f with stretchNs := m f }).view g j = t.view g j := updPart_view _ _ fun p => hn ..
  have hover (t : State) (pid : Nat) : (t.updFrame pid fun f => { f with stretchOver := true }).view g j = t.view g j :=
    updPart_view _ _ fun p => ho ..
  unfold State.addStretch
  split
  · rfl
  · split
    · rfl
    · simp only
      split
      · rfl
      · split
        · exact (hover ..).trans ((logOnce_noted _ (by decide) ..).view.trans (hstretch ..))
        · exact hstretch ..

theorem beginExposure_view (hp : s.part pid = some p) (step stop : Nat) :
    (s.beginExposure pid step stop).view Partition.running pid = some (.running, step, p.expose, p.carried) := by
  unfold State.beginExposure
  simp only [hp]
  have hlog : (if p.frame.repeated = true then s.logEv 0x0205 pid noUnit 0 else s).part pid = some p := by
    split
    · exact ((logEv_noted s (by decide) ..).part pid).trans hp
    · exact hp
  have hone (t u : State) (k : Partition → Partition) (ht : u.part pid = some p) (htu : t.parts = u.parts)
      (hk : (k p).running = (.running, step, p.expose, p.carried)) :
      (t.updPart pid k).view Partition.running pid = some (.running, step, p.expose, p.carried) :=
    (updPart_view_self ..).trans ((view_of_parts htu).trans ((view_of_part ht).trans (congrArg some hk)))
  split
  · exact hone _ _ _ hlog rfl rfl
  · exact (foldl_view _ _ fun _ _ => addStretch_view (fun _ _ => rfl) (fun _ => rfl) ..).trans (hone _ _ _ hlog rfl rfl)

/-- A partition-fatal fault leaves the grid, the counts and the output buffers. -/
theorem faultPart_carried (s : State) (k mark : Nat) : (s.faultPart k mark).view Partition.carried j = s.view Partition.carried j := by
  unfold State.faultPart
  split
  · rfl
  · have habort : (s.abortWaiting k mark stAborted).view Partition.carried j = s.view Partition.carried j := by
      unfold State.abortWaiting
      split
      · rfl
      · refine (updPart_view _ _ ?_).trans (foldl_view _ _ fun _ _ => (complete_noted ..).view)
        exact fun _ => rfl
    refine (setCause_noted ..).view.trans ((view_of_parts (recordPart_parts ..)).trans ?_)
    have hstate (u : State) : (u.updPart k fun p => { p with state := .faulted }).view Partition.carried j = u.view Partition.carried j :=
      updPart_view _ _ fun _ => rfl
    have hkeys (u : State) : (u.destroyKeys k).view Partition.carried j = u.view Partition.carried j := updPart_view _ _ fun _ => rfl
    exact (hstate _).trans ((view_of_parts (stopUnits_parts ..)).trans ((hkeys _).trans habort))

/-- A partition runs the Exposure that a Shutter has started, or a fault has taken it; `c` is what it carries. -/
def Begun (s : State) (pid : Nat) (c : Carried) : Prop :=
  ∃ q, s.part pid = some q ∧ q.carried = c ∧ (q.state = .running ∨ q.state = .faulted)

theorem Begun.logEv {c} (h : Begun s pid c) (code part : Nat) (u : LogUnit) (d : Nat) : Begun (s.logEv code part u d) pid c := by
  obtain ⟨q, hq, hc, hst⟩ := h
  obtain ⟨x, hx, heq⟩ := part_of_view ((logEv_view (g := fun p => (p.carried, p.state)) (fun _ _ => rfl) s code part u d []).trans (view_of_part hq))
  obtain ⟨hcarried, hstate⟩ := Prod.mk.inj heq
  exact ⟨x, hx, hcarried.trans hc, by rwa [hstate]⟩

theorem Begun.faultPart {c} (h : Begun s pid c) (k mark : Nat) : Begun (s.faultPart k mark) pid c := by
  obtain ⟨q, hq, hc, hst⟩ := h
  by_cases hk : pid = k
  · subst hk
    obtain ⟨x, hx, hf, -⟩ := faultPart_part hq mark
    have hcarried := (view_of_part hx).symm.trans ((faultPart_carried s pid mark).trans (view_of_part hq))
    exact ⟨x, hx, (Option.some.inj hcarried).trans hc, .inr hf⟩
  · exact ⟨q, ((faultPart_spares (quiet := False) s mark).others pid hk).trans hq, hc, hst⟩

theorem Begun.generatorFault {c} (h : Begun s pid c) (r : Nat) : Begun (s.generatorFault r) pid c := by
  unfold State.generatorFault State.faultEach
  split
  · exact h.logEv ..
  · exact List.foldlRecOn _ _ (motive := fun t : State => Begun t pid c) h fun t ht k _ => (ht.logEv ..).faultPart ..

/-! ### Step 7 (02 R35) -/

theorem stepSeven_idle (hp : s.part pid = some p) (hno : p.frame.starting = none) : s.stepSeven pid = s := by
  unfold State.stepSeven
  simp [hp, hno]

theorem stepSeven_begins (hp : s.part pid = some p) (hx : p.frame.starting ≠ none) : Begun (s.stepSeven pid) pid p.carried := by
  obtain ⟨⟨step, stop, relocked⟩, hx⟩ := Option.ne_none_iff_exists'.1 hx
  obtain ⟨q, hq, heq⟩ := part_of_view (beginExposure_view hp step stop)
  have hbegun : Begun (s.beginExposure pid step stop) pid p.carried := by
    obtain ⟨hst, hrest⟩ := Prod.mk.inj heq
    obtain ⟨-, hrest⟩ := Prod.mk.inj hrest
    obtain ⟨-, hcarried⟩ := Prod.mk.inj hrest
    exact ⟨q, hq, hcarried, .inl hst⟩
  unfold State.stepSeven
  simp only [hp, hx]
  split
  · exact hbegun
  · exact hbegun.generatorFault _

/-- An Exposure starts without a stop of the generators (11 R325). -/
theorem stepSeven_launch (hp : s.part pid = some p) {step : Nat} (hx : p.frame.starting = some (step, 0, true)) :
    s.stepSeven pid = s.beginExposure pid step 0 := by
  unfold State.stepSeven
  simp [hp, hx]

/-- Whatever step 7 does, the partition carries on. -/
theorem stepSeven_carried (hp : s.part pid = some p) : ∃ q, (s.stepSeven pid).part pid = some q ∧ q.carried = p.carried ∧
    (p.frame.starting = none → q = p) ∧ (q.state = p.state ∨ q.state = .running ∨ q.state = .faulted) := by
  by_cases hx : p.frame.starting = none
  · exact ⟨p, (congrArg (State.part · pid) (stepSeven_idle hp hx)).trans hp, rfl, fun _ => rfl, .inl rfl⟩
  · obtain ⟨q, hq, hc, hst⟩ := stepSeven_begins hp hx
    exact ⟨q, hq, hc, fun h => absurd h hx, .inr hst⟩

end
end Sys2Proof.Machine

namespace Sys2Proof.Machine

section
variable {α : Type} {g : Partition → α} {s t : State} {j pid : Nat} {p : Partition}

/-! ### The end of every Shutter -/

/-- What is known of a partition when its Shutter has closed. -/
def Partition.closing (p : Partition) :
    Carried × PartState × Nat × Option Busy × Bool × Option (Nat × Nat × Bool) × Bool × Nat × Rollback :=
  (p.carried, p.state, p.haltSource, p.busy, p.expose.isNone, p.frame.starting, p.frame.partialState, p.frame.attempts, p.frame.rollback)

/-- A partition past the sampling point of its Shutter. -/
def Partition.settled (p : Partition) : Partition := { p with frame := { p.frame with sampled := false, late := false } }

theorem afterTick_closing (p : Partition) (code : Byte × BitVec 16) : (p.afterTick code).closing = p.settled.closing := by
  simp [Partition.closing, Partition.carried, Partition.afterTick, Partition.settled, Function.comp_def]

theorem beaconed_closing (p : Partition) : p.beaconed.closing = p.closing := by
  simp [Partition.closing, Partition.carried, Partition.beaconed, Function.comp_def]

/-- The state in which step 7 of a Shutter acts. -/
def State.beforeSeven (s : State) (pid : Nat) : State := (s.afterShutter pid).sendBeacons pid false

theorem beforeSeven_part (hp : s.part pid = some p) : ∃ q, (s.beforeSeven pid).part pid = some q ∧ q.closing = p.settled.closing := by
  obtain ⟨code, hafter⟩ := afterShutter_part hp
  obtain h | h := sendBeacons_part hafter false
  · exact ⟨_, h, afterTick_closing ..⟩
  · exact ⟨_, h, (beaconed_closing _).trans (afterTick_closing ..)⟩

theorem sendBeacons_same (s : State) (pid : Nat) (interim : Bool) : (s.sendBeacons pid interim).mem = s.mem ∧
    (s.sendBeacons pid interim).log = s.log ∧ (s.sendBeacons pid interim).eps = s.eps := by
  have hupd (u : State) (f : Partition → Partition) (hu : u.mem = s.mem ∧ u.log = s.log ∧ u.eps = s.eps) :
      (u.updPart pid f).mem = s.mem ∧ (u.updPart pid f).log = s.log ∧ (u.updPart pid f).eps = s.eps := by
    simpa using hu
  unfold State.sendBeacons
  split
  · exact ⟨rfl, rfl, rfl⟩
  · split
    · refine hupd _ _ (List.foldlRecOn _ _ (motive := fun t : State => t.mem = s.mem ∧ t.log = s.log ∧ t.eps = s.eps) ⟨rfl, rfl, rfl⟩
        fun t ht q _ => ?_)
      exact iteInduction (motive := fun t : State => t.mem = s.mem ∧ t.log = s.log ∧ t.eps = s.eps) (fun _ => ht) fun _ => ht
    · exact ⟨rfl, rfl, rfl⟩

theorem afterShutter_same (s : State) (pid : Nat) : (s.afterShutter pid).mem = s.mem ∧ (s.afterShutter pid).log = s.log ∧
    (s.afterShutter pid).out = s.out := by
  have hupd (u : State) (f : Partition → Partition) (hu : u.mem = s.mem ∧ u.log = s.log ∧ u.out = s.out) :
      (u.updPart pid f).mem = s.mem ∧ (u.updPart pid f).log = s.log ∧ (u.updPart pid f).out = s.out := by
    simpa using hu
  have htx (l : List Nat) (f : PortTx → PortTx) : let t := l.foldl (fun (s : State) q => s.updTx q f) s
      t.mem = s.mem ∧ t.log = s.log ∧ t.out = s.out :=
    List.foldlRecOn _ _ (motive := fun t : State => t.mem = s.mem ∧ t.log = s.log ∧ t.out = s.out) ⟨rfl, rfl, rfl⟩ fun t ht q _ => ht
  unfold State.afterShutter
  split
  · exact ⟨rfl, rfl, rfl⟩
  · exact hupd _ _ (htx ..)

/-- The end of a Shutter writes neither memory nor the log. -/
theorem beforeSeven_same (s : State) (pid : Nat) : (s.beforeSeven pid).mem = s.mem ∧ (s.beforeSeven pid).log = s.log := by
  obtain ⟨hm, hl, -⟩ := afterShutter_same s pid
  obtain ⟨km, kl, -⟩ := sendBeacons_same (s.afterShutter pid) pid false
  exact ⟨km.trans hm, kl.trans hl⟩

/-! ### SHUTTER (02 R35) -/

/-- The tick of a SHUTTER event, with the average power that it tells of. -/
def State.tickOf (s : State) (pid : Nat) (obs : ShutterObs) (p : Partition) (f : FTime) : State :=
  ({ s with power := { s.power with a1 := obs.a1 } }).tick pid p f

theorem exec_shutter (hp : s.part pid = some p) {f : FTime} (hf : p.ftime = some f) (hfab : p.fab ≠ none) (obs : ShutterObs) :
    exec (.shutter pid obs) s = .next ((((s.tickOf pid obs p f).shutterSteps pid obs).beforeSeven pid).stepSeven pid) := by
  obtain ⟨n, hn⟩ := Option.ne_none_iff_exists'.1 hfab
  change execShutter pid obs s = _
  unfold execShutter
  simp only [hp, hf, hn]
  rfl

theorem shutter_still (obs : ShutterObs) (h : ∀ p, s.part pid = some p → p.ftime = none ∨ p.fab = none) : exec (.shutter pid obs) s = .next s := by
  change execShutter pid obs s = _
  unfold execShutter
  split
  · rfl
  · rename_i p hp
    split
    · rename_i f n hf hn
      rcases h p hp with h | h
      · exact absurd h (by simp [hf])
      · exact absurd h (by simp [hn])
    · rfl

theorem tickOf_part (hp : s.part pid = some p) {f : FTime} (hf : p.ftime = some f) (obs : ShutterObs) :
    ∃ g at_, (s.tickOf pid obs p f).part pid = some (p.ticked g at_) ∧ g.grid = f.grid + 1 ∧ g.launch = f.launch ∧ g.state = f.state :=
  tick_part (s := { s with power := { s.power with a1 := obs.a1 } }) hp hf

/-- What the end of a Shutter says of the grid. -/
theorem ticked_of_carried {f : FTime} {q : Partition} (hq : t.part pid = some q) {c : Carried} (hc : q.carried = c)
    (hgrid : c.1 = some (f.grid + 1)) (hs : c.2.2.2.2.2.2.2.2.1 = false) (hl : c.2.2.2.2.2.2.2.2.2 = false) : Claims.Ticked t pid f q := by
  subst hc
  obtain ⟨g, hg, hgr⟩ := Option.map_eq_some_iff.1 hgrid
  exact ⟨hq, hs, hl, g, hg, hgr⟩

/-! ### The Shutter of a running partition (02 R50, R53, R56) -/

/-- What steps 2 to 4 decide for step 5. -/
def Partition.decided (p : Partition) : Option FTime × PartState × Option SlideOp × Nat × Option Busy × BitVec 64 × BitVec 32 × Bool × Bool ×
    Option (Nat × Nat × Bool) × Bool × Nat × Rollback :=
  (p.ftime, p.state, p.slide, p.haltSource, p.busy, p.frame.exposure, p.frame.commits, p.frame.outBuf, p.frame.haltCmd, p.frame.starting,
    p.frame.partialState, p.frame.attempts, p.frame.rollback)

/-- Steps 1 to 4 of a running partition: its Exposure ends, a post is taken, the epoch switches. -/
def State.stepsToFour (s : State) (pid : Nat) (obs : ShutterObs) : State := ((s.endExposure pid obs).takePost pid).switchEpoch pid

theorem stepsToFour_decided (s : State) (pid : Nat) (obs : ShutterObs) :
    (s.stepsToFour pid obs).view Partition.decided pid = (s.endExposure pid obs).view Partition.decided pid :=
  (switchEpoch_view (fun _ _ _ _ _ _ _ => rfl) ..).trans (takePost_view (fun _ _ _ => rfl) ..)

theorem endExposure_complete {y : Partition} {obs : ShutterObs} (hy : (s.runOut pid obs).part pid = some y) (hst : y.state = .running)
    (hf : y.ftime ≠ none) (hok : (s.runOut pid obs).incomplete y = none) :
    (s.endExposure pid obs).view Partition.decided pid = some y.commit.decided := by
  unfold State.endExposure
  simp only [hy, hst, hok, ne_eq, not_true_eq_false, if_false]
  refine commitExposure_view (fun _ _ => rfl) ?_ hf
  exact (congrArg (fmGet · pid) (snapshot_parts ..)).trans hy

theorem endExposure_incomplete {y : Partition} {obs : ShutterObs} (hy : (s.runOut pid obs).part pid = some y) (hst : y.state = .running)
    (hno : (s.runOut pid obs).incomplete y ≠ none) :
    (s.endExposure pid obs).view Partition.decided pid =
      some (y.overran (if y.rollsBack then some (.restore none .good) else y.busy) y.rollsBack y.exhausted).decided := by
  obtain ⟨⟨cond, x⟩, hno⟩ := Option.ne_none_iff_exists'.1 hno
  unfold State.endExposure
  simp only [hy, hst, hno, ne_eq, not_true_eq_false, if_false]
  refine overrun_view (fun _ _ => rfl) ?_ cond x
  exact (congrArg (fmGet · pid) (snapshot_parts ..)).trans hy

theorem shutterSteps_running (hp : s.part pid = some p) (hst : p.state = .running) (hslide : p.slide = none) (obs : ShutterObs) {q : Partition}
    (hq : (s.stepsToFour pid obs).part pid = some q) :
    s.shutterSteps pid obs = if q.state = .running then (s.stepsToFour pid obs).stepFive pid obs else s.stepsToFour pid obs := by
  have hq' : (((s.endExposure pid obs).takePost pid).switchEpoch pid).part pid = some q := hq
  unfold State.shutterSteps
  simp only [hp, hst, hslide, if_true, hq']
  rfl

end
end Sys2Proof.Machine

namespace Sys2Proof.Machine

section
variable {s t : State} {pid : Nat} {p : Partition}

theorem settled_carried {r z : Partition} (h : r.carried = z.carried) : r.settled.carried = z.settled.carried := by
  simp only [Partition.carried, Partition.settled, Prod.mk.injEq] at h ⊢
  tauto

theorem settled_closing {r z : Partition} (h : r.closing = z.closing) : r.settled.closing = z.settled.closing :=
  Prod.ext (settled_carried (congrArg Prod.fst h)) (show r.closing.2 = z.closing.2 from congrArg Prod.snd h)

/-- A Shutter closes on the partition that its steps leave. -/
theorem shutter_closes {z : Partition} (h : t.view Partition.closing pid = some z.closing) :
    ∃ q, ((t.beforeSeven pid).stepSeven pid).part pid = some q ∧ q.carried = z.settled.carried ∧
      (z.frame.starting = none → q.closing = z.settled.closing) ∧ (q.state = z.state ∨ q.state = .running ∨ q.state = .faulted) := by
  obtain ⟨r, hr, hrz⟩ := part_of_view h
  obtain ⟨m, hm, hclose⟩ := beforeSeven_part hr
  obtain ⟨q, hq, hcarried, hidle, hst⟩ := stepSeven_carried hm
  replace hclose := hclose.trans (settled_closing hrz)
  have hstart : m.frame.starting = z.frame.starting := congrArg (fun x => x.2.2.2.2.2.1) hclose
  have hmst : m.state = z.state := congrArg (fun x => x.2.1) hclose
  refine ⟨q, hq, hcarried.trans (congrArg Prod.fst hclose), fun h => ?_, hmst ▸ hst⟩
  rw [hidle (hstart.trans h), hclose]

/-- Step 7 has nothing to start. -/
theorem shutter_closes_still {z : Partition} (h : t.view Partition.closing pid = some z.closing) (hz : z.frame.starting = none) :
    (t.beforeSeven pid).stepSeven pid = t.beforeSeven pid := by
  obtain ⟨r, hr, hrz⟩ := part_of_view h
  obtain ⟨m, hm, hclose⟩ := beforeSeven_part hr
  exact stepSeven_idle hm ((congrArg (fun c => c.2.2.2.2.2.1) (hclose.trans (settled_closing hrz))).trans hz)

/-- A partition that was running and has come to the end of its Exposure `y`, with the grid at `n`. -/
structure Ends (y : Partition) (n : Nat) : Prop where
  grid : y.ftime.map (·.grid) = some n
  starting : y.frame.starting = none

theorem runOut_ends {obs : ShutterObs} {g : FTime} {at_ : Nat} {y : Partition} (hp : s.part pid = some (p.ticked g at_))
    (hy : (s.runOut pid obs).part pid = some y) : Ends y g.grid := by
  have h := runOut_schedule s pid pid obs
  unfold State.schedule at h
  rw [hp, hy] at h
  obtain ⟨hf, h⟩ := Prod.mk.inj (Option.some.inj h)
  obtain ⟨-, hstart⟩ := Prod.mk.inj h
  exact ⟨congrArg (Option.map (·.grid)) hf, hstart⟩

/-- The Exposure is complete: it commits, and the partition goes on or halts (02 R55, R56). -/
theorem shutter_commits {y : Partition} {f : FTime} {obs : ShutterObs} (hrun : s.part pid = some p) (hpst : p.state = .running)
    (hpsl : p.slide = none) (hy : (s.runOut pid obs).part pid = some y) (hst : y.state = .running) (hslide : y.slide = none)
    (hend : Ends y (f.grid + 1)) (hok : (s.runOut pid obs).incomplete y = none) :
    ∃ q, Claims.Ticked (((s.shutterSteps pid obs).beforeSeven pid).stepSeven pid) pid f q ∧
      q.frame.exposure = y.frame.exposure + 1 ∧ q.frame.commits = y.frame.commits + 1 ∧ q.frame.outBuf = !y.frame.outBuf ∧
      (y.frame.haltCmd = true → q.state = .halted ∧ q.haltSource = 1) ∧ (q.state = .running ∨ q.state = .halted ∨ q.state = .faulted) := by
  have hftime : y.ftime ≠ none := fun h => by
    have hg := hend.grid
    rw [h] at hg
    cases hg
  obtain ⟨z, hz, hdec⟩ := part_of_view ((stepsToFour_decided s pid obs).trans (endExposure_complete hy hst hftime hok))
  simp only [Partition.decided, Partition.commit, Prod.mk.injEq] at hdec
  obtain ⟨hzf, hzst, hzsl, -, -, hexp, hcom, hout, hcmd, hstart, -⟩ := hdec
  have hzrun : z.state = .running := hzst.trans hst
  have hsteps : s.shutterSteps pid obs = (s.stepsToFour pid obs).stepFive pid obs :=
    (shutterSteps_running hrun hpst hpsl obs hz).trans (if_pos hzrun)
  rw [hsteps]
  have hgrid : z.ftime.map (·.grid) = some (f.grid + 1) := hzf ▸ hend.grid
  obtain ⟨source, code, block, hview, hsrc⟩ | ⟨hno, x, hview⟩ :=
    stepFive_view (g := Partition.closing) (fun _ _ => rfl) hz (hzsl.trans hslide) obs
  · obtain ⟨q, hq, hcarried, hidle, hqst⟩ := shutter_closes hview
    have hclose := hidle (hstart.trans hend.starting)
    refine ⟨q, ticked_of_carried hq hcarried hgrid rfl rfl, ?_, ?_, ?_, fun hc => ?_, ?_⟩
    · exact (congrArg (fun c : Carried => c.2.2.1) hcarried).trans hexp
    · exact (congrArg (fun c : Carried => c.2.2.2.1) hcarried).trans hcom
    · exact (congrArg (fun c : Carried => c.2.2.2.2.1) hcarried).trans hout
    · exact ⟨congrArg (fun c => c.2.1) hclose, (congrArg (fun c => c.2.2.1) hclose).trans (hsrc (hcmd.trans hc))⟩
    · exact .inr (.inl (congrArg (fun c => c.2.1) hclose))
  · obtain ⟨q, hq, hcarried, -, hqst⟩ := shutter_closes hview
    refine ⟨q, ticked_of_carried hq hcarried hgrid rfl rfl, ?_, ?_, ?_, fun hc => ?_, ?_⟩
    · exact (congrArg (fun c : Carried => c.2.2.1) hcarried).trans hexp
    · exact (congrArg (fun c : Carried => c.2.2.2.1) hcarried).trans hcom
    · exact (congrArg (fun c : Carried => c.2.2.2.2.1) hcarried).trans hout
    · exact absurd (hcmd.trans hc) (by simp [hno])
    · obtain h | h | h := hqst
      · exact .inl (h.trans hzrun)
      · exact .inl h
      · exact .inr (.inr h)

/-- The Exposure is incomplete: it is discarded (02 R53, R54). -/
theorem shutter_discards {y : Partition} {f : FTime} {obs : ShutterObs} (hrun : s.part pid = some p) (hpst : p.state = .running)
    (hpsl : p.slide = none) (hy : (s.runOut pid obs).part pid = some y) (hst : y.state = .running)
    (hend : Ends y (f.grid + 1)) (hno : (s.runOut pid obs).incomplete y ≠ none) :
    ∃ q, Claims.Ticked (((s.shutterSteps pid obs).beforeSeven pid).stepSeven pid) pid f q ∧
      q.frame.exposure = y.frame.exposure ∧ q.frame.commits = y.frame.commits ∧ q.frame.outBuf = y.frame.outBuf ∧
      q.state = .halted ∧ q.frame.partialState = true ∧ q.haltSource = (if y.exhausted then 6 else 3) ∧
      q.busy = (if y.rollsBack then some (.restore none .good) else y.busy) ∧
      q.frame.attempts = (if y.rollsBack then y.frame.attempts - 1 else y.frame.attempts) ∧
      q.frame.rollback = (if y.rollsBack then .restoring else .idle) := by
  obtain ⟨z, hz, hdec⟩ := part_of_view ((stepsToFour_decided s pid obs).trans (endExposure_incomplete hy hst hno))
  simp only [Partition.decided, Partition.overran, Prod.mk.injEq] at hdec
  obtain ⟨hzf, hzst, -, hsrc, hbusy, hexp, hcom, hout, -, hstart, hpart, hatt, hroll⟩ := hdec
  have hsteps : s.shutterSteps pid obs = s.stepsToFour pid obs :=
    (shutterSteps_running hrun hpst hpsl obs hz).trans (if_neg (by simp [hzst]))
  have hgrid : z.ftime.map (·.grid) = some (f.grid + 1) := hzf ▸ hend.grid
  obtain ⟨q, hq, hcarried, hidle, -⟩ := shutter_closes (view_of_part (g := Partition.closing) hz)
  have hclose := hidle (hstart.trans hend.starting)
  simp only [Partition.closing, Partition.settled, Prod.mk.injEq] at hclose
  obtain ⟨-, hqst, hqsrc, hqbusy, -, -, hqpart, hqatt, hqroll⟩ := hclose
  rw [hsteps]
  refine ⟨q, ticked_of_carried hq hcarried hgrid rfl rfl, ?_, ?_, ?_, hqst.trans hzst, hqpart.trans hpart, hqsrc.trans hsrc,
    hqbusy.trans hbusy, hqatt.trans hatt, hqroll.trans hroll⟩
  · exact (congrArg (fun c : Carried => c.2.2.1) hcarried).trans hexp
  · exact (congrArg (fun c : Carried => c.2.2.2.1) hcarried).trans hcom
  · exact (congrArg (fun c : Carried => c.2.2.2.2.1) hcarried).trans hout

end
end Sys2Proof.Machine

namespace Sys2Proof.Machine

section
variable {s t : State} {pid : Nat} {p : Partition}

/-! ### The Shutter of a partition that does not run (02 R55, 11 R325) -/

/-- A HALTED partition at which a halt of the last µs takes effect. -/
def Partition.haltedLate (p : Partition) : Partition :=
  { p with
    busy := match p.busy with | some (.restore none _) => none | b => b
    frame := { p.frame.noHalts with rollback := .idle } }

theorem lateHalt_part (hp : s.part pid = some p) : ∃ r, (s.lateHalt pid).part pid = some r ∧ (r = p ∨ r = p.haltedLate) := by
  unfold State.lateHalt
  simp only [hp]
  split
  · refine ⟨_, updPart_some (p := p) ?_ _, .inr rfl⟩
    exact ((Noted.foldl _ _ fun _ _ => complete_noted ..).part pid).trans hp
  · exact ⟨p, hp, .inl rfl⟩

theorem lateHalt_framed (s : State) (pid : Nat) : Framed s (s.lateHalt pid) := by
  unfold State.lateHalt
  split
  · exact .refl s
  · split
    · exact (Noted.foldl _ _ fun _ _ => complete_noted ..).framed.trans (updPart_framed ..)
    · exact .refl s

theorem setCause_sessions (s : State) (h k n : Nat) : (s.setCause h k n).sessions = s.sessions := by
  unfold State.setCause
  split
  · rfl
  · simp only
    split
    · rfl
    · unfold State.sendVector
      simp only
      split <;> rfl

theorem complete_sessions (s : State) (r : Route) (mark : Nat) (st : Byte) (resp : Bytes) (n : Nat) (h : fmGet s.sessions n ≠ none) :
    fmGet (s.complete r mark st resp).sessions n ≠ none := by
  unfold State.complete
  cases r with
  | fn a b =>
    simp only [setCause_sessions]
    exact h
  | session m =>
    simp only
    split
    · exact h
    · change fmGet (fmSet s.sessions m _) n ≠ none
      by_cases hn : n = m
      · subst hn
        simp [fmGet_fmSet_self]
      · rwa [fmGet_fmSet_ne _ _ hn]

theorem lateHalt_log (s : State) (pid : Nat) : (s.lateHalt pid).log = s.log := by
  unfold State.lateHalt
  split
  · rfl
  · split
    · refine (State.updPart_log ..).trans ?_
      exact List.foldlRecOn _ _ (motive := fun t : State => t.log = s.log) rfl fun t ht r _ => (complete_log ..).trans ht
    · rfl

theorem lateHalt_sessions (s : State) (pid n : Nat) (h : fmGet s.sessions n ≠ none) : fmGet (s.lateHalt pid).sessions n ≠ none := by
  unfold State.lateHalt
  split
  · exact h
  · split
    · rw [State.updPart_sessions]
      exact List.foldlRecOn _ _ (motive := fun t : State => fmGet t.sessions n ≠ none) h fun t ht r _ => complete_sessions _ _ _ _ _ _ ht
    · exact h

theorem tryRejoin_none (hp : s.part pid = some p) (h : p.state ≠ .halted ∨ p.frame.rollback = .idle) (obs : ShutterObs) :
    s.tryRejoin pid obs = s := by
  unfold State.tryRejoin
  simp only [hp]
  refine if_neg fun ⟨hst, hroll, _⟩ => ?_
  obtain h | h := h
  · exact h hst
  · simp [h] at hroll

theorem shutterSteps_waiting (hp : s.part pid = some p) (hst : p.state ≠ .running) (hsw : p.switchAt = none)
    (h : p.state ≠ .halted ∨ p.frame.rollback = .idle) (obs : ShutterObs) : s.shutterSteps pid obs = (s.lateHalt pid).tryLaunch pid := by
  obtain ⟨r, hr, hrp⟩ := lateHalt_part hp
  have hr' : r.state ≠ .halted ∨ r.frame.rollback = .idle := by
    obtain rfl | rfl := hrp
    · exact h
    · exact .inr rfl
  unfold State.shutterSteps
  simp only [hp, hst, if_false]
  rw [switchEpoch_none hp hsw, tryRejoin_none hr hr']

theorem tryLaunch_none (hp : s.part pid = some p) (hx : p.expose = none) : s.tryLaunch pid = s := by
  unfold State.tryLaunch
  simp [hp, hx]

theorem tickOf_same (s : State) (pid : Nat) (obs : ShutterObs) (p : Partition) (f : FTime) :
    (s.tickOf pid obs p f).mem = s.mem ∧ (s.tickOf pid obs p f).log = s.log ∧ (s.tickOf pid obs p f).sessions = s.sessions ∧
      (s.tickOf pid obs p f).dpis = s.dpis ∧ (s.tickOf pid obs p f).power.cls = s.power.cls := by
  have h := tick_same { s with power := { s.power with a1 := obs.a1 } } pid p f
  have hmem := congrArg State.mem h
  have hlog := congrArg State.log h
  have hses := congrArg State.sessions h
  have hdpis := congrArg State.dpis h
  have hcls := congrArg (fun x : State => x.power.cls) h
  exact ⟨hmem, hlog, hses, hdpis, hcls⟩

/-- A Shutter of a partition without an EXPOSE moves the grid on and no more (02 R33). -/
theorem shutter_idle {f : FTime} (hp : s.part pid = some p) (hf : p.ftime = some f) (hfab : p.fab ≠ none) (hst : p.state ≠ .running)
    (hroll : p.frame.rollback = .idle) (hx : p.expose = none) (hsw : p.switchAt = none) (obs : ShutterObs) :
    ∃ t q, exec (.shutter pid obs) s = .next t ∧ Claims.Ticked t pid f q ∧ q.state = p.state ∧ q.frame.exposure = p.frame.exposure ∧
      q.frame.outBuf = p.frame.outBuf ∧ q.frame.shutter = (if p.frame.inExpose then p.frame.shutter + 1 else p.frame.shutter) ∧
      t.mem = s.mem ∧ t.log = s.log := by
  obtain ⟨g, at_, hu, hgrid, -, -⟩ := tickOf_part hp hf obs
  obtain ⟨hsmem, hslog, -⟩ := tickOf_same s pid obs p f
  obtain ⟨r, hr, hrp⟩ := lateHalt_part hu
  have hsteps : (s.tickOf pid obs p f).shutterSteps pid obs = (s.tickOf pid obs p f).lateHalt pid := by
    rw [shutterSteps_waiting hu hst hsw (.inr hroll), tryLaunch_none hr]
    obtain rfl | rfl := hrp
    · exact hx
    · exact hx
  have hclose : r.closing.1 = (p.ticked g at_).carried ∧ r.state = p.state ∧ r.frame.starting = none := by
    obtain rfl | rfl := hrp
    · exact ⟨rfl, rfl, rfl⟩
    · exact ⟨rfl, rfl, rfl⟩
  obtain ⟨hcar, hrst, hstart⟩ := hclose
  obtain ⟨q, hq, hcarried, hidle, -⟩ := shutter_closes (view_of_part (g := Partition.closing) hr)
  replace hcarried := hcarried.trans (settled_carried hcar)
  have hend := hidle hstart
  have hseven := shutter_closes_still (view_of_part (g := Partition.closing) hr) hstart
  obtain ⟨hmem, hlog⟩ := beforeSeven_same ((s.tickOf pid obs p f).lateHalt pid) pid
  refine ⟨_, q, exec_shutter hp hf hfab obs, ?_⟩
  rw [hsteps]
  refine ⟨ticked_of_carried hq hcarried (congrArg some hgrid) rfl rfl, (congrArg (fun c => c.2.1) hend).trans hrst,
    congrArg (fun c : Carried => c.2.2.1) hcarried, congrArg (fun c : Carried => c.2.2.2.2.1) hcarried,
    congrArg (fun c : Carried => c.2.2.2.2.2.1) hcarried, ?_, ?_⟩
  · rw [hseven]
    exact hmem.trans ((lateHalt_framed ..).mem.trans hsmem)
  · rw [hseven]
    exact hlog.trans ((lateHalt_log ..).trans hslog)

end
end Sys2Proof.Machine

namespace Sys2Proof.Machine

section
variable {s t u : State} {pid : Nat} {p : Partition}

/-! ### What goes out stays out -/

/-- What went out in `s` stands in `t` too. -/
structure Says (s t : State) : Prop where
  mono : ∀ o ∈ s.out, o ∈ t.out

theorem Says.refl (s : State) : Says s s := ⟨fun _ h => h⟩

theorem Says.trans (h : Says s t) (k : Says t u) : Says s u := ⟨fun o ho => k.mono o (h.mono o ho)⟩

theorem says_of_out (h : t.out = s.out) : Says s t := ⟨fun _ ho => h ▸ ho⟩

theorem Says.of_eq (k : Says t u) (h : t.out = s.out) : Says s u := (says_of_out h).trans k

theorem emit_says (s : State) (o : OutEv) : Says s (s.emit o) := ⟨fun _ h => List.mem_cons_of_mem _ h⟩

theorem sendLink_says (s : State) (q type : Nat) (bs : Bytes) : Says s (s.sendLink q type bs) := (emit_says ..).of_eq rfl

theorem updPart_says (s : State) (pid : Nat) (f : Partition → Partition) : Says s (s.updPart pid f) := by
  unfold State.updPart
  split
  · exact says_of_out rfl
  · exact .refl s

theorem updFrame_says (s : State) (pid : Nat) (f : Frame → Frame) : Says s (s.updFrame pid f) := updPart_says ..

theorem updFunc_says (s : State) (h k : Nat) (f : Func → Func) : Says s (s.updFunc h k f) := says_of_out rfl

theorem sendVector_says (s : State) (h k v : Nat) : Says s (s.sendVector h k v) := by
  unfold State.sendVector
  simp only
  split
  · exact says_of_out rfl
  · exact emit_says ..

theorem setCause_says (s : State) (h k n : Nat) : Says s (s.setCause h k n) := by
  unfold State.setCause
  split
  · exact .refl s
  · simp only
    split
    · exact says_of_out rfl
    · exact (sendVector_says ..).of_eq rfl

theorem partCause_says (s : State) (pid n : Nat) : Says s (s.partCause pid n) := by
  unfold State.partCause
  split
  · exact setCause_says ..
  · exact .refl s

theorem noteEntry_says (s : State) {code : Nat} (hc : code < 4096) (part n : Nat) : Says s (s.noteEntry code part n) := by
  have h0 : code / 4096 = 0 := Nat.div_eq_of_lt hc
  unfold State.noteEntry
  simp only [h0, if_true]
  rw [if_neg (by omega)]
  split
  · exact .refl s
  · exact says_of_out rfl

theorem logEv_says (s : State) {code : Nat} (hc : code < 4096) (part : Nat) (u : LogUnit) (d : Nat) (cs : List Bytes) :
    Says s (s.logEv code part u d cs) := by
  unfold State.logEv
  simp only
  split
  · exact (noteEntry_says _ hc ..).of_eq rfl
  · exact (noteEntry_says _ hc ..).of_eq rfl

theorem takePost_says (s : State) (pid : Nat) : Says s (s.takePost pid) := by
  unfold State.takePost
  split
  · exact .refl s
  · split
    · exact .refl s
    · simp only
      split
      · exact (updFrame_says ..).trans ((updFunc_says ..).trans (partCause_says ..))
      · exact updPart_says ..

theorem beforeSeven_says (s : State) (pid : Nat) : Says s (s.beforeSeven pid) := by
  refine (says_of_out (afterShutter_same s pid).2.2).trans ?_
  unfold State.beforeSeven State.sendBeacons
  split
  · exact .refl _
  · split
    · refine Says.trans ?_ (updPart_says ..)
      refine List.foldlRecOn _ _ (motive := fun t : State => Says (s.afterShutter pid) t) (.refl _) fun t ht q _ => ?_
      exact iteInduction (motive := Says (s.afterShutter pid)) (fun _ => ht.trans (sendLink_says ..)) fun _ => ht
    · exact .refl _

theorem beginExposure_says (s : State) (pid step : Nat) : Says s (s.beginExposure pid step 0) := by
  unfold State.beginExposure
  split
  · exact .refl s
  · rename_i p hp
    have hlog : Says s (if p.frame.repeated = true then s.logEv 0x0205 pid noUnit 0 else s) := by
      split
      · exact logEv_says s (code := 0x0205) (by decide) ..
      · exact .refl s
    simp only [if_true]
    exact hlog.trans ((updPart_says ..).of_eq rfl)

/-! ### The launch (11 R325) -/

/-- A launch that is due comes to step 5 of its Shutter: the partition `r` there still waits for its EXPOSE. -/
structure Due (s : State) (obs : ShutterObs) (pid : Nat) (p : Partition) (x : ExposeReq) (f : FTime) (l : State) (r : Partition) (g : FTime) : Prop where
  steps : (s.tickOf pid obs p f).shutterSteps pid obs = l.tryLaunch pid
  part : l.part pid = some r
  expose : r.expose = some x
  ftime : r.ftime = some g
  grid : g.grid = f.grid + 1
  launch : g.launch = some g.grid
  locked : g.state = f.state
  state : r.state = p.state
  seed : r.seed = p.seed
  negative : r.negative = p.negative
  tiles : r.tiles = p.tiles
  exposure : r.frame.exposure = p.frame.exposure
  starting : r.frame.starting = none
  log : l.log = s.log
  cls : l.power.cls = s.power.cls
  dpis : l.dpis = s.dpis
  sessions : ∀ n, fmGet s.sessions n ≠ none → fmGet l.sessions n ≠ none
  step : ∀ y, (s.tickOf pid obs p f).part pid = some y → l.launchStep r = (s.tickOf pid obs p f).launchStep y

theorem launch_due {x : ExposeReq} {f : FTime} (hp : s.part pid = some p) (h : Claims.launchDue p x f) (obs : ShutterObs) :
    ∃ l r g, Due s obs pid p x f l r g := by
  obtain ⟨hx, hf, -, hlaunch, hsw, hwait⟩ := h
  obtain ⟨g, at_, hu, hgrid, hgl, hgs⟩ := tickOf_part hp hf obs
  obtain ⟨-, hlog, hses, hdpis, hcls⟩ := tickOf_same s pid obs p f
  obtain ⟨r, hr, hrp⟩ := lateHalt_part hu
  have hst : p.state ≠ .running := by
    obtain h | h := hwait
    · simp [h]
    · simp [h.1]
  have hroll : p.state ≠ .halted ∨ p.frame.rollback = .idle := by
    obtain h | h := hwait
    · exact .inl (by simp [h])
    · exact .inr h.2
  have hframed := lateHalt_framed (s.tickOf pid obs p f) pid
  have hboot := hframed.boot
  refine ⟨(s.tickOf pid obs p f).lateHalt pid, r, g, ?_⟩
  have hkept : r.expose = some x ∧ r.ftime = some g ∧ r.state = p.state ∧ r.seed = p.seed ∧ r.negative = p.negative ∧ r.tiles = p.tiles ∧
      r.frame.exposure = p.frame.exposure ∧ r.frame.starting = none ∧ ∀ v : State, v.launchStep r = v.launchStep (p.ticked g at_) := by
    obtain rfl | rfl := hrp
    · exact ⟨hx, rfl, rfl, rfl, rfl, rfl, rfl, rfl, fun _ => rfl⟩
    · exact ⟨hx, rfl, rfl, rfl, rfl, rfl, rfl, rfl, fun _ => rfl⟩
  obtain ⟨hrx, hrf, hrst, hrseed, hrneg, hrtiles, hrexp, hrstart, hrstep⟩ := hkept
  have hdp := congrArg State.dpis hframed
  exact {
    steps := shutterSteps_waiting hu hst hsw hroll obs
    part := hr
    expose := hrx
    ftime := hrf
    grid := hgrid
    launch := by rw [hgl, hlaunch, hgrid]
    locked := hgs
    state := hrst
    seed := hrseed
    negative := hrneg
    tiles := hrtiles
    exposure := hrexp
    starting := hrstart
    log := (lateHalt_log ..).trans hlog
    cls := (congrArg Power.cls hframed.power).trans hcls
    dpis := hdp.trans hdpis
    sessions := fun n hn => lateHalt_sessions _ _ _ (hses ▸ hn)
    step := fun y hy => by
      obtain rfl := Option.some.inj (hu.symm.trans hy)
      rw [hrstep]
      unfold State.launchStep State.raiseOk State.warmTile State.reserved
      rw [hframed.power, hframed.model] }

end
end Sys2Proof.Machine

namespace Sys2Proof.Machine

section
variable {s l : State} {pid : Nat} {p r : Partition} {x : ExposeReq} {f g : FTime} {obs : ShutterObs}

/-- A launch that comes late, or without locked fabric time, ends the EXPOSE as missed (11 R325). -/
theorem Due.missed (h : Due s obs pid p x f l r g) (hp : s.part pid = some p) (hf : p.ftime = some f) (hfab : p.fab ≠ none)
    (hmiss : x.late = true ∨ f.state ≠ .locked) : ∃ t q, exec (.shutter pid obs) s = .next t ∧ Claims.Ticked t pid f q ∧ q.state = p.state ∧
      q.expose = none ∧ Claims.Logged s t 0x1214 := by
  let z : Partition := { r with expose := none }
  let v : State := (l.logEv 0x1214 pid noUnit 0).refuseLaunch pid l.log.next x stWrongState
  have hmiss' : x.late = true ∨ g.state ≠ .locked := by rwa [h.locked]
  have hlaunch : l.tryLaunch pid = v := by
    unfold State.tryLaunch
    simp only [h.part, h.expose, h.ftime, h.launch, ne_eq, not_true_eq_false, if_false]
    exact if_pos hmiss'
  have hview : v.view Partition.closing pid = some z.closing := by
    refine (updPart_view_self ..).trans ((complete_noted ..).view.trans ?_)
    exact (logEv_view (fun _ _ => rfl) ..).trans (view_of_part h.part)
  obtain ⟨q, hq, hcarried, hidle, -⟩ := shutter_closes hview
  have hclose := hidle h.starting
  have hstill := shutter_closes_still hview h.starting
  refine ⟨_, q, (exec_shutter hp hf hfab obs).trans (by rw [h.steps, hlaunch]), ticked_of_carried hq hcarried ?_ rfl rfl,
    (congrArg (fun c => c.2.1) hclose).trans h.state, Option.isNone_iff_eq_none.1 (congrArg (fun c => c.2.2.2.2.1) hclose), ?_⟩
  · exact (congrArg (Option.map (·.grid)) h.ftime).trans (congrArg some h.grid)
  · have hlog : (((v.beforeSeven pid).stepSeven pid)).log = (l.logEv 0x1214 pid noUnit 0).log := by
      rw [hstill, (beforeSeven_same v pid).2]
      exact (State.updPart_log ..).trans (complete_log ..)
    have hlogged := logEv_logged l (code := 0x1214) (by decide) pid noUnit 0
    unfold Claims.Logged at hlogged ⊢
    rw [hlog]
    rwa [h.log] at hlogged

/-- A partition that a launch starts at a step. -/
def Partition.launchedAt (p : Partition) (x : ExposeReq) (step : Nat) (n : Neg) (i0 : Nat) : Partition :=
  { p with
    expose := none, seed := if n.seedAtExpose then x.seed else p.seed
    frame := { p.frame with
      shutter := 0, inExpose := true, rollback := .idle, haltCmd := false, haltReq := false, tdiHalt := false
      stopAt := if x.frames = 0 then none else some (i0 + x.frames), starting := some (step, 0, true) } }

/-- The state in which a launch has completed its EXPOSE. -/
def State.launchDone (l : State) (pid : Nat) (x : ExposeReq) (step : Nat) (p : Partition) (g : FTime) : State :=
  ((l.complete x.route l.log.next stOk (leBytes 8 g.capture.toNat ++ leBytes 8 p.frame.exposure.toNat)).takePost pid).updPart pid fun q =>
    q.launchedAt x step p.negative p.frame.exposure.toNat

theorem complete_frame (s : State) (n mark : Nat) (st : Byte) (resp : Bytes) (h : fmGet s.sessions n ≠ none) :
    ∃ d, OutEv.frame n (d ++ resp) ∈ (s.complete (.session n) mark st resp).out := by
  obtain ⟨y, hy⟩ := Option.ne_none_iff_exists'.1 h
  unfold State.complete
  simp only [hy]
  exact ⟨_, List.mem_cons_self⟩

theorem Due.launchDone (h : Due s obs pid p x f l r g) (hlate : x.late = false) (hlock : f.state = .locked)
    (hmay : Partition.mayLaunch s p = true) {step : Nat} (hstep : l.launchStep r = some step) :
    l.tryLaunch pid = l.launchDone pid x step r g := by
  have hno : ¬(x.late = true ∨ g.state ≠ .locked) := by
    rw [h.locked, hlate, hlock]
    simp
  have hmay' : ¬Partition.mayLaunch l r = false := by
    have heq : Partition.mayLaunch l r = Partition.mayLaunch s p := by
      unfold Partition.mayLaunch sealHolds
      rw [h.negative, h.tiles, h.dpis, h.cls]
    rw [heq, hmay]
    simp
  unfold State.tryLaunch
  simp only [h.part, h.expose, h.ftime, h.launch, ne_eq, not_true_eq_false, if_false]
  rw [if_neg hno, if_neg hmay']
  simp only [hstep]
  rfl

/-- A launch at its Shutter starts the partition at Shutter 0 and index i0 (11 R325, R237). -/
theorem Due.launches (h : Due s obs pid p x f l r g) (hp : s.part pid = some p) (hf : p.ftime = some f) (hfab : p.fab ≠ none)
    (hlate : x.late = false) (hlock : f.state = .locked) (hmay : Partition.mayLaunch s p = true) {step : Nat} (hstep : l.launchStep r = some step) :
    ∃ t q, exec (.shutter pid obs) s = .next t ∧ Claims.Ticked t pid f q ∧
        q.state = .running ∧ q.step = step ∧ q.frame.shutter = 0 ∧ q.frame.inExpose = true ∧ q.expose = none ∧
        q.frame.exposure = p.frame.exposure ∧ q.seed = (if p.negative.seedAtExpose then x.seed else p.seed) ∧
        q.frame.stopAt = (if x.frames = 0 then none else some (p.frame.exposure.toNat + x.frames)) ∧
        ∀ n, x.route = .session n → fmGet s.sessions n ≠ none → ∃ d cap,
          .frame n (d ++ leBytes 8 cap ++ leBytes 8 p.frame.exposure.toNat) ∈ t.out := by
  let resp := leBytes 8 g.capture.toNat ++ leBytes 8 r.frame.exposure.toNat
  let c : State := l.complete x.route l.log.next stOk resp
  have hpost : (c.takePost pid).view (fun q => (q.ftime.map (·.grid), q.seed, q.frame.exposure)) pid =
      some (r.ftime.map (·.grid), r.seed, r.frame.exposure) :=
    (takePost_view (fun _ _ _ => rfl) ..).trans ((complete_noted ..).view.trans (view_of_part h.part))
  obtain ⟨k, hk, hkeep⟩ := part_of_view hpost
  simp only [Prod.mk.injEq] at hkeep
  obtain ⟨hkgrid, hkseed, hkexp⟩ := hkeep
  let z : Partition := k.launchedAt x step r.negative r.frame.exposure.toNat
  have hz : (l.launchDone pid x step r g).part pid = some z := updPart_some hk _
  obtain ⟨m, hm, hmz⟩ := beforeSeven_part hz
  have hseven : ((l.launchDone pid x step r g).beforeSeven pid).stepSeven pid =
      ((l.launchDone pid x step r g).beforeSeven pid).beginExposure pid step 0 :=
    stepSeven_launch hm (congrArg (fun c => c.2.2.2.2.2.1) hmz)
  obtain ⟨q, hq, hrun⟩ := part_of_view (beginExposure_view hm step 0)
  simp only [Partition.running, Prod.mk.injEq] at hrun
  obtain ⟨hqst, hqstep, hqx, hqc⟩ := hrun
  have hcarried : q.carried = z.settled.carried := hqc.trans (congrArg Prod.fst hmz)
  have hmx : m.expose = none := Option.isNone_iff_eq_none.1 (congrArg (fun c => c.2.2.2.2.1) hmz)
  have hgrid : z.settled.carried.1 = some (f.grid + 1) :=
    hkgrid.trans ((congrArg (Option.map (·.grid)) h.ftime).trans (congrArg some h.grid))
  have hseed : z.seed = if p.negative.seedAtExpose then x.seed else p.seed := by
    change (if r.negative.seedAtExpose then x.seed else k.seed) = _
    rw [h.negative, hkseed, h.seed]
  refine ⟨_, q, (exec_shutter hp hf hfab obs).trans (by rw [h.steps, h.launchDone hlate hlock hmay hstep, hseven]),
    ticked_of_carried hq hcarried hgrid rfl rfl, hqst, hqstep, congrArg (fun c : Carried => c.2.2.2.2.2.1) hcarried,
    congrArg (fun c : Carried => c.2.2.2.2.2.2.1) hcarried, hqx.trans hmx,
    (congrArg (fun c : Carried => c.2.2.1) hcarried).trans (hkexp.trans h.exposure),
    (congrArg (fun c : Carried => c.2.1) hcarried).trans hseed, ?_, fun n hn hses => ?_⟩
  · refine (congrArg (fun c : Carried => c.2.2.2.2.2.2.2.1) hcarried).trans ?_
    change (if x.frames = 0 then none else some (r.frame.exposure.toNat + x.frames)) = _
    rw [h.exposure]
  · obtain ⟨d, hd⟩ := complete_frame l n l.log.next stOk resp (h.sessions n hses)
    have hsays : Says c (((l.launchDone pid x step r g).beforeSeven pid).beginExposure pid step 0) :=
      (takePost_says ..).trans ((updPart_says ..).trans ((beforeSeven_says ..).trans (beginExposure_says ..)))
    refine ⟨d, g.capture.toNat, hsays.mono _ ?_⟩
    rw [List.append_assoc, ← h.exposure]
    change _ ∈ (l.complete x.route l.log.next stOk resp).out
    rw [hn]
    exact hd

end
end Sys2Proof.Machine

namespace Sys2Proof.Machine

section
variable {s : State} {pid : Nat} {p : Partition}

/-! ### INPUT_POST_SAMPLE (02 R57) -/

/-- Whether the sampling point takes a pending post. -/
def State.takesPost (s : State) (p : Partition) : Bool :=
  (s.func p.hostDie p.fn).post && (s.func p.hostDie p.fn).postWaits == 0 && p.mayTake

theorem inputPostSample_samples (hp : s.part pid = some p) (hslide : ∀ o, p.slide = some o → o.phase ≠ .writing) :
    exec (.inputPostSample pid) s = .next ((s.updFunc p.hostDie p.fn fun x => { x with postWaits := x.postWaits - 1 }).updFrame pid fun x =>
      { x with sampled := s.takesPost p, late := true }) := by
  change execInputPostSample pid s = _
  unfold execInputPostSample
  simp only [hp]
  split
  · rename_i o ho
    rw [if_neg fun h => hslide o ho h.1]
    rfl
  · rfl

theorem mayTake_running (hst : p.state = .running) (hslide : p.slide = none) : p.mayTake = true := by
  unfold Partition.mayTake
  simp [hst, hslide]

theorem mayTake_idle (hst : p.state = .empty ∨ p.state = .tainted ∨ p.state = .ready ∨ p.state = .faulted) : p.mayTake = false := by
  unfold Partition.mayTake
  obtain h | h | h | h := hst <;> simp [h]

/-! ### TIMED_LAUNCH_TAKEUP (11 R342) -/

theorem le_atLeast_mul (x : Nat) {k : Nat} (hk : k ≠ 0) : x ≤ atLeast x k * k := by
  have hdiv := Nat.lt_div_mul_add (Nat.pos_of_ne_zero hk) (a := x + k - 1)
  unfold atLeast cdiv
  rw [if_neg hk]
  omega

theorem chooseLaunch_two (p : Partition) (f : FTime) (r : Option Nat) : f.grid + 2 ≤ chooseLaunch p f r := by
  unfold chooseLaunch
  cases r with
  | none => exact Nat.le_max_left ..
  | some t => exact (Nat.le_max_left ..).trans (Nat.le_max_left ..)

theorem chooseLaunch_wait {f : FTime} (hper : p.periodNs ≠ 0) (r : Option Nat) :
    f.time + (if p.negative.jobParts ≤ 1 then 2000 else 8000000) ≤ chooseLaunch p f r * p.periodNs := by
  refine (le_atLeast_mul _ hper).trans (Nat.mul_le_mul_right _ ?_)
  unfold chooseLaunch
  cases r with
  | none => exact Nat.le_max_right ..
  | some t => exact (Nat.le_max_right ..).trans (Nat.le_max_left ..)

theorem chooseLaunch_requested {f : FTime} (hper : p.periodNs ≠ 0) (r : Nat) :
    10000 * (r + 20) ≤ 10000 * f.capture.toNat + (chooseLaunch p f (some r) - f.grid) * 9989 * p.periodNs := by
  have hk : 9989 * p.periodNs ≠ 0 := by omega
  have hreach : f.grid + atLeast (10000 * (r + 20 - f.capture.toNat)) (9989 * p.periodNs) ≤ chooseLaunch p f (some r) := Nat.le_max_right ..
  have hmul := Nat.mul_le_mul_right (9989 * p.periodNs) (Nat.le_sub_of_add_le' hreach)
  have hleast := (le_atLeast_mul (10000 * (r + 20 - f.capture.toNat)) hk).trans hmul
  rw [← Nat.mul_assoc] at hleast
  omega

theorem updPart_congr (hp : s.part pid = some p) {h k : Partition → Partition} (heq : h p = k p) : s.updPart pid h = s.updPart pid k := by
  unfold State.updPart
  rw [show fmGet s.parts pid = some p from hp]
  simp only [heq]

theorem timedLaunchTakeup_decides {x : ExposeReq} {f : FTime} (hp : s.part pid = some p) (hx : p.expose = some x) (hf : p.ftime = some f)
    (htimed : x.tReq ≠ none) (hmaster : p.negative.isMaster = true) (hnew : x.taken = false) :
    exec (.timedLaunchTakeup pid) s = .next (s.updPart pid fun q => { q with
      expose := some { x with taken := true }, ftime := some { f with launch := some (chooseLaunch p f x.tReq) } }) := by
  change execTimedLaunchTakeup pid s = _
  unfold execTimedLaunchTakeup State.takeUp
  simp only [hp, hx, hf, hmaster, hnew, Option.ne_none_iff_isSome.1 htimed, Bool.and_true, if_true, Bool.false_eq_true, if_false]
  exact congrArg Host.Outcome.next (updPart_congr hp rfl)

theorem timedLaunchTakeup_idle {x : ExposeReq} (hp : s.part pid = some p) (hx : p.expose = some x)
    (hno : x.tReq = none ∨ p.negative.isMaster = false ∨ x.taken = true) : exec (.timedLaunchTakeup pid) s = .next s := by
  have htake (h : x.taken = true) : s.takeUp pid = s := by
    unfold State.takeUp
    simp only [hp, hx]
    split
    · rw [if_pos]
      simp_all
    · rfl
  change execTimedLaunchTakeup pid s = _
  unfold execTimedLaunchTakeup
  simp only [hp, hx]
  obtain h | h | h := hno
  · simp [h]
  · simp [h]
  · rw [htake h, ite_self]

end

section
variable {s : State} {pid : Nat} {p : Partition}

/-- The Shutter of a running partition that is not in a hold (02 R50, R53, R55, R56). -/
theorem shutter_ends {f : FTime} {y : Partition} {obs : ShutterObs} (hp : s.part pid = some p) (hf : p.ftime = some f) (hfab : p.fab ≠ none)
    (hst : p.state = .running) (hslide : p.slide = none) (hy : (Claims.frameEnd s pid p f obs).part pid = some y) (hyst : y.state = .running)
    (hysl : y.slide = none) :
    ∃ t q, exec (.shutter pid obs) s = .next t ∧ Claims.Ticked t pid f q ∧
      ((Claims.frameEnd s pid p f obs).incomplete y = none → q.frame.exposure = y.frame.exposure + 1 ∧ q.frame.commits = y.frame.commits + 1 ∧
        q.frame.outBuf = !y.frame.outBuf ∧ (y.frame.haltCmd = true → q.state = .halted ∧ q.haltSource = 1) ∧
        (q.state = .running ∨ q.state = .halted ∨ q.state = .faulted)) ∧
      ((Claims.frameEnd s pid p f obs).incomplete y ≠ none → q.frame.exposure = y.frame.exposure ∧ q.frame.commits = y.frame.commits ∧
        q.frame.outBuf = y.frame.outBuf ∧ q.state = .halted ∧ q.frame.partialState = true ∧
        (y.negative.attempts = 0 → q.haltSource = 3 ∧ q.busy = y.busy) ∧
        (y.negative.attempts ≠ 0 → y.frame.attempts = 0 → q.haltSource = 6 ∧ q.busy = y.busy) ∧
        (y.negative.attempts ≠ 0 → y.frame.attempts ≠ 0 → y.slideValid = true → y.haltDue = false → q.haltSource = 3 ∧
          q.busy = some (.restore none .good) ∧ q.frame.attempts = y.frame.attempts - 1 ∧ q.frame.rollback = .restoring)) := by
  obtain ⟨g, at_, hu, hgrid, -, -⟩ := tickOf_part hp hf obs
  have hend : Ends y (f.grid + 1) := hgrid ▸ runOut_ends hu hy
  by_cases hok : (Claims.frameEnd s pid p f obs).incomplete y = none
  · obtain ⟨q, htick, hdone⟩ := shutter_commits hu hst hslide hy hyst hysl hend hok
    exact ⟨_, q, exec_shutter hp hf hfab obs, htick, fun _ => hdone, fun h => absurd hok h⟩
  · obtain ⟨q, htick, hexp, hcom, hout, hqst, hpart, hsrc, hbusy, hatt, hroll⟩ := shutter_discards hu hst hslide hy hyst hend hok
    refine ⟨_, q, exec_shutter hp hf hfab obs, htick, fun h => absurd h hok, fun _ => ⟨hexp, hcom, hout, hqst, hpart, fun h0 => ?_, fun h0 h1 => ?_,
      fun h0 h1 hv hh => ?_⟩⟩
    · have hx : y.exhausted = false := by simp [Partition.exhausted, h0]
      have hr : y.rollsBack = false := by simp [Partition.rollsBack, h0]
      rw [hx] at hsrc
      rw [hr] at hbusy
      exact ⟨hsrc, hbusy⟩
    · have hx : y.exhausted = true := by simp [Partition.exhausted, h0, h1]
      have hr : y.rollsBack = false := by simp [Partition.rollsBack, h1]
      rw [hx] at hsrc
      rw [hr] at hbusy
      exact ⟨hsrc, hbusy⟩
    · have hx : y.exhausted = false := by simp [Partition.exhausted, h1]
      have hr : y.rollsBack = true := by simp [Partition.rollsBack, h0, h1, hv, hh]
      rw [hx] at hsrc
      rw [hr] at hbusy hatt hroll
      exact ⟨hsrc, hbusy, hatt, hroll⟩

theorem inputPostSample_claim (hp : s.part pid = some p) (hslide : ∀ o, p.slide = some o → o.phase ≠ .writing) :
    ∃ t q, exec (.inputPostSample pid) s = .next t ∧ t.part pid = some q ∧
      q.frame.late = true ∧ { q with frame := p.frame } = p ∧ { t with parts := s.parts, eps := s.eps } = s ∧
      (t.func p.hostDie p.fn).postWaits = (s.func p.hostDie p.fn).postWaits - 1 ∧ Claims.OtherParts s t pid ∧
      (p.state = .running → p.slide = none → (q.frame.sampled = true ↔ (s.func p.hostDie p.fn).post = true ∧
        (s.func p.hostDie p.fn).postWaits = 0)) ∧
      (p.state = .empty ∨ p.state = .tainted ∨ p.state = .ready ∨ p.state = .faulted → q.frame.sampled = false) := by
  let u : State := s.updFunc p.hostDie p.fn fun x => { x with postWaits := x.postWaits - 1 }
  have hup : u.part pid = some p := hp
  refine ⟨_, _, inputPostSample_samples hp hslide, updFrame_part hup _, rfl, rfl, ?_, ?_, fun j hj => ?_, fun hst hs => ?_, fun hst => ?_⟩
  · have hsame := updPart_same u pid fun q => { q with frame := { q.frame with sampled := s.takesPost p, late := true } }
    have heps := congrArg (fun v : State => { v with eps := s.eps }) hsame
    exact heps
  · have hfunc : (u.func p.hostDie p.fn).postWaits = (s.func p.hostDie p.fn).postWaits - 1 := by
      rw [State.func_updFunc, if_pos ⟨rfl, rfl⟩]
    simpa [State.func, State.endpoint] using hfunc
  · exact State.updPart_part_ne _ _ hj
  · change s.takesPost p = true ↔ _
    simp [State.takesPost, mayTake_running hst hs]
  · change s.takesPost p = false
    simp [State.takesPost, mayTake_idle hst]

end

/-- Settles O54: the steps of a Shutter one after the other, each by what it leaves of the partition. -/
theorem shuttersAndExposures : Obligations.ShuttersAndExposures := by
  unfold Obligations.ShuttersAndExposures
  refine ⟨fun s pid obs h => shutter_still obs h, fun s pid obs p y f hp hf hfab hst hslide hy hyst hysl =>
    shutter_ends hp hf hfab hst hslide hy hyst hysl, fun s pid obs p x f hp hdue => ?_, fun s pid obs p f hp hf hfab hst hroll hx hsw =>
    shutter_idle hp hf hfab hst hroll hx hsw obs, fun s pid p hp hslide => inputPostSample_claim hp hslide, fun s pid p x f hp hx hf => ⟨?_, ?_⟩⟩
  · obtain ⟨l, r, g, due⟩ := launch_due hp hdue obs
    obtain ⟨-, hf, hfab, -⟩ := hdue
    refine ⟨fun hmiss => due.missed hp hf hfab hmiss, fun y k hlate hlock hmay => ?_⟩
    intro u hy hk
    exact due.launches hp hf hfab hlate hlock hmay ((due.step y hy).trans hk)
  · intro htimed hmaster hnew
    refine ⟨chooseLaunch p f x.tReq, chooseLaunch_two .., fun hper => chooseLaunch_wait hper _, fun hper r hr => ?_,
      timedLaunchTakeup_decides hp hx hf htimed hmaster hnew⟩
    rw [hr]
    exact chooseLaunch_requested hper r
  · exact fun hno => timedLaunchTakeup_idle hp hx hno

end Sys2Proof.Machine

/-! # A landing that finds a late operand (09 R249, 04 R99) -/

namespace Sys2Proof.Machine

/-- An M operation of a cell reads its operand in cycle 14; the write of that range was stated for cycle 12 and came in cycle 20,
and nothing has brought the operation's reads up to date since. -/
def lateCell : Cell where
  mops := [{ kind := .mma, issue := 10, land := some 200, caps := [{
    addr := 0x900000000000, unit := 16, count := 1, base := 14, mul := 1, add := 0, occ := 64, n := 64, port := .a }] }]
  hist := [{ at_ := 20, stated := 12, off := 0, old := List.replicate 16 0 }]

/-- The request at port F of a landing of one byte into another line of that cell. -/
def landingReq : PfReq where
  kind := .landing
  cell := 0
  d := 280
  rank := 3
  ready := 24
  total := 1
  done := 0
  src := 0
  dst := 0x900000001000
  issue := 0
  stated := 0xFFFFFFFF
  turn := 0
  owner := false
  writer := 0xFFFF
  tag := 0
  data := [7]

/-- That landing. -/
def lateLanding : Landed := { pieces := [(0x900000001000, 1)], data := [7], window := none, validCount := 0, epoch := false }

/-- The HALTED partition for which it waits. -/
def latePart : Partition := { tiles := [0], state := .halted, landing := [lateLanding] }

def lateState : State where
  parts := [(0, latePart)]
  blocks := [(0, { pf := [landingReq] })]
  cells := [(0, lateCell)]

/-- The last fault of partition 0 after an instruction that goes on. -/
def faultAfter : Host.Outcome State Fault Refusal → Option (BitVec 16)
  | .next t => (t.part 0).map (·.lastFault)
  | _ => none

/-- The landing writes through the cell's write buffer, which first brings the operand reads up to its cycle: the one of cycle 14
finds no data, and LATE_OPERAND is recorded against the partition. -/
theorem lateLanding_faults : faultAfter (exec (.fabricLanding 0 24) lateState) = some 0x1407 := by decide

/-- Refutes O55: where the partition does not run, nothing is brought up to the landing's cycle before the write, so the write
itself raises LATE_OPERAND for a read that came too early, and the partitions do not stay as they were. -/
theorem not_scheduledTransfers : ¬ Obligations.ScheduledTransfers := by
  unfold Obligations.ScheduledTransfers
  rintro ⟨-, -, hlanding, -⟩
  obtain ⟨t, q, hexec, -, -, -, hpiece⟩ := (hlanding lateState 0 24 latePart rfl).2 lateLanding [] rfl
  obtain ⟨hparts, -⟩ := hpiece 0x900000001000 rfl rfl rfl
  have hfault := lateLanding_faults
  rw [hexec] at hfault
  have hquiet : (t.part 0).map (·.lastFault) = some 0 := by
    rw [State.part, hparts]
    rfl
  exact absurd (hfault.symm.trans hquiet) (by decide)

end Sys2Proof.Machine

/-! # The Tanks: exact sums in any order (03 R70 to R72) -/

namespace Sys2Proof.Machine

open Claims (rising)

/-! ### Tables with rising keys -/

theorem fmGetD_eq_of_lt {α : Type} {t : FMap α} {e : Nat} {d : α} (h : ∀ q ∈ t, e < q.1) : fmGetD t e d = d := by
  rw [fmGetD, fmGet_eq_none fun q hq => (h q hq).ne', Option.getD_none]

theorem fmGetD_cons {α : Type} {k e : Nat} {x d : α} {t : FMap α} (h : ∀ q ∈ t, k < q.1) :
    fmGetD ((k, x) :: t) e d = if e = k then x else fmGetD t e d := by
  simp only [fmGetD, fmGet]
  by_cases hlt : e < k
  · rw [if_pos hlt, if_neg hlt.ne, fmGet_eq_none fun q hq => (hlt.trans (h q hq)).ne']
  · rw [if_neg hlt]
    split <;> rfl

/-- What sparse values add to element `e`. -/
def colSum (vs : List (Nat × Int)) (e : Nat) : Int := ((vs.filter fun v => v.1 == e).map (·.2)).sum

theorem addend_eq_colSum (k : Contrib) (e : Nat) : Claims.addend k e = colSum k.vals e := rfl

@[simp] theorem colSum_nil (e : Nat) : colSum [] e = 0 := rfl

theorem colSum_cons (j e : Nat) (c : Int) (vs : List (Nat × Int)) :
    colSum ((j, c) :: vs) e = (if e = j then c else 0) + colSum vs e := by
  by_cases h : e = j
  · simp [colSum, h]
  · simp [colSum, h, Ne.symm h]

theorem colSum_eq_zero_of_lt {vs : List (Nat × Int)} {e : Nat} (h : ∀ v ∈ vs, e < v.1) : colSum vs e = 0 := by
  have hnone : (vs.filter fun v => v.1 == e) = [] := by
    simpa using fun a b hv => (h (a, b) hv).ne'
  rw [colSum, hnone]
  rfl

/-- Rising values add at most one of them to an element. -/
theorem natAbs_colSum_le {vs : List (Nat × Int)} {n : Nat} (hr : rising vs) (hb : ∀ v ∈ vs, v.2.natAbs ≤ n) (e : Nat) :
    (colSum vs e).natAbs ≤ n := by
  induction vs with
  | nil => simp
  | cons v rest ih =>
    obtain ⟨hlt, hrest⟩ := List.pairwise_cons.1 hr
    obtain ⟨hv, hb⟩ := List.forall_mem_cons.1 hb
    rw [colSum_cons]
    by_cases h : e = v.1
    · rw [if_pos h, colSum_eq_zero_of_lt (h ▸ hlt), Int.add_zero]
      exact hv
    · rw [if_neg h, Int.zero_add]
      exact ih hrest hb

/-- A key below the first one of a rising table is below all. -/
theorem lt_of_mem_rising {α : Type} {b k : Nat} {x : α} {t : FMap α} (hb : b < k) (h : rising ((k, x) :: t)) :
    ∀ q ∈ (k, x) :: t, b < q.1 :=
  List.forall_mem_cons.2 ⟨hb, fun q hq => hb.trans ((List.pairwise_cons.1 h).1 q hq)⟩

theorem rising_cons {α : Type} {k : Nat} {x : α} {t : FMap α} (h : ∀ q ∈ t, k < q.1) (ht : rising t) : rising ((k, x) :: t) :=
  List.pairwise_cons.2 ⟨h, ht⟩

/-! ### Adding sparse values to Tanks -/

/-- An entry in front of a table, dropped where it is 0. -/
def consNonzero (k : Nat) (y : BitVec 96) (t : FMap (BitVec 96)) : FMap (BitVec 96) := if y = 0 then t else (k, y) :: t

theorem lt_of_mem_consNonzero {b k : Nat} {y : BitVec 96} {t : FMap (BitVec 96)} (hk : b < k) (ht : ∀ q ∈ t, b < q.1) :
    ∀ q ∈ consNonzero k y t, b < q.1 := by
  unfold consNonzero
  split
  · exact ht
  · exact List.forall_mem_cons.2 ⟨hk, ht⟩

theorem rising_consNonzero {k : Nat} {y : BitVec 96} {t : FMap (BitVec 96)} (h : ∀ q ∈ t, k < q.1) (ht : rising t) :
    rising (consNonzero k y t) := by
  unfold consNonzero
  split
  · exact ht
  · exact rising_cons h ht

theorem fmGetD_consNonzero {k e : Nat} {y : BitVec 96} {t : FMap (BitVec 96)} (h : ∀ q ∈ t, k < q.1) :
    fmGetD (consNonzero k y t) e 0 = if e = k then y else fmGetD t e 0 := by
  unfold consNonzero
  split
  · rename_i hy
    split
    · rename_i he
      rw [fmGetD_eq_of_lt (he ▸ h), hy]
    · rfl
  · exact fmGetD_cons h

/-- Where both tables begin with one key, its entries are added. -/
theorem tankAdd_eq_key {k j fuel : Nat} {x : BitVec 96} {c : Int} {t : FMap (BitVec 96)} {vs : List (Nat × Int)} (hkj : ¬k < j)
    (hjk : ¬j < k) : tankAdd (fuel + 1) ((k, x) :: t) ((j, c) :: vs) = consNonzero k (x + BitVec.ofInt 96 c) (tankAdd fuel t vs) := by
  rw [tankAdd, if_neg hkj, if_neg hjk]
  rfl

/-- Every key of the sum is above a bound that all keys of both tables are above. -/
theorem lt_of_mem_tankAdd {b : Nat} (fuel : Nat) (t : FMap (BitVec 96)) (vs : List (Nat × Int)) (ht : ∀ q ∈ t, b < q.1)
    (hv : ∀ v ∈ vs, b < v.1) : ∀ q ∈ tankAdd fuel t vs, b < q.1 := by
  induction fuel, t, vs using tankAdd.induct with
  | case1 t vs => exact ht
  | case2 fuel t => simpa [tankAdd] using ht
  | case3 fuel vs =>
    intro q hq
    simp only [tankAdd, List.mem_filter, List.mem_map] at hq
    obtain ⟨⟨v, hmem, rfl⟩, -⟩ := hq
    exact hv v hmem
  | case4 fuel k x t j c vs hkj ih =>
    obtain ⟨hk, ht⟩ := List.forall_mem_cons.1 ht
    rw [tankAdd, if_pos hkj]
    exact List.forall_mem_cons.2 ⟨hk, ih ht hv⟩
  | case5 fuel k x t j c vs hkj hjk ih =>
    obtain ⟨hj, hv⟩ := List.forall_mem_cons.1 hv
    rw [tankAdd, if_neg hkj, if_pos hjk]
    exact List.forall_mem_cons.2 ⟨hj, ih ht hv⟩
  | case6 fuel k x t j c vs hkj hjk y hy ih | case7 fuel k x t j c vs hkj hjk y hy ih =>
    obtain ⟨hk, ht⟩ := List.forall_mem_cons.1 ht
    rw [tankAdd_eq_key hkj hjk]
    exact lt_of_mem_consNonzero hk (ih ht (List.forall_mem_cons.1 hv).2)

/-- Sparse values as a table of accumulators of their own. -/
theorem fmGetD_ofValues {vs : List (Nat × Int)} (hv : rising vs) (e : Nat) :
    fmGetD ((vs.map fun v => (v.1, BitVec.ofInt 96 v.2)).filter fun p => p.2 != 0) e 0 = BitVec.ofInt 96 (colSum vs e) := by
  induction vs with
  | nil => rfl
  | cons v rest ih =>
    obtain ⟨j, c⟩ := v
    obtain ⟨hlt, hrest⟩ := List.pairwise_cons.1 hv
    have hcons : (((j, c) :: rest).map fun v => (v.1, BitVec.ofInt 96 v.2)).filter (fun p => p.2 != 0) =
        consNonzero j (BitVec.ofInt 96 c) ((rest.map fun v => (v.1, BitVec.ofInt 96 v.2)).filter fun p => p.2 != 0) := by
      by_cases hz : BitVec.ofInt 96 c = 0#96 <;> simp [consNonzero, hz]
    have habove : ∀ q ∈ (rest.map fun v => (v.1, BitVec.ofInt 96 v.2)).filter fun p => p.2 != 0, j < q.1 := by
      intro q hq
      obtain ⟨v, hmem, rfl⟩ := List.mem_map.1 (List.mem_filter.1 hq).1
      exact hlt v hmem
    rw [hcons, fmGetD_consNonzero habove, ih hrest, colSum_cons]
    split
    · rename_i he
      rw [colSum_eq_zero_of_lt (he ▸ hlt), Int.add_zero]
    · rw [Int.zero_add]

/-- The keys of the sum of two tables with rising keys rise. -/
theorem tankAdd_rising (fuel : Nat) (t : FMap (BitVec 96)) (vs : List (Nat × Int)) (ht : rising t) (hv : rising vs) :
    rising (tankAdd fuel t vs) := by
  induction fuel, t, vs using tankAdd.induct with
  | case1 t vs => exact ht
  | case2 fuel t => simpa [tankAdd] using ht
  | case3 fuel vs =>
    have hmap : rising (vs.map fun v => (v.1, BitVec.ofInt 96 v.2)) := List.pairwise_map.2 hv
    simp only [tankAdd]
    exact List.Pairwise.filter _ hmap
  | case4 fuel k x t j c vs hkj ih =>
    obtain ⟨hk, ht⟩ := List.pairwise_cons.1 ht
    rw [tankAdd, if_pos hkj]
    exact rising_cons (lt_of_mem_tankAdd _ _ _ hk (lt_of_mem_rising hkj hv)) (ih ht hv)
  | case5 fuel k x t j c vs hkj hjk ih =>
    obtain ⟨hj, hv⟩ := List.pairwise_cons.1 hv
    rw [tankAdd, if_neg hkj, if_pos hjk]
    exact rising_cons (lt_of_mem_tankAdd _ _ _ (lt_of_mem_rising hjk ht) hj) (ih ht hv)
  | case6 fuel k x t j c vs hkj hjk y hy ih | case7 fuel k x t j c vs hkj hjk y hy ih =>
    rw [tankAdd_eq_key hkj hjk]
    obtain rfl : j = k := by omega
    obtain ⟨hk, ht⟩ := List.pairwise_cons.1 ht
    obtain ⟨hj, hv⟩ := List.pairwise_cons.1 hv
    exact rising_consNonzero (lt_of_mem_tankAdd _ _ _ hk hj) (ih ht hv)

/-- Element by element, the sum of the two tables, modulo 2^96. -/
theorem fmGetD_tankAdd (fuel : Nat) (t : FMap (BitVec 96)) (vs : List (Nat × Int)) (ht : rising t) (hv : rising vs)
    (hfuel : t.length + vs.length ≤ fuel) (e : Nat) :
    fmGetD (tankAdd fuel t vs) e 0 = fmGetD t e 0 + BitVec.ofInt 96 (colSum vs e) := by
  induction fuel, t, vs using tankAdd.induct with
  | case1 t vs =>
    obtain rfl : vs = [] := List.eq_nil_of_length_eq_zero (by omega)
    simp [tankAdd]
  | case2 fuel t => simp [tankAdd]
  | case3 fuel vs => simpa [tankAdd, fmGetD, fmGet] using fmGetD_ofValues hv e
  | case4 fuel k x t j c vs hkj ih =>
    obtain ⟨hk, htr⟩ := List.pairwise_cons.1 ht
    have hall := lt_of_mem_rising hkj hv
    rw [tankAdd, if_pos hkj, fmGetD_cons (lt_of_mem_tankAdd _ _ _ hk hall), fmGetD_cons hk,
      ih htr hv (by simp only [List.length_cons] at hfuel ⊢; omega)]
    split
    · rename_i he
      rw [colSum_eq_zero_of_lt (he ▸ hall)]
      simp
    · rfl
  | case5 fuel k x t j c vs hkj hjk ih =>
    obtain ⟨hj, hvr⟩ := List.pairwise_cons.1 hv
    have hall := lt_of_mem_rising hjk ht
    rw [tankAdd, if_neg hkj, if_pos hjk, fmGetD_cons (lt_of_mem_tankAdd _ _ _ hall hj), colSum_cons,
      ih ht hvr (by simp only [List.length_cons] at hfuel ⊢; omega)]
    split
    · rename_i he
      rw [colSum_eq_zero_of_lt (he ▸ hj), fmGetD_eq_of_lt (he ▸ hall)]
      simp
    · rw [Int.zero_add]
  | case6 fuel k x t j c vs hkj hjk y hy ih | case7 fuel k x t j c vs hkj hjk y hy ih =>
    rw [tankAdd_eq_key hkj hjk]
    obtain rfl : j = k := by omega
    obtain ⟨hk, htr⟩ := List.pairwise_cons.1 ht
    obtain ⟨hj, hvr⟩ := List.pairwise_cons.1 hv
    rw [fmGetD_consNonzero (lt_of_mem_tankAdd _ _ _ hk hj), fmGetD_cons hk, colSum_cons,
      ih htr hvr (by simp only [List.length_cons] at hfuel ⊢; omega)]
    split
    · rename_i he
      rw [colSum_eq_zero_of_lt (he ▸ hj), Int.add_zero]
    · rw [Int.zero_add]

/-! ### Contributions of many operations -/

@[simp] theorem toNat_satAdd {w : Nat} (x : BitVec w) (n : Nat) : (satAdd x n).toNat = Nat.min (x.toNat + n) (2 ^ w - 1) := by
  unfold satAdd
  split
  · rename_i h
    have hn : n < 2 ^ w := by omega
    rw [BitVec.toNat_add, BitVec.toNat_ofNat, Nat.mod_eq_of_lt hn, Nat.mod_eq_of_lt h]
    exact (Nat.min_eq_left (by omega)).symm
  · rw [BitVec.toNat_allOnes]
    exact (Nat.min_eq_right (by omega)).symm

theorem satAdd_right_comm {w : Nat} (x : BitVec w) (m n : Nat) : satAdd (satAdd x m) n = satAdd (satAdd x n) m := by
  refine BitVec.eq_of_toNat_eq ?_
  simp only [toNat_satAdd, Nat.min_def]
  grind

theorem addContrib_poison (c : Cell) (k : Contrib) : (c.addContrib k).poison = c.poison ||| k.poison := rfl
theorem addContrib_clampCount (c : Cell) (k : Contrib) : (c.addContrib k).clampCount = satAdd c.clampCount k.clamps := rfl

theorem addContrib_rising {c : Cell} {k : Contrib} (hc : rising c.tanks) (hk : rising k.vals) : rising (c.addContrib k).tanks :=
  tankAdd_rising _ _ _ hc hk

theorem addContrib_tanks {c : Cell} {k : Contrib} (hc : rising c.tanks) (hk : rising k.vals) (e : Nat) :
    fmGetD (c.addContrib k).tanks e 0 = fmGetD c.tanks e 0 + BitVec.ofInt 96 (Claims.addend k e) :=
  fmGetD_tankAdd _ _ _ hc hk (Nat.le_succ _) e

theorem foldl_addContrib_tanks {c : Cell} (ks : List Contrib) (hc : rising c.tanks) (hks : ∀ k ∈ ks, rising k.vals) (e : Nat) :
    fmGetD (ks.foldl Cell.addContrib c).tanks e 0 =
      fmGetD c.tanks e 0 + BitVec.ofInt 96 (ks.map fun k => Claims.addend k e).sum := by
  induction ks generalizing c with
  | nil => simp
  | cons k rest ih =>
    obtain ⟨hk, hrest⟩ := List.forall_mem_cons.1 hks
    rw [List.foldl_cons, ih (addContrib_rising hc hk) hrest, addContrib_tanks hc hk, List.map_cons, List.sum_cons, BitVec.ofInt_add,
      BitVec.add_assoc]

theorem natAbs_sum_le {n : Int} (l : List Int) (h : ∀ x ∈ l, (x.natAbs : Int) ≤ n) : (l.sum.natAbs : Int) ≤ l.length * n := by
  induction l with
  | nil => simp
  | cons x rest ih =>
    obtain ⟨hx, hrest⟩ := List.forall_mem_cons.1 h
    have hsum := ih hrest
    rw [List.sum_cons, List.length_cons, Int.natCast_succ, Int.add_mul]
    omega

/-- At most 2^24 contributions fit a Tank of 96 bits (03 R71). -/
theorem toInt_sum_addends (ks : List Contrib) (hlen : ks.length ≤ 2 ^ 24) (hks : ∀ k ∈ ks, rising k.vals)
    (hb : ∀ k ∈ ks, ∀ v ∈ k.vals, v.2.natAbs ≤ 2 ^ 71 - 1) (e : Nat) :
    (BitVec.ofInt 96 (ks.map fun k => Claims.addend k e).sum).toInt = (ks.map fun k => Claims.addend k e).sum := by
  have hall : ∀ x ∈ ks.map fun k => Claims.addend k e, (x.natAbs : Int) ≤ 2 ^ 71 - 1 := by
    intro x hx
    obtain ⟨k, hk, rfl⟩ := List.mem_map.1 hx
    have hone := natAbs_colSum_le (hks k hk) (hb k hk) e
    rw [addend_eq_colSum]
    omega
  have hsum := natAbs_sum_le _ hall
  rw [List.length_map] at hsum
  refine BitVec.toInt_ofInt_eq_self (by decide) ?_ ?_ <;> omega

theorem foldl_addContrib_tank {c : Cell} (ks : List Contrib) (hc : c.tanks = []) (hlen : ks.length ≤ 2 ^ 24)
    (hks : ∀ k ∈ ks, rising k.vals) (hb : ∀ k ∈ ks, ∀ v ∈ k.vals, v.2.natAbs ≤ 2 ^ 71 - 1) (e : Nat) :
    Claims.tank (ks.foldl Cell.addContrib c) e = (ks.map fun k => Claims.addend k e).sum := by
  have hrise : rising c.tanks := hc ▸ List.Pairwise.nil
  rw [Claims.tank, foldl_addContrib_tanks ks hrise hks, hc]
  exact (congrArg BitVec.toInt (BitVec.zero_add _)).trans (toInt_sum_addends ks hlen hks hb e)

theorem foldl_addContrib_poison (c : Cell) (ks : List Contrib) :
    (ks.foldl Cell.addContrib c).poison = ks.foldl (fun p k => p ||| k.poison) c.poison :=
  (List.foldl_hom Cell.poison addContrib_poison).symm

theorem foldl_addContrib_clampCount (c : Cell) (ks : List Contrib) :
    (ks.foldl Cell.addContrib c).clampCount = ks.foldl (fun n k => satAdd n k.clamps) c.clampCount :=
  (List.foldl_hom Cell.clampCount addContrib_clampCount).symm

/-- Settles O21: modulo 2^96 every Tank holds the sum, which lies within ±2^95; bits and saturating counts commute. -/
theorem tankSumsAreExact : Obligations.TankSumsAreExact := by
  unfold Obligations.TankSumsAreExact
  intro c ks hc hlen hks hb
  have hsum := foldl_addContrib_tank ks hc hlen hks hb
  refine ⟨hsum, fun ks' hperm => ⟨fun e => ?_, ?_, ?_⟩⟩
  · have hsum' := foldl_addContrib_tank ks' hc (hperm.length_eq ▸ hlen) (fun k hk => hks k (hperm.mem_iff.2 hk))
      (fun k hk => hb k (hperm.mem_iff.2 hk)) e
    rw [hsum, hsum', (hperm.map _).sum_eq]
  · rw [foldl_addContrib_poison, foldl_addContrib_poison]
    exact hperm.symm.foldl_eq' (fun _ _ _ _ _ => by ac_rfl) _
  · rw [foldl_addContrib_clampCount, foldl_addContrib_clampCount]
    exact hperm.symm.foldl_eq' (fun _ _ _ _ _ => satAdd_right_comm ..) _

/-! ### One contribution (03 R70) -/

/-- Magnitude of v × 2^k truncated toward zero. -/
def truncMag (v k : Int) : Nat := if 0 ≤ k then v.natAbs * 2 ^ k.toNat else v.natAbs / 2 ^ (-k).toNat

theorem truncMag_eq_zero {v k : Int} (hk : k < 0) (hv : v.natAbs < 2 ^ (-k).toNat) : truncMag v k = 0 := by
  rw [truncMag, if_neg (Int.not_le.2 hk), Nat.div_eq_of_lt hv]

theorem tankContribution_of_le {v k : Int} (h : truncMag v k ≤ 2 ^ 71 - 1) :
    tankContribution v k = (if v < 0 then -(truncMag v k : Int) else truncMag v k, false) := by
  have hno : ¬(truncMag v k : Int) > tankMax := by
    rw [tankMax]
    omega
  exact if_neg hno

theorem tankContribution_of_lt {v k : Int} (h : 2 ^ 71 - 1 < truncMag v k) :
    tankContribution v k = (if v < 0 then -tankMax else tankMax, true) := by
  have hclamp : (truncMag v k : Int) > tankMax := by
    rw [tankMax]
    omega
  exact if_pos hclamp

/-- Settles O20, by whether the truncated magnitude is at most 2^71 − 1. -/
theorem tankContribution_truncates : Obligations.TankContribution := by
  unfold Obligations.TankContribution
  intro v k
  change (_ ↔ 2 ^ 71 - 1 < truncMag v k) ∧ _ = Nat.min (truncMag v k) (2 ^ 71 - 1) ∧ _ ∧ _ ∧ _
  rcases Nat.lt_or_ge (2 ^ 71 - 1) (truncMag v k) with hm | hm
  · have hmin : Nat.min (truncMag v k) (2 ^ 71 - 1) = 2 ^ 71 - 1 := Nat.min_eq_right hm.le
    have hsmall (hk : k < 0) (hv : v.natAbs < 2 ^ (-k).toNat) : False := by
      rw [truncMag_eq_zero hk hv] at hm
      omega
    rw [tankContribution_of_lt hm, hmin, tankMax]
    refine ⟨iff_of_true rfl hm, ?_, ?_, ?_, fun hk hv => (hsmall hk hv).elim⟩ <;> split <;> omega
  · have hmin : Nat.min (truncMag v k) (2 ^ 71 - 1) = truncMag v k := Nat.min_eq_left hm
    rw [tankContribution_of_le hm, hmin]
    refine ⟨iff_of_false Bool.false_ne_true (Nat.not_lt.2 hm), ?_, ?_, ?_, fun hk hv => ?_⟩
    · split <;> omega
    · split <;> omega
    · split <;> omega
    · rw [truncMag_eq_zero hk hv]
      exact Prod.ext (ite_self _) rfl

end Sys2Proof.Machine

/-! # Operations of the V slot lane by lane (06 R153 to R158) -/

namespace Sys2Proof.Machine

open Claims (plain1 plain2 floatType flt Lanes SpecialLanes TrLanes refSet trLat trOcc floatLat)

/-! ### Bits of a bundle that pass (05 R151, 06 R183) -/

theorem firstCause_vBits {u : VUse} {types : List Nat} {f : VecF} (hu : vUnused u f = false) (hmem : f.type.toNat ∈ types)
    (hle : f.type.toNat ≤ 10) : firstCause (vBits u types f) = none := by
  simp [vBits, firstCause, hu, hmem, Nat.not_lt.2 hle]

theorem vUnused_plain2 {f : VecF} (h : plain2 f) : vUnused use2 f = false := by
  obtain ⟨hvc, hfunc, himm⟩ := h
  simp [vUnused, use2, hvc, hfunc, himm]

theorem vUnused_plain1 {f : VecF} (h : plain1 f) : vUnused {} f = false := by
  obtain ⟨hvb, hvc, hfunc, himm⟩ := h
  simp [vUnused, hvb, hvc, hfunc, himm]

theorem vUnused_three {f : VecF} (hfunc : f.func = 0) (himm : f.imm = 0) : vUnused { vb := true, vc := true } f = false := by
  simp [vUnused, hfunc, himm]

theorem floatType_mem {f : VecF} (h : floatType f) : f.type.toNat ∈ floatTypes ∧ f.type.toNat ∈ allTypes ∧ f.type.toNat ≤ 10 := by
  rcases h with h | h | h <;> rw [h] <;> decide

theorem floatType_ne {f : VecF} (h : floatType f) : f.type ≠ 10 := by
  intro h10
  rcases h with h | h | h <;> exact absurd (h.symm.trans h10) (by decide)

/-! ### Elementwise operations on the main unit -/

/-- An elementwise operation whose bundle bits pass computes its lanes with its latency. -/
theorem lanes_of_laneOp {ins : Issue → VecF → Instr} {ok : VecF → Prop} {lat lat' : VecF → Nat} {lane : Block → VecF → Nat → Nat}
    {bits : VecF → List (Nat × Bool)} {op : VecF → Nat → Nat → Nat → Nat → Nat} {srcs : Nat}
    (hexec : ∀ i f s, exec (ins i f) s = .next (runV i (bits f) noOcc (laneOp f (lat' f) (op f) srcs) s))
    (hbits : ∀ f, ok f → firstCause (bits f) = none) (hlat : ∀ f, ok f → lat' f = lat f)
    (hlane : ∀ b f l, ok f → op f l (b.lane f.type f.va l) (b.lane f.type f.vb l) (b.lane f.type f.vc l) = lane b f l) :
    Lanes ins ok lat lane := by
  intro s s1 i f c hissue hok
  have hsent := runV_laneOp (f := f) (latency := lat f) (srcs := srcs) (op := op f) hissue (hbits f hok) (occ := noOcc) (.inl rfl)
  have hlanes := funext fun l => hlane (s1.block c.bix) f l hok
  rw [hlanes] at hsent
  obtain ⟨hsends, hframe⟩ := hsent
  exact ⟨_, (hexec i f s).trans (by rw [hlat f hok]), hsends, hframe⟩

theorem addLat_float {f : VecF} (h : floatType f) : addLat f.type = floatLat f := by
  unfold addLat floatLat
  rcases h with h | h | h <;> rw [h] <;> rfl

theorem arith_float {f : VecF} (h : floatType f) (fl : Val → Val → Val) (int : Nat → Nat → Nat) (l a b c : Nat) :
    arith f.type fl int l a b c = encVal (laneFmt f.type) (fl (decodeElem f.type a) (decodeElem f.type b)) := by
  exact if_neg (floatType_ne h)

/-- A two-source operation on float lanes. -/
theorem floatLanes_arith {ins : Issue → VecF → Instr} {fl : Val → Val → Val} {int : Nat → Nat → Nat} {lat : VecF → Nat}
    (hexec : ∀ i f s, exec (ins i f) s = .next (runV i (vBits use2 allTypes f) noOcc (laneOp f (lat f) (arith f.type fl int) 2) s))
    (hlat : ∀ f, floatType f → lat f = floatLat f) :
    Lanes ins (fun f => floatType f ∧ plain2 f) floatLat
      fun b f l => encVal (laneFmt f.type) (fl (flt b f f.va l) (flt b f f.vb l)) :=
  lanes_of_laneOp hexec (fun _ h => firstCause_vBits (vUnused_plain2 h.2) (floatType_mem h.1).2.1 (floatType_mem h.1).2.2)
    (fun f h => hlat f h.1) fun _ _ _ h => arith_float h.1 ..

/-- A one-source operation on float lanes. -/
theorem floatLanes_unary {ins : Issue → VecF → Instr} {op : BitVec 4 → Nat → Nat → Nat → Nat → Nat} {lane : Block → VecF → Nat → Nat}
    (hexec : ∀ i f s, exec (ins i f) s = .next (runV i (vBits {} allTypes f) noOcc (laneOp f (addLat f.type) (op f.type) 1) s))
    (hlane : ∀ b f l, floatType f → op f.type l (b.lane f.type f.va l) (b.lane f.type f.vb l) (b.lane f.type f.vc l) = lane b f l) :
    Lanes ins (fun f => floatType f ∧ plain1 f) floatLat lane :=
  lanes_of_laneOp hexec (fun _ h => firstCause_vBits (vUnused_plain1 h.2) (floatType_mem h.1).2.1 (floatType_mem h.1).2.2)
    (fun _ h => addLat_float h.1) fun b f l h => hlane b f l h.1

theorem Block.lane_lt (b : Block) (type : BitVec 4) (r : BitVec 6) (l : Nat) : b.lane type r l < 2 ^ laneBits type :=
  Nat.mod_lt _ (Nat.two_pow_pos _)

theorem laneFmt_width {f : VecF} (h : floatType f) : (laneFmt f.type).width = laneBits f.type := by
  rcases h with h | h | h <;> rw [h] <;> rfl

/-- Adding the sign bit modulo the width flips it. -/
theorem add_signBit_mod {w x : Nat} (h : x < 2 ^ (w + 1)) : (x + 2 ^ w) % 2 ^ (w + 1) = x ^^^ 2 ^ w := by
  refine Nat.eq_of_testBit_eq fun i => ?_
  rw [Nat.testBit_mod_two_pow, Nat.testBit_xor, Nat.testBit_two_pow, Nat.add_comm x]
  rcases Nat.lt_trichotomy i w with hi | rfl | hi
  · rw [Nat.testBit_two_pow_add_gt hi]
    simp [hi.ne', Nat.lt_succ_of_lt hi]
  · rw [Nat.testBit_two_pow_add_eq]
    simp
  · have hx : x.testBit i = false := Nat.testBit_lt_two_pow (h.trans_le (Nat.pow_le_pow_right (by decide) hi))
    simp [hx, hi.ne, Nat.not_lt.2 (Nat.succ_le_of_lt hi)]

theorem negLane_float {f : VecF} (h : floatType f) (b : Block) (l x y : Nat) :
    negLane f.type l (b.lane f.type f.va l) x y = if isNanVal (flt b f f.va l) then (laneFmt f.type).nanCode
      else b.lane f.type f.va l ^^^ 2 ^ ((laneFmt f.type).width - 1) := by
  have hlt := b.lane_lt f.type f.va l
  have hw : laneBits f.type = laneBits f.type - 1 + 1 := by
    unfold laneBits
    split <;> rfl
  rw [hw] at hlt
  rw [negLane, if_neg (floatType_ne h), laneFmt_width h, ← add_signBit_mod hlt, ← hw]
  rfl

theorem absLane_float {f : VecF} (h : floatType f) (b : Block) (l x y : Nat) :
    absLane f.type l (b.lane f.type f.va l) x y = if isNanVal (flt b f f.va l) then (laneFmt f.type).nanCode
      else b.lane f.type f.va l % 2 ^ ((laneFmt f.type).width - 1) :=
  if_neg (floatType_ne h)

/-- Settles O2: each operation is one elementwise operation of the main unit. -/
theorem floatLanes : Obligations.FloatLanes := by
  unfold Obligations.FloatLanes
  refine ⟨floatLanes_arith (fun _ _ _ => rfl) fun _ h => addLat_float h,
    floatLanes_arith (fl := fun a b => addVal a (negVal b)) (fun _ _ _ => rfl) fun _ h => addLat_float h,
    floatLanes_arith (fun _ _ _ => rfl) fun _ h => (if_neg (floatType_ne h)).trans (addLat_float h), ?_,
    floatLanes_arith (fun _ _ _ => rfl) fun _ h => addLat_float h, floatLanes_arith (fun _ _ _ => rfl) fun _ h => addLat_float h,
    floatLanes_unary (fun _ _ _ => rfl) fun b f l h => absLane_float h ..,
    floatLanes_unary (fun _ _ _ => rfl) fun b f l h => negLane_float h ..⟩
  refine lanes_of_laneOp (fun _ _ _ => rfl) (fun f ⟨ht, hfunc, himm⟩ => ?_) (fun f h => addLat_float h.1) fun _ _ _ _ => rfl
  obtain ⟨hmem, -, hle⟩ := floatType_mem ht
  exact firstCause_vBits (vUnused_three hfunc himm) hmem hle

/-! ### The special unit (06 R155, R156) -/

theorem Reports.specialFree {s t : State} (h : Reports s t) (x : Nat) : (t.block x).specialFree = (s.block x).specialFree := by
  have hblock := congrArg Block.specialFree (h.block x)
  exact hblock

@[simp] theorem putVec_specialFree (s : State) (c : Ctx) (due : Nat) (vd : BitVec 6) (val : Nat) (en : BitVec 1024) :
    ((putVec s c due vd val en).block c.bix).specialFree = (s.block c.bix).specialFree := by
  rw [putVec, State.updBlock_block_self]
  exact (hazDouble_reports ..).specialFree _

@[simp] theorem hazVec_specialFree (s : State) (c : Ctx) (r : BitVec 6) (x : Nat) :
    ((hazVec c s r).block x).specialFree = (s.block x).specialFree := (hazVec_reports ..).specialFree _

@[simp] theorem hazMask_specialFree (s : State) (c : Ctx) (k : BitVec 3) (x : Nat) :
    ((hazMask c s k).block x).specialFree = (s.block x).specialFree := (hazMask_reports ..).specialFree _

theorem laneOp_specialFree (f : VecF) (latency : Nat) (op : Nat → Nat → Nat → Nat → Nat) (srcs : Nat) (s : State) (c : Ctx) :
    ((laneOp f latency op srcs s c).block c.bix).specialFree = (s.block c.bix).specialFree := by
  have hread (b : Prop) [Decidable b] (t : State) (r : BitVec 6) :
      ((if b then hazVec c t r else t).block c.bix).specialFree = (t.block c.bix).specialFree := by
    split
    · exact hazVec_specialFree ..
    · rfl
  simp only [laneOp, putVec_specialFree, hazMask_specialFree, hread]

theorem countSlot_specialFree (s : State) (c : Ctx) (x : Nat) : ((s.countSlot c).block x).specialFree = (s.block x).specialFree := by
  have hperf (g : Perf → Perf) : ((s.updBlock c.bix fun b => { b with perf := g b.perf }).block x).specialFree = (s.block x).specialFree := by
    by_cases hx : x = c.bix
    · subst hx
      rw [State.updBlock_block_self]
    · rw [State.updBlock_block_ne _ _ hx]
  unfold State.countSlot
  split
  · exact hperf fun p => { p with vIssued := p.vIssued + 1 }
  · split
    · exact hperf fun p => { p with xIssued := p.xIssued + 1 }
    · rfl

theorem takeSpecial_specialFree {occ : Nat} (h : 0 < occ) (s : State) (c : Ctx) :
    ((takeSpecial s c occ).block c.bix).specialFree = c.t + occ := by
  rw [takeSpecial, if_neg h.ne', State.updBlock_block_self]

@[simp] theorem takeSpecial_refSetOf (s : State) (c : Ctx) (occ pid : Nat) : refSetOf (takeSpecial s c occ) pid = refSetOf s pid := by
  unfold takeSpecial
  split <;> rfl

@[simp] theorem takeSpecial_firmware (s : State) (c : Ctx) (occ : Nat) : (takeSpecial s c occ).firmware = s.firmware := by
  unfold takeSpecial
  split <;> rfl

/-- An elementwise operation of the special unit that finds it free computes its lanes and holds it. -/
theorem specialLanes_of_laneOp {ins : Issue → VecF → Instr} {ok : VecF → Prop} {lat occ : State → Ctx → VecF → Nat}
    {lane : State → Ctx → VecF → Nat → Nat} {bits : VecF → List (Nat × Bool)} {occ' : VecF → State → Ctx → Nat}
    {eff : VecF → State → Ctx → State} {op : State → Ctx → VecF → Nat → Nat → Nat → Nat → Nat} {srcs : Nat}
    (hexec : ∀ i f s, exec (ins i f) s = .next (runV i (bits f) (occ' f) (eff f) s))
    (hbits : ∀ f, ok f → firstCause (bits f) = none) (hocc : ∀ s c f, occ' f s c = occ s c f) (hpos : ∀ s c f, 0 < occ s c f)
    (heff : ∀ s n c f, eff f (takeSpecial s c n) c = laneOp f (lat s c f) (op s c f) srcs (takeSpecial s c n) c)
    (hlane : ∀ s c f l, ok f → op s c f l ((s.block c.bix).lane f.type f.va l) ((s.block c.bix).lane f.type f.vb l)
      ((s.block c.bix).lane f.type f.vc l) = lane s c f l) : SpecialLanes ins ok lat occ lane := by
  intro s s1 i f c hissue hok hfree
  have hrun : runV i (bits f) (occ' f) (eff f) s = runV i (bits f) (occ' f) (laneOp f (lat s1 c f) (op s1 c f) srcs) s := by
    rw [runV_issues hissue (hbits f hok) (.inr hfree), runV_issues hissue (hbits f hok) (.inr hfree), heff]
  have hsent := runV_laneOp (f := f) (latency := lat s1 c f) (srcs := srcs) (op := op s1 c f) hissue (hbits f hok) (occ := occ' f)
    (.inr hfree)
  have hlanes := funext fun l => hlane s1 c f l hok
  rw [hlanes] at hsent
  obtain ⟨hsends, hframe⟩ := hsent
  refine ⟨_, (hexec i f s).trans (congrArg _ hrun), hsends, ?_, hframe⟩
  rw [runV_issues hissue (hbits f hok) (.inr hfree), countSlot_specialFree, laneOp_specialFree, hocc,
    takeSpecial_specialFree (hpos s1 c f)]

/-- Where the special unit is held, the bundle of an operation that needs it is illegal (06 R156, cause 0x21). -/
theorem runV_held {s s1 : State} {i : Issue} {c : Ctx} {bits : List (Nat × Bool)} {occ : State → Ctx → Nat} {eff : State → Ctx → State}
    (hissue : Issues s i 3 c s1) (hbits : firstCause bits = none) (hocc : 0 < occ s1 c) (hheld : c.t < (s1.block c.bix).specialFree) :
    runV i bits occ eff s = illegal s1 c 0x21 := by
  obtain ⟨s0, hopen, rfl, hpred⟩ := hissue
  simp [runV, runSlot, hopen, hbits, hpred, firstCause, hocc, hheld]

/-- Occupancy of the special unit by DIV and SQRT is not 0. -/
theorem divOcc_pos (f : VecF) : 0 < if f.type = 9 then 4 else 8 := by
  split <;> decide

/-! ### The transcendentals (06 R158) -/

theorem trTiming_pos (r : Bool) (type : BitVec 4) : 0 < (trTiming r type).2 := by
  unfold trTiming
  split <;> split <;> exact Nat.succ_pos _

theorem trTiming_lat (s : State) (c : Ctx) (f : VecF) : (trTiming (refSet s c) f.type).1 = trLat s c f := by
  unfold trTiming trLat
  split <;> split <;> rfl

theorem trTiming_occ (s : State) (c : Ctx) (f : VecF) : (trTiming (refSet s c) f.type).2 = trOcc s c f := by
  unfold trTiming trOcc
  split <;> split <;> rfl

theorem firstCause_tr {f : VecF} (htype : f.type = 7 ∨ f.type = 9) (h : plain1 f) : firstCause (vBits {} [7, 9] f) = none := by
  refine firstCause_vBits (vUnused_plain1 h) ?_ ?_ <;> rcases htype with ht | ht <;> rw [ht] <;> decide

/-- A transcendental operation that finds the special unit free. -/
theorem trLanes {ins : Issue → VecF → Instr} {fn : TFn} (hexec : ∀ i f s, exec (ins i f) s = .next (runTr fn i f s)) :
    TrLanes ins fn := by
  refine specialLanes_of_laneOp (srcs := 1) hexec (fun _ h => firstCause_tr h.1 h.2) trTiming_occ
    (fun s c f => trTiming_occ s c f ▸ trTiming_pos ..) (op := fun s c f _ a _ _ =>
      trLane fn (if refSet s c then none else some s.firmware) f.type a) (fun s n c f => ?_) fun s c f l h => ?_
  · simp only [takeSpecial_refSetOf, takeSpecial_firmware, ← trTiming_lat]
    rfl
  · rcases h.1 with ht | ht <;> simp [trLane, ht]

/-- A transcendental operation that finds it held. -/
theorem runTr_held {s s1 : State} {i : Issue} {f : VecF} {c : Ctx} (hissue : Issues s i 3 c s1) (htype : f.type = 7 ∨ f.type = 9)
    (hplain : plain1 f) (hheld : c.t < (s1.block c.bix).specialFree) (fn : TFn) : runTr fn i f s = illegal s1 c 0x21 :=
  runV_held hissue (firstCause_tr htype hplain) (trTiming_pos ..) hheld

/-- Settles O4: DIV, SQRT and the transcendentals are elementwise operations that take the special unit for a time. -/
theorem specialUnit : Obligations.SpecialUnit := by
  unfold Obligations.SpecialUnit
  refine ⟨?_, ?_, trLanes fun _ _ _ => rfl, trLanes fun _ _ _ => rfl, trLanes fun _ _ _ => rfl, trLanes fun _ _ _ => rfl,
    trLanes fun _ _ _ => rfl, trLanes fun _ _ _ => rfl, trLanes fun _ _ _ => rfl, trLanes fun _ _ _ => rfl, trLanes fun _ _ _ => rfl,
    trLanes fun _ _ _ => rfl, trLanes fun _ _ _ => rfl, fun ins hins s s1 i f c hissue htype hplain hheld => ?_⟩
  · refine specialLanes_of_laneOp (fun _ _ _ => rfl) (fun f ⟨ht, hplain⟩ => ?_) (fun _ _ _ => rfl) (fun _ _ f => divOcc_pos f)
      (fun _ _ _ _ => rfl) fun _ _ _ _ _ => rfl
    obtain ⟨hmem, -, hle⟩ := floatType_mem ht
    exact firstCause_vBits (vUnused_plain2 hplain) hmem hle
  · refine specialLanes_of_laneOp (fun _ _ _ => rfl) (fun f ⟨ht, hplain⟩ => ?_) (fun _ _ _ => rfl) (fun _ _ f => divOcc_pos f)
      (fun _ _ _ _ => rfl) fun _ _ _ _ _ => rfl
    obtain ⟨hmem, -, hle⟩ := floatType_mem ht
    exact firstCause_vBits (vUnused_plain1 hplain) hmem hle
  · have htr (fn : TFn) := congrArg (Host.Outcome.next (φ := Fault) (ρ := Refusal)) (runTr_held hissue htype hplain hheld fn)
    have hfloat : floatType f := htype.imp_right .inr
    obtain ⟨hmem, -, hle⟩ := floatType_mem hfloat
    simp only [List.mem_cons, List.not_mem_nil, or_false] at hins
    rcases hins with rfl | rfl | rfl | rfl | rfl | rfl | rfl | rfl | rfl | rfl | rfl | rfl
    · exact congrArg _ (runV_held hissue (firstCause_vBits (vUnused_plain1 hplain) hmem hle) (divOcc_pos f) hheld)
    · exact htr .exp
    · exact htr .exp2
    · exact htr .log
    · exact htr .log2
    · exact htr .rcp
    · exact htr .rsqrt
    · exact htr .sin
    · exact htr .cos
    · exact htr .tanh
    · exact htr .sigmoid
    · exact htr .erf

end Sys2Proof.Machine

/-! # Landings of the matrix engine (03 R73, 05 R141 to R148) -/

namespace Sys2Proof.Machine

open Claims (rising)

/-! ### What a landing reads from its slabs -/

@[simp] theorem length_chunks (n k : Nat) (bs : Bytes) : (chunks n k bs).length = k := by
  induction k generalizing bs with
  | zero => rfl
  | succ k ih => exact congrArg (· + 1) (ih _)

theorem getElem?_chunks (n : Nat) {k i : Nat} (h : i < k) (bs : Bytes) : (chunks n k bs)[i]? = some ((bs.drop (n * i)).take n) := by
  induction k generalizing bs i with
  | zero => exact absurd h (Nat.not_lt_zero _)
  | succ k ih =>
    cases i with
    | zero => rfl
    | succ i =>
      rw [chunks, List.getElem?_cons_succ, ih (Nat.lt_of_succ_lt_succ h), List.drop_drop, Nat.mul_succ, Nat.add_comm]

/-- The entries of a list from number `n` on, as a table of accumulators. -/
def entryTable {α : Type} (f : α → BitVec 96) (l : List α) (n : Nat) : FMap (BitVec 96) :=
  ((l.zipIdx n).map fun p => (p.2, f p.1)).filter fun q => q.2 != 0

theorem entryTable_cons {α : Type} (f : α → BitVec 96) (x : α) (l : List α) (n : Nat) :
    entryTable f (x :: l) n = consNonzero n (f x) (entryTable f l (n + 1)) := by
  by_cases h : f x = 0#96 <;> simp [entryTable, consNonzero, h]

theorem lt_of_mem_entryTable {α : Type} {f : α → BitVec 96} {l : List α} {n b : Nat} (h : b < n) : ∀ q ∈ entryTable f l n, b < q.1 := by
  induction l generalizing n with
  | nil => simp [entryTable]
  | cons x rest ih =>
    rw [entryTable_cons]
    exact lt_of_mem_consNonzero h (ih (Nat.lt_succ_of_lt h))

theorem entryTable_rising {α : Type} (f : α → BitVec 96) (l : List α) (n : Nat) : rising (entryTable f l n) := by
  induction l generalizing n with
  | nil => exact List.Pairwise.nil
  | cons x rest ih =>
    rw [entryTable_cons]
    exact rising_consNonzero (lt_of_mem_entryTable (Nat.lt_succ_self n)) (ih _)

theorem fmGetD_entryTable {α : Type} (f : α → BitVec 96) (l : List α) (n e : Nat) :
    fmGetD (entryTable f l n) (n + e) 0 = (l[e]?.map f).getD 0 := by
  induction l generalizing n e with
  | nil => rfl
  | cons x rest ih =>
    rw [entryTable_cons, fmGetD_consNonzero (lt_of_mem_entryTable (Nat.lt_succ_self n))]
    cases e with
    | zero => exact if_pos rfl
    | succ e =>
      rw [if_neg (by omega), List.getElem?_cons_succ, ← ih (n + 1) e]
      congr 1
      omega

/-- A table added as sparse integers adds its own entries. -/
theorem ofInt_colSum_toInt {t : FMap (BitVec 96)} (h : rising t) (e : Nat) :
    BitVec.ofInt 96 (colSum (t.map fun p => (p.1, p.2.toInt)) e) = fmGetD t e 0 := by
  induction t with
  | nil => rfl
  | cons p rest ih =>
    obtain ⟨k, x⟩ := p
    obtain ⟨hlt, hrest⟩ := List.pairwise_cons.1 h
    rw [List.map_cons, colSum_cons, fmGetD_cons hlt, ← ih hrest]
    split
    · rename_i he
      rw [colSum_eq_zero_of_lt, Int.add_zero, BitVec.ofInt_toInt]
      intro v hv
      obtain ⟨q, hq, rfl⟩ := List.mem_map.1 hv
      exact he ▸ hlt q hq
    · rw [Int.zero_add]

theorem rising_map_toInt {t : FMap (BitVec 96)} (h : rising t) : rising (t.map fun p => (p.1, p.2.toInt)) := List.pairwise_map.2 h

theorem rawTile_tanks (bs : Bytes) : (rawTile bs).1 = entryTable (fun b => BitVec.ofNat 96 (leNat (b.take 12))) (chunks 16 16384 bs) 0 := by
  simp only [rawTile, entryTable]

theorem fmGetD_rawTile (bs : Bytes) (e : Nat) :
    fmGetD (rawTile bs).1 e 0 = if e < 16384 then BitVec.ofNat 96 (leNat ((bs.drop (16 * e)).take 12)) else 0 := by
  have hentry := fmGetD_entryTable (fun b => BitVec.ofNat 96 (leNat (b.take 12))) (chunks 16 16384 bs) 0 e
  rw [Nat.zero_add] at hentry
  rw [rawTile_tanks, hentry]
  split
  · rename_i he
    rw [getElem?_chunks 16 he]
    simp [List.take_take]
  · rename_i he
    rw [List.getElem?_eq_none (by rw [length_chunks]; omega)]
    rfl

/-- A merge writes back the sampled Tanks plus its tile (03 R74, 05 R147). -/
theorem mergeLand_tanks (c : Cell) {m : Mop} (h : rising m.sample) (e : Nat) : fmGetD (mergeLand c m).tanks e 0 =
    fmGetD m.sample e 0 + if e < 16384 then BitVec.ofNat 96 (leNat (((m.cap 0).drop (16 * e)).take 12)) else 0 := by
  have htile : rising (rawTile (m.cap 0)).1 := rawTile_tanks (m.cap 0) ▸ entryTable_rising ..
  rw [← fmGetD_rawTile, ← ofInt_colSum_toInt htile]
  refine fmGetD_tankAdd _ _ _ h (rising_map_toInt htile) ?_ e
  rw [List.length_map]
  exact Nat.le_succ _

/-! ### Reports leave cells and memory alone -/

theorem Reports.cells {s t : State} (h : Reports s t) : t.cells = s.cells := by
  have hf := congrArg State.cells h.same
  exact hf

theorem Reports.mem {s t : State} (h : Reports s t) : t.mem = s.mem := by
  have hf := congrArg State.mem h.same
  exact hf

theorem cell_of_cells {s t : State} (h : t.cells = s.cells) (x : Nat) : t.cell x = s.cell x := by
  rw [State.cell, State.cell, h]

theorem Reports.cell {s t : State} (h : Reports s t) (x : Nat) : t.cell x = s.cell x := cell_of_cells h.cells x

@[simp] theorem State.setCell_cell_self (s : State) (x : Nat) (c : Cell) : (s.setCell x c).cell x = c := s.updCell_cell_self x fun _ => c

theorem State.setCell_cell_ne (s : State) {x y : Nat} (c : Cell) (h : y ≠ x) : (s.setCell x c).cell y = s.cell y :=
  s.updCell_cell_ne (fun _ => c) h

/-! ### One landing -/

section
variable (s : State) (pid x : Nat) (m : Mop) (g : List Mop)

/-- The event of a landing, where there is one. -/
theorem ite_logOnce_reports (b : Prop) [Decidable b] (code part key : Nat) (u : LogUnit) (d : Nat) :
    Reports s (if b then s else s.logOnce code part key u d) := by
  split
  · exact .refl s
  · exact logOnce_reports ..

/-- The cell after a step outside T2 has landed (05 R141). -/
def Cell.landMain (c : Cell) (m : Mop) : Cell :=
  let k := mmaContrib m (m.cap 0) (m.cap 1)
  let sk := if m.strip then stripContrib m k.2 else ⟨[], 0, 0⟩
  let c1 := c.addContrib k.1
  { c1 with
    strip := tankAdd (c1.strip.length + sk.vals.length + 1) c1.strip sk.vals
    clampCount := satAdd c1.clampCount sk.clamps
    t2Invalid := satAdd c1.t2Invalid m.badT2 }

variable {m}

theorem landMop_main (hk : m.kind = .mma) (ha : m.fmtA ≠ 3) (hb : m.fmtB ≠ 3) :
    Reports (s.setCell x ((s.cell x).landMain m)) (landMop s pid x m g) := by
  unfold landMop
  simp only [hk, if_neg ha, if_neg hb]
  exact (ite_logOnce_reports ..).trans (ite_logOnce_reports ..)

theorem landMop_dodgeSet (hk : m.kind = .dodgeSet) : landMop s pid x m g = s.setCell x { s.cell x with
    dodgeList := (chunks 4 m.n (m.cap 0)).map fun b => BitVec.ofNat 32 (leNat b)
    dodgeLatch := chunks 128 m.n ((m.cap 0).drop (alignUp (4 * m.n) 128)) } := by
  unfold landMop
  simp only [hk]

theorem landMop_merge (hk : m.kind = .merge) : landMop s pid x m g = s.setCell x (mergeLand (s.cell x) m) := by
  unfold landMop
  simp only [hk]

theorem landMop_side (hk : m.kind = .side) :
    (∃ c : Cell, Reports (s.setCell x c) (landMop s pid x m g) ∧ c.mops = (s.cell x).mops) ∨ Reports s (landMop s pid x m g) := by
  unfold landMop
  simp only [hk]
  split
  · exact .inl ⟨_, (ite_logOnce_reports ..).trans (ite_logOnce_reports ..), rfl⟩
  · exact .inr (raiseFatal_reports ..)

theorem landMop_mma (hk : m.kind = .mma) : ∃ c : Cell, Reports (s.setCell x c) (landMop s pid x m g) ∧ c.mops = (s.cell x).mops := by
  unfold landMop
  simp only [hk]
  exact ⟨_, (ite_logOnce_reports ..).trans (ite_logOnce_reports ..), rfl⟩

/-- Threshold of a strip check, and whether it halts the partition (03 R82). -/
def checkThreshold (s : State) (pid : Nat) (m : Mop) : BitVec 32 × Bool :=
  match s.part pid with
  | some p => p.negative.thresh.getD m.entry.toNat (0, false)
  | none => (0, false)

/-- The cell after a strip check against a threshold (03 R82, 05 R148). -/
def Cell.checked (c : Cell) (m : Mop) (tau : BitVec 32) : Cell := { c with
  strip := [], stripReg := 0, precAlarm := if stripExceeds c m tau then satAdd c.precAlarm 1 else c.precAlarm }

theorem ite_alarm_cells (t : State) (b : Prop) [Decidable b] (f : Frame → Frame) (u : LogUnit) :
    (if b then (t.updFrame pid f).logOnce 0x0424 pid 0 u 0 else t).cells = t.cells := by
  split
  · exact (logOnce_reports ..).cells.trans (State.updFrame_cells ..)
  · rfl

theorem landMop_check (hk : m.kind = .check) :
    (landMop s pid x m g).cells = (s.setCell x ((s.cell x).checked m (checkThreshold s pid m).1)).cells := by
  unfold landMop
  simp only [hk, ite_alarm_cells]
  rfl

/-- A landing changes its own cell alone, and no operation in progress. -/
theorem landMop_cell (m : Mop) : (∀ y, y ≠ x → (landMop s pid x m g).cell y = s.cell y) ∧
    ((landMop s pid x m g).cell x).mops = (s.cell x).mops := by
  have hset {t : State} (c : Cell) (ht : t.cells = (s.setCell x c).cells) (hc : c.mops = (s.cell x).mops) :
      (∀ y, y ≠ x → t.cell y = s.cell y) ∧ (t.cell x).mops = (s.cell x).mops := by
    refine ⟨fun y hy => (cell_of_cells ht y).trans (s.setCell_cell_ne c hy), ?_⟩
    rw [cell_of_cells ht, State.setCell_cell_self, hc]
  cases hk : m.kind with
  | mma =>
    obtain ⟨c, ht, hc⟩ := landMop_mma s pid x g hk
    exact hset c ht.cells hc
  | side =>
    obtain ⟨c, ht, hc⟩ | ht := landMop_side s pid x g hk
    · exact hset c ht.cells hc
    · exact ⟨fun y _ => ht.cell y, congrArg _ (ht.cell x)⟩
  | merge => exact hset (mergeLand (s.cell x) m) (congrArg _ (landMop_merge s pid x g hk)) rfl
  | dodgeSet => exact hset _ (congrArg _ (landMop_dodgeSet s pid x g hk)) rfl
  | check => exact hset _ (landMop_check s pid x g hk) rfl

end

/-! ### Operations in progress -/

/-- What names an operation in progress on a cell, and when it lands. -/
def Mop.sig (m : Mop) : Nat × MopKind × Option Nat × Nat := (m.issue, m.kind, m.land, m.t2size)

/-- Every operation that is in progress on a cell in `t` was so in `s`. -/
def MopsFrom (s t : State) (x : Nat) : Prop := ∀ m ∈ (t.cell x).mops, ∃ q ∈ (s.cell x).mops, q.sig = m.sig

section
variable {s t u : State} {x : Nat}

theorem MopsFrom.trans (h : MopsFrom s t x) (k : MopsFrom t u x) : MopsFrom s u x := by
  intro m hm
  obtain ⟨q, hq, hqm⟩ := k m hm
  obtain ⟨r, hr, hrq⟩ := h q hq
  exact ⟨r, hr, hrq.trans hqm⟩

theorem MopsFrom.of_subset (h : ∀ m ∈ (t.cell x).mops, m ∈ (s.cell x).mops) : MopsFrom s t x := fun m hm => ⟨m, h m hm, rfl⟩

theorem MopsFrom.of_cell (h : t.cell x = s.cell x) : MopsFrom s t x := .of_subset fun _ hm => h ▸ hm

theorem MopsFrom.refl (s : State) (x : Nat) : MopsFrom s s x := .of_cell rfl

theorem MopsFrom.foldl {α : Type} {f : State → α → State} (l : List α) (s : State) (hf : ∀ t a, MopsFrom t (f t a) x) :
    MopsFrom s (l.foldl f s) x :=
  List.foldlRecOn l f (motive := fun t => MopsFrom s t x) (.refl s x) fun t ht a _ => ht.trans (hf t a)

end

theorem landMop_mopsFrom (s : State) (pid y : Nat) (m : Mop) (g : List Mop) (x : Nat) : MopsFrom s (landMop s pid y m g) x := by
  obtain ⟨hother, hown⟩ := landMop_cell s pid y g m
  by_cases hx : x = y
  · subst hx
    exact .of_subset fun q hq => hown ▸ hq
  · exact .of_cell (hother x hx)

theorem captureReads_mopsFrom (s : State) (y : Nat) (upto : Int) (x : Nat) : MopsFrom s (s.captureReads y upto) x := by
  unfold State.captureReads
  simp only
  split
  · exact .refl s x
  · have hcell (t : State) (r : Option Int) (e : Int → State) (he : ∀ k, Reports t (e k)) :
        (match r with | some k => e k | none => t).cell x = t.cell x := by
      cases r with
      | none => rfl
      | some k => exact (he k).cell x
    refine MopsFrom.trans ?_ (.of_cell (hcell _ _ _ fun _ => blockFatal_reports ..))
    by_cases hx : x = y
    · subst hx
      intro m hm
      rw [State.setCell_cell_self] at hm
      simp only [List.map_map] at hm
      obtain ⟨q, hq, rfl⟩ := List.mem_map.1 hm
      exact ⟨q, hq, rfl⟩
    · exact .of_cell (s.setCell_cell_ne _ hx)

/-- One operation of a cell lands (03 R73). -/
def landOne (pid x cyc : Nat) (s : State) (m : Mop) : State :=
  let s := s.captureReads x ((m.land.getD 0 : Nat) : Int)
  let all := (s.cell x).mops
  let grp := all.filter fun q => q.land == m.land && decide (q.kind = .mma) && decide (0 < q.t2size)
  let m' := (all.find? fun q => q.issue == m.issue && decide (q.kind = m.kind)).getD m
  let s := if m'.failed || (decide (0 < m.t2size) && grp.any (·.failed)) then s else landMop s pid x m' grp
  if m.t2size = 0 then s.updCell x fun c => c.retire (fun q => q.issue == m.issue && decide (q.kind = m.kind)) cyc
  else if m.t2pos + 1 = m.t2size then s.updCell x fun c => c.retire (fun q => q.land == m.land && decide (0 < q.t2size)) cyc
  else s

theorem retire_mopsFrom (s : State) (y : Nat) (gone : Mop → Bool) (cyc x : Nat) :
    MopsFrom s (s.updCell y fun c => c.retire gone cyc) x := by
  by_cases hx : x = y
  · subst hx
    refine .of_subset fun m hm => ?_
    rw [State.updCell_cell_self] at hm
    exact (List.mem_filter.1 hm).1
  · exact .of_cell (s.updCell_cell_ne _ hx)

/-- A landing that is of no T2 group takes its operation out. -/
theorem landOne_retires (pid y cyc : Nat) (s : State) (m : Mop) (x : Nat) : MopsFrom s (landOne pid y cyc s m) x ∧
    (m.t2size = 0 → ∀ q ∈ ((landOne pid y cyc s m).cell y).mops, ¬(q.issue = m.issue ∧ q.kind = m.kind)) := by
  unfold landOne
  extract_lets s1 all grp m' s2
  have h1 : MopsFrom s s1 x := captureReads_mopsFrom _ _ _ _
  have h2 : MopsFrom s1 s2 x := by
    unfold s2
    split
    · exact .refl s1 x
    · exact landMop_mopsFrom _ _ _ _ _ _
  split
  · refine ⟨(h1.trans h2).trans (retire_mopsFrom _ _ _ _ _), fun _ q hq => ?_⟩
    rw [State.updCell_cell_self] at hq
    rintro ⟨hissue, hkind⟩
    simpa [hissue, hkind] using (List.mem_filter.1 hq).2
  · rename_i hno
    refine ⟨?_, fun h0 => absurd h0 hno⟩
    split
    · exact (h1.trans h2).trans (retire_mopsFrom _ _ _ _ _)
    · exact h1.trans h2

/-- Landings of a cell in turn: none of them brings an operation back. -/
theorem foldl_landOne_retires (pid x cyc : Nat) (l : List Mop) (s : State) : MopsFrom s (l.foldl (landOne pid x cyc) s) x ∧
    ∀ m ∈ l, m.t2size = 0 → ∀ q ∈ ((l.foldl (landOne pid x cyc) s).cell x).mops, ¬(q.issue = m.issue ∧ q.kind = m.kind) := by
  induction l generalizing s with
  | nil => exact ⟨.refl s x, fun m hm => absurd hm List.not_mem_nil⟩
  | cons a rest ih =>
    obtain ⟨hfrom, hgone⟩ := landOne_retires pid x cyc s a x
    obtain ⟨hrest, hrgone⟩ := ih (landOne pid x cyc s a)
    refine ⟨hfrom.trans hrest, List.forall_mem_cons.2 ⟨fun h0 q hq => ?_, hrgone⟩⟩
    obtain ⟨r, hr, hsig⟩ := hrest q hq
    simp only [Mop.sig, Prod.mk.injEq] at hsig
    exact fun h => hgone h0 r hr ⟨hsig.1.trans h.1, hsig.2.1.trans h.2⟩

theorem mem_insertBy {α : Type} {key : α → Nat} {x y : α} {l : List α} : y ∈ insertBy key x l ↔ y = x ∨ y ∈ l := by
  induction l with
  | nil => simp [insertBy]
  | cons z rest ih =>
    unfold insertBy
    split
    · exact List.mem_cons
    · rw [List.mem_cons, ih, List.mem_cons]
      tauto

theorem mem_sortBy {α : Type} {key : α → Nat} {y : α} {l : List α} : y ∈ sortBy key l ↔ y ∈ l := by
  have hfold (acc : List α) : y ∈ l.foldl (fun acc x => insertBy key x acc) acc ↔ y ∈ acc ∨ y ∈ l := by
    induction l generalizing acc with
    | nil => simp
    | cons z rest ih =>
      rw [List.foldl_cons, ih, mem_insertBy, List.mem_cons]
      tauto
  unfold sortBy
  simpa using hfold []

/-- No operation outside T2 that is due by a cycle is still in progress on a cell. -/
def LandedBy (s : State) (x cyc : Nat) : Prop := ∀ m ∈ (s.cell x).mops, m.t2size = 0 → ∀ l, m.land = some l → cyc < l

theorem LandedBy.mono {s t : State} {x cyc : Nat} (h : LandedBy s x cyc) (k : MopsFrom s t x) : LandedBy t x cyc := by
  intro m hm h0 l hl
  obtain ⟨q, hq, hsig⟩ := k m hm
  simp only [Mop.sig, Prod.mk.injEq] at hsig
  obtain ⟨-, -, hland, ht2⟩ := hsig
  exact h q hq (ht2.trans h0) l (hland.trans hl)

theorem landCell_mopsFrom (s : State) (pid y cyc x : Nat) : MopsFrom s (landCell s pid y cyc) x :=
  .foldl _ s fun t m => (landOne_retires pid y cyc t m x).1

theorem landCell_landedBy (s : State) (pid x cyc : Nat) : LandedBy (landCell s pid x cyc) x cyc := by
  intro m hm h0 l hl
  obtain ⟨hfrom, hgone⟩ := foldl_landOne_retires pid x cyc (sortBy (fun m => m.land.getD 0)
    ((s.cell x).mops.filter fun m => match m.land with | some l => decide (l ≤ cyc) | none => false)) s
  obtain ⟨q, hq, hsig⟩ := hfrom m hm
  simp only [Mop.sig, Prod.mk.injEq] at hsig
  obtain ⟨hissue, hkind, hland, ht2⟩ := hsig
  by_contra hle
  have hdue : q ∈ sortBy (fun m => m.land.getD 0)
      ((s.cell x).mops.filter fun m => match m.land with | some l => decide (l ≤ cyc) | none => false) := by
    refine mem_sortBy.2 (List.mem_filter.2 ⟨hq, ?_⟩)
    rw [hland.trans hl]
    exact decide_eq_true (Nat.le_of_not_lt hle)
  exact hgone q hdue (ht2.trans h0) m hm ⟨hissue.symm, hkind.symm⟩

end Sys2Proof.Machine

/-! # The passage of region cycles keeps every block that the state holds -/

namespace Sys2Proof.Machine

/-- Every block that `s` holds, `t` holds too. -/
structure KeepsBlocks (s t : State) : Prop where
  held : ∀ x, (fmGet s.blocks x).isSome = true → (fmGet t.blocks x).isSome = true

section
variable {s t u : State}

theorem KeepsBlocks.of_blocks (h : t.blocks = s.blocks) : KeepsBlocks s t := ⟨fun _ hx => h ▸ hx⟩

theorem KeepsBlocks.refl (s : State) : KeepsBlocks s s := .of_blocks rfl

theorem KeepsBlocks.trans (h : KeepsBlocks s t) (k : KeepsBlocks t u) : KeepsBlocks s u := ⟨fun x hx => k.held x (h.held x hx)⟩

theorem KeepsBlocks.ite {c : Prop} [Decidable c] (h : KeepsBlocks s t) (k : KeepsBlocks s u) : KeepsBlocks s (if c then t else u) := by
  split
  · exact h
  · exact k

theorem KeepsBlocks.foldl {α : Type} {f : State → α → State} (l : List α) (s : State) (hf : ∀ t a, KeepsBlocks t (f t a)) :
    KeepsBlocks s (l.foldl f s) :=
  List.foldlRecOn l f (motive := KeepsBlocks s) (.refl s) fun t ht a _ => ht.trans (hf t a)

/-! ### One more update -/

variable (h : KeepsBlocks s t)
include h

theorem KeepsBlocks.setBlock (b : Nat) (x : Block) : KeepsBlocks s (t.setBlock b x) := by
  refine h.trans ⟨fun y hy => ?_⟩
  by_cases hb : y = b
  · subst hb
    simp [State.setBlock]
  · simpa [State.setBlock, fmGet_fmSet_ne _ _ hb] using hy

theorem KeepsBlocks.updBlock (b : Nat) (f : Block → Block) : KeepsBlocks s (t.updBlock b f) := h.setBlock b _
theorem KeepsBlocks.setCell (c : Nat) (x : Cell) : KeepsBlocks s (t.setCell c x) := h.trans (.of_blocks rfl)
theorem KeepsBlocks.updCell (c : Nat) (f : Cell → Cell) : KeepsBlocks s (t.updCell c f) := h.trans (.of_blocks rfl)
theorem KeepsBlocks.updRegion (r : Nat) (f : Region → Region) : KeepsBlocks s (t.updRegion r f) := h.trans (.of_blocks rfl)
theorem KeepsBlocks.write (a : Nat) (bs : Bytes) : KeepsBlocks s (t.write a bs) := h.trans (.of_blocks rfl)
theorem KeepsBlocks.updFrame (p : Nat) (f : Frame → Frame) : KeepsBlocks s (t.updFrame p f) :=
  h.trans (.of_blocks (State.updFrame_blocks ..))

theorem KeepsBlocks.logOnce (code part key : Nat) (u : LogUnit) (d : Nat) : KeepsBlocks s (t.logOnce code part key u d) := by
  refine h.trans (.of_blocks ?_)
  unfold State.logOnce
  split
  · rfl
  · exact logEv_blocks ..

theorem KeepsBlocks.cancelStreams (p : Partition) : KeepsBlocks s (t.cancelStreams p) := by
  refine h.trans ⟨fun x hx => ?_⟩
  have hget := fmGet_map_if t.blocks p.blockList.contains (fun v => { v with streams := [] }) x
  rw [State.cancelStreams, hget, Option.isSome_map]
  exact hx

theorem KeepsBlocks.raiseFatal (pid code : Nat) (u : LogUnit) (d at_ : Nat) : KeepsBlocks s (t.raiseFatal pid code u d at_) := by
  have hlog : KeepsBlocks s ((t.logEv code pid u d).countBlockErr code u) :=
    h.trans (.of_blocks ((countBlockErr_noted ..).blocks.trans (logEv_blocks ..)))
  unfold State.raiseFatal
  simp only
  split
  · exact hlog
  · exact .ite ((hlog.updFrame ..).cancelStreams _) hlog

theorem KeepsBlocks.blockFatal (pid b code d at_ : Nat) : KeepsBlocks s (t.blockFatal pid b code d at_) := h.raiseFatal ..
theorem KeepsBlocks.cellFatal (pid c code d at_ : Nat) : KeepsBlocks s (t.cellFatal pid c code d at_) := h.raiseFatal ..

end

section
variable (s : State)

/-! ### Stores and cells -/

theorem captureReads_keeps (c : Nat) (upto : Int) : KeepsBlocks s (s.captureReads c upto) := by
  unfold State.captureReads
  simp only
  split
  · exact .refl s
  · split
    · exact ((KeepsBlocks.refl s).setCell ..).blockFatal ..
    · exact (KeepsBlocks.refl s).setCell ..

theorem cellWrite_keeps (c off : Nat) (bs : Bytes) (cyc d st w : Nat) : KeepsBlocks s (s.cellWrite c off bs cyc d st w) :=
  ((captureReads_keeps ..).updCell ..).write ..

theorem storeWrite_keeps (a : Nat) (bs : Bytes) (cyc d st w : Nat) : KeepsBlocks s (s.storeWrite a bs cyc d st w) :=
  .ite (cellWrite_keeps ..) ((KeepsBlocks.refl s).write ..)

theorem failReads_keeps (pid c bank cyc : Nat) : KeepsBlocks s (failReads s pid c bank cyc) :=
  (((KeepsBlocks.refl s).updCell ..).updBlock ..).cellFatal ..

theorem drainBlock_keeps (pid b cyc : Nat) (pf : Nat → List Nat) : KeepsBlocks s (drainBlock s pid b cyc pf) :=
  .foldl _ s fun _ _ => ((KeepsBlocks.refl _).setCell ..).trans (.foldl _ _ fun _ _ => failReads_keeps ..)

theorem enterTimed_keeps (w : TimedWrite) (cyc : Nat) : KeepsBlocks s (enterTimed s w cyc) :=
  .foldl _ s fun _ _ => storeWrite_keeps ..

theorem enterBlock_keeps (b cyc : Nat) : KeepsBlocks s (enterBlock s b cyc) := by
  have htimed : KeepsBlocks s ((s.block b).timed.foldl (fun s w => enterTimed s w cyc) s) := .foldl _ s fun _ _ => enterTimed_keeps ..
  exact .ite (.refl s) ((htimed.trans (.foldl _ _ fun _ _ => storeWrite_keeps ..)).updBlock ..)

/-! ### Landings of the matrix engine -/

theorem landMop_keeps (pid c : Nat) (m : Mop) (g : List Mop) : KeepsBlocks s (landMop s pid c m g) := by
  have hset (x : Cell) := (KeepsBlocks.refl s).setCell c x
  unfold landMop
  simp only
  split
  · exact .ite (.ite (hset _) ((hset _).logOnce ..)) ((KeepsBlocks.ite (hset _) ((hset _).logOnce ..)).logOnce ..)
  · exact .ite (.ite (.ite (hset _) ((hset _).logOnce ..)) ((KeepsBlocks.ite (hset _) ((hset _).logOnce ..)).logOnce ..))
      ((KeepsBlocks.refl s).raiseFatal ..)
  · exact hset _
  · exact hset _
  · exact .ite (((hset _).updFrame ..).logOnce ..) (hset _)

theorem landOne_keeps (pid x cyc : Nat) (m : Mop) : KeepsBlocks s (landOne pid x cyc s m) := by
  unfold landOne
  extract_lets s1 all grp m' s2
  have h1 : KeepsBlocks s s1 := captureReads_keeps ..
  have h2 : KeepsBlocks s s2 := .ite h1 (h1.trans (landMop_keeps ..))
  exact .ite (h2.updCell ..) (.ite (h2.updCell ..) h2)

theorem landCell_keeps (pid c cyc : Nat) : KeepsBlocks s (landCell s pid c cyc) := .foldl _ s fun t m => landOne_keeps t pid c cyc m

/-! ### What port F serves -/

theorem stageUnit_keeps (pid port e b off cyc : Nat) (bs : Bytes) : KeepsBlocks s (stageUnit s pid port e b off cyc bs).1 := by
  unfold stageUnit
  simp only
  split
  · exact .refl s
  · split
    · exact .of_blocks rfl
    · exact (KeepsBlocks.refl s).raiseFatal ..

theorem stageDone_keeps (port e b st v : Nat) : KeepsBlocks s (stageDone s port e b st v) := .of_blocks rfl

theorem raiseReadFail_keeps (pid b : Nat) (c : BitVec 2) (cyc : Nat) (k : ReadFail) : KeepsBlocks s (raiseReadFail s pid b c cyc k) := by
  cases k with
  | late => exact (KeepsBlocks.refl s).blockFatal ..
  | conflict => exact (KeepsBlocks.refl s).cellFatal ..

theorem commitStep_keeps (pid b : Nat) (q : CommitReq) (cyc : Nat) (bs : Bytes) : KeepsBlocks s (commitStep s pid b q cyc bs) :=
  .ite (((stageUnit_keeps ..).trans (stageDone_keeps ..)).updBlock ..) ((stageUnit_keeps ..).updBlock ..)

theorem commitUnit_keeps (pid b cyc : Nat) : KeepsBlocks s (commitUnit s pid b cyc) := by
  refine .foldl _ s fun t q => .ite (.refl t) (.ite ((KeepsBlocks.refl t).updBlock ..) ?_)
  split
  · exact (raiseReadFail_keeps ..).updBlock ..
  · exact commitStep_keeps ..

theorem loadUnit_keeps (pid b cyc : Nat) : KeepsBlocks s (loadUnit s pid b cyc) := by
  refine .foldl _ s fun t q => .ite (.refl t) ?_
  have hfail (r : Option ReadFail) (c : BitVec 2) : KeepsBlocks t (match r with
      | some k => raiseReadFail t pid b c cyc k
      | none => t) := by
    cases r with
    | none => exact .refl t
    | some k => exact raiseReadFail_keeps ..
  exact (hfail _ _).updBlock ..

theorem portReads_keeps (pid b cyc : Nat) : KeepsBlocks s (portReads s pid b cyc) := (commitUnit_keeps ..).trans (loadUnit_keeps ..)

theorem endFill_keeps (b i : Nat) : KeepsBlocks s (s.endFill b i) := ((KeepsBlocks.refl s).updBlock ..).updRegion ..

theorem placeFill_keeps (pid b cyc : Nat) (q : FillReq) (g : Sheet) (l : Bytes) : KeepsBlocks s (placeFill s pid b cyc q g l) := by
  have hdraw : KeepsBlocks s (s.draw 64 0).2 := .of_blocks rfl
  unfold placeFill
  simp only
  split
  · exact ((KeepsBlocks.refl s).blockFatal ..).trans (endFill_keeps ..)
  · exact .ite (((hdraw.updFrame ..).updBlock ..).updRegion ..) ((hdraw.updFrame ..).updBlock ..)

theorem fillRow_keeps (pid b cyc : Nat) (q : FillReq) (g : Sheet) (k : Nat) (bs : Bytes) :
    KeepsBlocks s (fillRow s pid b cyc q g k bs) := by
  unfold fillRow
  split
  · rename_i pl p hpl hp
    extract_lets i w m port mine repeated s1 idx s2 r
    have h1 : KeepsBlocks s s1 := .ite (((KeepsBlocks.refl s).blockFatal ..).updBlock ..) (.refl s)
    have h2 : KeepsBlocks s s2 := .ite (h1.trans (.foldl _ _ fun _ _ => stageUnit_keeps ..)) h1
    have hr : KeepsBlocks s r.1 := h2.trans (stageUnit_keeps ..)
    exact .ite h1 (.ite (hr.trans (stageDone_keeps ..)) hr)
  · exact .refl s

theorem fillUnit_keeps (pid b cyc : Nat) (r : PfReq) (q : FillReq) (g : Sheet) : KeepsBlocks s (fillUnit s pid b cyc r q g) := by
  unfold fillUnit
  extract_lets last
  have hlast {t : State} (h : KeepsBlocks s t) : KeepsBlocks s (last t) := .ite (h.trans (endFill_keeps ..)) h
  split
  · refine .ite (((KeepsBlocks.refl s).blockFatal ..).trans (endFill_keeps ..)) (.ite ?_ (hlast (fillRow_keeps ..)))
    have hdata (f : Block → Block) := (KeepsBlocks.refl s).updBlock b f
    exact .ite (hlast ((hdata _).trans (placeFill_keeps ..))) (hdata _)
  · exact hlast ((KeepsBlocks.refl s).updBlock ..)

theorem unitDone_keeps (pid b cyc : Nat) (r : PfReq) : KeepsBlocks s (unitDone pid s b cyc r) := by
  unfold unitDone
  split
  · split
    · exact (KeepsBlocks.refl s).updBlock ..
    · exact .refl s
  · exact .ite ((KeepsBlocks.refl s).blockFatal ..) ((KeepsBlocks.refl s).updRegion ..)
  · split
    · split
      · exact fillUnit_keeps ..
      · exact .refl s
    · exact .refl s
  · exact storeWrite_keeps ..
  · exact .refl s
  · exact .refl s

theorem portCycle_keeps (pid b cyc : Nat) : KeepsBlocks s (portCycle s pid b cyc).1 := by
  unfold portCycle
  simp only
  split
  · exact .refl s
  · refine List.foldlRecOn _ _ (motive := fun acc : State × (Nat → List Nat) => KeepsBlocks s acc.1) (.refl s) fun acc hacc k _ => ?_
    split
    · exact hacc.setBlock ..
    · exact (hacc.setBlock ..).trans (unitDone_keeps ..)

/-! ### The region store and HBM -/

theorem regionReadCheck_keeps (pid b a n cyc : Nat) : KeepsBlocks s (regionReadCheck s pid b a n cyc).1 := by
  unfold regionReadCheck
  simp only
  split
  · exact (KeepsBlocks.refl s).raiseFatal ..
  · split
    · exact (KeepsBlocks.refl s).blockFatal ..
    · exact .refl s

theorem rsUnit_keeps (pid r cyc : Nat) (q : RsReq) : KeepsBlocks s (rsUnit s pid r cyc q) := by
  have hread (t : State) (a : Nat) : KeepsBlocks t (regionReadCheck t pid q.block a 256 cyc).1 := regionReadCheck_keeps ..
  unfold rsUnit
  simp only
  split
  · exact .ite ((hread ..).updBlock ..) (hread ..)
  · split
    · exact (KeepsBlocks.refl s).updRegion ..
    · exact .refl s
  · exact .ite ((hread ..).updRegion ..) (hread ..)
  · split
    · exact (KeepsBlocks.refl s).updRegion ..
    · exact .refl s
  · split
    · exact .refl s
    · exact .ite ((hread ..).trans (commitStep_keeps ..)) ((hread ..).updBlock ..)
  · split
    · exact .refl s
    · split
      · exact .refl s
      · have hrow (g : Sheet) (x : FillReq) (a : Nat) (bs : Bytes) :=
          KeepsBlocks.ite (c := (regionReadCheck s pid q.block a 256 cyc).2 = true)
            ((hread s a).trans (fillRow_keeps _ pid q.block cyc x g q.done bs)) (hread s a)
        exact .ite ((hrow ..).trans (endFill_keeps ..)) (hrow ..)
  · split
    · exact .refl s
    · have hline (f : Block → Block) := (KeepsBlocks.refl s).updBlock q.block f
      refine .ite (.ite (((hline _).trans (hread ..)).updRegion ..) ((hline _).trans (hread ..))) ?_
      split
      · exact (hline _).updRegion ..
      · exact hline _
  · split
    · exact (KeepsBlocks.refl s).write ..
    · exact .refl s
  · exact .refl s
  · exact .refl s
  · exact .refl s

theorem regionArbiter_keeps (pid r cyc : Nat) : KeepsBlocks s (regionArbiter s pid r cyc) :=
  .ite (.refl s) ((((KeepsBlocks.refl s).updRegion ..).trans (.foldl _ _ fun _ _ => rsUnit_keeps ..)).updRegion ..)

theorem dropStream_keeps (b : Nat) (q : StreamReq) : KeepsBlocks s (s.dropStream b q) := ((KeepsBlocks.refl s).updBlock ..).updRegion ..

theorem streamEnds_keeps (pid b : Nat) (q : StreamReq) (cyc : Nat) : KeepsBlocks s (streamEnds s pid b q cyc) := by
  unfold streamEnds State.noteSlack
  exact (((dropStream_keeps ..).updBlock ..).updBlock ..).updFrame ..

theorem closeStreams_keeps (pid b cyc : Nat) : KeepsBlocks s (closeStreams s pid b cyc) :=
  .ite (.refl s) (.foldl _ s fun _ _ => streamEnds_keeps ..)

theorem hbmWrite_keeps (a : Nat) (bs : Bytes) : KeepsBlocks s (s.hbmWrite a bs) := .of_blocks rfl

theorem writePieces_keeps (ps : List (Nat × Nat)) (bs : Bytes) : KeepsBlocks s (s.writePieces ps bs) := by
  induction ps generalizing s bs with
  | nil => exact .refl s
  | cons p rest ih => exact (hbmWrite_keeps ..).trans (ih ..)

theorem moveLine_keeps (pid b : Nat) (q : StreamReq) (cyc : Nat) : KeepsBlocks s (moveLine s pid b q cyc) := by
  unfold moveLine
  simp only
  split
  · split
    · exact .refl s
    · exact (((KeepsBlocks.refl s).updRegion ..).trans (writePieces_keeps ..)).updBlock ..
  · exact .ite ((dropStream_keeps ..).raiseFatal ..) (((KeepsBlocks.refl s).updRegion ..).updBlock ..)

theorem landHbm_keeps (pid a : Nat) (bs : Bytes) (cyc : Nat) : KeepsBlocks s (s.landHbm pid a bs cyc) :=
  .foldl _ s fun t _ => .ite ((KeepsBlocks.refl t).raiseFatal ..) (hbmWrite_keeps ..)

theorem landLine_keeps (pid r : Nat) (q : RsReq) (cyc : Nat) : KeepsBlocks s (landLine s pid r q cyc) := by
  unfold landLine
  simp only
  split
  · exact (landHbm_keeps ..).updRegion ..
  · exact (KeepsBlocks.refl s).updRegion ..

theorem hbmSlot_keeps (pid r cyc : Nat) : KeepsBlocks s (hbmSlot s pid r cyc) := by
  unfold hbmSlot
  split
  · exact moveLine_keeps ..
  · exact landLine_keeps ..
  · exact .refl s

theorem slotCycle_keeps (pid r cyc : Nat) : KeepsBlocks s (slotCycle s pid r cyc) := by
  unfold slotCycle
  split
  · exact .refl s
  · refine List.foldlRecOn _ _ (motive := fun acc : State × Nat => KeepsBlocks s acc.1) ?_ fun acc hacc x _ => ?_
    · exact .foldl _ s fun t _ => .ite (hbmSlot_keeps ..) (.refl t)
    · simp only
      cases x with
      | stream b y => exact hacc.updBlock ..
      | landing y => exact hacc.updRegion ..

/-! ### Region cycles -/

/-- The last part of entering a cycle: the M operations of a block land (05 R141). -/
def landBlock (pid cyc : Nat) (s : State) (b : Nat) : State :=
  [0, 1, 2, 3].foldl (fun s c => if (s.cell (4 * b + c)).mops.isEmpty then s else landCell s pid (4 * b + c) cyc) (closeStreams s pid b cyc)

theorem landBlock_keeps (pid cyc b : Nat) : KeepsBlocks s (landBlock pid cyc s b) :=
  (closeStreams_keeps ..).trans (.foldl _ _ fun u _ => .ite (.refl u) (landCell_keeps ..))

/-- After everything else of its phase the M operations of the region's blocks land. -/
theorem enterPhase_lands (pid r cyc : Nat) : ∃ t, KeepsBlocks s t ∧ enterPhase s pid r cyc = (regionBlocks t r).foldl (landBlock pid cyc) t := by
  unfold enterPhase
  extract_lets s1 g s2 s3
  have h1 : KeepsBlocks s s1 := .foldl _ s fun _ _ => enterBlock_keeps ..
  have h3 : KeepsBlocks s s3 := .ite h1 ((h1.trans (.foldl _ _ fun t _ => (KeepsBlocks.refl t).write ..)).updRegion ..)
  exact ⟨s3, h3, rfl⟩

theorem enterPhase_keeps (pid r cyc : Nat) : KeepsBlocks s (enterPhase s pid r cyc) := by
  obtain ⟨t, hkeeps, heq⟩ := enterPhase_lands s pid r cyc
  exact heq ▸ hkeeps.trans (.foldl _ _ fun _ _ => landBlock_keeps ..)

theorem showFaults_keeps (pid b cyc : Nat) : KeepsBlocks s (showFaults s pid b cyc) :=
  .ite (.refl s) ((KeepsBlocks.foldl _ s fun t _ => (KeepsBlocks.refl t).cellFatal ..).updBlock ..)

theorem regionCycle_keeps (pid r cyc : Nat) : KeepsBlocks s (regionCycle s pid r cyc) := by
  refine ((enterPhase_keeps ..).trans (.foldl _ _ fun t b => ?_)).trans ((regionArbiter_keeps ..).trans (slotCycle_keeps ..))
  exact (((portReads_keeps ..).trans (portCycle_keeps ..)).trans (drainBlock_keeps ..)).trans (showFaults_keeps ..)

theorem regionTo_keeps (fuel pid r t : Nat) : KeepsBlocks s (regionTo fuel s pid r t) := by
  induction fuel generalizing s with
  | zero => exact enterPhase_keeps ..
  | succ fuel ih =>
    have hcapture (u : State) (l : List Nat) : KeepsBlocks u (l.foldl (fun s x => s.captureReads x (t : Int)) u) :=
      .foldl _ u fun _ _ => captureReads_keeps ..
    exact .ite (((enterPhase_keeps ..).trans (hcapture ..)).updRegion ..) (((regionCycle_keeps ..).updRegion ..).trans (ih _))

theorem feedRegion_keeps (pid r t : Nat) : KeepsBlocks s (feedRegion s pid r t) := .foldl _ s fun u _ => .ite (.refl u) (regionTo_keeps ..)

theorem dropFailing_keeps (pid : Nat) : KeepsBlocks s (s.dropFailing pid) := by
  unfold State.dropFailing
  split
  · exact .refl s
  · exact (KeepsBlocks.foldl _ s fun t _ => ((KeepsBlocks.refl t).updBlock ..).updRegion ..).updFrame ..

end

end Sys2Proof.Machine

/-! # What is due has landed (05 R141) -/

namespace Sys2Proof.Machine

/-- One step of a fold lands the operations of a cell, and none brings one back. -/
theorem LandedBy.foldl {α : Type} {f : State → α → State} {x cyc : Nat} {a : α} {l : List α} (ha : a ∈ l)
    (hland : ∀ t, LandedBy (f t a) x cyc) (hfrom : ∀ t b, MopsFrom t (f t b) x) (s : State) : LandedBy (l.foldl f s) x cyc := by
  induction l generalizing s with
  | nil => exact absurd ha List.not_mem_nil
  | cons b rest ih =>
    rcases List.mem_cons.1 ha with rfl | ha
    · exact (hland s).mono (.foldl rest _ hfrom)
    · exact ih ha _

theorem closeStreams_cells (s : State) (pid b cyc : Nat) : (closeStreams s pid b cyc).cells = s.cells := by
  unfold closeStreams
  simp only
  split
  · rfl
  · refine List.foldlRecOn _ _ (motive := fun t : State => t.cells = s.cells) rfl fun t ht q _ => ?_
    unfold streamEnds State.noteSlack
    exact (State.updFrame_cells ..).trans ht

theorem landBlock_mopsFrom (pid cyc : Nat) (s : State) (b x : Nat) : MopsFrom s (landBlock pid cyc s b) x := by
  refine MopsFrom.trans (.of_cell (cell_of_cells (closeStreams_cells s pid b cyc) x)) (.foldl _ _ fun t c => ?_)
  split
  · exact .refl t x
  · exact landCell_mopsFrom _ _ _ _ _

theorem landBlock_landedBy (pid cyc : Nat) (s : State) (b : Nat) {c : Nat} (hc : c < 4) : LandedBy (landBlock pid cyc s b) (4 * b + c) cyc := by
  have hmem : c ∈ [0, 1, 2, 3] := by
    simp only [List.mem_cons, List.not_mem_nil, or_false]
    omega
  refine .foldl hmem (fun t => ?_) (fun t k => ?_) _
  · split
    · rename_i hnone
      intro m hm
      rw [List.isEmpty_iff.1 hnone] at hm
      exact absurd hm List.not_mem_nil
    · exact landCell_landedBy _ _ _ _
  · split
    · exact .refl t _
    · exact landCell_mopsFrom _ _ _ _ _

theorem mem_regionBlocks {s : State} {b : Nat} (h : (fmGet s.blocks b).isSome = true) : b ∈ regionBlocks s (b / 6) := by
  refine List.mem_filter.2 ⟨List.mem_map.2 ⟨b % 6, List.mem_range.2 (Nat.mod_lt _ (by decide)), ?_⟩, h⟩
  exact Nat.div_add_mod b 6

theorem enterPhase_landedBy {s : State} {b c : Nat} (hb : (fmGet s.blocks b).isSome = true) (hc : c < 4) (pid cyc : Nat) :
    LandedBy (enterPhase s pid (b / 6) cyc) (4 * b + c) cyc := by
  obtain ⟨t, hkeeps, heq⟩ := enterPhase_lands s pid (b / 6) cyc
  rw [heq]
  exact .foldl (mem_regionBlocks (hkeeps.held b hb)) (fun u => landBlock_landedBy pid cyc u b hc) (fun u k => landBlock_mopsFrom pid cyc u k _) t

theorem regionTo_landedBy {s : State} {b c : Nat} (hb : (fmGet s.blocks b).isSome = true) (hc : c < 4) (fuel pid cyc : Nat) :
    LandedBy (regionTo fuel s pid (b / 6) cyc) (4 * b + c) cyc := by
  induction fuel generalizing s with
  | zero => exact enterPhase_landedBy hb hc pid cyc
  | succ fuel ih =>
    unfold regionTo
    simp only
    split
    · have hcapture := MopsFrom.foldl ((regionBlocks (enterPhase s pid (b / 6) cyc) (b / 6)).flatMap fun b =>
        [4 * b, 4 * b + 1, 4 * b + 2, 4 * b + 3]) (enterPhase s pid (b / 6) cyc) (f := fun s x => s.captureReads x (cyc : Int))
        (x := 4 * b + c) fun t y => captureReads_mopsFrom t y cyc _
      exact ((enterPhase_landedBy hb hc pid cyc).mono hcapture).mono (.of_cell rfl)
    · exact ih (((regionCycle_keeps ..).updRegion ..).held b hb)

theorem advanceRegion_landedBy {s : State} {b c : Nat} (hb : (fmGet s.blocks b).isSome = true) (hc : c < 4) (pid cyc : Nat) :
    LandedBy (advanceRegion s pid b cyc) (4 * b + c) cyc := by
  have hfed : KeepsBlocks s (feedRegion (s.dropFailing pid) pid (b / 6) cyc) := (dropFailing_keeps ..).trans (feedRegion_keeps ..)
  exact (regionTo_landedBy (hfed.held b hb) hc _ pid cyc).mono (.foldl _ _ fun t y => .of_cell rfl)

theorem passTo_landedBy {s : State} {pid lg b c : Nat} (hrun : runningBlock s pid lg = some b) (hb : (fmGet s.blocks b).isSome = true)
    (hc : c < 4) (cyc : Nat) : LandedBy (passTo s pid lg cyc) (4 * b + c) cyc := by
  have hadvance := advanceRegion_landedBy hb hc pid cyc
  unfold passTo
  simp only [hrun]
  split
  · exact hadvance.mono (.of_cell ((blockFatal_reports ..).cell _))
  · exact hadvance.mono (.of_cell rfl)

/-- Settles O25: a landing takes its operation out, and changes its cell as its kind says. -/
theorem contributionsLand : Obligations.ContributionsLand := by
  unfold Obligations.ContributionsLand
  refine ⟨fun s pid lg cyc b k hrun hb => ⟨_, rfl, passTo_landedBy hrun hb k.isLt cyc⟩, fun s pid x m g hk ha hb hs hr => ?_,
    fun c m h e => mergeLand_tanks c h e, fun s pid x m g hk => ?_, fun s pid x m g hk => ?_⟩
  · intro k hvals
    have hland := landMop_main s pid x g hk ha hb
    have hcell : (landMop s pid x m g).cell x = (s.cell x).landMain m := (hland.cell x).trans (s.setCell_cell_self ..)
    refine ⟨fun e => ?_, ?_, ?_, hland.mem, fun y hy => (hland.cell y).trans (s.setCell_cell_ne _ hy)⟩
    · rw [hcell]
      exact addContrib_tanks hr hvals e
    · rw [hcell]
      rfl
    · rw [hcell]
      rfl
  · rw [landMop_dodgeSet s pid x g hk, State.setCell_cell_self]
    refine ⟨by simp, fun k hkn => ?_⟩
    simp only [List.getElem?_map, getElem?_chunks 4 hkn, Option.map_some]
  · have hcell : (landMop s pid x m g).cell x = (s.cell x).checked m (checkThreshold s pid m).1 :=
      (cell_of_cells (landMop_check s pid x g hk) x).trans (s.setCell_cell_self ..)
    simp only [hcell]
    refine ⟨rfl, rfl, rfl, fun p hp hexceeds => ?_⟩
    simp only [Cell.checked, checkThreshold, hp, if_pos hexceeds, toNat_satAdd]

end Sys2Proof.Machine

/-! # The M slot: what issues, and what it leaves alone (05 R138 to R151) -/

namespace Sys2Proof.Machine

open Claims (IssuesM MReady MFrame noT2 selected besidesM FatalMet)

/-! ### Nothing stands against an operation -/

theorem firstCause_eq_none {l : List (Nat × Bool)} (h : ∀ q ∈ l, q.2 = false) : firstCause l = none := by
  induction l with
  | nil => rfl
  | cons q rest ih =>
    obtain ⟨hq, hrest⟩ := List.forall_mem_cons.1 h
    obtain ⟨k, b⟩ := q
    cases hq
    exact ih hrest

/-- The cells that an M operation works on. -/
def Ctx.cells (c : Ctx) (m : BitVec 4) : List Nat := (maskCells m).map (4 * c.bix + ·)

theorem Ctx.mem_cells {c : Ctx} {m : BitVec 4} {x : Nat} : x ∈ c.cells m ↔ selected c m x := by
  simp only [Ctx.cells, maskCells, selected, List.mem_map, List.mem_filter, List.mem_range, and_assoc]
  exact exists_congr fun k => and_congr_right fun _ => and_congr_right fun _ => eq_comm

theorem Ctx.nodup_cells (c : Ctx) (m : BitVec 4) : (c.cells m).Nodup :=
  (List.nodup_range.filter _).map fun _ _ h => Nat.add_left_cancel h

theorem mCommon_clear {s : State} {c : Ctx} {p : MPlan} (h : MReady s c p.cells p.caps p.ranges) : ∀ q ∈ mCommon s c p, q.2 = false := by
  have hall : ∀ x ∈ c.cells p.cells, selected c p.cells x := fun x hx => Ctx.mem_cells.1 hx
  obtain ⟨hengine, hports, hfit, hearly⟩ := h
  refine List.forall_mem_cons.2 ⟨?_, List.forall_mem_cons.2 ⟨?_, List.forall_mem_cons.2 ⟨?_, List.forall_mem_cons.2 ⟨?_, ?_⟩⟩⟩⟩
  · exact List.any_eq_false.2 fun x hx => by simpa using hengine x (hall x hx)
  · refine List.any_eq_false.2 fun x hx => ?_
    simpa [or_imp, forall_and] using hports x (hall x hx)
  · exact List.any_eq_false.2 fun r hr => by simpa using (hfit r hr).1
  · exact List.any_eq_false.2 fun r hr => by simpa using (hfit r hr).2
  · simpa using hearly

theorem t2Open_false {s : State} {c : Ctx} {m : BitVec 4} (h : noT2 s c m) : t2Open s c.bix m = false := by
  refine List.any_eq_false.2 fun k hk => ?_
  have hsel : selected c m (4 * c.bix + k) := Ctx.mem_cells.1 (List.mem_map_of_mem hk)
  simp [h _ hsel]

/-- An M operation other than MMA that issues, and that nothing stands against, has its effect on each selected cell in turn. -/
theorem runM_issues {s s1 : State} {i : Issue} {c : Ctx} {r : FMap (BitVec 32)} {cells : BitVec 4} {fr : Nat → Int}
    {bits : List (Nat × Bool)} {plan : FMap (BitVec 32) → Nat → MPlan} {more : State → Ctx → FMap (BitVec 32) → List (Nat × Bool)}
    {incs : List (BitVec 4 × Nat)} {eff : FMap (BitVec 32) → Ctx → State → Nat → State} (h : IssuesM s i fr c s1 r)
    (hbits : firstCause bits = none) (hready : MReady s1 c (plan r c.t).cells (plan r c.t).caps (plan r c.t).ranges)
    (ht2 : noT2 s1 c cells) (hmore : ∀ q ∈ more s1 c r, q.2 = false) : ∃ perf : Block → Perf,
    runM s i cells fr bits plan more incs eff = ((c.cells cells).foldl (eff r c) (hazCaps s1 c cells (plan r c.t).caps)).updBlock c.bix
      fun b => { b.postInc c.t c.pred true incs with perf := perf b } := by
  have hcommon := mCommon_clear hready
  have hchecks : firstCause (((mCommon s1 c (plan r c.t)).filter fun q => decide (q.1 < 8)) ++ [(0x08, t2Open s1 c.bix cells)] ++
      more s1 c r ++ ((mCommon s1 c (plan r c.t)).filter fun q => decide (8 < q.1))) = none := by
    refine firstCause_eq_none fun q hq => ?_
    simp only [List.mem_append, List.mem_filter, List.mem_singleton] at hq
    rcases hq with ((hq | rfl) | hq) | hq
    · exact hcommon q hq.1
    · exact t2Open_false ht2
    · exact hmore q hq
    · exact hcommon q hq.1
  unfold runM
  unfold IssuesM at h
  simp only [h, hbits, hchecks, Ctx.cells, List.foldl_map, Bool.not_true, Bool.false_eq_true, if_false]
  exact ⟨_, rfl⟩

/-! ### What a step on some cells leaves alone -/

/-- A block but for what an M operation does to it as it works on its cells. -/
def Block.besidesSteps (b : Block) : Block := { b.still with perf := {}, timed := [], lastDone := 0, faults := [] }

/-- From `s` to `t` an M operation has worked on the cells `sel`: memory, the other cells and the other blocks but for reports,
and the registers of its own block are as they were. -/
structure OnCells (s t : State) (c : Ctx) (sel : Nat → Prop) : Prop where
  same : { t with
    parts := s.parts, blocks := s.blocks, cells := s.cells, regions := s.regions, eps := s.eps, log := s.log, out := s.out } = s
  cell : ∀ x, ¬sel x → t.cell x = s.cell x
  others : ∀ x, x ≠ c.bix → (t.block x).still = (s.block x).still
  own : (t.block c.bix).besidesSteps = (s.block c.bix).besidesSteps
  region : ∀ r, (t.region r).still = (s.region r).still
  part : ∀ p, (t.part p).map Partition.quiet = (s.part p).map Partition.quiet

section
variable {s t u : State} {c : Ctx} {sel sel' : Nat → Prop}

theorem OnCells.trans (h : OnCells s t c sel) (k : OnCells t u c sel') : OnCells s u c fun x => sel x ∨ sel' x := by
  refine ⟨?_, fun x hx => ?_, fun x hx => (k.others x hx).trans (h.others x hx), k.own.trans h.own,
    fun r => (k.region r).trans (h.region r), fun p => (k.part p).trans (h.part p)⟩
  · have hk := k.same
    have hh := h.same
    rw [← hk] at hh
    exact hh
  · rw [not_or] at hx
    exact (k.cell x hx.2).trans (h.cell x hx.1)

theorem OnCells.mono (h : OnCells s t c sel) (hsub : ∀ x, sel x → sel' x) : OnCells s t c sel' :=
  ⟨h.same, fun x hx => h.cell x fun hs => hx (hsub x hs), h.others, h.own, h.region, h.part⟩

theorem OnCells.comp (h : OnCells s t c sel) (k : OnCells t u c sel) : OnCells s u c sel :=
  (h.trans k).mono fun _ hx => hx.elim id id

theorem Reports.onCells (h : Reports s t) (c : Ctx) (sel : Nat → Prop) : OnCells s t c sel := by
  have hown := congrArg Block.besidesSteps (h.block c.bix)
  refine ⟨?_, fun x _ => h.cell x, fun x _ => h.block x, hown, h.region, h.part⟩
  have hsame := h.same
  have hcells := h.cells
  conv_rhs => rw [← hsame]
  rw [← hcells]

theorem updBlock_onCells (s : State) (c : Ctx) (sel : Nat → Prop) (f : Block → Block)
    (hf : ∀ b, (f b).besidesSteps = b.besidesSteps) : OnCells s (s.updBlock c.bix f) c sel := by
  refine ⟨rfl, fun _ _ => rfl, fun x hx => by rw [State.updBlock_block_ne _ _ hx], ?_, fun _ => rfl, fun _ => rfl⟩
  rw [State.updBlock_block_self]
  exact hf _

theorem setCell_onCells (s : State) (c : Ctx) (x : Nat) (v : Cell) : OnCells s (s.setCell x v) c (· = x) :=
  ⟨rfl, fun _ hy => s.setCell_cell_ne v hy, fun _ _ => rfl, rfl, fun _ => rfl, fun _ => rfl⟩

theorem OnCells.mem (h : OnCells s t c sel) : t.mem = s.mem := by
  have hf := congrArg State.mem h.same
  exact hf

theorem OnCells.arLog (h : OnCells s t c sel) : (t.block c.bix).arLog = (s.block c.bix).arLog := by
  have hf := congrArg Block.arLog h.own
  exact hf

theorem OnCells.lateWrite (h : OnCells s t c sel) (x : Cell) (a off n : Nat) (cyc : Int) :
    lateWrite (t.block c.bix) x a off n cyc = lateWrite (s.block c.bix) x a off n cyc := by
  have hpf := congrArg Block.pf h.own
  have hent := congrArg Block.entering h.own
  simp only [Block.besidesSteps, Block.still] at hpf hent
  unfold Machine.lateWrite
  rw [hpf, hent]

theorem cellReadAt_congr {x : Nat} (hm : t.mem = s.mem) (hh : (t.cell x).hist = (s.cell x).hist) (off n : Nat) (cyc : Int) :
    t.cellReadAt x off n cyc = s.cellReadAt x off n cyc := by
  unfold State.cellReadAt Cell.readAt
  rw [hm, hh]

/-- Post-increments of a bundle in the register history (05 R129). -/
theorem Block.postInc_eq (b : Block) (t : Nat) (pred : BitVec 3) (done : Bool) (incs : List (BitVec 4 × Nat)) :
    b.postInc t pred done incs = { b with
      arLog := b.arLog ++ incs.map fun q => (⟨t, pred, done, .incr q.1 (BitVec.ofNat 32 q.2)⟩ : ArEv) } := by
  induction incs generalizing b with
  | nil => simp [Block.postInc]
  | cons q rest ih =>
    have hcons : b.postInc t pred done (q :: rest) = (b.putAr t pred done (.incr q.1 (BitVec.ofNat 32 q.2))).postInc t pred done rest := rfl
    rw [hcons, ih]
    simp [Block.putAr]

/-- Work on the selected cells, then the post-increments and counters of the bundle. -/
theorem OnCells.mFrame {m : BitVec 4} (h : OnCells s t c (selected c m)) (incs : List (BitVec 4 × Nat)) (perf : Block → Perf) :
    MFrame s (t.updBlock c.bix fun b => { b.postInc c.t c.pred true incs with perf := perf b }) c m incs := by
  simp only [Block.postInc_eq]
  refine ⟨h.same, h.cell, fun x hx => ?_, ?_, h.region, h.part, ?_⟩
  · rw [State.updBlock_block_ne _ _ hx]
    exact h.others x hx
  · rw [State.updBlock_block_self]
    have hown := congrArg (fun b : Block => { b with arLog := [] }) h.own
    exact hown
  · rw [State.updBlock_block_self]
    exact congrArg (· ++ _) h.arLog

/-- An operation on several cells, each in turn: what it does to one is not undone by what it does to the others. -/
theorem OnCells.foldl {eff : State → Nat → State} {P : State → Nat → Prop} {Q : Nat → Prop}
    (hstep : ∀ u (done : List Nat) x, OnCells s u c (· ∈ done) → x ∉ done → Q x → OnCells u (eff u x) c (· = x) ∧ P (eff u x) x ∧
      ∀ y, y ≠ x → P u y → P (eff u x) y) (l : List Nat) (hl : l.Nodup) (hq : ∀ x ∈ l, Q x) (u : State) (done : List Nat)
    (hdone : ∀ x ∈ l, x ∉ done) (hu : OnCells s u c (· ∈ done)) (hp : ∀ x ∈ done, P u x) :
    OnCells s (l.foldl eff u) c (· ∈ done ++ l) ∧ ∀ x ∈ done ++ l, P (l.foldl eff u) x := by
  induction l generalizing u done with
  | nil => simpa using ⟨hu, hp⟩
  | cons x rest ih =>
    obtain ⟨hx, hrest⟩ := List.nodup_cons.1 hl
    obtain ⟨hnew, hold⟩ := List.forall_mem_cons.1 hdone
    obtain ⟨hqx, hqrest⟩ := List.forall_mem_cons.1 hq
    obtain ⟨hon, hpx, hkeep⟩ := hstep u done x hu hnew hqx
    have hnext := ih hrest hqrest (eff u x) (done ++ [x]) (fun y hy hmem => ?_) ((hu.trans hon).mono fun y hy => by simpa using hy)
      fun y hy => ?_
    · simpa using hnext
    · rcases List.mem_append.1 hmem with hmem | hmem
      · exact hold y hy hmem
      · exact hx (List.mem_singleton.1 hmem ▸ hy)
    · by_cases hyx : y = x
      · exact hyx ▸ hpx
      · exact hkeep y hyx (hp y (by simpa [hyx] using hy))

end

/-! ### Hazard reports of an M operation (07 R182) -/

theorem Reports.foldl {α : Type} {f : State → α → State} (l : List α) (s : State) (hf : ∀ t a, Reports t (f t a)) :
    Reports s (l.foldl f s) :=
  List.foldlRecOn l f (motive := Reports s) (.refl s) fun t ht a _ => ht.trans (hf t a)

theorem Reports.ite {s t u : State} {b : Prop} [Decidable b] (h : Reports s t) (k : Reports s u) : Reports s (if b then t else u) := by
  split
  · exact h
  · exact k

theorem hazCaps_reports (s : State) (c : Ctx) (m : BitVec 4) (caps : Nat → List Cap) : Reports s (hazCaps s c m caps) := by
  unfold hazCaps
  split
  · exact .refl s
  · split
    · exact .refl s
    · refine .foldl _ _ fun t k => .foldl _ _ fun u q => ?_
      have hearly (o : Option (Nat × Nat × Nat × Nat)) : Reports u (match o with
          | some e => hazard u c 3 e.2.2.2 (storeOffset e.1) (e.2.2.1 - e.2.1)
          | none => u) := by
        cases o with
        | none => exact .refl u
        | some e => exact hazard_reports ..
      exact .ite ((hearly _).trans (hazard_reports ..)) (hearly _)

theorem hazSample_reports (s : State) (c : Ctx) (m : BitVec 4) (merge : Bool) : Reports s (hazSample s c m merge) :=
  .foldl _ _ fun _ _ => .foldl _ _ fun _ _ => .ite ((hazard_reports ..).trans (hazard_reports ..)) (hazard_reports ..)

theorem hazWrite_reports (s : State) (c : Ctx) (a n : Nat) : Reports s (hazWrite s c a n) := hazardIf_reports ..

theorem setHazard_reports {s : State} {pid : Nat} {p : Partition} (hp : s.part pid = some p) (h : Hazard) :
    Reports s (s.setPart pid { p with hazard := h }) := by
  refine .of rfl rfl rfl fun q => ?_
  by_cases hq : q = pid
  · subst hq
    rw [State.setPart_part_self, hp]
    rfl
  · rw [State.setPart_part_ne _ _ hq]

theorem hazTrack_reports (s : State) (c : Ctx) (a : Nat) : Reports s (hazTrack s c a) := by
  unfold hazTrack
  split
  · exact .refl s
  · rename_i p hp
    refine .ite (.refl s) (.ite (.refl s) ?_)
    split
    · exact (setHazard_reports hp _).trans (logOnce_reports ..)
    · exact .refl s

/-! ### What reports and corrected reads leave of a cell -/

/-- A cell but for what a corrected error writes (04 R120). -/
def Cell.besidesEcc (x : Cell) : Cell := { x with eccCount := 0, wback := [] }

/-- From `s` to `t` there were only reports, and corrected reads of the store of cell `ix`. -/
structure Settled (s t : State) (c : Ctx) (ix : Nat) : Prop where
  on : OnCells s t c (· = ix)
  cell : (t.cell ix).besidesEcc = (s.cell ix).besidesEcc
  timed : (t.block c.bix).timed = (s.block c.bix).timed

section
variable {s t u : State} {c : Ctx} {ix : Nat}

theorem Settled.trans (h : Settled s t c ix) (k : Settled t u c ix) : Settled s u c ix :=
  ⟨h.on.comp k.on, k.cell.trans h.cell, k.timed.trans h.timed⟩

theorem Reports.timed (h : Reports s t) (x : Nat) : (t.block x).timed = (s.block x).timed := by
  have hf := congrArg Block.timed (h.block x)
  exact hf

theorem Reports.settled (h : Reports s t) (c : Ctx) (ix : Nat) : Settled s t c ix :=
  ⟨h.onCells c _, congrArg Cell.besidesEcc (h.cell ix), h.timed c.bix⟩

/-- A change of the own cell only. -/
theorem updCell_settled (s : State) (c : Ctx) (ix : Nat) (f : Cell → Cell) (hf : ∀ x, (f x).besidesEcc = x.besidesEcc) :
    Settled s (s.updCell ix f) c ix := by
  refine ⟨setCell_onCells s c ix _, ?_, rfl⟩
  rw [State.updCell_cell_self]
  exact hf _

theorem cellEcc_settled (s : State) (c : Ctx) (ix off : Nat) (rd : Ecc) (time : Nat) :
    Settled s (cellEcc s c.pid ix off rd time) c ix := by
  cases rd with
  | good => exact (Reports.refl s).settled c ix
  | corrected =>
    have hcount := updCell_settled s c ix (fun x => { x with eccCount := x.eccCount + 1, wback := x.wback ++ [off / 128] }) fun _ => rfl
    exact hcount.trans ((logOnce_reports ..).settled c ix)
  | uncorrectable => exact (raiseFatal_reports ..).settled c ix

theorem Settled.cellReadAt (h : Settled s t c ix) (off n : Nat) (cyc : Int) : t.cellReadAt ix off n cyc = s.cellReadAt ix off n cyc := by
  have hhist := congrArg Cell.hist h.cell
  exact cellReadAt_congr h.on.mem hhist off n cyc

end

/-! ### TANK.READ on one cell (03 R75 to R78, 05 R146) -/

/-- Cycles that a TANK.READ occupies a cell. -/
def readOcc (f : TankReadF) : Nat := if f.raw then 256 else 64

/-- The optional scale of a TANK.READ, the word that stood in the store in cycle t − 3. -/
def readSigma (f : TankReadF) (r : FMap (BitVec 32)) (c : Ctx) (s : State) (ix : Nat) : Option Val :=
  if f.sigma then some (decodeFloat fmtFP32 (leNat (s.cellReadAt ix (offOf r f.arSigma) 4 ((c.t : Int) - 3)))) else none

/-- What a TANK.READ sends, with the number of clipped and of poisoned elements. -/
def readResult (f : TankReadF) (x : Cell) (sg : Option Val) : Bytes × Nat × Nat :=
  if f.raw then (rawBytes x, 0, 0) else readTile x f.fmt sg

/-- A cell whose engine a TANK.READ holds. -/
def Cell.held (x : Cell) (f : TankReadF) (t : Nat) : Cell := { x with engFree := t + readOcc f }

/-- A cell that counts the clipped and the poisoned elements of a TANK.READ. -/
def Cell.counting (x : Cell) (out : Bytes × Nat × Nat) : Cell :=
  { x with readClip := satAdd x.readClip out.2.1, poisonFlag := x.poisonFlag || out.2.2 != 0 }

/-- The state in which a TANK.READ holds the engine of a cell. -/
def readHold (f : TankReadF) (c : Ctx) (s : State) (ix : Nat) : State :=
  (s.setCell ix ((s.cell ix).held f c.t)).updBlock c.bix (·.until (c.t + readOcc f + 6))

/-- The scale has not arrived when it is read (04 R99). -/
def readLate (f : TankReadF) (r : FMap (BitVec 32)) (c : Ctx) (s : State) (ix : Nat) : Bool :=
  f.sigma && lateWrite ((readHold f c s ix).block c.bix) (s.cell ix) (cellBase ix + offOf r f.arSigma) (offOf r f.arSigma) 4 ((c.t : Int) - 3)

/-- The state in which a TANK.READ has read its scale. -/
def readStart (f : TankReadF) (rd : Ecc) (r : FMap (BitVec 32)) (c : Ctx) (s : State) (ix : Nat) : State :=
  let u := readHold f c s ix
  let v := if readLate f r c s ix then u.blockFatal c.pid c.bix 0x1407 0 (c.t - 3) else u
  if f.sigma then cellEcc v c.pid ix (offOf r f.arSigma) rd c.t else v

/-- The write of a tile that a TANK.READ sends to its destination. -/
def readWrite (f : TankReadF) (r : FMap (BitVec 32)) (c : Ctx) (ix : Nat) (data : Bytes) : TimedWrite :=
  ⟨c.t + readOcc f + 6, c.t, cellBase ix + offOf r f.arD, data, c.addr, 0⟩

/-- The state in which a TANK.READ has sent its tile. -/
def readSend (f : TankReadF) (r : FMap (BitVec 32)) (c : Ctx) (s : State) (ix : Nat) (data : Bytes) : State :=
  hazTrack ((hazWrite s c (cellBase ix + offOf r f.arD) (tileBytes f)).updBlock c.bix fun b =>
    { b with timed := b.timed ++ [readWrite f r c ix data] }) c (cellBase ix)

/-- The counters and log entries of clipped and of poisoned elements. -/
def readCount (c : Ctx) (s : State) (ix : Nat) (out : Bytes × Nat × Nat) : State :=
  let s := s.updCell ix (·.counting out)
  let u := s.cellUnit ix (4 * c.lg + ix % 4)
  let s := if out.2.1 = 0 then s else s.logOnce 0x0422 c.pid 0 u 0
  if out.2.2 = 0 then s else s.logOnce 0x0423 c.pid 0 u 0

section
variable (f : TankReadF) (rd : Ecc) (r : FMap (BitVec 32)) (c : Ctx) (s : State) (ix : Nat)

theorem readCell_parity : readCell f rd true r c s ix = parityFault (readStart f rd r c s ix) c ix := rfl

theorem readCell_clean (hlate : readLate f r c s ix = false) (hrd : f.sigma = true → rd ≠ .uncorrectable) :
    readCell f rd false r c s ix =
      let t := readStart f rd r c s ix
      let out := readResult f (s.cell ix) (readSigma f r c t ix)
      readCount c (readSend f r c t ix out.1) ix out := by
  have hgo : ¬(readLate f r c s ix = true ∨ (f.sigma = true ∧ rd = .uncorrectable)) := by
    rw [hlate, not_or]
    exact ⟨Bool.false_ne_true, fun h => hrd h.1 h.2⟩
  exact if_neg hgo

theorem readHold_settled : Settled (s.setCell ix ((s.cell ix).held f c.t)) (readHold f c s ix) c ix := by
  refine ⟨updBlock_onCells _ c _ _ fun _ => rfl, rfl, ?_⟩
  unfold readHold
  rw [State.updBlock_block_self]
  rfl

theorem readLate_eq : readLate f r c s ix = (f.sigma &&
    lateWrite (s.block c.bix) (s.cell ix) (cellBase ix + offOf r f.arSigma) (offOf r f.arSigma) 4 ((c.t : Int) - 3)) :=
  congrArg (f.sigma && ·) (((setCell_onCells s c ix _).comp (readHold_settled f c s ix).on).lateWrite ..)

theorem readStart_settled : Settled (s.setCell ix ((s.cell ix).held f c.t)) (readStart f rd r c s ix) c ix := by
  have hlate : Settled (readHold f c s ix)
      (if readLate f r c s ix then (readHold f c s ix).blockFatal c.pid c.bix 0x1407 0 (c.t - 3) else readHold f c s ix) c ix :=
    (Reports.ite (blockFatal_reports ..) (.refl _)).settled c ix
  have hstart := (readHold_settled f c s ix).trans hlate
  unfold readStart
  simp only
  split
  · exact hstart.trans (cellEcc_settled ..)
  · exact hstart

theorem readCount_settled (out : Bytes × Nat × Nat) : Settled (s.updCell ix (·.counting out)) (readCount c s ix out) c ix :=
  ((ite_logOnce_reports ..).trans (ite_logOnce_reports ..)).settled c ix

end

/-- From `s` to `t` a TANK.READ has worked on cell `ix`: the cell is now `x` and the write `w` is on its way. -/
structure ReadsOut (s t : State) (c : Ctx) (ix : Nat) (x : Cell) (w : TimedWrite) : Prop where
  on : OnCells s t c (· = ix)
  cell : (t.cell ix).besidesEcc = x.besidesEcc
  timed : (t.block c.bix).timed = (s.block c.bix).timed ++ [w]

theorem readCell_readsOut (f : TankReadF) (rd : Ecc) (r : FMap (BitVec 32)) (c : Ctx) (s : State) (ix : Nat)
    (hlate : readLate f r c s ix = false) (hrd : f.sigma = true → rd ≠ .uncorrectable) :
    let out := readResult f (s.cell ix) (readSigma f r c s ix)
    ReadsOut s (readCell f rd false r c s ix) c ix (((s.cell ix).held f c.t).counting out) (readWrite f r c ix out.1) := by
  have hstart := readStart_settled f rd r c s ix
  have hsigma : readSigma f r c (readStart f rd r c s ix) ix = readSigma f r c s ix := by
    unfold readSigma
    rw [hstart.cellReadAt, cellReadAt_congr (t := s.setCell ix ((s.cell ix).held f c.t)) (s := s) rfl (by rw [State.setCell_cell_self]; rfl)]
  simp only [readCell_clean f rd r c s ix hlate hrd, hsigma]
  generalize readResult f (s.cell ix) (readSigma f r c s ix) = out
  generalize readStart f rd r c s ix = k at hstart ⊢
  have hw : Settled k (hazWrite k c (cellBase ix + offOf r f.arD) (tileBytes f)) c ix := (hazWrite_reports ..).settled c ix
  have ht := (hazTrack_reports ((hazWrite k c (cellBase ix + offOf r f.arD) (tileBytes f)).updBlock c.bix fun b =>
    { b with timed := b.timed ++ [readWrite f r c ix out.1] }) c (cellBase ix)).settled c ix
  have hc := readCount_settled c (readSend f r c k ix out.1) ix out
  refine ⟨?_, ?_, ?_⟩
  · have hhold : OnCells s (s.setCell ix ((s.cell ix).held f c.t)) c (· = ix) := setCell_onCells s c ix _
    have hsend : OnCells _ _ c (· = ix) := updBlock_onCells (hazWrite k c (cellBase ix + offOf r f.arD) (tileBytes f)) c (· = ix)
      (fun b => { b with timed := b.timed ++ [readWrite f r c ix out.1] }) fun _ => rfl
    have hcount : OnCells (readSend f r c k ix out.1) _ c (· = ix) := setCell_onCells _ c ix (((readSend f r c k ix out.1).cell ix).counting out)
    exact ((((hhold.comp hstart.on).comp hw.on).comp hsend).comp ht.on).comp (hcount.comp hc.on)
  · have hcell : ((readSend f r c k ix out.1).cell ix).besidesEcc = ((s.cell ix).held f c.t).besidesEcc := by
      refine ht.cell.trans (hw.cell.trans (hstart.cell.trans ?_))
      rw [State.setCell_cell_self]
    refine hc.cell.trans ?_
    rw [State.updCell_cell_self]
    have hcount := congrArg (·.counting out) hcell
    exact hcount
  · refine hc.timed.trans (ht.timed.trans ?_)
    rw [State.updBlock_block_self]
    exact congrArg (· ++ _) (hw.timed.trans hstart.timed)

/-! ### The tile that is sent (03 R75 to R77) -/

@[simp] theorem length_leBytes (n x : Nat) : (leBytes n x).length = n := by
  induction n generalizing x with
  | zero => rfl
  | succ n ih => simp [leBytes, ih]

theorem leNat_leBytes_mod (n x : Nat) : leNat (leBytes n x) = x % 256 ^ n := by
  induction n generalizing x with
  | zero => simp [leBytes, leNat, Nat.mod_one]
  | succ n ih =>
    rw [leBytes, leNat, ih, BitVec.toNat_ofNat, Nat.pow_succ' (n := n), Nat.mod_mul (a := 256) (b := 256 ^ n)]

/-- Pieces of one length, one after the other. -/
theorem length_flatMap_range {α : Type} {g : Nat → List α} {n : Nat} (hg : ∀ k, (g k).length = n) (m : Nat) :
    ((List.range m).flatMap g).length = m * n := by
  simp [List.length_flatMap, hg]

theorem take_drop_flatMap_range {α : Type} {g : Nat → List α} {n : Nat} (hg : ∀ k, (g k).length = n) {m e : Nat} (he : e < m) :
    (((List.range m).flatMap g).drop (n * e)).take n = g e := by
  induction m with
  | zero => exact absurd he (Nat.not_lt_zero e)
  | succ m ih =>
    have hlen : ((List.range m).flatMap g).length = n * m := (length_flatMap_range hg m).trans (Nat.mul_comm ..)
    rw [List.range_succ, List.flatMap_append, List.flatMap_singleton]
    rcases Nat.lt_succ_iff_lt_or_eq.1 he with hlt | rfl
    · have hfit : n * e + n ≤ n * m := Nat.mul_le_mul_left n hlt
      rw [List.drop_append_of_le_length (by omega), List.take_append_of_le_length (by simp only [List.length_drop]; omega), ih hlt]
    · rw [List.drop_left' hlen, List.take_of_length_le (Nat.le_of_eq (hg e))]

/-- The element of a rounding readout. -/
def readElem (f : TankReadF) (x : Cell) (sg : Option Val) (e : Nat) : Nat × Bool × Bool :=
  readoutElem f.fmt (Claims.tank x e) x.base.toInt (x.poison.getLsbD e) sg

/-- The raw entry of a Tank: its value, the depth count and the poison bit. -/
def rawEntry (x : Cell) (e : Nat) : Bytes :=
  leBytes 12 (fmGetD x.tanks e 0).toNat ++ leBytes 4 (x.depth.toNat + (if x.poison.getLsbD e then 2 ^ 31 else 0))

theorem length_rawEntry (x : Cell) (e : Nat) : (rawEntry x e).length = 16 := by simp [rawEntry]

theorem readBytes_eq_outBytes : ∀ fmt : BitVec 4, readBytes fmt = Claims.outBytes fmt := by decide

theorem tileBytes_eq (f : TankReadF) : tileBytes f = if f.raw then 0x40000 else 16384 * Claims.outBytes f.fmt := by
  rw [tileBytes, readBytes_eq_outBytes]

section
variable {f : TankReadF} (x : Cell) (sg : Option Val)

theorem readResult_of_raw (hraw : f.raw = true) :
    readResult f x sg = ((List.range 16384).flatMap (rawEntry x), 0, 0) := if_pos hraw

theorem readResult_of_rounded (hraw : f.raw = false) : readResult f x sg =
    ((List.range 16384).flatMap fun e => leBytes (Claims.outBytes f.fmt) (readElem f x sg e).1,
      ((List.range 16384).filter fun e => (readElem f x sg e).2.1).length,
      ((List.range 16384).filter fun e => (readElem f x sg e).2.2).length) := by
  have hround : readResult f x sg = readTile x f.fmt sg := if_neg (hraw ▸ Bool.false_ne_true)
  rw [hround, readTile, readBytes_eq_outBytes]
  simp only [List.flatMap_map, List.filter_map, List.length_map]
  rfl

theorem length_readResult : (readResult f x sg).1.length = if f.raw then 0x40000 else 16384 * Claims.outBytes f.fmt := by
  cases hraw : f.raw with
  | true =>
    simp only [readResult_of_raw x sg hraw]
    exact length_flatMap_range (length_rawEntry x) 16384
  | false =>
    simp only [readResult_of_rounded x sg hraw]
    exact length_flatMap_range (fun _ => length_leBytes ..) 16384

theorem readResult_raw_tank (hraw : f.raw = true) {e : Nat} (he : e < 16384) :
    leNat (((readResult f x sg).1.drop (16 * e)).take 12) = (fmGetD x.tanks e 0).toNat := by
  have hentry := take_drop_flatMap_range (length_rawEntry x) he
  have hhead := congrArg (List.take 12) hentry
  rw [List.take_take] at hhead
  simp only [readResult_of_raw x sg hraw]
  refine (congrArg leNat (hhead.trans (List.take_left' (length_leBytes ..)))).trans ?_
  rw [leNat_leBytes_mod]
  exact Nat.mod_eq_of_lt (fmGetD x.tanks e 0).isLt

theorem readResult_raw_depth (hraw : f.raw = true) {e : Nat} (he : e < 16384) :
    leNat (((readResult f x sg).1.drop (16 * e + 12)).take 4) = x.depth.toNat + (if x.poison.getLsbD e then 2 ^ 31 else 0) := by
  have hentry := take_drop_flatMap_range (length_rawEntry x) he
  have hrest := congrArg (List.drop 12) hentry
  rw [List.drop_take, List.drop_drop] at hrest
  simp only [readResult_of_raw x sg hraw]
  refine (congrArg leNat (hrest.trans (List.drop_left' (length_leBytes ..)))).trans ?_
  rw [leNat_leBytes_mod]
  have hdepth : x.depth.toNat < 2 ^ 25 := x.depth.isLt
  refine Nat.mod_eq_of_lt ?_
  split <;> omega

theorem readResult_rounded_elem (hraw : f.raw = false) {e : Nat} (he : e < 16384) :
    ((readResult f x sg).1.drop (Claims.outBytes f.fmt * e)).take (Claims.outBytes f.fmt) =
      leBytes (Claims.outBytes f.fmt) (readElem f x sg e).1 := by
  simp only [readResult_of_rounded x sg hraw]
  exact take_drop_flatMap_range (fun _ => length_leBytes ..) he

theorem readResult_clips (hraw : f.raw = false) :
    (readResult f x sg).2.1 = ((List.range 16384).filter fun e => (readElem f x sg e).2.1).length := by
  simp only [readResult_of_rounded x sg hraw]

theorem readResult_poisons (hraw : f.raw = false) :
    ((readResult f x sg).2.2 != 0) = true ↔ ∃ e < 16384, (readElem f x sg e).2.2 = true := by
  simp only [readResult_of_rounded x sg hraw]
  rw [bne_iff_ne, ne_eq, List.length_eq_zero_iff, List.filter_eq_nil_iff]
  simp only [List.mem_range, not_forall, not_not, exists_prop]

end

/-! ### TANK.READ on the selected cells -/

/-- In `u` the cell `x` has been read by a TANK.READ that issued in `s`. -/
structure HasRead (f : TankReadF) (r : FMap (BitVec 32)) (c : Ctx) (s u : State) (x : Nat) : Prop where
  cell : (u.cell x).besidesEcc = (((s.cell x).held f c.t).counting (readResult f (s.cell x) (readSigma f r c s x))).besidesEcc
  sent : readWrite f r c x (readResult f (s.cell x) (readSigma f r c s x)).1 ∈ (u.block c.bix).timed

/-- What a TANK.READ does to one cell. -/
def tankReadEff (f : TankReadF) (rd : Ecc) (r : FMap (BitVec 32)) (c : Ctx) (s : State) (x : Nat) : State :=
  readCell f rd false r c (hazSample s c (1#4 <<< (x % 4))) x

section
variable {f : TankReadF} {rd : Ecc} {r : FMap (BitVec 32)} {c : Ctx} {s u : State} {x : Nat}

theorem readSigma_congr (hmem : u.mem = s.mem) (hcell : u.cell x = s.cell x) : readSigma f r c u x = readSigma f r c s x := by
  unfold readSigma
  rw [cellReadAt_congr hmem (congrArg Cell.hist hcell)]

/-- A cell is read as at the issue, whichever other cells have been read before it. -/
theorem tankReadEff_readsOut {sel : Nat → Prop} (hu : OnCells s u c sel) (hx : ¬sel x) (hlate : readLate f r c s x = false)
    (hrd : f.sigma = true → rd ≠ .uncorrectable) :
    let out := readResult f (s.cell x) (readSigma f r c s x)
    ReadsOut u (tankReadEff f rd r c u x) c x (((s.cell x).held f c.t).counting out) (readWrite f r c x out.1) := by
  have hrep := hazSample_reports u c (1#4 <<< (x % 4)) false
  have hon := hu.comp (hrep.onCells c sel)
  have hcell := hon.cell x hx
  have hlate' : readLate f r c (hazSample u c (1#4 <<< (x % 4))) x = false := by
    rw [readLate_eq, hon.lateWrite, hcell, ← readLate_eq, hlate]
  have hread := readCell_readsOut f rd r c _ x hlate' hrd
  rw [hcell, readSigma_congr hon.mem hcell] at hread
  exact ⟨(hrep.onCells c _).comp hread.on, hread.cell, hread.timed.trans (congrArg (· ++ _) (hrep.timed c.bix))⟩

theorem tankReadEff_foldl {l : List Nat} (hl : l.Nodup) (hu : Reports s u) (hlate : ∀ x ∈ l, readLate f r c s x = false)
    (hrd : f.sigma = true → rd ≠ .uncorrectable) :
    OnCells s (l.foldl (tankReadEff f rd r c) u) c (· ∈ l) ∧ ∀ x ∈ l, HasRead f r c s (l.foldl (tankReadEff f rd r c) u) x := by
  refine OnCells.foldl (fun v done x hv hx hlate => ?_) l hl hlate u [] (fun _ _ => List.not_mem_nil) (hu.onCells c _)
    fun _ hx => absurd hx List.not_mem_nil
  have hread := tankReadEff_readsOut hv hx hlate hrd
  refine ⟨hread.on, ⟨hread.cell, ?_⟩, fun y hy hp => ⟨?_, ?_⟩⟩
  · rw [hread.timed]
    exact List.mem_append_right _ (List.mem_singleton_self _)
  · rw [hread.on.cell y hy]
    exact hp.cell
  · rw [hread.timed]
    exact List.mem_append_left _ hp.sent

end

/-- What a TANK.READ asks of the selected cells: its scale read on port F in cycle t − 3, its two ranges (05 R146). -/
def tankReadPlan (f : TankReadF) (r : FMap (BitVec 32)) (t : Nat) : MPlan where
  cells := f.cells
  occ := readOcc f
  caps base := [{ mkCap t 1 1 (base + offOf r f.arSigma) 4 (boolNat f.sigma) 1 0 .scale with base := (t : Int) - 3 }]
  ranges := [(offOf r f.arD, 1024, tileBytes f)] ++ if f.sigma then [(offOf r f.arSigma, 4, 4)] else []

theorem tankRead_bits {f : TankReadF} (hfmt : if f.raw then f.fmt = 0 else 5 ≤ f.fmt.toNat ∧ f.fmt.toNat ≤ 10) :
    firstCause [(0x02, decide (10 < f.fmt.toNat)), (0x03, if f.raw then f.fmt != 0 else decide (f.fmt.toNat < 5))] = none := by
  cases hraw : f.raw with
  | true =>
    rw [if_pos hraw] at hfmt
    exact firstCause_eq_none (by simp [hfmt])
  | false =>
    rw [if_neg (hraw ▸ Bool.false_ne_true)] at hfmt
    exact firstCause_eq_none (by simpa using ⟨hfmt.2, hfmt.1⟩)

/-- A TANK.READ with no parity failure reads each selected cell. -/
theorem exec_tankRead {s s1 : State} {i : Issue} {f : TankReadF} {rd : Ecc} {c : Ctx} {r : FMap (BitVec 32)}
    (h : IssuesM s i Claims.fr3 c s1 r) (ht2 : noT2 s1 c f.cells)
    (hfmt : if f.raw then f.fmt = 0 else 5 ≤ f.fmt.toNat ∧ f.fmt.toNat ≤ 10)
    (hready : MReady s1 c f.cells (tankReadPlan f r c.t).caps (tankReadPlan f r c.t).ranges)
    (hrd : f.sigma = true → rd ≠ .uncorrectable) (hlate : ∀ x, selected c f.cells x → readLate f r c s1 x = false) :
    ∃ s2, exec (.tankRead i f rd false) s = .next s2 ∧
      MFrame s1 s2 c f.cells (if f.inc then [(f.arD, tileBytes f)] else []) ∧ ∀ x, selected c f.cells x → HasRead f r c s1 s2 x := by
  obtain ⟨perf, hrun⟩ := runM_issues (incs := if f.inc then [(f.arD, tileBytes f)] else []) (plan := tankReadPlan f)
    (more := fun _ _ _ => []) (eff := tankReadEff f rd) h (tankRead_bits hfmt) hready ht2 fun _ hq => absurd hq List.not_mem_nil
  obtain ⟨hon, hread⟩ := tankReadEff_foldl (f := f) (c.nodup_cells f.cells)
    (hazCaps_reports s1 c f.cells (tankReadPlan f r c.t).caps) (fun x hx => hlate x (Ctx.mem_cells.1 hx)) hrd
  refine ⟨_, congrArg Host.Outcome.next hrun, (hon.mono fun _ => Ctx.mem_cells.1).mFrame .., fun x hx => ?_⟩
  obtain ⟨hcell, hsent⟩ := hread x (Ctx.mem_cells.2 hx)
  refine ⟨hcell, ?_⟩
  rw [State.updBlock_block_self, Block.postInc_eq]
  exact hsent

/-! ### A parity failure (03 R78) -/

theorem raiseFatal_fatalMet (s : State) (pid code : Nat) (hcode : code < 2 ^ 16) (u : LogUnit) (d t : Nat) :
    FatalMet s (s.raiseFatal pid code u d t) pid code := by
  intro p hp hst hnone
  obtain ⟨q, _, hq, heq⟩ := raiseFatal_running hp hst code u d t
  have hview : ((s.logEv code pid u d).countBlockErr code u).view Partition.frame pid = s.view Partition.frame pid :=
    (countBlockErr_noted ..).view.trans (logEv_view (fun _ _ => rfl) s code pid u d [])
  have hframe : q.frame = p.frame := by
    rw [State.view, State.view, hq, hp] at hview
    exact Option.some.inj hview
  have hfirst : q.firstFatal code t = ⟨BitVec.ofNat 16 code, t⟩ := by
    unfold Partition.firstFatal
    rw [hframe, hnone]
  rw [heq, hfirst]
  refine ⟨_, _, updFrame_part hq _, rfl, ?_⟩
  rw [BitVec.toNat_ofNat]
  exact Nat.mod_eq_of_lt hcode

/-- A TANK.READ that meets a parity failure sends no data. -/
theorem readCell_parity_settled (f : TankReadF) (rd : Ecc) (r : FMap (BitVec 32)) (c : Ctx) (s : State) (x : Nat) :
    Settled (s.setCell x ((s.cell x).held f c.t)) (readCell f rd true r c s x) c x :=
  (readStart_settled f rd r c s x).trans ((raiseFatal_reports ..).settled c x)

theorem readCell_parity_fatal (f : TankReadF) (r : FMap (BitVec 32)) (c : Ctx) (s : State) (x : Nat) (hsigma : f.sigma = false) :
    FatalMet s (readCell f .good true r c s x) c.pid 0x1403 := by
  have hstart : readStart f .good r c s x = readHold f c s x := by
    simp [readStart, readLate, hsigma]
  rw [readCell_parity, hstart]
  exact raiseFatal_fatalMet (readHold f c s x) c.pid 0x1403 (by decide) _ _ _

/-! ### TANK.READ as stated -/

section
variable {f : TankReadF} {r : FMap (BitVec 32)} {c : Ctx} {s u : State} {x : Nat} (h : HasRead f r c s u x)
include h

theorem HasRead.engFree : (u.cell x).engFree = c.t + readOcc f := by
  have hf := congrArg Cell.engFree h.cell
  exact hf

theorem HasRead.tanks : (u.cell x).tanks = (s.cell x).tanks := by
  have hf := congrArg Cell.tanks h.cell
  exact hf

theorem HasRead.depth : (u.cell x).depth = (s.cell x).depth := by
  have hf := congrArg Cell.depth h.cell
  exact hf

theorem HasRead.poisonFlag (hraw : f.raw = false) : (u.cell x).poisonFlag = true ↔
    (s.cell x).poisonFlag = true ∨ ∃ e < 16384, (readElem f (s.cell x) (readSigma f r c s x) e).2.2 = true := by
  have hflag := congrArg Cell.poisonFlag h.cell
  have hor : (u.cell x).poisonFlag = ((s.cell x).poisonFlag || (readResult f (s.cell x) (readSigma f r c s x)).2.2 != 0) := hflag
  rw [hor, Bool.or_eq_true, readResult_poisons _ _ hraw]

theorem HasRead.readClip (hraw : f.raw = false) : (u.cell x).readClip.toNat = Nat.min ((s.cell x).readClip.toNat +
    ((List.range 16384).filter fun e => (readElem f (s.cell x) (readSigma f r c s x) e).2.1).length) (2 ^ 32 - 1) := by
  have hclip := congrArg Cell.readClip h.cell
  have hadd : (u.cell x).readClip = satAdd (s.cell x).readClip (readResult f (s.cell x) (readSigma f r c s x)).2.1 := hclip
  rw [hadd, toNat_satAdd, readResult_clips _ _ hraw]

end

/-- Settles O24: each selected cell is read as at the issue, whichever other cells were read before it. -/
theorem tankReadWritesTheTile : Obligations.TankReadWritesTheTile := by
  unfold Obligations.TankReadWritesTheTile
  refine ⟨fun s s1 i f rd c r hissue ht2 hfmt => ?_, fun s c f rd r x => ?_⟩
  · simp only [← tileBytes_eq]
    intro hready hscale
    have hlate (x : Nat) (hx : selected c f.cells x) : readLate f r c s1 x = false := by
      rw [readLate_eq, Bool.and_eq_false_imp]
      exact fun hs => (hscale hs).2 x hx
    obtain ⟨s2, hexec, hframe, hread⟩ := exec_tankRead hissue ht2 hfmt hready (fun hs => (hscale hs).1) hlate
    refine ⟨s2, hexec, hframe, fun x hx => ?_⟩
    have h := hread x hx
    refine ⟨h.engFree, h.tanks, h.depth, ⟨_, h.sent, rfl, rfl, rfl, ?_, fun e he => ?_⟩, fun hraw => ⟨h.poisonFlag hraw, h.readClip hraw⟩⟩
    · rw [tileBytes_eq]
      exact length_readResult ..
    · split
      · rename_i hraw
        exact ⟨readResult_raw_tank _ _ hraw he, readResult_raw_depth _ _ hraw he⟩
      · rename_i hraw
        exact readResult_rounded_elem _ _ (Bool.eq_false_iff.2 hraw) he
  · have hset := readCell_parity_settled f rd r c s x
    refine ⟨hset.on.mem, hset.timed, fun hrd hsigma => ?_⟩
    rw [hrd]
    exact readCell_parity_fatal f r c s x hsigma

end Sys2Proof.Machine

/-! # Stream flags and sync tokens (05 R135, R136, 06 R168) -/

namespace Sys2Proof.Machine

open Claims (FatalMet besidesFlags besidesTokens)

/-! ### The slot of an operation -/

/-- What the context of an operation that issues says of its slot, and what is kept of its bundle. -/
theorem openIssue_context {s s1 : State} {i : Issue} {slot : Nat} {c : Ctx} (h : openIssue s i slot = (s1, some c)) :
    c.slot = slot ∧ ∃ v, fmGet s1.saves c.bix = some v ∧ v.cycle = c.t := by
  have hsave (t : State) (bix : Nat) : ∃ v, fmGet (t.saveBundle i.part bix i.cycle).saves bix = some v ∧ v.cycle = i.cycle := by
    unfold State.saveBundle
    split
    · rename_i v hv
      split
      · exact ⟨v, hv, ‹_›⟩
      · exact ⟨_, fmGet_fmSet_self .., rfl⟩
    · exact ⟨_, fmGet_fmSet_self .., rfl⟩
  have hlog (t : State) (code part key : Nat) (u : LogUnit) : (t.logOnce code part key u 0).saves = t.saves := by
    have hf := congrArg State.saves (logOnce_reports t code part key u 0).same
    exact hf
  unfold openIssue at h
  simp only at h
  split at h
  · cases h
  · split at h
    · cases h
    · split at h
      · cases h
      · split at h
        · cases h
        · split at h
          · cases h
          · cases h
            exact ⟨rfl, by rw [hlog]; exact hsave ..⟩
        · split at h
          · cases h
          · cases h
            exact ⟨rfl, hsave ..⟩

/-- A C-slot operation that issues, and that no check stops, has its effect and no more. -/
theorem runSlot_control {s s1 : State} {i : Issue} {c : Ctx} {checks : State → Ctx → List (Nat × Bool)}
    {eff skip : State → Ctx → State} (h : Issues s i 1 c s1) (hc : firstCause (checks s1 c) = none) :
    runSlot s i 1 false [] checks eff skip = eff s1 c := by
  obtain ⟨s0, ho, _⟩ := id h
  have hslot := (openIssue_context ho).1
  rw [runSlot_issues h rfl hc]
  simp [State.countSlot, hslot]

/-! ### The first fatal fault of an Exposure (02 R52) -/

/-- A fatal fault of a running partition is its fault unless one stands that came before it. -/
theorem raiseFatal_part {s : State} {pid : Nat} {p : Partition} (hp : s.part pid = some p) (hst : p.state = .running)
    (code : Nat) (u : LogUnit) (d t : Nat) : ∃ q, (s.raiseFatal pid code u d t).part pid = some q ∧ q.state = .running ∧
      q.frame.fatal = some (p.firstFatal code t) := by
  obtain ⟨q, hquiet, hq, heq⟩ := raiseFatal_running hp hst code u d t
  have hview : ((s.logEv code pid u d).countBlockErr code u).view Partition.frame pid = s.view Partition.frame pid :=
    (countBlockErr_noted ..).view.trans (logEv_view (fun _ _ => rfl) s code pid u d [])
  have hframe : q.frame = p.frame := by
    rw [State.view, State.view, hq, hp] at hview
    exact Option.some.inj hview
  have hstate := congrArg Partition.state hquiet
  have hfirst : q.firstFatal code t = p.firstFatal code t := by
    unfold Partition.firstFatal
    rw [hframe]
  rw [heq, hfirst]
  exact ⟨_, updFrame_part hq _, hstate.trans hst, rfl⟩

/-- A hazard that ends the Exposure does so with HAZARD_STOP in the cycle of its operation (06 R182). -/
theorem hazard_part {s : State} {c : Ctx} {p : Partition} (hp : s.part c.pid = some p) (hst : p.state = .running)
    (hnone : p.frame.fatal = none) (kind writer target early : Nat) :
    ∃ q, (hazard s c kind writer target early).part c.pid = some q ∧ q.state = .running ∧
      ∀ o, q.frame.fatal = some o → o = ⟨0x1442, c.t⟩ := by
  unfold hazard
  split
  · rename_i hno
    exact absurd (hp.symm.trans hno) (by simp)
  rename_i p' hp'
  cases hp.symm.trans hp'
  split
  · exact ⟨p, hp, hst, fun o ho => by rw [hnone] at ho; cases ho⟩
  · extract_lets r h h' first t t'
    have ht' : ∃ q, t'.part c.pid = some q ∧ q.state = .running ∧ q.frame.fatal = none := by
      have ht : t.part c.pid = some { p with hazard := { h' with seen := h.seen + 1 } } := State.setPart_part_self ..
      unfold t'
      split
      · have hview := logEv_view (g := fun q : Partition => (q.state, q.frame)) (fun _ _ => rfl) t 0x0440 c.pid
          (t.blockUnit c.bix c.lg) 0 [] (j := c.pid)
        rw [view_of_part ht] at hview
        obtain ⟨q, hq, hsame⟩ := part_of_view hview
        exact ⟨q, hq, (congrArg Prod.fst hsame).trans hst, (congrArg (fun x => x.2.fatal) hsame).trans hnone⟩
      · exact ⟨_, ht, hst, hnone⟩
    obtain ⟨q, hq, hqst, hqnone⟩ := ht'
    split
    · obtain ⟨r, hr, hrst, hfatal⟩ := raiseFatal_part hq hqst 0x1442 (t'.blockUnit c.bix
        (match t'.part c.pid with | some p => p.logicalOf c.bix | none => 0xFFFF)) 0 c.t
      refine ⟨r, hr, hrst, fun o ho => ?_⟩
      rw [hfatal, Partition.firstFatal, hqnone] at ho
      exact (Option.some.inj ho).symm
    · exact ⟨q, hq, hqst, fun o ho => by rw [hqnone] at ho; cases ho⟩

theorem firstFatal_code {p : Partition} {code t : Nat} (hcode : code < 2 ^ 16)
    (h : ∀ o, p.frame.fatal = some o → t = o.time ∧ code < o.code.toNat) : (p.firstFatal code t).code.toNat = code := by
  have hfirst : p.firstFatal code t = ⟨BitVec.ofNat 16 code, t⟩ := by
    unfold Partition.firstFatal
    split
    · rfl
    · rename_i o ho
      exact if_pos (.inr (h o ho))
  rw [hfirst, BitVec.toNat_ofNat, Nat.mod_eq_of_lt hcode]

/-! ### CHKFLAG (05 R135) -/

section
variable {s s1 : State} {i : Issue} {c : Ctx} {m : BitVec 16} {cl : Bool}

theorem chkflag_passes (h : Issues s i 1 c s1) (hm : m &&& ~~~(s1.block c.bix).flags = 0) :
    ∃ s2, exec (.chkflag i m cl) s = .next s2 ∧ OwnFrame besidesFlags s1 s2 c ∧
      (s2.block c.bix).flags = if cl then (s1.block c.bix).flags &&& ~~~m else (s1.block c.bix).flags := by
  refine ⟨_, congrArg Host.Outcome.next ((runSlot_control h rfl).trans (if_pos hm)), ?_⟩
  cases cl with
  | true =>
    simp only [if_true]
    exact ⟨updBlock_own s1 c _ fun _ => rfl, congrArg Block.flags (State.updBlock_block_self ..)⟩
  | false => exact ⟨.refl s1 c, rfl⟩

theorem chkflag_fails (h : Issues s i 1 c s1) (hm : m &&& ~~~(s1.block c.bix).flags ≠ 0) :
    ∃ s2, exec (.chkflag i m cl) s = .next s2 ∧ Reports s1 s2 ∧ FatalMet s1 s2 c.pid 0x1503 :=
  ⟨_, congrArg Host.Outcome.next ((runSlot_control h rfl).trans (if_neg hm)), raiseFatal_reports ..,
    raiseFatal_fatalMet s1 c.pid 0x1503 (by decide) _ _ _⟩

/-! ### Tokens that reach a block (05 R136, 06 R168) -/

theorem getLsbD_one_shiftLeft (n k : Nat) (hk : k < 16) : (1#16 <<< n).getLsbD k = decide (n = k) := by
  rw [BitVec.getLsbD_shiftLeft, BitVec.getLsbD_one]
  grind

theorem getLsbD_foldl_tokens (l : List (Nat × BitVec 4)) (v : BitVec 16) {k : Nat} (hk : k < 16) :
    (l.foldl (fun acc x => acc ||| (1#16 <<< x.2.toNat)) v).getLsbD k = (v.getLsbD k || l.any fun x => decide (x.2.toNat = k)) := by
  induction l generalizing v with
  | nil => simp
  | cons x rest ih => rw [List.foldl_cons, ih, BitVec.getLsbD_or, getLsbD_one_shiftLeft _ _ hk, List.any_cons, Bool.or_assoc]

theorem takeTokens_token (b : Block) (t : Nat) {k : Nat} (hk : k < 16) : (b.takeTokens t).tokens.getLsbD k = true ↔
    b.tokens.getLsbD k = true ∨ ∃ x ∈ b.tokensDue, x.1 ≤ t ∧ x.2.toNat = k := by
  unfold Block.takeTokens
  rw [getLsbD_foldl_tokens _ _ hk]
  simp

/-- Where no token has arrived, none is taken. -/
theorem takeTokens_of_late {b : Block} {t : Nat} (h : ∀ x ∈ b.tokensDue, t < x.1) : b.takeTokens t = b := by
  have hnone : b.tokensDue.filter (fun x => decide (x.1 ≤ t)) = [] :=
    List.filter_eq_nil_iff.2 fun x hx => by simpa using h x hx
  have hall : b.tokensDue.filter (fun x => decide (t < x.1)) = b.tokensDue :=
    List.filter_eq_self.2 fun x hx => by simpa using h x hx
  unfold Block.takeTokens
  rw [hnone, hall]
  rfl

/-! ### SYNC.CHK (06 R168) -/

/-- The state as SYNC.CHK sees it: tokens that have arrived are taken, and one that could still be late is reported. -/
def tokensSeen (s : State) (c : Ctx) (m : BitVec 16) : State :=
  let t := s.updBlock c.bix fun b => b.takeTokens c.t
  match (t.block c.bix).crossTokens.find? fun x => m.getLsbD x.2.1.toNat && decide (c.t < x.1) with
  | some x => hazard t c 9 x.2.2 x.2.1.toNat (x.1 - c.t)
  | none => t

theorem exec_syncChk (h : Issues s i 1 c s1) : exec (.syncChk i m cl) s = .next (
    let t := tokensSeen s1 c m
    if m &&& ~~~(t.block c.bix).tokens = 0 then (if cl then t.updBlock c.bix fun b => { b with tokens := b.tokens &&& ~~~m } else t)
    else t.blockFatal c.pid c.bix 0x140B 0 c.t) :=
  congrArg Host.Outcome.next (runSlot_control h rfl)

theorem updBlock_reports (s : State) (x : Nat) {f : Block → Block} (hf : f (s.block x) = s.block x) : Reports s (s.updBlock x f) := by
  refine ⟨rfl, fun y => ?_, fun _ => rfl, fun _ => rfl⟩
  by_cases hy : y = x
  · rw [hy, State.updBlock_block_self, hf]
  · rw [State.updBlock_block_ne _ _ hy]

theorem Reports.own {s t : State} (h : Reports s t) {core : Block → Block} (hcore : ∀ b, core b = core b.still) (c : Ctx) :
    OwnFrame core s t c := by
  refine ⟨?_, fun x _ => h.block x, ?_, h.region, h.part⟩
  · exact congrArg (fun u : State => { u with free := s.free }) h.same
  · rw [hcore, h.block, ← hcore]

theorem tokensSeen_part {p : Partition} (hp : s1.part c.pid = some p) (hst : p.state = .running) (hnone : p.frame.fatal = none) :
    ∃ q, (tokensSeen s1 c m).part c.pid = some q ∧ q.state = .running ∧ ∀ o, q.frame.fatal = some o → o = ⟨0x1442, c.t⟩ := by
  unfold tokensSeen
  simp only
  split
  · exact hazard_part (s := s1.updBlock c.bix fun b => b.takeTokens c.t) hp hst hnone ..
  · exact ⟨p, hp, hst, fun o ho => by rw [hnone] at ho; cases ho⟩

section
variable (hlate : ∀ x ∈ (s1.block c.bix).tokensDue, c.t < x.1)
include hlate

theorem tokensSeen_reports : Reports s1 (tokensSeen s1 c m) := by
  have htake := updBlock_reports s1 c.bix (f := fun b => b.takeTokens c.t) (takeTokens_of_late hlate)
  unfold tokensSeen
  simp only
  split
  · exact htake.trans (hazard_reports ..)
  · exact htake

theorem tokensSeen_tokens : ((tokensSeen s1 c m).block c.bix).tokens = (s1.block c.bix).tokens := by
  have hf := congrArg Block.tokens ((tokensSeen_reports (m := m) hlate).block c.bix)
  exact hf

theorem syncChk_passes (h : Issues s i 1 c s1) (hm : m &&& ~~~(s1.block c.bix).tokens = 0) :
    ∃ s2, exec (.syncChk i m cl) s = .next s2 ∧ OwnFrame besidesTokens s1 s2 c ∧
      (s2.block c.bix).tokens = if cl then (s1.block c.bix).tokens &&& ~~~m else (s1.block c.bix).tokens := by
  have htok := tokensSeen_tokens (m := m) hlate
  have hframe : OwnFrame besidesTokens s1 (tokensSeen s1 c m) c := (tokensSeen_reports hlate).own (fun _ => rfl) c
  refine ⟨_, (exec_syncChk h).trans (congrArg Host.Outcome.next (if_pos (htok ▸ hm))), ?_⟩
  cases cl with
  | true =>
    simp only [if_true, ← htok]
    exact ⟨hframe.trans (updBlock_own _ c _ fun _ => rfl), congrArg Block.tokens (State.updBlock_block_self ..)⟩
  | false => exact ⟨hframe, htok⟩

theorem syncChk_fails (h : Issues s i 1 c s1) (hm : m &&& ~~~(s1.block c.bix).tokens ≠ 0) :
    ∃ s2, exec (.syncChk i m cl) s = .next s2 ∧ Reports s1 s2 ∧ FatalMet s1 s2 c.pid 0x140B := by
  have htok := tokensSeen_tokens (m := m) hlate
  refine ⟨_, (exec_syncChk h).trans (congrArg Host.Outcome.next (if_neg (htok ▸ hm))),
    (tokensSeen_reports hlate).trans (blockFatal_reports ..), fun p hp hst hnone => ?_⟩
  have hlower : (0x140B : Nat) < (0x1442 : BitVec 16).toNat := by decide
  obtain ⟨q, hq, hqst, hstop⟩ := tokensSeen_part (m := m) hp hst hnone
  obtain ⟨r, hr, _, hfatal⟩ := raiseFatal_part hq hqst 0x140B ((tokensSeen s1 c m).blockUnit c.bix
    (match (tokensSeen s1 c m).part c.pid with | some p => p.logicalOf c.bix | none => 0xFFFF)) 0 c.t
  refine ⟨r, _, hr, hfatal, firstFatal_code (by decide) fun o ho => ?_⟩
  rw [hstop o ho]
  exact ⟨rfl, hlower⟩

end

/-! ### SYNC.POST (06 R168, R169) -/

theorem openCycle_bounds (s : State) (lo hi k : Nat) : lo ≤ (s.openCycle lo hi k).1 ∧ (lo ≤ hi → (s.openCycle lo hi k).1 ≤ hi) := by
  have hmod : (s.draw 32 k).1 % (hi - lo + 1) < hi - lo + 1 := Nat.mod_lt _ (Nat.succ_pos _)
  have heq : (s.openCycle lo hi k).1 = lo + (s.draw 32 k).1 % (hi - lo + 1) := rfl
  omega

/-- A token is posted to a block, and the bundle that posts it notes so. -/
def State.post (s : State) (c : Ctx) (dest due : Nat) (k : BitVec 4) (f : Block → Block) : State :=
  (s.updBlock dest f).noteBundle c.bix fun v => { v with posts := v.posts ++ [(dest, due, k)] }

theorem post_rest (s : State) (c : Ctx) (dest due : Nat) (k : BitVec 4) (f : Block → Block) :
    { s.post c dest due k f with blocks := [], saves := [] } = { s with blocks := [], saves := [] } ∧
      (s.post c dest due k f).blocks = (s.updBlock dest f).blocks := by
  unfold State.post State.noteBundle
  split <;> exact ⟨rfl, rfl⟩

theorem post_block_self (s : State) (c : Ctx) (dest due : Nat) (k : BitVec 4) (f : Block → Block) :
    (s.post c dest due k f).block dest = f (s.block dest) := by
  rw [State.block, (post_rest ..).2]
  exact s.updBlock_block_self dest f

theorem post_block_ne (s : State) (c : Ctx) {dest y : Nat} (hy : y ≠ dest) (due : Nat) (k : BitVec 4) (f : Block → Block) :
    (s.post c dest due k f).block y = s.block y := by
  rw [State.block, (post_rest ..).2]
  exact s.updBlock_block_ne f hy

section
variable {x : BitVec 10} {k : BitVec 4} {p : Partition} (h : Issues s i 1 c s1) (hp : s1.part c.pid = some p)
include h hp

theorem syncPost_outside (hx : 36 * p.tiles.length ≤ x.toNat ∨ x.toNat / 36 ≠ c.lg / 36) :
    exec (.syncPost i x k) s = .next (illegal s1 c 0x0F) := by
  obtain ⟨s0, ho, hs1, hpred⟩ := h
  have hbad : (decide (36 * p.tiles.length ≤ x.toNat) || x.toNat / 36 != c.lg / 36) = true := by simpa using hx
  refine congrArg Host.Outcome.next ?_
  subst hs1
  simp [runSlot, ho, hpred, hp, firstCause, hbad]

section
variable (hin : x.toNat < 36 * p.tiles.length) (hdie : x.toNat / 36 = c.lg / 36)
include hin hdie

theorem exec_syncPost : exec (.syncPost i x k) s = .next (
    let bd := tokenBounds s1 c.pid p c.t (rrHops (c.bix / 6 % 6) (x.toNat / 6 % 6) 0)
    let own := decide (x.toNat / 6 = c.lg / 6)
    let d := if own then (c.t + 2, s1) else s1.openCycle bd.1 bd.2 11
    d.2.post c (p.blockIx x.toNat) d.1 k fun b => { b with
      tokensDue := b.tokensDue ++ [(d.1, k)]
      crossTokens := if own then b.crossTokens else b.crossTokens ++ [(bd.2, k, c.addr)] }) := by
  have hbad : (decide (36 * p.tiles.length ≤ x.toNat) || x.toNat / 36 != c.lg / 36) = false := by simp [hin, hdie]
  refine congrArg Host.Outcome.next ((runSlot_control h ?_).trans ?_)
  · simp [hp, hbad, firstCause]
  · simp only [hp]
    rfl

theorem syncPost_posts : ∃ s2, exec (.syncPost i x k) s = .next s2 ∧
    { s2 with blocks := [], saves := [], free := s1.free } = { s1 with blocks := [], saves := [] } ∧
    (∀ y, y ≠ p.blockIx x.toNat → s2.block y = s1.block y) ∧
    let b := s1.block (p.blockIx x.toNat)
    let bd := tokenBounds s1 c.pid p c.t (rrHops (c.bix / 6 % 6) (x.toNat / 6 % 6) 0)
    (x.toNat / 6 = c.lg / 6 → s2.block (p.blockIx x.toNat) = { b with tokensDue := b.tokensDue ++ [(c.t + 2, k)] }) ∧
    (x.toNat / 6 ≠ c.lg / 6 → ∃ due, bd.1 ≤ due ∧ (bd.1 ≤ bd.2 → due ≤ bd.2) ∧
      s2.block (p.blockIx x.toNat) = { b with
        tokensDue := b.tokensDue ++ [(due, k)], crossTokens := b.crossTokens ++ [(bd.2, k, c.addr)] }) := by
  have hexec := exec_syncPost (k := k) h hp hin hdie
  simp only at hexec
  by_cases hown : x.toNat / 6 = c.lg / 6
  · simp only [hown, decide_true, if_true] at hexec
    refine ⟨_, hexec, congrArg (fun u : State => { u with free := s1.free }) (post_rest ..).1,
      fun y hy => post_block_ne _ _ hy .., fun _ => post_block_self .., fun hne => absurd hown hne⟩
  · simp only [hown, decide_false, Bool.false_eq_true, if_false] at hexec
    obtain ⟨hlo, hhi⟩ := openCycle_bounds s1 (tokenBounds s1 c.pid p c.t (rrHops (c.bix / 6 % 6) (x.toNat / 6 % 6) 0)).1
      (tokenBounds s1 c.pid p c.t (rrHops (c.bix / 6 % 6) (x.toNat / 6 % 6) 0)).2 11
    exact ⟨_, hexec, congrArg (fun u : State => { u with free := s1.free }) (post_rest ..).1,
      fun y hy => post_block_ne _ _ hy .., fun heq => absurd heq hown, fun _ => ⟨_, hlo, hhi, post_block_self ..⟩⟩

end

end

/-! ### SYNC_TOKEN_ARRIVAL -/

theorem syncTokenArrival_takes {pid lg cycle bix : Nat} {k : BitVec 4} (hrun : runningBlock s pid lg = some bix)
    (hdue : ∃ x ∈ ((passTo s pid lg cycle).block bix).tokensDue, x.2 = k) :
    ∃ s2, exec (.syncTokenArrival pid lg k cycle) s = .next s2 ∧
      { s2 with blocks := [] } = { passTo s pid lg cycle with blocks := [] } ∧
      (s2.block bix).tokens = ((passTo s pid lg cycle).block bix).tokens ||| (1#16 <<< k.toNat) ∧
      (s2.block bix).tokensDue.length + 1 = ((passTo s pid lg cycle).block bix).tokensDue.length ∧
      ∀ y, y ≠ bix → s2.block y = (passTo s pid lg cycle).block y := by
  obtain ⟨y, hy, hyk⟩ := hdue
  obtain ⟨x, hx⟩ := Option.isSome_iff_exists.1 (List.find?_isSome (p := fun x => x.2 == k).2 ⟨y, hy, by simpa using hyk⟩)
  have hmem := List.mem_of_find?_eq_some hx
  have hexec : exec (.syncTokenArrival pid lg k cycle) s = execSyncTokenArrival pid lg k cycle s := rfl
  simp only [execSyncTokenArrival, hrun, hx] at hexec
  refine ⟨_, hexec, rfl, congrArg Block.tokens (State.setBlock_block_self ..), ?_, fun z hz => State.setBlock_block_ne _ _ hz⟩
  rw [State.setBlock_block_self, List.length_erase_of_mem hmem]
  exact Nat.sub_add_cancel (List.length_pos_of_mem hmem)

end

/-- Settles O16: the checks, the post and the arrival, each by what it leaves of the block. -/
theorem flagsAndTokens : Obligations.FlagsAndTokens := by
  unfold Obligations.FlagsAndTokens
  refine ⟨fun s s1 i c m cl h => ⟨chkflag_passes h, chkflag_fails h⟩,
    fun s s1 i c m cl h hlate => ⟨syncChk_passes hlate h, syncChk_fails hlate h⟩,
    fun s s1 i c x k p h hp => ⟨syncPost_posts h hp, syncPost_outside h hp⟩,
    fun b t => ⟨fun x hx hle => ?_, fun k hk htok => (takeTokens_token b t hk).2 (.inl htok)⟩,
    fun s pid lg cycle bix k hrun hdue => syncTokenArrival_takes hrun hdue⟩
  exact (takeTokens_token b t x.2.isLt).2 (.inr ⟨x, hx, hle, rfl⟩)

end Sys2Proof.Machine

/-! # Illegal bundles and failed fetches (05 R120, R125, R151) -/

namespace Sys2Proof.Machine

open Claims (FatalMet)

/-! ### What becomes of a bundle that is dropped (log entry 20) -/

/-- The cells of a block as they were kept. -/
def State.cellsBack (s : State) (bix : Nat) (cs : List Cell) : State :=
  cs.zipIdx.foldl (fun (s : State) p => s.setCell (4 * bix + p.2) p.1) s

/-- The requests of a bundle leave the region arbiters. -/
def State.unask (s : State) (c : Ctx) : State :=
  { s with regions := s.regions.map fun g => (g.1, { g.2 with
    reqs := g.2.reqs.filter fun q => !(q.own && q.block == c.bix && q.issue == c.t)
    rr := g.2.rr.filter fun q => !(q.from_ == c.bix && q.issue == c.t) }) }

/-- The tokens of a bundle are taken back from the blocks they were posted to. -/
def State.unpost (s : State) (bix : Nat) (ps : List (Nat × Nat × BitVec 4)) : State :=
  ps.foldl (fun (s : State) x => if x.1 = bix then s else
    s.updBlock x.1 fun b => { b with tokensDue := b.tokensDue.erase x.2 }) s

/-- The staging range that a bundle has begun to fill is empty again. -/
def State.unstage (s : State) (staged : Option (Nat × Nat)) : State :=
  match staged with
  | some x => s.updTx x.1 fun y => { y with staging := fmErase y.staging x.2 }
  | none => s

/-- A kept bundle has been dropped, but for its halt requests. -/
def State.unissued (s : State) (c : Ctx) (v : BundleSave) : State :=
  ((((s.setBlock c.bix v.block).cellsBack c.bix v.cells).unask c).unpost c.bix v.posts).unstage v.staged

section
variable {s : State} {c : Ctx} {v : BundleSave}

theorem dropBundle_kept (hv : fmGet s.saves c.bix = some v) (hc : v.cycle = c.t) :
    dropBundle s c = (s.unissued c v).updFrame c.pid fun f => { f with haltReq := v.halt, reqLate := v.haltLate } := by
  unfold dropBundle
  simp only [hv, hc, ne_eq, not_true_eq_false, if_false]
  rfl

theorem dropBundle_cases (s : State) (c : Ctx) : dropBundle s c = s ∨ ∃ v, fmGet s.saves c.bix = some v ∧ v.cycle = c.t := by
  cases hv : fmGet s.saves c.bix with
  | none => exact .inl (by simp [dropBundle, hv])
  | some v =>
    by_cases hc : v.cycle = c.t
    · exact .inr ⟨v, rfl, hc⟩
    · exact .inl (by simp [dropBundle, hv, hc])

end

theorem block_of_blocks {s t : State} (h : t.blocks = s.blocks) (x : Nat) : t.block x = s.block x := by
  rw [State.block, h]
  rfl

section
variable (s : State)

theorem cellsBack_rest (bix : Nat) (cs : List Cell) : { s.cellsBack bix cs with cells := s.cells } = s :=
  List.foldlRecOn _ _ (motive := fun t : State => { t with cells := s.cells } = s) rfl fun _ ht _ _ => ht

theorem foldl_setCell_cell (cs : List Cell) (lo n x : Nat) :
    ((cs.zipIdx n).foldl (fun (s : State) p => s.setCell (lo + p.2) p.1) s).cell x =
      if lo + n ≤ x then cs.getD (x - (lo + n)) (s.cell x) else s.cell x := by
  induction cs generalizing s n with
  | nil => simp
  | cons a rest ih =>
    rw [List.zipIdx_cons, List.foldl_cons, ih]
    rcases Nat.lt_trichotomy x (lo + n) with hlt | rfl | hgt
    · rw [if_neg (by omega), if_neg (by omega), State.setCell_cell_ne _ _ (by omega)]
    · rw [if_neg (by omega), if_pos (Nat.le_refl _), Nat.sub_self, List.getD_cons_zero, State.setCell_cell_self]
    · have hsub : x - (lo + n) = x - (lo + (n + 1)) + 1 := by omega
      rw [if_pos (by omega), if_pos (Nat.le_of_lt hgt), hsub, List.getD_cons_succ, State.setCell_cell_ne _ _ (by omega)]

theorem cellsBack_cell (bix : Nat) (cs : List Cell) (x : Nat) :
    (s.cellsBack bix cs).cell x = if 4 * bix ≤ x then cs.getD (x - 4 * bix) (s.cell x) else s.cell x :=
  foldl_setCell_cell s cs (4 * bix) 0 x

theorem unask_region (c : Ctx) (r : Nat) : ((s.unask c).region r).reqs =
    (s.region r).reqs.filter fun q => !(q.own && q.block == c.bix && q.issue == c.t) := by
  simp only [State.region, fmGetD, State.unask, fmGet_map_key _ (fun g : Nat × Region => (g.1, { g.2 with
    reqs := g.2.reqs.filter fun q => !(q.own && q.block == c.bix && q.issue == c.t)
    rr := g.2.rr.filter fun q => !(q.from_ == c.bix && q.issue == c.t) })) (fun _ => rfl)]
  cases fmGet s.regions r <;> rfl

theorem unpost_rest (bix : Nat) (ps : List (Nat × Nat × BitVec 4)) : { s.unpost bix ps with blocks := s.blocks } = s := by
  refine List.foldlRecOn _ _ (motive := fun t : State => { t with blocks := s.blocks } = s) rfl fun t ht x _ => ?_
  split
  · exact ht
  · exact ht

theorem unpost_block (bix : Nat) {ps : List (Nat × Nat × BitVec 4)} {x : Nat} (hx : x = bix ∨ ∀ q ∈ ps, q.1 ≠ x) :
    (s.unpost bix ps).block x = s.block x := by
  refine List.foldlRecOn _ _ (motive := fun t : State => t.block x = s.block x) rfl fun t ht q hq => ?_
  split
  · exact ht
  · rename_i hne
    have hxq : x ≠ q.1 := fun heq => hx.elim (fun hb => hne (heq ▸ hb)) fun hall => hall q hq heq.symm
    exact (State.updBlock_block_ne _ _ hxq).trans ht

theorem unstage_rest (staged : Option (Nat × Nat)) : { s.unstage staged with tx := s.tx } = s := by
  cases staged <;> rfl

/-! ### The state without the bundle -/

section
variable (c : Ctx) (v : BundleSave)

theorem unissued_rest : { s.unissued c v with
    blocks := s.blocks, cells := s.cells, regions := s.regions, tx := s.tx } = s := by
  let a := (s.setBlock c.bix v.block).cellsBack c.bix v.cells
  have hstage := congrArg (fun u : State => { u with blocks := s.blocks, cells := s.cells, regions := s.regions, tx := s.tx })
    (unstage_rest ((a.unask c).unpost c.bix v.posts) v.staged)
  have hpost := congrArg (fun u : State => { u with blocks := s.blocks, cells := s.cells, regions := s.regions, tx := s.tx })
    (unpost_rest (a.unask c) c.bix v.posts)
  have hcells := congrArg (fun u : State => { u with blocks := s.blocks, cells := s.cells, regions := s.regions, tx := s.tx })
    (cellsBack_rest (s.setBlock c.bix v.block) c.bix v.cells)
  exact hstage.trans (hpost.trans hcells)

theorem unissued_block {x : Nat} (hx : x = c.bix ∨ ∀ q ∈ v.posts, q.1 ≠ x) :
    (s.unissued c v).block x = (s.setBlock c.bix v.block).block x := by
  let a := (s.setBlock c.bix v.block).cellsBack c.bix v.cells
  have hstage : (s.unissued c v).blocks = ((a.unask c).unpost c.bix v.posts).blocks := by
    have hf := congrArg State.blocks (unstage_rest ((a.unask c).unpost c.bix v.posts) v.staged)
    exact hf
  have hcells : a.blocks = (s.setBlock c.bix v.block).blocks := by
    have hf := congrArg State.blocks (cellsBack_rest (s.setBlock c.bix v.block) c.bix v.cells)
    exact hf
  calc (s.unissued c v).block x
    _ = ((a.unask c).unpost c.bix v.posts).block x := block_of_blocks hstage x
    _ = a.block x := unpost_block (a.unask c) c.bix hx
    _ = (s.setBlock c.bix v.block).block x := block_of_blocks hcells x

theorem unissued_cell (x : Nat) :
    (s.unissued c v).cell x = if 4 * c.bix ≤ x then v.cells.getD (x - 4 * c.bix) (s.cell x) else s.cell x := by
  let a := (s.setBlock c.bix v.block).cellsBack c.bix v.cells
  have hstage : (s.unissued c v).cells = ((a.unask c).unpost c.bix v.posts).cells := by
    have hf := congrArg State.cells (unstage_rest ((a.unask c).unpost c.bix v.posts) v.staged)
    exact hf
  have hpost : ((a.unask c).unpost c.bix v.posts).cells = a.cells := by
    have hf := congrArg State.cells (unpost_rest (a.unask c) c.bix v.posts)
    exact hf
  exact (cell_of_cells (hstage.trans hpost) x).trans (cellsBack_cell (s.setBlock c.bix v.block) c.bix v.cells x)

theorem unissued_reqs (r : Nat) : ((s.unissued c v).region r).reqs =
    (s.region r).reqs.filter fun q => !(q.own && q.block == c.bix && q.issue == c.t) := by
  let a := (s.setBlock c.bix v.block).cellsBack c.bix v.cells
  have hstage : (s.unissued c v).regions = ((a.unask c).unpost c.bix v.posts).regions := by
    have hf := congrArg State.regions (unstage_rest ((a.unask c).unpost c.bix v.posts) v.staged)
    exact hf
  have hpost : ((a.unask c).unpost c.bix v.posts).regions = (a.unask c).regions := by
    have hf := congrArg State.regions (unpost_rest (a.unask c) c.bix v.posts)
    exact hf
  have hcells : a.regions = s.regions := by
    have hf := congrArg State.regions (cellsBack_rest (s.setBlock c.bix v.block) c.bix v.cells)
    exact hf
  have hask : ((s.unissued c v).region r).reqs = ((a.unask c).region r).reqs :=
    congrArg (fun rs => (fmGetD rs r {}).reqs) (hstage.trans hpost)
  rw [hask, unask_region, State.region, hcells]
  rfl

theorem unissued_tx (hstaged : v.staged = none) : (s.unissued c v).tx = s.tx := by
  let a := (s.setBlock c.bix v.block).cellsBack c.bix v.cells
  have hpost : ((a.unask c).unpost c.bix v.posts).tx = a.tx := by
    have hf := congrArg State.tx (unpost_rest (a.unask c) c.bix v.posts)
    exact hf
  have hcells : a.tx = s.tx := by
    have hf := congrArg State.tx (cellsBack_rest (s.setBlock c.bix v.block) c.bix v.cells)
    exact hf
  unfold State.unissued
  rw [hstaged]
  exact hpost.trans hcells

end

/-! ### What a dropped bundle leaves alone -/

theorem dropBundle_log (c : Ctx) : (dropBundle s c).log = s.log ∧ (dropBundle s c).mem = s.mem := by
  rcases dropBundle_cases s c with heq | ⟨v, hv, hc⟩
  · rw [heq]
    exact ⟨rfl, rfl⟩
  · rw [dropBundle_kept hv hc, State.updFrame_log, State.updFrame_mem]
    have hlog := congrArg State.log (unissued_rest s c v)
    have hmem := congrArg State.mem (unissued_rest s c v)
    exact ⟨hlog, hmem⟩

/-- The state of a partition and its fault stay. -/
theorem dropBundle_part (c : Ctx) (j : Nat) :
    (dropBundle s c).view (fun p => (p.state, p.frame.fatal)) j = s.view (fun p => (p.state, p.frame.fatal)) j := by
  rcases dropBundle_cases s c with heq | ⟨v, hv, hc⟩
  · rw [heq]
  · have hparts := congrArg State.parts (unissued_rest s c v)
    rw [dropBundle_kept hv hc]
    refine (updPart_view _ c.pid fun _ => ?_).trans (view_of_parts ?_)
    · rfl
    · exact hparts

end

/-! ### ILLEGAL_BUNDLE (05 R125, R151) -/

theorem Reports.mem_reqs {s t : State} (h : Reports s t) (r : Nat) {q : RsReq} (hq : q.kind ≠ .stream) :
    q ∈ (t.region r).reqs ↔ q ∈ (s.region r).reqs := by
  have hreqs := congrArg (fun g : Region => q ∈ g.reqs) (h.region r)
  simpa [Region.still, hq] using hreqs

/-- The entry of an event in a buffer that has room for it. -/
theorem logEv_entry {s : State} (hroom : s.log.used < 4096) (code part : Nat) (u : LogUnit) (d : Nat) :
    ∃ e, (s.logEv code part u d).log.buf = s.log.buf ++ [e] ∧ e.code = BitVec.ofNat 16 code ∧ e.index = s.log.next ∧
      e.detail = BitVec.ofNat 32 d := by
  have hno : ¬4096 < s.log.used + 1 + ([] : List Bytes).length := Nat.not_lt.2 hroom
  unfold State.logEv
  simp only [if_neg hno, noteEntry_log]
  exact ⟨_, rfl, rfl, rfl, rfl⟩

theorem raiseFatal_logs (s : State) (pid code : Nat) (u : LogUnit) (d t : Nat) :
    (s.raiseFatal pid code u d t).log = ((s.logEv code pid u d).countBlockErr code u).log := by
  unfold State.raiseFatal
  simp only
  split
  · rfl
  · split
    · exact State.updFrame_log ..
    · rfl

section
variable {s : State} {c : Ctx} {cause : Nat}

theorem illegal_reports : Reports (dropBundle s c) (illegal s c cause) := blockFatal_reports ..

theorem illegal_entry (hcause : cause < 256) (hslot : c.slot < 8) (haddr : c.addr < 8192) (hroom : s.log.used < 4096) :
    ∃ e, (illegal s c cause).log.buf = s.log.buf ++ [e] ∧ e.code = 0x1406 ∧ e.index = s.log.next ∧
      e.detail.toNat = cause + 256 * c.slot + 2048 * c.addr := by
  have hlog := (dropBundle_log s c).1
  obtain ⟨e, hbuf, hcode, hindex, hdetail⟩ := logEv_entry (s := dropBundle s c) (hlog ▸ hroom) 0x1406 c.pid
    ((dropBundle s c).blockUnit c.bix (match (dropBundle s c).part c.pid with | some p => p.logicalOf c.bix | none => 0xFFFF))
    (illegalDetail cause c.slot c.addr)
  rw [hlog] at hbuf hindex
  refine ⟨e, (congrArg Log.buf (raiseFatal_logs ..)).trans hbuf, hcode, hindex, ?_⟩
  rw [hdetail, BitVec.toNat_ofNat, illegalDetail]
  omega

theorem illegal_fatal : FatalMet s (illegal s c cause) c.pid 0x1406 := by
  intro p hp hst hnone
  have hview := dropBundle_part s c c.pid
  rw [view_of_part hp] at hview
  obtain ⟨q, hq, hsame⟩ := part_of_view hview
  exact raiseFatal_fatalMet (dropBundle s c) c.pid 0x1406 (by decide) _ _ _ q hq ((congrArg Prod.fst hsame).trans hst)
    ((congrArg Prod.snd hsame).trans hnone)

/-- The bundle is gone from its block, its cells, the region arbiters and the blocks it has posted to. -/
theorem illegal_drops {v : BundleSave} (hv : fmGet s.saves c.bix = some v) (hc : v.cycle = c.t) (hlen : v.cells.length = 4) :
    ((illegal s c cause).block c.bix).still = v.block.still ∧
    (∀ k < 4, v.cells[k]? = some ((illegal s c cause).cell (4 * c.bix + k))) ∧
    (∀ x, x / 4 ≠ c.bix → (illegal s c cause).cell x = s.cell x) ∧
    (∀ x, x ≠ c.bix → (∀ q ∈ v.posts, q.1 ≠ x) → ((illegal s c cause).block x).still = (s.block x).still) ∧
    (∀ r q, q.kind ≠ .stream → (q ∈ ((illegal s c cause).region r).reqs ↔ q ∈ (s.region r).reqs ∧
      ¬(q.own = true ∧ q.block = c.bix ∧ q.issue = c.t))) ∧
    (v.staged = none → (illegal s c cause).tx = s.tx) := by
  have hkept := dropBundle_kept hv hc
  have hrep := illegal_reports (s := s) (c := c) (cause := cause)
  have hblock (x : Nat) : (dropBundle s c).block x = (s.unissued c v).block x := by
    rw [hkept]
    exact block_of_blocks (State.updFrame_blocks ..) x
  have hcell (x : Nat) : (illegal s c cause).cell x = (s.unissued c v).cell x := by
    rw [hrep.cell, hkept]
    exact cell_of_cells (State.updFrame_cells ..) x
  refine ⟨?_, fun k hk => ?_, fun x hx => ?_, fun x hx hposts => ?_, fun r q hq => ?_, fun hstaged => ?_⟩
  · rw [hrep.block, hblock, unissued_block s c v (.inl rfl), State.setBlock_block_self]
  · rw [hcell, unissued_cell, if_pos (Nat.le_add_right ..), Nat.add_sub_cancel_left, List.getD_eq_getElem _ _ (hlen ▸ hk),
      List.getElem?_eq_getElem]
  · rw [hcell, unissued_cell]
    split
    · exact List.getD_eq_default _ _ (by omega)
    · rfl
  · rw [hrep.block, hblock, unissued_block s c v (.inr hposts), State.setBlock_block_ne _ _ hx]
  · rw [hrep.mem_reqs r hq, hkept, State.region, State.updFrame_regions]
    have hreqs := congrArg (q ∈ ·) (unissued_reqs s c v r)
    simpa [State.region, and_assoc, imp_iff_not_or, or_assoc] using hreqs
  · have htx := congrArg State.tx hrep.same
    have hdrop : (dropBundle s c).tx = s.tx := by
      rw [hkept, State.updFrame_tx, unissued_tx s c v hstaged]
    exact Eq.trans htx hdrop

end

/-! ### Reserved fields and fetches (05 R120, R124) -/

/-- The same bundle with a reserved field that is not zero, and with a fetch that fails. -/
theorem openIssue_variants {s s1 : State} {i : Issue} {slot : Nat} {c : Ctx} (hrsvd : i.rsvd = false) (hfetch : i.fetch = .good)
    (h : openIssue s i slot = (s1, some c)) :
    openIssue s { i with rsvd := true } slot = (illegal s1 c 0x01, none) ∧
      openIssue s { i with fetch := .uncorrectable } slot = (s1.blockFatal c.pid c.bix 0x1405 0 c.t, none) := by
  unfold openIssue at h ⊢
  simp only [hrsvd, hfetch] at h ⊢
  split at h
  · cases h
  · split at h
    · cases h
    · rename_i hcause
      split at h
      · cases h
      · rename_i hgo
        cases h
        simp only [if_neg hgo, if_true, and_self]

theorem runSlot_closed {s t : State} {i : Issue} {slot : Nat} {always : Bool} {bits : List (Nat × Bool)}
    {checks : State → Ctx → List (Nat × Bool)} {eff skip : State → Ctx → State} (h : openIssue s i slot = (t, none)) :
    runSlot s i slot always bits checks eff skip = t := by
  simp [runSlot, h]

/-- Settles O19: the kept bundle is put back piece by piece, and what follows only reports. -/
theorem illegalBundles : Obligations.IllegalBundles := by
  unfold Obligations.IllegalBundles
  refine ⟨fun s c cause hcause hslot haddr hroom => ⟨illegal_entry hcause hslot haddr hroom, illegal_fatal,
      illegal_reports.mem.trans (dropBundle_log s c).2, fun v hv hc hlen => illegal_drops hv hc hlen⟩,
    fun s s1 i slot c h => (openIssue_context h).2, fun s s1 i c hrsvd h hfetch f => ?_, fun s s1 i c hrsvd h hfetch f => ?_⟩
  · have hclosed := (openIssue_variants hrsvd hfetch h).1
    exact ⟨congrArg Host.Outcome.next (runSlot_closed hclosed), congrArg Host.Outcome.next (runSlot_closed hclosed)⟩
  · exact congrArg Host.Outcome.next (runSlot_closed (openIssue_variants hrsvd hfetch h).2)

end Sys2Proof.Machine

/-! # Streams that end (04 R114, 06 R166, 07 R190, R191, R202) -/

namespace Sys2Proof.Machine

open Claims (FatalMet Unmoved readsClean)

/-! ### What memory reads -/

theorem memReadGo_eq {l : List Host.Cell} {a : Nat} (n : Nat) (h : memWfFrom a l = true) :
    memReadGo l a n = (List.range n).map fun k => memGet l (a + k) := by
  induction n generalizing l a with
  | zero => cases l <;> rfl
  | succ n ih =>
    have hshift : (List.range (n + 1)).map (fun k => memGet l (a + k)) =
        memGet l a :: (List.range n).map fun k => memGet l (a + 1 + k) := by
      rw [List.range_succ_eq_map, List.map_cons, List.map_map]
      refine congrArg _ (List.map_congr_left fun k _ => ?_)
      exact congrArg (memGet l) (Nat.add_right_comm a k 1)
    rw [hshift]
    cases l with
    | nil => simp [memReadGo, memGet, List.replicate_succ]
    | cons p rest =>
      obtain ⟨j, v⟩ := p
      simp only [memWfFrom, Bool.and_eq_true, decide_eq_true_eq] at h
      obtain ⟨⟨hle, hv⟩, hrest⟩ := h
      unfold memReadGo
      split
      · rename_i hj
        subst hj
        rw [ih hrest]
        simp only [memGet, Nat.lt_irrefl, if_false, if_true]
        refine congrArg _ (List.map_congr_left fun k _ => ?_)
        rw [if_neg (by omega), if_neg (by omega)]
      · rename_i hj
        have hlt : a < j := by omega
        rw [ih (l := (j, v) :: rest) (by simpa [memWfFrom, hrest, Nat.succ_le_of_lt hlt] using hv)]
        simp [memGet, hlt]

theorem memRead_eq {m : List Host.Cell} (h : memWf m = true) (a n : Nat) :
    memRead m a n = (List.range n).map fun k => memGet m (a + k) := by
  refine (memReadGo_eq n (memWfFrom_dropWhile h)).trans (List.map_congr_left fun k _ => ?_)
  exact memGet_dropWhile h (Nat.le_add_right a k)

theorem length_memRead {m : List Host.Cell} (h : memWf m = true) (a n : Nat) : (memRead m a n).length = n := by
  simp [memRead_eq h]

/-! ### Lines of 256 bytes that are copied one after the other -/

/-- Memory after line k has been copied. -/
def copyLine (src dst : Nat) (m : List Host.Cell) (k : Nat) : List Host.Cell := memWrite m (dst + 256 * k) (memRead m (src + 256 * k) 256)

theorem copyLine_wf {m : List Host.Cell} (h : memWf m = true) (src dst k : Nat) : memWf (copyLine src dst m k) = true := memWrite_wf h ..

theorem copyLines_wf {m : List Host.Cell} (h : memWf m = true) (src dst : Nat) (l : List Nat) :
    memWf (l.foldl (copyLine src dst) m) = true :=
  List.foldlRecOn l _ (motive := fun m => memWf m = true) h fun _ ht k _ => copyLine_wf ht src dst k

theorem memGet_copyLine {m : List Host.Cell} (h : memWf m = true) (src dst k x : Nat) : memGet (copyLine src dst m k) x =
    if dst + 256 * k ≤ x ∧ x < dst + 256 * k + 256 then memGet m (src + (x - dst)) else memGet m x := by
  unfold copyLine
  rw [memGet_memWrite h, length_memRead h]
  split
  · rename_i hx
    rw [memRead_eq h, List.getD_eq_getElem _ _ (by simp; omega), List.getElem_map, List.getElem_range]
    exact congrArg (memGet m) (by omega)
  · rfl

/-- Lines copied out of a range apart from the one they reach arrive as they stood. -/
theorem memGet_copyLines {m : List Host.Cell} (h : memWf m = true) {src dst : Nat} (n : Nat)
    (hapart : src + 256 * n ≤ dst ∨ dst + 256 * n ≤ src) (x : Nat) : memGet ((List.range n).foldl (copyLine src dst) m) x =
      if dst ≤ x ∧ x < dst + 256 * n then memGet m (src + (x - dst)) else memGet m x := by
  induction n generalizing x with
  | zero => rw [if_neg (by omega)]; rfl
  | succ n ih =>
    rw [List.range_succ, List.foldl_append, List.foldl_cons, List.foldl_nil, memGet_copyLine (copyLines_wf h ..)]
    have hbefore := ih (by omega)
    split
    · rw [hbefore, if_neg (by omega), if_pos (by omega)]
    · rw [hbefore]
      grind

/-! ### The lines that a stream still has to move -/

section
variable {s : State} {pid a : Nat} {q : StreamReq}

theorem foldl_linesIn (l : List Nat) (hpiece : ∀ k ∈ l, streamLine s pid q k = [(a + 256 * k, 256)]) :
    l.foldl (fun (s : State) k => s.write (q.reg + 256 * k) ((streamLine s pid q k).flatMap fun r => s.readMem r.1 r.2)) s =
      { s with mem := l.foldl (copyLine a q.reg) s.mem } := by
  induction l generalizing s with
  | nil => rfl
  | cons k rest ih =>
    obtain ⟨hk, hrest⟩ := List.forall_mem_cons.1 hpiece
    rw [List.foldl_cons, hk, List.foldl_cons]
    simp only [List.flatMap_cons, List.flatMap_nil, List.append_nil]
    exact ih (s := s.write (q.reg + 256 * k) (s.readMem (a + 256 * k) 256)) hrest

theorem foldl_linesOut (hwf : memWf s.mem = true) (l : List Nat) (hpiece : ∀ k ∈ l, streamLine s pid q k = [(a + 256 * k, 256)]) :
    ∃ marks, l.foldl (fun (s : State) k => s.writePieces (streamLine s pid q k) (s.readMem (q.reg + 256 * k) 256)) s =
      { s with mem := l.foldl (copyLine q.reg a) s.mem, poison := marks } := by
  induction l generalizing s with
  | nil => exact ⟨_, rfl⟩
  | cons k rest ih =>
    obtain ⟨hk, hrest⟩ := List.forall_mem_cons.1 hpiece
    have htake : (s.readMem (q.reg + 256 * k) 256).take 256 = s.readMem (q.reg + 256 * k) 256 :=
      List.take_of_length_le (Nat.le_of_eq (length_memRead hwf ..))
    rw [List.foldl_cons, hk, List.foldl_cons]
    simp only [State.writePieces, htake]
    obtain ⟨marks, heq⟩ := ih (s := s.hbmWrite (a + 256 * k) (s.readMem (q.reg + 256 * k) 256)) (copyLine_wf hwf ..) hrest
    exact ⟨marks, heq⟩

end

/-! ### The lines that the arbiters have left (07 R197) -/

/-- `u` is `s` up to memory, its poison marks and the arbiters. -/
def OnlyMemory (s u : State) : Prop := { u with mem := s.mem, poison := s.poison, regions := s.regions } = s

namespace OnlyMemory

theorem trans {s t u : State} (h : OnlyMemory s t) (h' : OnlyMemory t u) : OnlyMemory s u :=
  Eq.trans (congrArg (fun x : State => { x with mem := s.mem, poison := s.poison, regions := s.regions }) h') (show _ = s from h)

theorem foldl {α : Type} {f : State → α → State} (l : List α) (s : State) (hf : ∀ t x, OnlyMemory t (f t x)) : OnlyMemory s (l.foldl f s) :=
  List.foldlRecOn l f (motive := OnlyMemory s) rfl fun t ht x _ => ht.trans (hf t x)

theorem writePieces (s : State) (ps : List (Nat × Nat)) (bs : Bytes) : OnlyMemory s (s.writePieces ps bs) := by
  induction ps generalizing s bs with
  | nil => rfl
  | cons r rest ih => exact trans (t := s.hbmWrite r.1 (bs.take r.2)) rfl (ih ..)

theorem flushStream (s : State) (pid bix : Nat) (q : StreamReq) (cyc : Nat) : OnlyMemory s (flushStream s pid bix q cyc) := by
  unfold Machine.flushStream
  extract_lets g mine held rest start s1 s2 s3 s4
  split
  · exact (foldl _ s fun _ _ => writePieces ..).trans (foldl _ _ fun _ _ => writePieces ..)
  · have h2 : OnlyMemory s s2 := foldl _ s fun _ _ => rfl
    have h3 : OnlyMemory s2 s3 := foldl _ s2 fun _ _ => rfl
    have h4 : OnlyMemory s3 s4 := foldl _ s3 fun _ _ => rfl
    exact ((h2.trans h3).trans h4).trans rfl

variable {s u : State} (h : OnlyMemory s u)
include h

theorem blocks : u.blocks = s.blocks := (congrArg State.blocks (show _ = s from h) :)

end OnlyMemory

section
variable {s : State} {pid bix a : Nat} {q : StreamReq} (h : Unmoved s pid bix a q)
include h

/-- The requests of a stream of which nothing has moved hold no data. -/
theorem unmoved_held {x : RsReq}
    (hx : (s.region (bix / 6)).reqs.find? (fun x => decide (x.kind = .stream) && x.block == bix && x.issue == q.issue) = some x) :
    x.data = [] := by
  have hmine := List.find?_some hx
  simp only [Bool.and_eq_true, decide_eq_true_eq, beq_iff_eq] at hmine
  obtain ⟨⟨hkind, hblock⟩, hissue⟩ := hmine
  exact h.waits x (List.mem_of_find?_eq_some hx) hkind hblock hissue

theorem unmoved_lines_eq : 256 * (q.len / 256) = q.len := Nat.mul_div_cancel' (Nat.dvd_of_mod_eq_zero h.lines.2.2)

theorem unmoved_distinct : a + 256 * (q.len / 256) ≤ q.reg ∨ q.reg + 256 * (q.len / 256) ≤ a := by
  have hapart := h.apart
  simp only [overlaps, Bool.and_eq_false_imp, decide_eq_true_eq, decide_eq_false_iff_not] at hapart
  rw [unmoved_lines_eq h]
  omega

theorem unmoved_pieces : ∀ k ∈ List.range (q.len / 256), streamLine s pid q k = [(a + 256 * k, 256)] :=
  fun k hk => h.piece k (List.mem_range.1 hk)

/-- The line that a stream copies out of or into the block's cells. -/
theorem flushStream_mem (hwf : memWf s.mem = true) (cyc : Nat) : (flushStream s pid bix q cyc).mem =
    (List.range (q.len / 256)).foldl (if q.out_ then copyLine q.reg a else copyLine a q.reg) s.mem := by
  have hentering : ((s.region (bix / 6)).entering.filter fun e => e.block == bix && e.issue == q.issue) = [] :=
    List.filter_eq_nil_iff.2 fun e he => by simpa using h.entering e he
  unfold flushStream
  extract_lets g mine held rest start s1 s2 s3 s4
  have hheld : held = [] := by
    cases hmine : mine with
    | none => simp only [held, hmine]
    | some x => simp only [held, hmine, unmoved_held h hmine, List.map_nil]
  have hrest : rest = List.range (q.len / 256) := by simp only [rest, h.lines.1, List.drop_zero]
  split
  · obtain ⟨marks, heq⟩ := foldl_linesOut hwf (List.range (q.len / 256)) (unmoved_pieces h)
    simp only [s1, hrest, hheld, List.zipIdx_nil, List.foldl_nil, List.length_nil, List.drop_zero, heq]
  · have hs3 : s3 = s := by simp only [s3, s2, g, hentering, hheld, List.zipIdx_nil, List.foldl_nil]
    have hs4 : s4 = { s with mem := (List.range (q.len / 256)).foldl (copyLine a q.reg) s.mem } := by
      simp only [s4, hs3, hrest, foldl_linesIn _ (unmoved_pieces h)]
    exact congrArg State.mem hs4

end

/-! ### What a completion leaves of its block (05 R135, 06 R166) -/

theorem streamEnds_leaves (s : State) (pid bix : Nat) (q : StreamReq) (cyc : Nat) :
    (streamEnds s pid bix q cyc).mem = s.mem ∧ ((streamEnds s pid bix q cyc).block bix).streams = (s.block bix).streams.erase q ∧
      ((streamEnds s pid bix q cyc).block bix).flags = ((s.block bix).setFlag q.setFlag q.flag).flags := by
  have hdrop : (s.dropStream bix q).block bix = { s.block bix with streams := (s.block bix).streams.erase q } :=
    s.updBlock_block_self bix fun b => { b with streams := b.streams.erase q }
  unfold streamEnds State.noteSlack
  extract_lets least
  refine ⟨State.updFrame_mem .., ?_, ?_⟩
  · rw [block_of_blocks (State.updFrame_blocks ..), State.updBlock_block_self, State.updBlock_block_self, hdrop]
    unfold Block.setFlag
    split <;> rfl
  · rw [block_of_blocks (State.updFrame_blocks ..), State.updBlock_block_self, State.updBlock_block_self, hdrop]
    unfold Block.setFlag
    split <;> rfl

/-! ### What a corrected line leaves in the books (07 R190, R199) -/

/-- From `s` to `t` only what counts and reports changed, the stacks' traffic and the next free value. -/
def Accounted (s t : State) : Prop :=
  { t with log := s.log, eps := s.eps, sessions := s.sessions, out := s.out, power := s.power, free := s.free } = s

namespace Accounted
variable {s t u : State}

theorem trans (h : Accounted s t) (k : Accounted t u) : Accounted s u := by
  unfold Accounted at h k ⊢
  rw [← k] at h
  exact h

theorem of_noted (h : Noted s t) : Accounted s t := by
  have hf := congrArg (fun x : State => { x with power := s.power, free := s.free }) h
  exact hf

theorem blocks (h : Accounted s t) : t.blocks = s.blocks := by
  have hf := congrArg State.blocks h
  exact hf
theorem regions (h : Accounted s t) : t.regions = s.regions := by
  have hf := congrArg State.regions h
  exact hf
theorem parts (h : Accounted s t) : t.parts = s.parts := by
  have hf := congrArg State.parts h
  exact hf
theorem mem (h : Accounted s t) : t.mem = s.mem := by
  have hf := congrArg State.mem h
  exact hf
theorem model (h : Accounted s t) : t.model = s.model := by
  have hf := congrArg State.model h
  exact hf

theorem streamHit (s : State) (pid : Nat) (q : StreamReq) : Accounted s (streamHit s pid q).2 := by
  unfold Machine.streamHit
  extract_lets line d
  split <;> rfl

theorem logOnce {code : Nat} (hc : code < 4096) (s : State) (part key : Nat) (u : LogUnit) (d : Nat) : Accounted s (s.logOnce code part key u d) :=
  of_noted (logOnce_noted s hc part key u d)

theorem logHourly {code : Nat} (hc : code < 4096) (s : State) (part key : Nat) (u : LogUnit) (d : Nat) :
    Accounted s (s.logHourly code part key u d) := by
  have hlog (l : Log) := (logEv_noted s hc part u d []).trans (log_noted _ l)
  unfold State.logHourly
  extract_lets k t0 t
  split
  · split
    · exact of_noted (log_noted ..)
    · exact of_noted (hlog _)
  · exact of_noted (hlog _)

theorem partFile (s : State) (pid : Nat) (p : Partition) (r : PartReq) : Accounted s (s.partFile pid p r) := by
  have htake (n : Nat) : Accounted s (s.takeLines p r.stack n) := by
    unfold State.takeLines
    extract_lets old c
    split <;> rfl
  unfold State.partFile
  extract_lets ahead g s1
  split
  · exact htake g
  · exact (htake g).trans (trans (t := { s1 with power := { s1.power with waiting := s1.power.waiting ++ [{ r with lines := r.lines - g }] } }) rfl
      (logOnce (by decide) ..))

theorem partTraffic (s : State) (pid : Nat) (rank : PartRank) (d : Option Nat) (a n : Nat) : Accounted s (s.partTraffic pid rank d a n) := by
  unfold State.partTraffic
  split
  · rfl
  · split
    · rfl
    · exact List.foldlRecOn _ _ (motive := Accounted s) rfl fun t ht _ _ => ht.trans (partFile ..)

theorem hbmCorrected (s : State) (pid a : Nat) : Accounted s (s.hbmCorrected pid a) := by
  refine (partTraffic s pid .patrol none a 64).trans ?_
  unfold State.hbmCorrected
  extract_lets u s1
  split
  · split
    · exact logOnce (by decide) ..
    · exact logHourly (by decide) ..
  · exact logHourly (by decide) ..

end Accounted

/-! ### Streams whose lines stand (06 R166, 07 R190) -/

section
variable {s u : State} {pid bix : Nat} {q : StreamReq} (h : Accounted s u)
include h

theorem streamLine_accounted (k : Nat) : streamLine u pid q k = streamLine s pid q k := by
  unfold streamLine
  rw [h.model, State.part, h.parts]
  rfl

theorem region_accounted (r : Nat) : u.region r = s.region r := by
  rw [State.region, h.regions]
  rfl

theorem unmoved_accounted {a : Nat} (hs : Unmoved s pid bix a q) : Unmoved u pid bix a q where
  lines := hs.lines
  waits := by rw [region_accounted h]; exact hs.waits
  entering := by rw [region_accounted h]; exact hs.entering
  piece k hk := (streamLine_accounted h k).trans (hs.piece k hk)
  apart := hs.apart

theorem readsClean_accounted {cyc : Nat} (hs : readsClean s bix cyc q) : readsClean u bix cyc q := by
  unfold readsClean
  rw [region_accounted h]
  exact hs

end

theorem regionReadCheck_clean {s : State} {bix cyc : Nat} {q : StreamReq} (pid : Nat) (hclean : readsClean s bix cyc q) (hout : q.out_ = true) :
    regionReadCheck s pid bix q.reg q.len cyc = (s, true) := by
  obtain ⟨hcrossing, hlate⟩ := hclean hout
  unfold regionReadCheck
  simp only [hcrossing, hlate, Bool.false_eq_true, if_false]

section
variable {s : State} (pid : Nat) {bix cyc : Nat} {q : StreamReq}

theorem not_poisoned (hstands : q.out_ = false → ∀ r ∈ streamPieces s pid q, s.poisoned r.1 r.2 = false) :
    (!q.out_ && (streamPieces s pid q).any fun r => s.poisoned r.1 r.2) = false := by
  cases hout : q.out_
  · simpa [hout] using hstands hout
  · rfl

/-- What follows once the lines of a stream stand. -/
theorem regionRead_of_clean (hclean : readsClean s bix cyc q) :
    (if q.out_ then regionReadCheck s pid bix q.reg q.len cyc else (s, true)) = (s, true) := by
  split
  · exact regionReadCheck_clean pid hclean ‹_›
  · rfl

theorem finishStream_good (hstands : q.out_ = false → ∀ r ∈ streamPieces s pid q, s.poisoned r.1 r.2 = false)
    (hclean : readsClean s bix cyc q) : finishStream s pid bix q .good cyc = streamEnds (flushStream s pid bix q cyc) pid bix q cyc := by
  unfold finishStream
  cases s.part pid <;>
    simp only [State.resolve, ite_self, not_poisoned pid hstands, Bool.false_eq_true, if_false, reduceCtorEq,
      regionRead_of_clean pid hclean, if_true]

/-- A corrected line is only counted. -/
theorem finishStream_corrected (hstands : q.out_ = false → ∀ r ∈ streamPieces s pid q, s.poisoned r.1 r.2 = false)
    (hclean : readsClean s bix cyc q) : ∃ u, Accounted s u ∧
      finishStream s pid bix q .corrected cyc = streamEnds (flushStream u pid bix q cyc) pid bix q cyc := by
  have hcount : ∃ u, Accounted s u ∧ (if q.out_ then s.regionEcc pid (bix / 6) (lregion s pid bix) .corrected cyc
      else (streamHit s pid q).2.hbmCorrected pid (streamHit s pid q).1) = u := by
    refine ⟨_, ?_, rfl⟩
    split
    · exact .logOnce (by decide) ..
    · exact (Accounted.streamHit ..).trans (.hbmCorrected ..)
  obtain ⟨u, hu, heq⟩ := hcount
  refine ⟨u, hu, ?_⟩
  unfold finishStream
  cases s.part pid <;>
    simp only [State.resolve, ite_self, not_poisoned pid hstands, Bool.false_eq_true, if_false, heq,
      regionRead_of_clean pid (readsClean_accounted hu hclean), if_true]

end

/-! ### Streams whose lines do not stand (07 R191, R202) -/

theorem dropStream_leaves (s : State) (bix : Nat) (q : StreamReq) :
    (s.dropStream bix q).mem = s.mem ∧ (s.dropStream bix q).parts = s.parts ∧ ∀ x, ((s.dropStream bix q).block x).flags = (s.block x).flags := by
  have hblock (x : Nat) : (s.dropStream bix q).block x = (s.updBlock bix fun b => { b with streams := b.streams.erase q }).block x := rfl
  refine ⟨rfl, rfl, fun x => ?_⟩
  rw [hblock]
  by_cases hx : x = bix
  · rw [hx, State.updBlock_block_self]
  · rw [State.updBlock_block_ne _ _ hx]

/-- The line at fault is drawn, and the stream is no longer held. -/
theorem failedStream_leaves (s : State) (pid bix : Nat) (q : StreamReq) :
    ((streamHit s pid q).2.dropStream bix q).mem = s.mem ∧
      (∀ j, ((streamHit s pid q).2.dropStream bix q).part j = s.part j) ∧
      ∀ x, (((streamHit s pid q).2.dropStream bix q).block x).flags = (s.block x).flags := by
  obtain ⟨hmem, hparts, hflags⟩ := dropStream_leaves (streamHit s pid q).2 bix q
  have hhit := Accounted.streamHit s pid q
  refine ⟨hmem.trans hhit.mem, fun j => ?_, fun x => ?_⟩
  · exact congrArg (fmGet · j) (hparts.trans hhit.parts)
  · rw [hflags, block_of_blocks hhit.blocks]

theorem raiseFatal_leaves (s : State) (pid code : Nat) (u : LogUnit) (d t : Nat) :
    (s.raiseFatal pid code u d t).mem = s.mem ∧ ∀ x, ((s.raiseFatal pid code u d t).block x).flags = (s.block x).flags :=
  have h := raiseFatal_reports s pid code u d t
  ⟨h.mem, fun x => (congrArg Block.flags (h.block x) :)⟩

theorem finishStream_uncorrectable {s : State} {pid bix : Nat} {q : StreamReq} (hout : q.out_ = false) (cyc : Nat) :
    finishStream s pid bix q .uncorrectable cyc = ((streamHit s pid q).2.dropStream bix q).raiseFatal pid 0x1302
      (channelUnit s.model (streamHit s pid q).1) 0 cyc := by
  unfold finishStream
  cases s.part pid <;> simp only [State.resolve, hout, ite_self, Bool.false_eq_true, if_false]

theorem resolve_badTag {s : State} {p : Partition} (hdark : p.dark = true) {fin : StreamEnd}
    (hfin : fin = .badTag ∨ ∃ x l t, fin = .altered x l t ∧ t ≠ s.lineTag p x l) : s.resolve p fin = (s, .badTag) := by
  obtain rfl | ⟨x, l, t, rfl, htag⟩ := hfin
  · rfl
  · simp only [State.resolve, hdark, htag, if_true, if_false]

theorem finishStream_badTag {s : State} {pid : Nat} {p : Partition} (hp : s.part pid = some p) (hdark : p.dark = true) (bix : Nat)
    {q : StreamReq} (hout : q.out_ = false) (hstands : ∀ r ∈ streamPieces s pid q, s.poisoned r.1 r.2 = false)
    {fin : StreamEnd} (hresolve : s.resolve p fin = (s, .badTag)) (cyc : Nat) :
    finishStream s pid bix q fin cyc =
      ((streamHit s pid q).2.dropStream bix q).memoryIntegrity pid (channelUnit s.model (streamHit s pid q).1) := by
  unfold finishStream
  have hclean : ((streamPieces s pid q).any fun r => s.poisoned r.1 r.2) = false := by simpa using hstands
  simp only [hp, hout, hresolve, hclean, hdark, Bool.false_eq_true, Bool.not_false, Bool.and_self, Bool.and_false, if_false, if_true]

theorem destroyKeys_blocks (s : State) (pid : Nat) : (s.destroyKeys pid).blocks = s.blocks := State.updPart_blocks ..

theorem stopUnits_flags (s : State) (pid x : Nat) : ((s.stopUnits pid).block x).flags = (s.block x).flags := by
  cases hp : s.part pid with
  | none => simp only [State.stopUnits, hp]
  | some p =>
    simp only [State.block, fmGetD, stopUnits_get hp]
    cases fmGet s.blocks x with
    | none => rfl
    | some b =>
      simp only [Option.map_some, Option.getD_some]
      split <;> rfl

theorem faultPart_flags (s : State) (pid mark x : Nat) : ((s.faultPart pid mark).block x).flags = (s.block x).flags := by
  unfold State.faultPart
  split
  · rfl
  · refine (congrArg Block.flags (block_of_blocks ?_ x)).trans ((stopUnits_flags ((s.abortWaiting pid mark stAborted).destroyKeys pid) pid x).trans
      (congrArg Block.flags (block_of_blocks ?_ x)))
    · rw [(setCause_noted ..).blocks, recordPart_blocks, State.updPart_blocks]
    · rw [destroyKeys_blocks, (abortWaiting_rest ..).2]

theorem partitionFatal_leaves (s : State) (pid code : Nat) (u : LogUnit) (d : Nat) :
    (s.partitionFatal pid code u d []).mem = s.mem ∧ ∀ x, ((s.partitionFatal pid code u d []).block x).flags = (s.block x).flags := by
  have hspares : Spares pid True s (s.partitionFatal pid code u d []) := (logEv_spares ..).trans (faultPart_spares ..)
  refine ⟨hspares.mem trivial, fun x => ?_⟩
  exact (faultPart_flags ..).trans (congrArg Block.flags (block_of_blocks (logEv_blocks ..) x))

theorem memoryIntegrity_leaves (s : State) (pid : Nat) (u : LogUnit) :
    (s.memoryIntegrity pid u).mem = s.mem ∧ ∀ x, ((s.memoryIntegrity pid u).block x).flags = (s.block x).flags :=
  partitionFatal_leaves (s.draw 32 7).2 pid 0x2306 u (s.draw 32 7).1

theorem memoryIntegrity_faulted {s : State} {pid : Nat} {p : Partition} (hp : s.part pid = some p) (u : LogUnit) :
    Claims.FaultedAt (s.memoryIntegrity pid u) pid :=
  (partitionFatal_faulting 0x2306 u (s.draw 32 7).1).hits (s.draw 32 7).2 pid p hp

theorem finishStream_uncorrectable_leaves {s : State} {pid bix : Nat} {q : StreamReq} (hout : q.out_ = false) (cyc : Nat) :
    (finishStream s pid bix q .uncorrectable cyc).mem = s.mem ∧
      ((finishStream s pid bix q .uncorrectable cyc).block bix).flags = (s.block bix).flags ∧
      FatalMet s (finishStream s pid bix q .uncorrectable cyc) pid 0x1302 := by
  rw [finishStream_uncorrectable hout]
  obtain ⟨hmem, hparts, hflags⟩ := failedStream_leaves s pid bix q
  generalize (streamHit s pid q).2.dropStream bix q = t at hmem hparts hflags ⊢
  obtain ⟨hmem', hflags'⟩ := raiseFatal_leaves t pid 0x1302 (channelUnit s.model (streamHit s pid q).1) 0 cyc
  refine ⟨hmem'.trans hmem, (hflags' bix).trans (hflags bix), fun p hp => ?_⟩
  exact raiseFatal_fatalMet t pid 0x1302 (by decide) _ 0 cyc p ((hparts pid).trans hp)

theorem finishStream_badTag_leaves {s : State} {pid : Nat} {p : Partition} (hp : s.part pid = some p) (hdark : p.dark = true) (bix : Nat)
    {q : StreamReq} (hout : q.out_ = false) (hstands : ∀ r ∈ streamPieces s pid q, s.poisoned r.1 r.2 = false)
    {fin : StreamEnd} (hresolve : s.resolve p fin = (s, .badTag)) (cyc : Nat) :
    (finishStream s pid bix q fin cyc).mem = s.mem ∧ ((finishStream s pid bix q fin cyc).block bix).flags = (s.block bix).flags ∧
      ∃ p2, (finishStream s pid bix q fin cyc).part pid = some p2 ∧ p2.state = .faulted := by
  rw [finishStream_badTag hp hdark bix hout hstands hresolve]
  obtain ⟨hmem, hparts, hflags⟩ := failedStream_leaves s pid bix q
  generalize (streamHit s pid q).2.dropStream bix q = t at hmem hparts hflags ⊢
  obtain ⟨hmem', hflags'⟩ := memoryIntegrity_leaves t pid (channelUnit s.model (streamHit s pid q).1)
  obtain ⟨p2, hp2, hstate, _⟩ := memoryIntegrity_faulted ((hparts pid).trans hp) (channelUnit s.model (streamHit s pid q).1)
  exact ⟨hmem'.trans hmem, (hflags' bix).trans (hflags bix), p2, hp2, hstate⟩

/-! ### StreamsComplete -/

theorem exec_streamComplete {s : State} {pid lg bix : Nat} (hrun : runningBlock s pid lg = some bix) {pf : BitVec 2} {cycle : Nat} {q : StreamReq}
    (hfind : ((passTo s pid lg cycle).block bix).streams.find? (fun r => r.pf == pf) = some q) (fin : StreamEnd) :
    exec (.streamComplete pid lg pf fin cycle) s = .next (finishStream (passTo s pid lg cycle) pid bix q fin cycle) := by
  rw [show exec (.streamComplete pid lg pf fin cycle) s = execStreamComplete pid lg pf fin cycle s from rfl]
  unfold execStreamComplete
  simp only [hrun, hfind]

section
variable {s : State} {pid bix cyc : Nat} {q : StreamReq}

theorem finishStream_of_stands {fin : StreamEnd} (hfin : fin = .good ∨ fin = .corrected)
    (hstands : q.out_ = false → ∀ r ∈ streamPieces s pid q, s.poisoned r.1 r.2 = false) (hclean : readsClean s bix cyc q) :
    ∃ u, Accounted s u ∧ finishStream s pid bix q fin cyc = streamEnds (flushStream u pid bix q cyc) pid bix q cyc := by
  obtain rfl | rfl := hfin
  · exact ⟨s, rfl, finishStream_good pid hstands hclean⟩
  · exact finishStream_corrected pid hstands hclean

/-- What stands in memory once all the lines have moved at the end. -/
theorem memGet_flushStream {a : Nat} (hwf : memWf s.mem = true) (h : Unmoved s pid bix a q) (x : Nat) :
    (q.out_ = false → memGet (flushStream s pid bix q cyc).mem x =
      if q.reg ≤ x ∧ x < q.reg + q.len then memGet s.mem (a + (x - q.reg)) else memGet s.mem x) ∧
    (q.out_ = true → memGet (flushStream s pid bix q cyc).mem x =
      if a ≤ x ∧ x < a + q.len then memGet s.mem (q.reg + (x - a)) else memGet s.mem x) := by
  have hapart := unmoved_distinct h
  refine ⟨fun hout => ?_, fun hout => ?_⟩
  · rw [flushStream_mem h hwf, hout, if_neg Bool.false_ne_true, memGet_copyLines hwf _ hapart, unmoved_lines_eq h]
  · rw [flushStream_mem h hwf, hout, if_pos rfl, memGet_copyLines hwf _ hapart.symm, unmoved_lines_eq h]

theorem setFlag_flags (b : Block) (set : Bool) (k : BitVec 4) :
    (set = true → (b.setFlag set k).flags = b.flags ||| (1#16 <<< k.toNat)) ∧ (set = false → (b.setFlag set k).flags = b.flags) := by
  refine ⟨fun h => ?_, fun h => ?_⟩ <;> subst h <;> rfl

end

/-- Settles O29: the lines that no arbiter has moved are copied one by one at the end, and an end with an error moves none. -/
theorem streamsComplete : Obligations.StreamsComplete := by
  intro s pid lg cycle bix pf q hrun s1 hwf hfind
  refine ⟨fun fin hfin hstands hclean => ?_, fun hout => ?_, fun hout hstands p hp hdark fin hfin => ?_⟩
  · obtain ⟨u, hu, heq⟩ := finishStream_of_stands hfin hstands hclean
    obtain ⟨hmem, hstreams, hflags⟩ := streamEnds_leaves (flushStream u pid bix q cycle) pid bix q cycle
    have hblock : (flushStream u pid bix q cycle).block bix = s1.block bix :=
      block_of_blocks ((OnlyMemory.flushStream u pid bix q cycle).blocks.trans hu.blocks) bix
    rw [hblock] at hstreams hflags
    obtain ⟨hset, hclear⟩ := setFlag_flags (s1.block bix) q.setFlag q.flag
    refine ⟨_, (exec_streamComplete hrun hfind fin).trans (congrArg Host.Outcome.next heq), hstreams, fun h => hflags.trans (hset h),
      fun h => hflags.trans (hclear h), fun a ha => ?_⟩
    have hcopied := fun x => memGet_flushStream (cyc := cycle) (hu.mem ▸ hwf) (unmoved_accounted hu ha) x
    rw [hu.mem] at hcopied
    rw [hmem]
    exact ⟨fun h x => (hcopied x).1 h, fun h x => (hcopied x).2 h⟩
  · obtain ⟨hmem, hflags, hmet⟩ := finishStream_uncorrectable_leaves (s := s1) (pid := pid) (bix := bix) hout cycle
    exact ⟨_, exec_streamComplete hrun hfind _, hmem, hflags, hmet⟩
  · obtain ⟨hmem, hflags, p2, hp2, hstate⟩ :=
      finishStream_badTag_leaves hp hdark bix hout hstands (resolve_badTag hdark hfin) cycle
    exact ⟨_, p2, exec_streamComplete hrun hfind fin, hmem, hflags, hp2, hstate⟩

end Sys2Proof.Machine

/-! # Port F and the banks of a region store (04 R101, R104, R113) -/

namespace Sys2Proof.Machine

/-! ### The request that port F serves (04 R102, R104) -/

theorem le_of_pfBefore {x y : PfReq} (h : pfBefore x y = true) : x.d ≤ y.d := by
  simp only [pfBefore, Bool.or_eq_true, Bool.and_eq_true, decide_eq_true_eq, beq_iff_eq] at h
  obtain hlt | ⟨heq, -⟩ := h
  · exact Nat.le_of_lt hlt
  · exact Nat.le_of_eq heq

theorem le_of_not_pfBefore {x y : PfReq} (h : pfBefore x y = false) : y.d ≤ x.d := by
  simp only [pfBefore, Bool.or_eq_false_iff, decide_eq_false_iff_not, Nat.not_lt] at h
  exact h.1

theorem pfBest_eq_none {l : List PfReq} (h : pfBest l = none) : l = [] := by
  cases l with
  | nil => rfl
  | cons x rest =>
    unfold pfBest at h
    split at h
    · cases h
    · split at h <;> cases h

/-- The request that comes first is one of those given, and none of them has a nearer D. -/
theorem pfBest_spec {l : List PfReq} {r : PfReq} (h : pfBest l = some r) : r ∈ l ∧ ∀ q ∈ l, r.d ≤ q.d := by
  induction l generalizing r with
  | nil => cases h
  | cons x rest ih =>
    rw [List.forall_mem_cons]
    unfold pfBest at h
    split at h
    · rename_i hnone
      cases h
      rw [pfBest_eq_none hnone]
      exact ⟨List.mem_cons_self, Nat.le_refl _, fun q hq => absurd hq List.not_mem_nil⟩
    · rename_i y hy
      obtain ⟨hmem, hleast⟩ := ih hy
      split at h
      · rename_i hbefore
        cases h
        exact ⟨List.mem_cons_self, Nat.le_refl _, fun q hq => Nat.le_trans (le_of_pfBefore hbefore) (hleast q hq)⟩
      · rename_i hbefore
        cases h
        exact ⟨List.mem_cons_of_mem _ hmem, le_of_not_pfBefore (Bool.eq_false_of_not_eq_true hbefore), hleast⟩

theorem PfReq.live_of_unitReady {r : PfReq} {cyc : Nat} (h : r.unitReady cyc = true) : r.live cyc = true :=
  (Bool.and_eq_true _ _ ▸ h : _ ∧ _).1

section
variable (b : Block) (free : PfReq → Bool) (ci : BitVec 2) (cyc : Nat)

theorem pfServe_due (h : dueAt b ci cyc = true) : (pfServe b free ci cyc).2 = none := by
  unfold pfServe
  simp only [h, if_true]

/-- What port F serves is the first request of all where that one can be served, else the first that can. -/
theorem pfServe_pick {r : PfReq} (h : (pfServe b free ci cyc).2 = some r) :
    ∃ o w, pfBest (b.pf.filter fun r => r.cell == ci && r.live cyc) = some o ∧
      pfBest ((b.pf.filter fun r => r.cell == ci && r.live cyc).filter fun r => r.unitReady cyc && free r) = some w ∧
      r = if o.unitReady cyc && free o then o else w := by
  unfold pfServe at h
  extract_lets live at h
  split at h
  · cases h
  · split at h
    · cases h
    · rename_i o ho
      extract_lets rs1 rs2 b2 at h
      split at h
      · cases h
      · rename_i w hw
        exact ⟨o, w, ho, hw, (Option.some.inj h).symm⟩

theorem pfServe_nearest {r : PfReq} (h : (pfServe b free ci cyc).2 = some r) :
    r ∈ b.pf ∧ r.cell = ci ∧ r.unitReady cyc = true ∧ free r = true ∧
      ∀ q ∈ b.pf, q.cell = ci → q.unitReady cyc = true → free q = true → r.d ≤ q.d := by
  obtain ⟨o, w, ho, hw, rfl⟩ := pfServe_pick b free ci cyc h
  obtain ⟨homem, holeast⟩ := pfBest_spec ho
  obtain ⟨hwmem, hwleast⟩ := pfBest_spec hw
  have hlive {q : PfReq} (hq : q ∈ b.pf) (hcell : q.cell = ci) (hunit : q.unitReady cyc = true) :
      q ∈ b.pf.filter fun r => r.cell == ci && r.live cyc :=
    List.mem_filter.2 ⟨hq, by simp [hcell, PfReq.live_of_unitReady hunit]⟩
  split
  · rename_i hready
    obtain ⟨hin, hmine⟩ := List.mem_filter.1 homem
    simp only [Bool.and_eq_true, beq_iff_eq] at hready hmine
    exact ⟨hin, hmine.1, hready.1, hready.2, fun q hq hcell hunit _ => holeast q (hlive hq hcell hunit)⟩
  · obtain ⟨hlive', hready⟩ := List.mem_filter.1 hwmem
    obtain ⟨hin, hmine⟩ := List.mem_filter.1 hlive'
    simp only [Bool.and_eq_true, beq_iff_eq] at hready hmine
    refine ⟨hin, hmine.1, hready.1, hready.2, fun q hq hcell hunit hfree => ?_⟩
    exact hwleast q (List.mem_filter.2 ⟨hlive hq hcell hunit, by simp [hunit, hfree]⟩)

end

/-! ### A wake of the arbiter (04 R103) -/

theorem arbiterWake_owner {s : State} {pid lg bix : Nat} (hrun : runningBlock s pid lg = some bix) {r : PfReq} {cycle : Nat}
    (hpf : ((passTo s pid lg cycle).block bix).pf = [r]) (hdone : r.done = 0) (htotal : 0 < r.total) (hready : r.ready < cycle) :
    exec (.arbiterWake pid lg r.cell cycle) s = .next ((passTo s pid lg cycle).setBlock bix
      { (passTo s pid lg cycle).block bix with pf := [{ r with ready := cycle + 1 }] }) := by
  have hlive : r.live cycle = true := by simp [PfReq.live, hdone, htotal, hready]
  have hlater : Nat.max r.ready (cycle + 1) = cycle + 1 := Nat.max_eq_right (by omega)
  rw [show exec (.arbiterWake pid lg r.cell cycle) s = execArbiterWake pid lg r.cell cycle s from rfl]
  unfold execArbiterWake
  simp only [hrun, hpf, List.filter_cons, beq_self_eq_true, hlive, Bool.and_self, if_true, List.filter_nil, pfBest, List.map_cons,
    List.map_nil, hdone, decide_true, hlater]

/-! ### The requests of a region store that a cycle serves (04 R113) -/

/-- What a round grants beside the banks already taken: it stays within the budget, keeps the order, and serves no bank twice. -/
theorem rsGrants_spec (order : List RsReq) (taken : List Nat) (left : Nat) :
    (rsGrants order taken left).length ≤ left ∧ (rsGrants order taken left).Sublist order ∧
      (∀ x ∈ rsGrants order taken left, regionBank x.nextAddr ∉ taken) ∧
      (rsGrants order taken left).Pairwise fun x y => regionBank x.nextAddr ≠ regionBank y.nextAddr := by
  induction order generalizing taken left with
  | nil => exact ⟨Nat.zero_le _, .slnil, fun x hx => absurd hx List.not_mem_nil, .nil⟩
  | cons q rest ih =>
    unfold rsGrants
    split
    · exact ⟨Nat.zero_le _, List.nil_sublist _, fun x hx => absurd hx List.not_mem_nil, .nil⟩
    · rename_i hleft
      split
      · obtain ⟨hlen, hsub, hfree, hpair⟩ := ih taken left
        exact ⟨hlen, hsub.cons q, hfree, hpair⟩
      · rename_i htaken
        obtain ⟨hlen, hsub, hfree, hpair⟩ := ih (regionBank q.nextAddr :: taken) (left - 1)
        simp only [List.mem_cons, not_or] at hfree
        refine ⟨?_, hsub.cons_cons q, List.forall_mem_cons.2 ⟨by simpa using htaken, fun x hx => (hfree x hx).2⟩,
          List.pairwise_cons.2 ⟨fun x hx => Ne.symm (hfree x hx).1, hpair⟩⟩
        rw [List.length_cons]
        omega

/-- A request is passed over only where its bank is taken or the budget is spent. -/
theorem rsGrants_passed (order : List RsReq) (taken : List Nat) (left : Nat) : ∀ q ∈ order, q ∈ rsGrants order taken left ∨
    (rsGrants order taken left).length = left ∨ regionBank q.nextAddr ∈ taken ∨
      ∃ x ∈ rsGrants order taken left, regionBank x.nextAddr = regionBank q.nextAddr := by
  induction order generalizing taken left with
  | nil => exact fun q hq => absurd hq List.not_mem_nil
  | cons p rest ih =>
    intro q hq
    unfold rsGrants
    split
    · rename_i hleft
      exact .inr (.inl hleft.symm)
    · rename_i hleft
      split
      · rename_i htaken
        rcases List.mem_cons.1 hq with rfl | hq
        · exact .inr (.inr (.inl (by simpa using htaken)))
        · exact ih taken left q hq
      · rcases List.mem_cons.1 hq with rfl | hq
        · exact .inl List.mem_cons_self
        · obtain hin | hlen | htaken | ⟨x, hx, hbank⟩ := ih (regionBank p.nextAddr :: taken) (left - 1) q hq
          · exact .inl (List.mem_cons_of_mem _ hin)
          · refine .inr (.inl ?_)
            rw [List.length_cons]
            omega
          · rcases List.mem_cons.1 htaken with hbank | htaken
            · exact .inr (.inr (.inr ⟨p, List.mem_cons_self, hbank.symm⟩))
            · exact .inr (.inr (.inl htaken))
          · exact .inr (.inr (.inr ⟨x, List.mem_cons_of_mem _ hx, hbank⟩))

end Sys2Proof.Machine

/-! # Write buffers of a region where nothing else is under way (04 R99, R107) -/

namespace Sys2Proof.Machine

/-! ### Blocks, cells and arbiters where nothing is under way -/

/-- Nothing is under way in a block. -/
structure IdleBlock (b : Block) : Prop where
  timed : b.timed = []
  entering : b.entering = []
  pf : b.pf = []
  commits : b.commits = []
  loads : b.loads = []
  due : b.due = []
  streams : b.streams = []
  faults : b.faults = []

/-- Nothing is under way in a region, whose cells may still hold write-buffer lines. -/
structure IdleRegion (r : Nat) (s : State) : Prop where
  block : ∀ b, b / 6 = r → IdleBlock (s.block b)
  cell : ∀ x, x / 24 = r → (s.cell x).mops = []
  reqs : (s.region r).reqs = []
  rr : (s.region r).rr = []
  entering : (s.region r).entering = []

theorem idleRegion_of_quietRegion {s : State} {r : Nat} (h : Claims.quietRegion s r) : IdleRegion r s := by
  obtain ⟨hblocks, hcells, hreqs, hrr, hentering⟩ := h
  refine ⟨fun b hb => ?_, fun x hx => ?_, hreqs, hrr, hentering⟩
  · have hidle := hblocks (b % 6) (Nat.mod_lt _ (by decide))
    rw [show 6 * r + b % 6 = b by omega] at hidle
    obtain ⟨htimed, hentering, hpf, hcommits, hloads, hdue, hstreams, hfaults⟩ := hidle
    exact ⟨htimed, hentering, hpf, hcommits, hloads, hdue, hstreams, hfaults⟩
  · have hmops := hcells (x % 24) (Nat.mod_lt _ (by decide))
    rwa [show 24 * r + x % 24 = x by omega] at hmops

theorem div_of_mem_regionBlocks {s : State} {r b : Nat} (h : b ∈ regionBlocks s r) : b / 6 = r := by
  obtain ⟨k, hk, rfl⟩ := List.mem_map.1 (List.mem_filter.1 h).1
  have hlt := List.mem_range.1 hk
  omega

theorem lt_of_mem_cells {c : Nat} (h : c ∈ [0, 1, 2, 3]) : c < 4 := by
  simp only [List.mem_cons, List.not_mem_nil, or_false] at h
  omega

/-- A fold over steps that leave the state leaves it. -/
theorem foldl_leaves {α β : Type} {f : β → α → β} {s : β} (l : List α) (h : ∀ a ∈ l, f s a = s) : l.foldl f s = s :=
  List.foldlRecOn l f (motive := (· = s)) rfl fun t ht a ha => by rw [ht, h a ha]

/-! ### The phases of a cycle that find nothing to do -/

section
variable {s : State} {r : Nat} (h : IdleRegion r s) (pid cyc : Nat)
include h

theorem enterBlock_idle {b : Nat} (hb : b / 6 = r) : enterBlock s b cyc = s := by
  have hidle := h.block b hb
  simp only [enterBlock, hidle.timed, hidle.entering, List.isEmpty_nil, Bool.and_self, if_true]

theorem closeStreams_idle {b : Nat} (hb : b / 6 = r) : closeStreams s pid b cyc = s := by
  simp only [closeStreams, (h.block b hb).streams, List.filter_nil, List.foldl_nil, ite_self]

theorem enterPhase_idle : enterPhase s pid r cyc = s := by
  have henter : (regionBlocks s r).foldl (fun (s : State) b => enterBlock s b cyc) s = s :=
    foldl_leaves _ fun b hb => enterBlock_idle h cyc (div_of_mem_regionBlocks hb)
  unfold enterPhase
  simp only [henter, h.entering, h.rr, List.isEmpty_nil, Bool.and_self, if_true]
  refine foldl_leaves _ fun b hb => ?_
  have hb6 := div_of_mem_regionBlocks hb
  rw [closeStreams_idle h pid cyc hb6]
  refine foldl_leaves _ fun c hc => ?_
  have hlt := lt_of_mem_cells hc
  rw [h.cell (4 * b + c) (by omega)]
  rfl

theorem portReads_idle {b : Nat} (hb : b / 6 = r) : portReads s pid b cyc = s := by
  have hidle := h.block b hb
  have hcommit : commitUnit s pid b cyc = s := by simp only [commitUnit, hidle.commits, List.foldl_nil]
  simp only [portReads, hcommit, loadUnit, hidle.loads, List.foldl_nil]

theorem portCycle_idle {b : Nat} (hb : b / 6 = r) : portCycle s pid b cyc = (s, fun _ => []) := by
  simp only [portCycle, (h.block b hb).pf, List.isEmpty_nil, if_true]

theorem showFaults_idle {b : Nat} (hb : b / 6 = r) : showFaults s pid b cyc = s := by
  simp only [showFaults, (h.block b hb).faults, List.filter_nil, List.isEmpty_nil, if_true]

theorem regionArbiter_idle : regionArbiter s pid r cyc = s := by
  simp only [regionArbiter, h.reqs, h.rr, List.isEmpty_nil, Bool.and_self, if_true]

theorem slotCycle_idle : slotCycle s pid r cyc = s := by
  have hnone : wantsSlots s r = false := by
    have hstreams : ∀ k < 6, (s.block (6 * r + k)).streams = [] := fun k hk => (h.block _ (by omega)).streams
    simp only [wantsSlots, h.reqs, List.any_nil, Bool.or_false, List.any_eq_false, List.mem_range]
    intro k hk
    simp [hstreams k hk]
  simp only [slotCycle, hnone, Bool.not_false, if_true]

theorem captureReads_idle {x : Nat} (hx : x / 24 = r) (upto : Int) : s.captureReads x upto = s := by
  simp only [State.captureReads, h.cell x hx, List.isEmpty_nil, if_true]

theorem feedRegion_idle (t : Nat) : feedRegion s pid r t = s := by
  simp only [feedRegion, h.rr, List.foldl_nil]

end

/-! ### The cycle of a cell's banks (04 R99, R107) -/

section
variable {b : Block} {c : Cell} (hdue : b.due = []) (hmops : c.mops = []) (ci : BitVec 2) (base cyc : Nat)
include hdue hmops

/-- Nothing reads a bank, so no line is forced. -/
theorem bankCycle_idle : (bankCycle b c ci base cyc []).2 = [] ∧ (bankCycle b c ci base cyc []).1.mops = [] ∧
    (bankCycle b c ci base cyc []).1.wb.Sublist c.wb := by
  have hreads : operandBanks c base cyc = [] := by simp only [operandBanks, hmops, List.flatMap_nil]
  have hforced (full : Bool) (l : List WbLine) (acc : BankCycle) (hacc : acc.forced = []) :
      (l.foldl (bankLine b ci [] full cyc) acc).forced = [] := by
    refine List.foldlRecOn l _ (motive := fun a : BankCycle => a.forced = []) hacc fun a ha w _ => ?_
    unfold bankLine
    simp only [dueReadOn, hdue, List.any_nil, List.contains_nil, Bool.or_self, Bool.false_eq_true, if_false]
    split <;> exact ha
  unfold bankCycle
  split
  · exact ⟨rfl, hmops, .refl _⟩
  · simp only [hreads]
    exact ⟨hforced _ _ _ rfl, hmops, List.filter_sublist⟩

/-- A line that has waited for a cycle is written: its bank is granted. -/
theorem bankCycle_writes {w : WbLine} (hwb : c.wb.Sublist [w]) (henter : w.enter < cyc) :
    (bankCycle b c ci base cyc []).1.wb.Sublist [] := by
  obtain ⟨-, -, hsub⟩ := bankCycle_idle hdue hmops ci base cyc
  rcases List.sublist_singleton.1 hwb with hnone | hone
  · exact hnone ▸ hsub
  · have hreads : operandBanks c base cyc = [] := by simp only [operandBanks, hmops, List.flatMap_nil]
    have hsort : sortBy (·.d) [w] = [w] := rfl
    have hwait : decide (cyc ≤ w.enter) = false := decide_eq_false (by omega)
    unfold bankCycle
    simp only [hone, List.isEmpty_cons, Bool.false_and, Bool.false_eq_true, if_false, hreads, hsort, List.foldl_cons, List.foldl_nil]
    simp [bankLine, hwait, dueReadOn, hdue]

end

/-! ### The cells of a region drain -/

/-- In a region where nothing else is under way, no more than the lines `ws` wait in a cell, and memory stays. -/
structure Draining (m : List Host.Cell) (r x : Nat) (ws : List WbLine) (s : State) : Prop where
  idle : IdleRegion r s
  mem : s.mem = m
  wb : (s.cell x).wb.Sublist ws

/-- One cell's part of a cycle in which port F takes no bank. -/
def drainCell (pid b cyc : Nat) (s : State) (c : Nat) : State :=
  let r := bankCycle (s.block b) (s.cell (4 * b + c)) (BitVec.ofNat 2 c) (cellBase (4 * b + c)) cyc []
  r.2.foldl (fun s bank => failReads s pid (4 * b + c) bank cyc) (s.setCell (4 * b + c) r.1)

theorem drainBlock_eq (s : State) (pid b cyc : Nat) : drainBlock s pid b cyc (fun _ => []) = [0, 1, 2, 3].foldl (drainCell pid b cyc) s := rfl

/-- One block's part of a region's cycle. -/
def blockCycle (pid cyc : Nat) (s : State) (b : Nat) : State :=
  let p := portCycle (portReads s pid b cyc) pid b cyc
  showFaults (drainBlock p.1 pid b cyc p.2) pid b cyc

theorem regionCycle_eq (s : State) (pid r cyc : Nat) : regionCycle s pid r cyc =
    slotCycle (regionArbiter ((regionBlocks (enterPhase s pid r cyc) r).foldl (blockCycle pid cyc) (enterPhase s pid r cyc)) pid r cyc) pid r cyc :=
  rfl

theorem drainCell_idle {r : Nat} {s : State} (h : IdleRegion r s) {b c : Nat} (hb : b / 6 = r) (hc : c < 4) (pid cyc : Nat) :
    drainCell pid b cyc s c = s.setCell (4 * b + c)
      (bankCycle (s.block b) (s.cell (4 * b + c)) (BitVec.ofNat 2 c) (cellBase (4 * b + c)) cyc []).1 := by
  obtain ⟨hforced, -⟩ := bankCycle_idle (h.block b hb).due (h.cell (4 * b + c) (by omega)) (BitVec.ofNat 2 c) (cellBase (4 * b + c)) cyc
  simp only [drainCell, hforced, List.foldl_nil]

section
variable {m : List Host.Cell} {r x : Nat} {ws : List WbLine} {w : WbLine} {s : State}

theorem Draining.setCell (h : Draining m r x ws s) {y : Nat} {c : Cell} (hmops : c.mops = []) (hwb : c.wb.Sublist (s.cell y).wb) :
    Draining m r x ws (s.setCell y c) := by
  refine ⟨⟨h.idle.block, fun z hz => ?_, h.idle.reqs, h.idle.rr, h.idle.entering⟩, h.mem, ?_⟩
  · by_cases hzy : z = y
    · rw [hzy, State.setCell_cell_self, hmops]
    · rw [State.setCell_cell_ne _ _ hzy, h.idle.cell z hz]
  · by_cases hxy : x = y
    · rw [hxy, State.setCell_cell_self]
      exact hwb.trans (hxy ▸ h.wb)
    · rw [State.setCell_cell_ne _ _ hxy]
      exact h.wb

/-- A fold over steps each of which keeps what waits. -/
theorem Draining.foldl {α : Type} {f : State → α → State} {l : List α}
    (hkeep : ∀ ws t, ∀ a ∈ l, Draining m r x ws t → Draining m r x ws (f t a)) (h : Draining m r x ws s) : Draining m r x ws (l.foldl f s) :=
  List.foldlRecOn l f (motive := Draining m r x ws) h fun t ht a ha => hkeep ws t a ha ht

/-- Where one step of such a fold writes the line, the fold does. -/
theorem Draining.foldl_writes {α : Type} {f : State → α → State} {l : List α} {a : α} (ha : a ∈ l)
    (hkeep : ∀ ws t, ∀ a ∈ l, Draining m r x ws t → Draining m r x ws (f t a))
    (hwrite : ∀ t, Draining m r x ws t → Draining m r x [] (f t a)) (h : Draining m r x ws s) : Draining m r x [] (l.foldl f s) := by
  induction l generalizing s with
  | nil => exact absurd ha List.not_mem_nil
  | cons b rest ih =>
    have hrest : ∀ ws t, ∀ a ∈ rest, Draining m r x ws t → Draining m r x ws (f t a) :=
      fun ws t a ha => hkeep ws t a (List.mem_cons_of_mem _ ha)
    rw [List.foldl_cons]
    rcases List.mem_cons.1 ha with rfl | ha
    · exact .foldl hrest (hwrite s h)
    · exact ih ha hrest (hkeep ws s b List.mem_cons_self h)

variable (pid cyc : Nat)

theorem Draining.drainCell (h : Draining m r x ws s) {b c : Nat} (hb : b / 6 = r) (hc : c < 4) :
    Draining m r x ws (drainCell pid b cyc s c) := by
  obtain ⟨-, hmops, hwb⟩ := bankCycle_idle (h.idle.block b hb).due (h.idle.cell (4 * b + c) (by omega)) (BitVec.ofNat 2 c)
    (cellBase (4 * b + c)) cyc
  rw [drainCell_idle h.idle hb hc]
  exact h.setCell hmops hwb

theorem Draining.drainCell_writes {b c : Nat} (h : Draining m r (4 * b + c) [w] s) (hb : b / 6 = r) (hc : c < 4) (henter : w.enter < cyc) :
    Draining m r (4 * b + c) [] (Machine.drainCell pid b cyc s c) := by
  refine ⟨(h.drainCell pid cyc hb hc).idle, (h.drainCell pid cyc hb hc).mem, ?_⟩
  rw [drainCell_idle h.idle hb hc, State.setCell_cell_self]
  exact bankCycle_writes (h.idle.block b hb).due (h.idle.cell (4 * b + c) (by omega)) _ _ cyc h.wb henter

theorem Draining.blockCycle_eq (h : Draining m r x ws s) {b : Nat} (hb : b / 6 = r) :
    blockCycle pid cyc s b = [0, 1, 2, 3].foldl (Machine.drainCell pid b cyc) s := by
  have hdrained : Draining m r x ws ([0, 1, 2, 3].foldl (Machine.drainCell pid b cyc) s) :=
    h.foldl fun _ _ c hc ht => ht.drainCell pid cyc hb (lt_of_mem_cells hc)
  simp only [blockCycle, portReads_idle h.idle pid cyc hb, portCycle_idle h.idle pid cyc hb, drainBlock_eq]
  exact showFaults_idle hdrained.idle pid cyc hb

theorem Draining.blockCycle (h : Draining m r x ws s) {b : Nat} (hb : b / 6 = r) : Draining m r x ws (blockCycle pid cyc s b) := by
  rw [h.blockCycle_eq pid cyc hb]
  exact h.foldl fun _ _ c hc ht => ht.drainCell pid cyc hb (lt_of_mem_cells hc)

theorem Draining.blockCycle_writes {b c : Nat} (h : Draining m r (4 * b + c) [w] s) (hb : b / 6 = r) (hc : c < 4) (henter : w.enter < cyc) :
    Draining m r (4 * b + c) [] (Machine.blockCycle pid cyc s b) := by
  have hmem : c ∈ [0, 1, 2, 3] := by
    simp only [List.mem_cons, List.not_mem_nil, or_false]
    omega
  rw [h.blockCycle_eq pid cyc hb]
  exact h.foldl_writes hmem (fun _ _ c hc ht => ht.drainCell pid cyc hb (lt_of_mem_cells hc))
    fun t ht => ht.drainCell_writes pid cyc hb hc henter

theorem Draining.regionCycle_eq (h : Draining m r x ws s) :
    regionCycle s pid r cyc = (regionBlocks s r).foldl (Machine.blockCycle pid cyc) s := by
  have hdrained : Draining m r x ws ((regionBlocks s r).foldl (Machine.blockCycle pid cyc) s) :=
    h.foldl fun _ _ b hb ht => ht.blockCycle pid cyc (div_of_mem_regionBlocks hb)
  rw [Machine.regionCycle_eq, enterPhase_idle h.idle, regionArbiter_idle hdrained.idle, slotCycle_idle hdrained.idle]

theorem Draining.regionCycle (h : Draining m r x ws s) : Draining m r x ws (regionCycle s pid r cyc) := by
  rw [h.regionCycle_eq pid cyc]
  exact h.foldl fun _ _ b hb ht => ht.blockCycle pid cyc (div_of_mem_regionBlocks hb)

theorem Draining.regionCycle_writes {b c : Nat} (h : Draining m (b / 6) (4 * b + c) [w] s) (hb : (fmGet s.blocks b).isSome = true) (hc : c < 4)
    (henter : w.enter < cyc) : Draining m (b / 6) (4 * b + c) [] (Machine.regionCycle s pid (b / 6) cyc) := by
  rw [h.regionCycle_eq pid cyc]
  exact h.foldl_writes (mem_regionBlocks hb) (fun _ _ b hb ht => ht.blockCycle pid cyc (div_of_mem_regionBlocks hb))
    fun t ht => ht.blockCycle_writes pid cyc rfl hc henter

end

end Sys2Proof.Machine

/-! # The passage of cycles in a region that drains, and PortFService (04 R99) -/

namespace Sys2Proof.Machine

/-! ### The next cycle of a region with something to do -/

/-- A step of the search for the next cycle from `c` on: it comes no later, and stays at `c` or later. -/
def Lowers (c : Nat) (f : Nat → Nat) : Prop := ∀ acc, c ≤ acc → c ≤ f acc ∧ f acc ≤ acc

namespace Lowers
variable {c : Nat} {f g : Nat → Nat}

theorem id : Lowers c fun acc => acc := fun _ h => ⟨h, Nat.le_refl _⟩

theorem comp (hg : Lowers c g) (hf : Lowers c f) : Lowers c fun acc => g (f acc) := fun acc h =>
  ⟨(hg _ (hf acc h).1).1, Nat.le_trans (hg _ (hf acc h).1).2 (hf acc h).2⟩

theorem ite {b : Prop} [Decidable b] (hf : Lowers c f) (hg : Lowers c g) : Lowers c fun acc => if b then f acc else g acc := by
  intro acc h
  dsimp only
  split
  · exact hf acc h
  · exact hg acc h

theorem lower (x : Nat) : Lowers c fun acc => if x < acc then (if x < c then c else x) else acc := by
  intro acc h
  dsimp only
  split
  · split <;> omega
  · omega

theorem foldl {α : Type} (l : List α) {f : Nat → α → Nat} (hf : ∀ a, Lowers c fun acc => f acc a) : Lowers c fun acc => l.foldl f acc := by
  induction l with
  | nil => exact id
  | cons a rest ih => exact ih.comp (hf a)

/-- Where one step of a fold reaches `c`, the fold does. -/
theorem foldl_reaches {α : Type} {l : List α} {f : Nat → α → Nat} (hf : ∀ a, Lowers c fun acc => f acc a) {a : α} (ha : a ∈ l)
    (hreach : ∀ acc, c ≤ acc → f acc a ≤ c) {acc : Nat} (h : c ≤ acc) : l.foldl f acc ≤ c := by
  induction l generalizing acc with
  | nil => exact absurd ha List.not_mem_nil
  | cons b rest ih =>
    rw [List.foldl_cons]
    rcases List.mem_cons.1 ha with rfl | ha
    · exact Nat.le_trans (foldl rest hf _ (hf a acc h).1).2 (hreach acc h)
    · exact ih ha (hf b acc h).1

end Lowers

/-- The earlier of what has been found and cycle `x`, but no cycle before `c`. -/
def lowerTo (c acc x : Nat) : Nat := if x < acc then (if x < c then c else x) else acc

/-- What a cell adds to the search: `c` itself while a line waits, and the landings of its operations. -/
def nextOfCell (s : State) (c b acc k : Nat) : Nat :=
  let ce := s.cell (4 * b + k)
  let acc := if ce.wb.isEmpty && ce.wback.isEmpty then acc else lowerTo c acc c
  ce.mops.foldl (fun acc m => match m.land with
    | some l => lowerTo c acc l
    | none => acc) acc

/-- What the work of a block adds to the search before its cells do. -/
def nextOfWork (s : State) (c acc b : Nat) : Nat :=
  let b := s.block b
  let a := b.timed.foldl (fun acc w => lowerTo c acc (w.enterAt w.entered)) acc
  let a := b.entering.foldl (fun acc e => lowerTo c acc e.at_) a
  let a := b.pf.foldl (fun acc q => if q.done < q.total ∧ (q.kind ≠ .copyRc ∨ q.arr ≠ []) then lowerTo c acc (q.ready + 1) else acc) a
  let a := b.loads.foldl (fun acc q => lowerTo c acc (q.issue + q.got.length / 256)) a
  let a := b.commits.foldl (fun acc q => if q.done < cdiv q.len 256 ∧ q.cellSrc then lowerTo c acc (q.issue + q.done) else acc) a
  let a := b.faults.foldl (fun acc f => lowerTo c acc f.cycle) a
  if b.streams.isEmpty then a else lowerTo c a c

def nextOfBlock (s : State) (c acc b : Nat) : Nat := [0, 1, 2, 3].foldl (nextOfCell s c b) (nextOfWork s c acc b)

/-- What the arbiter of a region adds to the search. -/
def nextOfRegion (g : Region) (c t : Nat) : Nat :=
  let a := g.entering.foldl (fun acc e => lowerTo c acc e.at_) t
  let a := g.reqs.foldl (fun acc q => if q.done < q.total ∧ ((q.kind ≠ .copyWrite ∧ q.kind ≠ .fill) ∨ q.data ≠ []) then lowerTo c acc (q.first + q.done) else acc) a
  g.rr.foldl (fun acc q => if q.late ∨ q.data.length ≤ 256 * q.done then acc else lowerTo c acc (q.due - 3 - (q.total - q.done))) a

theorem regionNext_eq (s : State) (r c t : Nat) :
    regionNext s r c t = (regionBlocks s r).foldl (nextOfBlock s c) (nextOfRegion (s.region r) c t) := rfl

section
variable (s : State) (c : Nat)

theorem Lowers.nextOfCell (b k : Nat) : Lowers c fun acc => nextOfCell s c b acc k := by
  refine Lowers.comp (Lowers.foldl _ fun m => ?_) (.ite .id (.lower c))
  cases m.land with
  | none => exact .id
  | some l => exact .lower l

theorem Lowers.nextOfWork (b : Nat) : Lowers c fun acc => nextOfWork s c acc b :=
  .comp (.ite .id (.lower c)) <| .comp (.foldl _ fun _ => .lower _) <| .comp (.foldl _ fun _ => .ite (.lower _) .id) <|
    .comp (.foldl _ fun _ => .lower _) <| .comp (.foldl _ fun _ => .ite (.lower _) .id) <| .comp (.foldl _ fun _ => .lower _) <|
    .foldl _ fun _ => .lower _

theorem Lowers.nextOfBlock (b : Nat) : Lowers c fun acc => nextOfBlock s c acc b :=
  .comp (.foldl _ fun k => .nextOfCell s c b k) (.nextOfWork s c b)

theorem Lowers.nextOfRegion (g : Region) : Lowers c fun acc => nextOfRegion g c acc :=
  have hentering := Lowers.foldl (c := c) g.entering fun e => .lower e.at_
  have hreqs := Lowers.foldl (c := c) g.reqs fun q => .ite (b := q.done < q.total ∧ ((q.kind ≠ .copyWrite ∧ q.kind ≠ .fill) ∨ q.data ≠ []))
    (.lower (q.first + q.done)) .id
  have hrr := Lowers.foldl (c := c) g.rr fun q => .ite (b := q.late ∨ q.data.length ≤ 256 * q.done) .id
    (.lower (q.due - 3 - (q.total - q.done)))
  (hrr.comp hreqs).comp hentering

theorem nextOfCell_waiting {b k : Nat} (hwait : (s.cell (4 * b + k)).wb ≠ []) {acc : Nat} (hacc : c ≤ acc) : nextOfCell s c b acc k ≤ c := by
  have hlow : (if (s.cell (4 * b + k)).wb.isEmpty && (s.cell (4 * b + k)).wback.isEmpty then acc else lowerTo c acc c) = c := by
    rw [if_neg (by simp [hwait]), lowerTo]
    split
    · exact if_neg (Nat.lt_irrefl c)
    · omega
  have hmops := Lowers.foldl (c := c) (s.cell (4 * b + k)).mops (f := fun acc m => match m.land with
    | some l => lowerTo c acc l
    | none => acc) fun m => by cases m.land with
      | none => exact .id
      | some l => exact .lower l
  unfold Machine.nextOfCell
  simp only [hlow]
  exact (hmops c (Nat.le_refl c)).2

/-- While a line waits in a cell, the next cycle that a region serves is the first it has not served. -/
theorem regionNext_waiting {b k t : Nat} (hb : (fmGet s.blocks b).isSome = true) (hk : k < 4) (hwait : (s.cell (4 * b + k)).wb ≠ [])
    (hct : c ≤ t) : regionNext s (b / 6) c t = c := by
  have hmem : k ∈ [0, 1, 2, 3] := by
    simp only [List.mem_cons, List.not_mem_nil, or_false]
    omega
  have hstart := (Lowers.nextOfRegion c (s.region (b / 6)) t hct).1
  rw [regionNext_eq]
  refine Nat.le_antisymm (Lowers.foldl_reaches (Lowers.nextOfBlock s c) (mem_regionBlocks hb) (fun acc hacc => ?_) hstart)
    (Lowers.foldl _ (Lowers.nextOfBlock s c) _ hstart).1
  exact Lowers.foldl_reaches (Lowers.nextOfCell s c b) hmem (fun acc hacc => nextOfCell_waiting s c hwait hacc)
    (Lowers.nextOfWork s c b acc hacc).1

end

/-! ### The passage of cycles -/

theorem State.updRegion_region_self (s : State) (r : Nat) (f : Region → Region) : (s.updRegion r f).region r = f (s.region r) := by
  simp [State.updRegion, State.setRegion, State.region, fmGetD]

theorem State.updRegion_region_ne (s : State) {r j : Nat} (f : Region → Region) (h : j ≠ r) : (s.updRegion r f).region j = s.region j := by
  simp [State.updRegion, State.setRegion, State.region, fmGetD, fmGet_fmSet_ne _ _ h]

section
variable {m : List Host.Cell} {r x : Nat} {ws : List WbLine} {w : WbLine} {s : State}

theorem Draining.serve (h : Draining m r x ws s) (n : Region → Nat) :
    Draining m r x ws (s.updRegion r fun g => { g with served := n g }) := by
  refine ⟨⟨h.idle.block, h.idle.cell, ?_, ?_, ?_⟩, h.mem, h.wb⟩
  · rw [State.updRegion_region_self, h.idle.reqs]
  · rw [State.updRegion_region_self, h.idle.rr]
  · rw [State.updRegion_region_self, h.idle.entering]

theorem Draining.captureAll (h : Draining m r x ws s) (upto : Int) :
    ((regionBlocks s r).flatMap fun b => [4 * b, 4 * b + 1, 4 * b + 2, 4 * b + 3]).foldl (fun (s : State) y => s.captureReads y upto) s = s := by
  refine foldl_leaves _ fun y hy => captureReads_idle h.idle ?_ upto
  obtain ⟨b, hb, hy⟩ := List.mem_flatMap.1 hy
  have hb6 := div_of_mem_regionBlocks hb
  simp only [List.mem_cons, List.not_mem_nil, or_false] at hy
  omega

theorem Draining.regionTo (h : Draining m r x ws s) (fuel pid t : Nat) : Draining m r x ws (regionTo fuel s pid r t) := by
  induction fuel generalizing s with
  | zero =>
    rw [Machine.regionTo, enterPhase_idle h.idle]
    exact h
  | succ fuel ih =>
    rw [Machine.regionTo]
    dsimp only
    split
    · rw [enterPhase_idle h.idle, h.captureAll]
      exact h.serve fun g => Nat.max g.served t
    · exact ih ((h.regionCycle ..).serve _)

/-- Cycles that pass write the line, for the first of them grants its bank. -/
theorem Draining.regionTo_writes {b c : Nat} (h : Draining m (b / 6) (4 * b + c) [w] s) (hb : (fmGet s.blocks b).isSome = true)
    (hc : c < 4) {t : Nat} (henter : w.enter < (s.region (b / 6)).served) (ht : (s.region (b / 6)).served < t) (fuel pid : Nat) :
    Draining m (b / 6) (4 * b + c) [] (Machine.regionTo (fuel + 1) s pid (b / 6) t) := by
  by_cases hwait : (s.cell (4 * b + c)).wb = []
  · exact .regionTo ⟨h.idle, h.mem, hwait ▸ .slnil⟩ (fuel + 1) pid t
  · rw [Machine.regionTo]
    simp only [regionNext_waiting s (s.region (b / 6)).served hb hc hwait (Nat.le_of_lt ht), if_neg (Nat.not_le_of_lt ht)]
    exact ((h.regionCycle_writes pid _ hb hc henter).serve _).regionTo fuel pid t

/-! ### A unit that a fault has named holds no request of an idle region -/

theorem IdleBlock.dropRequests {b : Block} (h : IdleBlock b) : IdleBlock b.dropRequests where
  timed := h.timed
  entering := h.entering
  pf := by rw [Block.dropRequests, h.pf, List.filter_nil]
  commits := rfl
  loads := rfl
  due := h.due
  streams := rfl
  faults := h.faults

theorem dropUnit_region (s : State) (y r : Nat) : ∃ f : RsReq → Bool, ∃ g : RrCopy → Bool,
    (s.dropUnit y).region r = { s.region r with reqs := (s.region r).reqs.filter f, rr := (s.region r).rr.filter g } := by
  by_cases hr : r = y / 6
  · subst hr
    exact ⟨_, _, State.updRegion_region_self (s.updBlock y Block.dropRequests) (y / 6) _⟩
  · refine ⟨fun _ => true, fun _ => true, ?_⟩
    rw [List.filter_true, List.filter_true]
    exact State.updRegion_region_ne (s.updBlock y Block.dropRequests) _ hr

theorem Draining.dropUnit (h : Draining m r x ws s) (y : Nat) :
    Draining m r x ws (s.dropUnit y) ∧ ((s.dropUnit y).region r).served = (s.region r).served := by
  obtain ⟨f, g, hregion⟩ := dropUnit_region s y r
  have hblock (b : Nat) (hb : b / 6 = r) : IdleBlock ((s.updBlock y Block.dropRequests).block b) := by
    by_cases hby : b = y
    · subst hby
      rw [State.updBlock_block_self]
      exact (h.idle.block b hb).dropRequests
    · rw [State.updBlock_block_ne _ _ hby]
      exact h.idle.block b hb
  refine ⟨⟨⟨hblock, h.idle.cell, ?_, ?_, ?_⟩, h.mem, h.wb⟩, ?_⟩
  · rw [hregion, h.idle.reqs, List.filter_nil]
  · rw [hregion, h.idle.rr, List.filter_nil]
  · rw [hregion, h.idle.entering]
  · rw [hregion]

theorem Draining.of_same (h : Draining m r x ws s) {t : State} (hb : t.blocks = s.blocks) (hc : t.cells = s.cells)
    (hr : t.regions = s.regions) (hm : t.mem = s.mem) : Draining m r x ws t := by
  have hregion : t.region r = s.region r := by
    rw [State.region, hr]
    rfl
  refine ⟨⟨fun b hb6 => ?_, fun y hy => ?_, ?_, ?_, ?_⟩, hm.trans h.mem, ?_⟩
  · rw [block_of_blocks hb]
    exact h.idle.block b hb6
  · rw [cell_of_cells hc, h.idle.cell y hy]
  · rw [hregion, h.idle.reqs]
  · rw [hregion, h.idle.rr]
  · rw [hregion, h.idle.entering]
  · rw [cell_of_cells hc]
    exact h.wb

theorem Draining.dropFailing (h : Draining m r x ws s) (pid : Nat) :
    Draining m r x ws (s.dropFailing pid) ∧ ((s.dropFailing pid).region r).served = (s.region r).served := by
  unfold State.dropFailing
  split
  · exact ⟨h, rfl⟩
  · rename_i p _
    obtain ⟨hdrop, hserved⟩ := List.foldlRecOn p.frame.failing (fun (s : State) y => s.dropUnit y)
      (motive := fun t : State => Draining m r x ws t ∧ (t.region r).served = (s.region r).served) ⟨h, rfl⟩
      fun t ht y _ => ⟨(ht.1.dropUnit y).1, (ht.1.dropUnit y).2.trans ht.2⟩
    refine ⟨hdrop.of_same (State.updFrame_blocks ..) (State.updFrame_cells ..) (State.updFrame_regions ..) (State.updFrame_mem ..), ?_⟩
    rw [State.region, State.updFrame_regions]
    exact hserved

end

/-! ### The line that waits when a block is brought up to a cycle -/

section
variable {s : State} {w : WbLine} {b c pid lg t : Nat}

theorem advanceRegion_writes (hidle : IdleRegion (b / 6) s) (hb : (fmGet s.blocks b).isSome = true) (hc : c < 4)
    (hwb : (s.cell (4 * b + c)).wb = [w]) (henter : w.enter < (s.region (b / 6)).served) (ht : (s.region (b / 6)).served < t) :
    ((advanceRegion s pid b t).cell (4 * b + c)).wb = [] ∧ (advanceRegion s pid b t).mem = s.mem := by
  have hstart : Draining s.mem (b / 6) (4 * b + c) [w] s := ⟨hidle, rfl, hwb ▸ .refl _⟩
  obtain ⟨hdrop, hserved⟩ := hstart.dropFailing pid
  have hwritten := hdrop.regionTo_writes ((dropFailing_keeps s pid).held b hb) hc (hserved ▸ henter) (hserved ▸ ht)
    (t - ((s.dropFailing pid).region (b / 6)).served) pid
  unfold advanceRegion
  simp only [feedRegion_idle hdrop.idle]
  refine List.foldlRecOn _ _ (motive := fun u : State => (u.cell (4 * b + c)).wb = [] ∧ u.mem = s.mem)
    ⟨List.sublist_nil.1 hwritten.wb, hwritten.mem⟩ fun u hu y _ => hu

theorem passTo_writes (hrun : runningBlock s pid lg = some b) (hidle : IdleRegion (b / 6) s) (hb : (fmGet s.blocks b).isSome = true)
    (hc : c < 4) (hwb : (s.cell (4 * b + c)).wb = [w]) (henter : w.enter < (s.region (b / 6)).served)
    (ht : (s.region (b / 6)).served < t) : ((passTo s pid lg t).cell (4 * b + c)).wb = [] ∧ (passTo s pid lg t).mem = s.mem := by
  have hadvance := advanceRegion_writes (pid := pid) hidle hb hc hwb henter ht
  unfold passTo
  simp only [hrun]
  split
  · have hreports (u : State) (code d n : Nat) := blockFatal_reports u pid b code d n
    rw [(hreports ..).cell, (hreports ..).mem]
    exact hadvance
  · exact hadvance

end

/-- Settles O32: the next cycle served grants the bank, a wake moves the owner's first unit, and the arbiters take what comes first. -/
theorem portFService : Obligations.PortFService := by
  refine ⟨fun s pid lg cycle bix ci bank w hrun hb hquiet hwb henter hserved => ?_,
    fun s pid lg cycle bix ci r hrun => ?_, pfServe_due, fun b free ci cyc r => pfServe_nearest b free ci cyc, fun order left => ?_⟩
  · exact ⟨_, rfl, passTo_writes hrun (idleRegion_of_quietRegion hquiet) hb ci.isLt hwb henter (Nat.lt_succ_of_le hserved)⟩
  · rintro s1 hpf rfl hdone htotal hready
    refine ⟨_, arbiterWake_owner hrun hpf hdone htotal hready, rfl, rfl, ?_, fun x hx => State.setBlock_block_ne _ _ hx⟩
    rw [State.setBlock_block_self]
  · obtain ⟨hlen, hsub, -, hpair⟩ := rsGrants_spec order [] left
    refine ⟨hlen, hsub, hpair, fun q hq => ?_⟩
    obtain hin | hfull | hnone | hbank := rsGrants_passed order [] left q hq
    · exact .inl hin
    · exact .inr (.inl hfull)
    · exact absurd hnone List.not_mem_nil
    · exact .inr (.inr hbank)

end Sys2Proof.Machine

/-! # The M slot: operations that begin on their cells (05 R138 to R149) -/

namespace Sys2Proof.Machine

open Claims (IssuesM MReady MFrame noT2 selected)

/-! ### What the operand reads of a cell leave of it -/

/-- An M operation but for what its operand reads write. -/
def Mop.besidesReads (m : Mop) : Mop := { m with caps := [], failed := false }

/-- A cell but for what operand reads and corrected errors write. -/
def Cell.besidesReads (x : Cell) : Cell := { x with eccCount := 0, wback := [], mops := x.mops.map Mop.besidesReads }

/-- A cell that begins an M operation, which works with the dodge list, the latch and the base as they then stand. -/
def Cell.begun (x : Cell) (till : Nat) (m : Mop) : Cell :=
  { x with engFree := till, mops := x.mops ++ [{ m with dlist := x.dodgeList, latch := x.dodgeLatch, base := x.base }] }

/-- From `s` to `t` work on cell `ix` has left it as `x`, but for operand reads and corrected errors. -/
structure Works (s t : State) (c : Ctx) (ix : Nat) (x : Cell) : Prop where
  on : OnCells s t c (· = ix)
  cell : (t.cell ix).besidesReads = x.besidesReads
  timed : (t.block c.bix).timed = (s.block c.bix).timed

section
variable {s t u : State} {c : Ctx} {ix : Nat} {x : Cell}

theorem Settled.works (h : Settled s t c ix) : Works s t c ix (s.cell ix) := by
  have hcell := congrArg Cell.besidesReads h.cell
  exact ⟨h.on, hcell, h.timed⟩

theorem Works.trans (h : Works s t c ix x) (k : Works t u c ix (t.cell ix)) : Works s u c ix x :=
  ⟨h.on.comp k.on, k.cell.trans h.cell, k.timed.trans h.timed⟩

theorem Works.reports (h : Works s t c ix x) (k : Reports t u) : Works s u c ix x := h.trans (k.settled c ix).works

theorem Reports.works (h : Reports s t) (k : Works t u c ix x) : Works s u c ix x :=
  ⟨(h.onCells c _).comp k.on, k.cell, k.timed.trans (h.timed c.bix)⟩

/-- Work on a cell that was changed first. -/
theorem Works.after_updCell {f : Cell → Cell} (h : Works (s.updCell ix f) t c ix x) : Works s t c ix x :=
  ⟨(setCell_onCells s c ix _).comp h.on, h.cell, h.timed⟩

end

theorem capture_besidesReads (m : Mop) (b : Block) (x : Cell) (mem : List Host.Cell) (base : Nat) (upto : Int) :
    (m.capture b x mem base upto).1.besidesReads = m.besidesReads := rfl

theorem captureReads_works (s : State) (c : Ctx) (ix : Nat) (upto : Int) : Works s (s.captureReads ix upto) c ix (s.cell ix) := by
  unfold State.captureReads
  extract_lets x rs t
  have ht : Works s t c ix x := by
    refine ⟨setCell_onCells s c ix _, ?_, rfl⟩
    rw [State.setCell_cell_self]
    simp [Cell.besidesReads, rs, Function.comp_def, capture_besidesReads]
  split
  · exact ((Reports.refl s).settled c ix).works
  · split
    · exact ht.reports (blockFatal_reports ..)
    · exact ht

/-- An M operation that starts on a cell: but for reports and operand reads, the cell has begun it. -/
theorem startM_works (s : State) (c : Ctx) (ix occ : Nat) (m : Mop) (rd : Ecc) :
    Works s (startM s c ix occ m rd) c ix ((s.cell ix).begun (c.t + occ) m) := by
  unfold startM
  extract_lets x base clash forced m' s1 s2 s3 s4 off
  have h1 : Works s s1 c ix ((s.cell ix).begun (c.t + occ) m) := by
    refine ⟨setCell_onCells s c ix _, ?_, rfl⟩
    rw [State.updCell_cell_self]
    simp [Cell.besidesReads, Cell.begun, Mop.besidesReads, m', x]
  have h2 : Works s s2 c ix ((s.cell ix).begun (c.t + occ) m) := by
    refine ⟨h1.on.comp (updBlock_onCells s1 c _ _ fun _ => rfl), h1.cell, ?_⟩
    rw [State.updBlock_block_self]
    exact h1.timed
  have h3 : Reports s2 s3 := by
    unfold s3
    split
    · exact raiseFatal_reports ..
    · exact .refl s2
  have h4 : Reports s3 s4 := by
    unfold s4
    cases hforced : forced with
    | some k => exact raiseFatal_reports ..
    | none => exact .refl s3
  exact ((h2.reports (h3.trans h4)).trans (captureReads_works ..)).trans (cellEcc_settled ..).works

/-! ### The selected cells, each in turn -/

/-- An operation that works on each selected cell as it stood at the issue. -/
theorem foldl_works {s u : State} {c : Ctx} {eff : State → Nat → State} {g : Nat → Cell} {l : List Nat} (hl : l.Nodup) (hu : Reports s u)
    (hstep : ∀ v sel x, OnCells s v c sel → ¬sel x → x ∈ l → Works v (eff v x) c x (g x)) :
    OnCells s (l.foldl eff u) c (· ∈ l) ∧ ((l.foldl eff u).block c.bix).timed = (s.block c.bix).timed ∧
      ∀ x ∈ l, ((l.foldl eff u).cell x).besidesReads = (g x).besidesReads := by
  induction l using List.reverseRecOn with
  | nil => exact ⟨hu.onCells c _, hu.timed c.bix, fun _ hx => absurd hx List.not_mem_nil⟩
  | append_singleton l x ih =>
    obtain ⟨hnodup, -, hdisjoint⟩ := List.nodup_append.1 hl
    have hx : x ∉ l := fun hmem => hdisjoint x hmem x (List.mem_singleton_self x) rfl
    obtain ⟨hon, htimed, hcell⟩ := ih hnodup fun v sel y hv hy hmem => hstep v sel y hv hy (List.mem_append_left _ hmem)
    have hwork := hstep _ _ x hon hx (List.mem_append_right _ (List.mem_singleton_self x))
    rw [List.foldl_concat]
    refine ⟨(hon.trans hwork.on).mono fun y hy => by simpa using hy, hwork.timed.trans htimed, fun y hy => ?_⟩
    by_cases hyx : y = x
    · exact hyx ▸ hwork.cell
    · rw [hwork.on.cell y hyx]
      exact hcell y (by simpa [hyx] using hy)

/-- What an M operation leaves: its frame, the writes on their way, and the selected cells as `g` gives them. -/
structure Starts (s1 s2 : State) (c : Ctx) (m : BitVec 4) (incs : List (BitVec 4 × Nat)) (g : Nat → Cell) : Prop where
  frame : MFrame s1 s2 c m incs
  timed : (s2.block c.bix).timed = (s1.block c.bix).timed
  cell : ∀ x, selected c m x → (s2.cell x).besidesReads = (g x).besidesReads

section
variable {s s1 u : State} {i : Issue} {c : Ctx} {r : FMap (BitVec 32)} {m : BitVec 4} {g : Nat → Cell}

theorem starts_of_foldl {eff : State → Nat → State} (hu : Reports s1 u)
    (hstep : ∀ v sel x, OnCells s1 v c sel → ¬sel x → selected c m x → Works v (eff v x) c x (g x)) (incs : List (BitVec 4 × Nat))
    (perf : Block → Perf) : Starts s1 (((c.cells m).foldl eff u).updBlock c.bix fun b =>
      { b.postInc c.t c.pred true incs with perf := perf b }) c m incs g := by
  obtain ⟨hon, htimed, hcell⟩ := foldl_works (c.nodup_cells m) hu fun v sel x hv hx hmem => hstep v sel x hv hx (Ctx.mem_cells.1 hmem)
  refine ⟨(hon.mono fun _ => Ctx.mem_cells.1).mFrame incs perf, ?_, fun x hx => hcell x (Ctx.mem_cells.2 hx)⟩
  rw [State.updBlock_block_self, Block.postInc_eq]
  exact htimed

/-- An M operation other than MMA that nothing stands against works on each selected cell as it stood at the issue. -/
theorem runM_starts {fr : Nat → Int} {bits : List (Nat × Bool)} {plan : FMap (BitVec 32) → Nat → MPlan}
    {more : State → Ctx → FMap (BitVec 32) → List (Nat × Bool)} {incs : List (BitVec 4 × Nat)}
    {eff : FMap (BitVec 32) → Ctx → State → Nat → State} (h : IssuesM s i fr c s1 r) (hbits : firstCause bits = none)
    (hready : MReady s1 c (plan r c.t).cells (plan r c.t).caps (plan r c.t).ranges) (ht2 : noT2 s1 c m)
    (hmore : ∀ q ∈ more s1 c r, q.2 = false)
    (hstep : ∀ v sel x, OnCells s1 v c sel → ¬sel x → selected c m x → Works v (eff r c v x) c x (g x)) :
    Starts s1 (runM s i m fr bits plan more incs eff) c m incs g := by
  obtain ⟨perf, hrun⟩ := runM_issues (incs := incs) (eff := eff) h hbits hready ht2 hmore
  rw [hrun]
  exact starts_of_foldl (hazCaps_reports ..) hstep incs perf

end

/-- The operation that a cell has begun is among those in progress on it. -/
theorem exists_mop_of_begun {x y : Cell} {till : Nat} {m : Mop} (h : y.besidesReads = (x.begun till m).besidesReads) :
    ∃ q ∈ y.mops, q.besidesReads = { m with dlist := x.dodgeList, latch := x.dodgeLatch, base := x.base }.besidesReads := by
  have hmops : y.mops.map Mop.besidesReads = (x.begun till m).mops.map Mop.besidesReads := congrArg Cell.mops h
  refine List.mem_map.1 ?_
  rw [hmops]
  exact List.mem_map_of_mem (List.mem_append_right _ (List.mem_singleton_self _))

end Sys2Proof.Machine

/-! # MMA (03 R67, R71, 05 R138 to R143) -/

namespace Sys2Proof.Machine

open Claims (IssuesM MReady selected FatalMet stepOcc lastStep)

/-! ### The occupancy of a step (03 R67, 05 R143) -/

theorem stepOcc_eq_none {f : MmaF} : stepOcc f = none ↔ pairOcc f.fmtA f.fmtB = none := Option.map_eq_none_iff

theorem mmaOcc_of_stepOcc {f : MmaF} {occ : Nat} (h : stepOcc f = some occ) : (mmaOcc f).2 = occ := by
  obtain ⟨o, hpair, hocc⟩ := Option.map_eq_some_iff.1 h
  simpa [mmaOcc, hpair] using hocc

/-- A pair of R67 names no reserved format. -/
theorem pairOcc_formats : ∀ a b : BitVec 4, (pairOcc a b).isSome = true → a.toNat ≤ 10 ∧ b.toNat ≤ 10 := by decide

/-! ### One cell (05 R141 to R143) -/

/-- The landing cycle of a step, none before the last position of a T2 group. -/
def mmaLand (c : Ctx) (f : MmaF) : Option Nat :=
  if decide (f.t2size.toNat = 0 ∨ f.t2pos.toNat + 1 = f.t2size.toNat) then some (c.t + (mmaOcc f).2 + 8) else none

/-- The step that a cell has in progress. -/
def mmaStep (c : Ctx) (f : MmaF) (r : FMap (BitVec 32)) (ix : Nat) (x : Cell) : Mop where
  kind := .mma
  issue := c.t
  land := mmaLand c f
  writer := c.addr
  caps := mmaCaps f r c.t (cellBase ix)
  fmtA := f.fmtA
  fmtB := f.fmtB
  dodge := f.dodge
  strip := f.strip
  row := f.row
  kblk := x.kcur
  t2pos := f.t2pos.toNat
  t2size := f.t2size.toNat

/-- A cell that counts a step. -/
def Cell.counted (x : Cell) (c : Ctx) (f : MmaF) : Cell :=
  let land := c.t + (mmaOcc f).2 + 8
  let last := decide (f.t2size.toNat = 0 ∨ f.t2pos.toNat + 1 = f.t2size.toNat)
  { x with
    depth := x.depth + 1
    kcur := x.kcur + 1
    stripRow := if f.strip then some f.row else x.stripRow
    lastLand := if last then some land else x.lastLand
    t2 := if f.t2size.toNat = 0 ∨ last then none else some ⟨f.t2size.toNat, f.t2pos.toNat + 1, f.arA, f.arB, f.fmtA, f.fmtB⟩
    mops := if last then x.mops.map fun q => if q.land = none then { q with land := some land } else q else x.mops }

section
variable {s : State} {c : Ctx} {f : MmaF} {r : FMap (BitVec 32)} {rd : Ecc} {ix : Nat}

theorem mmaCell_of_lt (hdepth : (s.cell ix).depth.toNat < 2 ^ 24) : mmaCell s c f r rd ix =
    startM (s.updCell ix (·.counted c f)) c ix (mmaOcc f).2 (mmaStep c f r ix (s.cell ix)) rd :=
  if_neg (by simpa [depthOver] using hdepth)

theorem mmaCell_of_ge (hdepth : 2 ^ 24 ≤ (s.cell ix).depth.toNat) : mmaCell s c f r rd ix = depthFault s c ix :=
  if_pos (by simpa [depthOver, Nat.lt_succ_iff] using hdepth)

theorem mmaCell_works (hdepth : (s.cell ix).depth.toNat < 2 ^ 24) : Works s (mmaCell s c f r rd ix) c ix
    (((s.cell ix).counted c f).begun (c.t + (mmaOcc f).2) (mmaStep c f r ix (s.cell ix))) := by
  have hstart := startM_works (s.updCell ix (·.counted c f)) c ix (mmaOcc f).2 (mmaStep c f r ix (s.cell ix)) rd
  rw [State.updCell_cell_self] at hstart
  rw [mmaCell_of_lt hdepth]
  exact hstart.after_updCell

/-- A step on a full cell is not performed (03 R71). -/
theorem mmaCell_full (hdepth : 2 ^ 24 ≤ (s.cell ix).depth.toNat) :
    Reports s (mmaCell s c f r rd ix) ∧ FatalMet s (mmaCell s c f r rd ix) c.pid 0x1420 := by
  rw [mmaCell_of_ge hdepth]
  exact ⟨raiseFatal_reports .., raiseFatal_fatalMet s c.pid 0x1420 (by decide) _ _ _⟩

end

/-! ### The bundle (05 R138 to R143, R151) -/

/-- What a step asks of the selected cells. -/
def mmaPlan (f : MmaF) (r : FMap (BitVec 32)) (t : Nat) : MPlan where
  cells := f.cells
  occ := (mmaOcc f).2
  caps := mmaCaps f r t
  ranges := mmaRanges f r

/-- The bits of a step that alone can make it illegal: a reserved format, a pair outside R67 or a strip on a wide format. -/
def mmaBits (f : MmaF) : List (Nat × Bool) :=
  [(0x02, decide (10 < f.fmtA.toNat ∨ 10 < f.fmtB.toNat)),
    (0x03, (pairOcc f.fmtA f.fmtB).isNone || (f.strip && !(decide (f.fmtA.toNat ≤ 3))))]

/-- The other checks of a step, in the order of their causes. -/
def mmaChecks (s : State) (c : Ctx) (f : MmaF) (r : FMap (BitVec 32)) : List (Nat × Bool) :=
  ((mCommon s c (mmaPlan f r c.t)).filter fun q => decide (q.1 < 8)) ++
    [(0x08, t2FieldsBad f || (c.cells f.cells).any fun x => t2SeqBad (s.cell x) f),
     (0x0C, f.strip && (c.cells f.cells).any fun x => match (s.cell x).stripRow with | some q => q != f.row | none => false)] ++
    ((mCommon s c (mmaPlan f r c.t)).filter fun q => decide (8 < q.1))

/-- The performance counters of a block that issues a step. -/
def mmaPerf (c : Ctx) (f : MmaF) (b : Block) : Perf :=
  { b.perf with mmaBusy := b.perf.mmaBusy + (c.cells f.cells).length * (mmaOcc f).2 }

section
variable {s s1 : State} {i : Issue} {c : Ctx} {f : MmaF} {r : FMap (BitVec 32)} {rd : Ecc}

theorem mmaBits_clear {occ : Nat} (hocc : stepOcc f = some occ) (hstrip : f.strip = true → f.fmtA.toNat ≤ 3) :
    firstCause (mmaBits f) = none := by
  obtain ⟨o, hpair, -⟩ := Option.map_eq_some_iff.1 hocc
  obtain ⟨hA, hB⟩ := pairOcc_formats f.fmtA f.fmtB (by rw [hpair]; rfl)
  refine firstCause_eq_none ?_
  simp only [mmaBits, List.forall_mem_cons, List.not_mem_nil, false_implies, implies_true, and_true]
  refine ⟨by simp [hA, hB], ?_⟩
  simpa [hpair] using hstrip

theorem mmaChecks_clear (hfields : t2FieldsBad f = false) (hseq : ∀ x, selected c f.cells x → t2SeqBad (s.cell x) f = false)
    (hrow : f.strip = true → ∀ x, selected c f.cells x → ∀ q, (s.cell x).stripRow = some q → q = f.row)
    (hready : MReady s c f.cells (mmaCaps f r c.t) (mmaRanges f r)) : firstCause (mmaChecks s c f r) = none := by
  have hcommon := mCommon_clear (p := mmaPlan f r c.t) hready
  refine firstCause_eq_none fun q hq => ?_
  simp only [mmaChecks, List.mem_append, List.mem_filter, List.mem_cons, List.not_mem_nil, or_false] at hq
  rcases hq with (hq | rfl | rfl) | hq
  · exact hcommon q hq.1
  · rw [hfields, Bool.false_or]
    exact List.any_eq_false.2 fun x hx => by rw [hseq x (Ctx.mem_cells.1 hx)]; exact Bool.false_ne_true
  · refine Bool.and_eq_false_imp.2 fun hs => List.any_eq_false.2 fun x hx => ?_
    have hsame := hrow hs x (Ctx.mem_cells.1 hx)
    cases hq : (s.cell x).stripRow with
    | none => exact Bool.false_ne_true
    | some q => simpa using hsame q hq
  · exact hcommon q hq.1

/-- A step under its predicate: its bits, then its other checks, then its cells in turn. -/
theorem exec_mma (h : IssuesM s i (fun t => firstRead t (mmaCaps f [] t 0)) c s1 r) : exec (.mma i f rd) s = .next (
    match firstCause (mmaBits f) with
    | some k => illegal s1 c k
    | none => match firstCause (mmaChecks s1 c f r) with
      | some k => illegal s1 c k
      | none => ((c.cells f.cells).foldl (mmaCell · c f r rd ·) (hazCaps s1 c f.cells (mmaCaps f r c.t))).updBlock c.bix fun b =>
        { b.postInc c.t c.pred true (mmaIncs f) with perf := mmaPerf c f b }) := by
  refine congrArg Host.Outcome.next ?_
  unfold IssuesM at h
  simp only [runMma, h]
  rfl

/-- A step that nothing stands against. -/
theorem mma_starts {occ : Nat} (h : IssuesM s i (fun t => firstRead t (mmaCaps f [] t 0)) c s1 r) (hocc : stepOcc f = some occ)
    (hstrip : f.strip = true → f.fmtA.toNat ≤ 3) (hchecks : firstCause (mmaChecks s1 c f r) = none)
    (hdepth : ∀ x, selected c f.cells x → (s1.cell x).depth.toNat < 2 ^ 24) :
    ∃ s2, exec (.mma i f rd) s = .next s2 ∧ Starts s1 s2 c f.cells (mmaIncs f) fun x =>
      ((s1.cell x).counted c f).begun (c.t + occ) (mmaStep c f r x (s1.cell x)) := by
  have hexec := exec_mma (rd := rd) h
  rw [mmaBits_clear hocc hstrip, hchecks] at hexec
  refine ⟨_, hexec, starts_of_foldl (hazCaps_reports ..) (fun v sel x hv hx hsel => ?_) _ (mmaPerf c f)⟩
  have hwork := mmaCell_works (c := c) (f := f) (r := r) (rd := rd) (hv.cell x hx ▸ hdepth x hsel)
  rwa [hv.cell x hx, mmaOcc_of_stepOcc hocc] at hwork

theorem mma_pairIllegal (h : IssuesM s i (fun t => firstRead t (mmaCaps f [] t 0)) c s1 r) (hA : f.fmtA.toNat ≤ 10)
    (hB : f.fmtB.toNat ≤ 10) (hocc : stepOcc f = none) : exec (.mma i f rd) s = .next (illegal s1 c 0x03) := by
  have hexec := exec_mma (rd := rd) h
  have hbits : firstCause (mmaBits f) = some 0x03 := by
    simp [mmaBits, firstCause, Nat.not_lt.2 hA, Nat.not_lt.2 hB, stepOcc_eq_none.1 hocc]
  rw [hexec, hbits]

theorem mma_engineIllegal {x : Nat} (h : IssuesM s i (fun t => firstRead t (mmaCaps f [] t 0)) c s1 r) (hocc : stepOcc f ≠ none)
    (hstrip : f.strip = false) (hx : selected c f.cells x) (hbusy : c.t < (s1.cell x).engFree) :
    exec (.mma i f rd) s = .next (illegal s1 c 0x04) := by
  have hexec := exec_mma (rd := rd) h
  obtain ⟨occ, hsome⟩ := Option.ne_none_iff_exists'.1 hocc
  have hbits := mmaBits_clear hsome fun hs => absurd (hs.symm.trans hstrip) (by decide)
  have hany : ((c.cells f.cells).any fun x => decide (c.t < (s1.cell x).engFree)) = true :=
    List.any_eq_true.2 ⟨x, Ctx.mem_cells.2 hx, decide_eq_true hbusy⟩
  have hchecks : firstCause (mmaChecks s1 c f r) = some 0x04 := by
    rw [Ctx.cells] at hany
    simp [mmaChecks, mCommon, mmaPlan, firstCause, hany]
  rw [hexec, hbits, hchecks]

end

/-- A depth count that stays within 2^24 does not wrap. -/
theorem depth_add {d : BitVec 25} {n : Nat} (h : d.toNat + n ≤ 2 ^ 24) : (d + BitVec.ofNat 25 n).toNat = d.toNat + n := by
  rw [BitVec.toNat_add, BitVec.toNat_ofNat]
  omega

theorem mmaLand_last {c : Ctx} {f : MmaF} (h : lastStep f) : mmaLand c f = some (c.t + (mmaOcc f).2 + 8) := by
  refine if_pos (decide_eq_true ?_)
  exact h.imp (fun h0 => by rw [h0]; rfl) id

theorem mmaLand_open {c : Ctx} {f : MmaF} (h : ¬lastStep f) : mmaLand c f = none := by
  refine if_neg fun hlast => h ?_
  exact (of_decide_eq_true hlast).imp (fun h0 => BitVec.eq_of_toNat_eq h0) id

/-- Settles O22: each selected cell counts the step and begins it, as it stood at the issue. -/
theorem mmaIssues : Obligations.MmaIssues := by
  unfold Obligations.MmaIssues
  refine ⟨fun s s1 i f rd c r occ h hocc hstrip hfields hseq hrow hready hdepth => ?_,
    fun s s1 i f rd c r x h hA hB => ⟨mma_pairIllegal h hA hB, mma_engineIllegal h⟩, fun s c f r rd x => mmaCell_full⟩
  obtain ⟨s2, hexec, hframe, htimed, hcell⟩ := mma_starts (rd := rd) h hocc hstrip (mmaChecks_clear hfields hseq hrow hready) hdepth
  refine ⟨s2, hexec, hframe, htimed, fun x hx => ?_⟩
  have hx2 := hcell x hx
  have hland := mmaOcc_of_stepOcc hocc
  obtain ⟨q, hq, hsame⟩ := exists_mop_of_begun hx2
  have hqland : q.land = mmaLand c f := congrArg Mop.land hsame
  refine ⟨(congrArg Cell.engFree hx2 :), ?_, (congrArg Cell.kcur hx2 :), (congrArg Cell.tanks hx2 :), (congrArg Cell.poison hx2 :),
    (congrArg Cell.base hx2 :), (congrArg Cell.stripRow hx2 :), q, hq, congrArg Mop.kind hsame, congrArg Mop.issue hsame,
    congrArg Mop.kblk hsame, fun hl => ?_, fun hl => hqland.trans (mmaLand_open hl)⟩
  · have hd : (s2.cell x).depth = (s1.cell x).depth + 1 := congrArg Cell.depth hx2
    rw [hd]
    exact depth_add (n := 1) (hdepth x hx)
  · rw [hqland, mmaLand_last hl, hland]

end Sys2Proof.Machine

/-! # MMA.DODGE, TANK.MERGE, DODGE.SET and STRIP.CHECK (03 R74, 05 R144 to R149) -/

namespace Sys2Proof.Machine

open Claims (IssuesM MReady noT2 selected at_ fr3)

section
variable {s s1 : State} {i : Issue} {c : Ctx} {r : FMap (BitVec 32)}

/-! ### A check of an operation's own that fails (05 R151) -/

theorem firstCause_append {l l' : List (Nat × Bool)} (h : firstCause l = none) : firstCause (l ++ l') = firstCause l' := by
  induction l with
  | nil => rfl
  | cons q rest ih =>
    obtain ⟨k, b⟩ := q
    cases b with
    | true => cases h
    | false => exact ih h

theorem firstCause_append_of_some {l l' : List (Nat × Bool)} {k : Nat} (h : firstCause l = some k) : firstCause (l ++ l') = some k := by
  induction l with
  | nil => cases h
  | cons q rest ih =>
    obtain ⟨j, b⟩ := q
    cases b with
    | true => exact h
    | false => exact ih h

/-- An M operation against which only a check of its own stands is illegal with that check's cause. -/
theorem runM_moreIllegal {cells : BitVec 4} {fr : Nat → Int} {bits : List (Nat × Bool)} {plan : FMap (BitVec 32) → Nat → MPlan}
    {more : State → Ctx → FMap (BitVec 32) → List (Nat × Bool)} {incs : List (BitVec 4 × Nat)}
    {eff : FMap (BitVec 32) → Ctx → State → Nat → State} {k : Nat} (h : IssuesM s i fr c s1 r) (hbits : firstCause bits = none)
    (hready : MReady s1 c (plan r c.t).cells (plan r c.t).caps (plan r c.t).ranges) (ht2 : noT2 s1 c cells)
    (hmore : firstCause (more s1 c r) = some k) : runM s i cells fr bits plan more incs eff = illegal s1 c k := by
  have hcommon := mCommon_clear hready
  have hchecks : firstCause (((mCommon s1 c (plan r c.t)).filter fun q => decide (q.1 < 8)) ++ [(0x08, t2Open s1 c.bix cells)] ++
      more s1 c r ++ ((mCommon s1 c (plan r c.t)).filter fun q => decide (8 < q.1))) = some k := by
    refine firstCause_append_of_some ((firstCause_append (firstCause_eq_none fun q hq => ?_)).trans hmore)
    simp only [List.mem_append, List.mem_filter, List.mem_singleton] at hq
    rcases hq with hq | rfl
    · exact hcommon q hq.1
    · exact t2Open_false ht2
  unfold runM
  unfold IssuesM at h
  simp only [h, hbits, hchecks, Bool.not_true, Bool.false_eq_true, if_false]

/-! ### MMA.DODGE (05 R145) -/

section
variable {f : DodgeF} {rd : Ecc}

/-- The side pass that a cell has in progress. -/
def dodgeStep (c : Ctx) (f : DodgeF) (r : FMap (BitVec 32)) (ix : Nat) : Mop where
  kind := .side
  issue := c.t
  land := some (c.t + 136)
  writer := c.addr
  caps := dodgeCaps f r c.t (cellBase ix)
  fmtA := 5
  fmtB := f.fmtW
  group := f.group.toNat

/-- A cell that counts a side pass. -/
def Cell.countedSide (x : Cell) (c : Ctx) : Cell := { x with depth := x.depth + 1, lastLand := some (c.t + 136) }

theorem group_le_of_lt {n g : Nat} (h : 32 * g < n) : ¬cdiv n 32 ≤ g := by
  unfold cdiv
  omega

theorem mmaDodge_starts (h : IssuesM s i fr3 c s1 r) (hfmt : f.fmtW.toNat ≤ 3) (ht2 : noT2 s1 c f.cells)
    (hready : MReady s1 c f.cells (dodgeCaps f r c.t)
      [(at_ r f.arA, 64, 4096), (at_ r f.arW, 64, slabBytes f.fmtW 1), (at_ r f.arS, 16, 256)])
    (hcell : ∀ x, selected c f.cells x → 32 * f.group.toNat < (s1.cell x).dodgeList.length ∧ (s1.cell x).depth.toNat < 2 ^ 24) :
    ∃ s2, exec (.mmaDodge i f rd) s = .next s2 ∧
      Starts s1 s2 c f.cells (if f.inc then [(f.arA, 4096), (f.arW, slabBytes f.fmtW 1), (f.arS, 256)] else []) fun x =>
        ((s1.cell x).countedSide c).begun (c.t + 128) (dodgeStep c f r x) := by
  refine ⟨_, rfl, runM_starts h ?_ hready ht2 ?_ fun v sel x hv hx hsel => ?_⟩
  · have hlt : ¬10 < f.fmtW.toNat ∧ ¬3 < f.fmtW.toNat := by omega
    simp [firstCause, hlt]
  · have hgroup : ∀ k ∈ maskCells f.cells, ¬cdiv (s1.cell (4 * c.bix + k)).dodgeList.length 32 ≤ f.group.toNat := fun k hk =>
      group_le_of_lt (hcell _ (Ctx.mem_cells.1 (List.mem_map_of_mem hk))).1
    simpa using hgroup
  · have hstart := startM_works (v.updCell x (·.countedSide c)) c x 128 (dodgeStep c f r x) rd
    rw [State.updCell_cell_self, hv.cell x hx] at hstart
    have hover : depthOver (v.cell x) 1 = false := by simpa [depthOver, hv.cell x hx] using (hcell x hsel).2
    simp only [hover, Bool.false_eq_true, if_false]
    exact hstart.after_updCell

end

/-! ### TANK.MERGE (03 R74, 05 R147) -/

section
variable {m a : BitVec 4} {inc : Bool} {rd : Ecc}

/-- The merge that a cell has in progress: Tanks and poison bits as sampled at the issue. -/
def mergeStep (c : Ctx) (a : BitVec 4) (r : FMap (BitVec 32)) (ix : Nat) (x : Cell) : Mop where
  kind := .merge
  issue := c.t
  land := some (c.t + 2056)
  writer := c.addr
  caps := [pairCap c.t (cellBase ix + offOf r a) 4096]
  sample := x.tanks
  samplePoison := x.poison

/-- A cell that counts a merged tile of depth n. -/
def Cell.countedTile (x : Cell) (c : Ctx) (n : Nat) : Cell :=
  { x with depth := x.depth + BitVec.ofNat 25 n, lastLand := some (c.t + 2056) }

theorem tankMerge_starts (h : IssuesM s i fr3 c s1 r) (ht2 : noT2 s1 c m)
    (hready : MReady s1 c m (fun base => [pairCap c.t (base + at_ r a) 4096]) [(at_ r a, 1024, 0x40000)])
    (hdepth : ∀ x, selected c m x → (s1.cell x).depth.toNat + tileDepth s1 x (offOf r a) c.t ≤ 2 ^ 24) :
    ∃ s2, exec (.tankMerge i m a inc rd false) s = .next s2 ∧ Starts s1 s2 c m (if inc then [(a, 0x40000)] else []) fun x =>
      ((s1.cell x).countedTile c (tileDepth s1 x (offOf r a) c.t)).begun (c.t + 2048) (mergeStep c a r x (s1.cell x)) := by
  refine ⟨_, rfl, runM_starts h rfl hready ht2 (fun _ hq => absurd hq List.not_mem_nil) fun v sel x hv hx hsel => ?_⟩
  have hcell := hv.cell x hx
  have htile : tileDepth v x (offOf r a) c.t = tileDepth s1 x (offOf r a) c.t := by
    unfold tileDepth
    rw [cellReadAt_congr hv.mem (congrArg Cell.hist hcell)]
  have hover : depthOver (s1.cell x) (tileDepth s1 x (offOf r a) c.t) = false := by simpa [depthOver] using hdepth x hsel
  have hsample := hazSample_reports v c (1#4 <<< (x % 4)) true
  have hstart := startM_works ((hazSample v c (1#4 <<< (x % 4)) true).updCell x
    (·.countedTile c (tileDepth s1 x (offOf r a) c.t))) c x 2048 (mergeStep c a r x (s1.cell x)) rd
  rw [State.updCell_cell_self, hsample.cell, hcell] at hstart
  simp only [htile, hcell, hover, Bool.false_eq_true, if_false]
  exact hsample.works hstart.after_updCell

end

/-! ### DODGE.SET (05 R144) -/

section
variable {m a : BitVec 4} {n : BitVec 9} {rd : Ecc}

/-- Bytes of a dodge list of n channels with its scales. -/
def dodgeLen (n : BitVec 9) : Nat := alignUp (4 * n.toNat) 128 + 128 * n.toNat

/-- The new dodge list that a cell has in progress. -/
def dodgeSetStep (c : Ctx) (a : BitVec 4) (n : BitVec 9) (r : FMap (BitVec 32)) (ix : Nat) : Mop where
  kind := .dodgeSet
  issue := c.t
  land := some (c.t + dodgeSetOcc n.toNat)
  writer := c.addr
  n := n.toNat
  caps := [pairCap c.t (cellBase ix + offOf r a) (dodgeLen n / 64)]

theorem dodgeSetOcc_eq (n : BitVec 9) : dodgeSetOcc n.toNat = if n = 0 then 1 else dodgeLen n / 128 + 8 := by
  have hzero : n.toNat = 0 ↔ n = 0 := BitVec.toNat_inj (y := 0)
  unfold dodgeSetOcc
  simp only [hzero]
  rfl

theorem dodgeSet_starts (h : IssuesM s i fr3 c s1 r) (ht2 : noT2 s1 c m) (hn : n.toNat ≤ 256)
    (hready : MReady s1 c m (fun base => [pairCap c.t (base + at_ r a) (dodgeLen n / 64)])
      (if n = 0 then [] else [(at_ r a, 128, dodgeLen n)])) :
    ∃ s2, exec (.dodgeSet i m a n rd) s = .next s2 ∧ Starts s1 s2 c m [] fun x =>
      (s1.cell x).begun (c.t + dodgeSetOcc n.toNat) (dodgeSetStep c a n r x) := by
  refine ⟨_, rfl, runM_starts h rfl hready ht2 (by simpa using hn) fun v sel x hv hx _ => ?_⟩
  have hstart := startM_works v c x (dodgeSetOcc n.toNat) (dodgeSetStep c a n r x) rd
  rwa [hv.cell x hx] at hstart

end

/-! ### STRIP.CHECK (03 R82, 05 R148) -/

section
variable {m : BitVec 4} {row : BitVec 7} {entry : BitVec 8} {p : Partition}

/-- The strip check that a cell has in progress: Tanks of its row and the strip row as sampled at the issue. -/
def checkStep (c : Ctx) (row : BitVec 7) (entry : BitVec 8) (x : Cell) : Mop where
  kind := .check
  issue := c.t
  land := some (c.t + 20)
  writer := c.addr
  row := row
  entry := entry
  sample := x.tanks.filter fun q => q.1 / 128 == row.toNat
  stripSample := x.strip

/-- A cell whose strip row is named no more. -/
def Cell.rowless (x : Cell) : Cell := { x with stripRow := none }

/-- Another row than the one named is in use on a selected cell. -/
def otherRow (s : State) (c : Ctx) (m : BitVec 4) (row : BitVec 7) : Bool :=
  (maskCells m).any fun k => match (s.cell (4 * c.bix + k)).stripRow with | some q => q != row | none => false

theorem otherRow_false (hrow : ∀ x, selected c m x → ∀ q, (s.cell x).stripRow = some q → q = row) : otherRow s c m row = false := by
  refine List.any_eq_false.2 fun k hk => ?_
  have hsame := hrow _ (Ctx.mem_cells.1 (List.mem_map_of_mem hk))
  cases hq : (s.cell (4 * c.bix + k)).stripRow with
  | none => exact Bool.false_ne_true
  | some q => simpa using hsame q hq

/-- The checks of a strip check's own: its row is the one in use, its threshold one of the Negative's. -/
def checkMore (m : BitVec 4) (row : BitVec 7) (entry : BitVec 8) (s : State) (c : Ctx) (_ : FMap (BitVec 32)) : List (Nat × Bool) :=
  [(0x0C, otherRow s c m row),
   (0x0D, match s.part c.pid with | some p => decide (p.negative.thresh.length ≤ entry.toNat) | none => true)]

variable (h : IssuesM s i fr3 c s1 r) (ht2 : noT2 s1 c m) (hready : MReady s1 c m (fun _ => []) []) (hp : s1.part c.pid = some p)
  (hrow : ∀ x, selected c m x → ∀ q, (s1.cell x).stripRow = some q → q = row)
include h ht2 hready hp hrow

theorem stripCheck_starts (hentry : entry.toNat < p.negative.thresh.length) :
    ∃ s2, exec (.stripCheck i m row entry) s = .next s2 ∧ Starts s1 s2 c m [] fun x =>
      (s1.cell x).rowless.begun (c.t + 16) (checkStep c row entry (s1.cell x)) := by
  refine ⟨_, rfl, runM_starts (more := checkMore m row entry) h rfl hready ht2 ?_ fun v sel x hv hx _ => ?_⟩
  · simp [checkMore, otherRow_false hrow, hp, hentry]
  · have hsample := hazSample_reports v c (1#4 <<< (x % 4)) false
    have hcell := (hsample.cell x).trans (hv.cell x hx)
    have hstart := startM_works ((hazSample v c (1#4 <<< (x % 4)) false).updCell x Cell.rowless) c x 16
      (checkStep c row entry (v.cell x)) .good
    rw [State.updCell_cell_self, hcell, hv.cell x hx] at hstart
    exact hsample.works (by rw [hv.cell x hx]; exact hstart.after_updCell)

theorem stripCheck_noEntry (hentry : p.negative.thresh.length ≤ entry.toNat) :
    exec (.stripCheck i m row entry) s = .next (illegal s1 c 0x0D) := by
  refine congrArg Host.Outcome.next (runM_moreIllegal (more := checkMore m row entry) h rfl hready ht2 ?_)
  simp [checkMore, firstCause, otherRow_false hrow, hp, hentry]

end

end

/-- Settles O23: each operation begins on its cells as they stood at the issue. -/
theorem matrixOperationsIssue : Obligations.MatrixOperationsIssue := by
  unfold Obligations.MatrixOperationsIssue
  refine ⟨fun s s1 i f rd c r h hfmt ht2 hready hcell => ?_, fun s s1 i m a inc rd c r h ht2 hready hdepth => ?_,
    fun s s1 i m a n rd c r h ht2 hn hready => ?_, fun s s1 i m row entry c r p h ht2 hready hp hrow =>
      ⟨fun hentry => ?_, stripCheck_noEntry h ht2 hready hp hrow⟩⟩
  · obtain ⟨s2, hexec, hframe, htimed, hafter⟩ := mmaDodge_starts (rd := rd) h hfmt ht2 hready hcell
    refine ⟨s2, hexec, hframe, htimed, fun x hx => ?_⟩
    have hx2 := hafter x hx
    obtain ⟨q, hq, hsame⟩ := exists_mop_of_begun hx2
    refine ⟨(congrArg Cell.engFree hx2 :), (congrArg Cell.kcur hx2 :), ?_, (congrArg Cell.tanks hx2 :), q, hq,
      congrArg Mop.kind hsame, congrArg Mop.issue hsame, congrArg Mop.group hsame, congrArg Mop.land hsame⟩
    exact (congrArg (fun y : Cell => y.depth.toNat) hx2 :).trans (depth_add (n := 1) (hcell x hx).2)
  · obtain ⟨s2, hexec, hframe, htimed, hafter⟩ := tankMerge_starts (inc := inc) (rd := rd) h ht2 hready hdepth
    refine ⟨s2, hexec, hframe, htimed, fun x hx => ?_⟩
    have hx2 := hafter x hx
    obtain ⟨q, hq, hsame⟩ := exists_mop_of_begun hx2
    refine ⟨(congrArg Cell.engFree hx2 :), ?_, (congrArg Cell.tanks hx2 :), q, hq,
      congrArg Mop.kind hsame, congrArg Mop.issue hsame, congrArg Mop.land hsame, congrArg Mop.sample hsame,
      congrArg Mop.samplePoison hsame⟩
    exact (congrArg (fun y : Cell => y.depth.toNat) hx2 :).trans (depth_add (hdepth x hx))
  · obtain ⟨s2, hexec, hframe, htimed, hafter⟩ := dodgeSet_starts (rd := rd) h ht2 hn hready
    refine ⟨s2, hexec, hframe, htimed, fun x hx => ?_⟩
    have hx2 := hafter x hx
    have hfree : (s2.cell x).engFree = c.t + dodgeSetOcc n.toNat := (congrArg Cell.engFree hx2 :)
    obtain ⟨q, hq, hsame⟩ := exists_mop_of_begun hx2
    refine ⟨hfree.trans (congrArg (c.t + ·) (dodgeSetOcc_eq n)), (congrArg Cell.dodgeList hx2 :), (congrArg Cell.tanks hx2 :), q, hq,
      congrArg Mop.kind hsame, congrArg Mop.issue hsame, congrArg Mop.n hsame, ?_⟩
    rw [hfree]
    exact (congrArg Mop.land hsame :)
  · obtain ⟨s2, hexec, hframe, htimed, hafter⟩ := stripCheck_starts h ht2 hready hp hrow hentry
    refine ⟨s2, hexec, hframe, htimed, fun x hx => ?_⟩
    have hx2 := hafter x hx
    obtain ⟨q, hq, hsame⟩ := exists_mop_of_begun hx2
    exact ⟨(congrArg Cell.engFree hx2 :), (congrArg Cell.stripRow hx2 :), (congrArg Cell.tanks hx2 :), (congrArg Cell.strip hx2 :), q, hq,
      congrArg Mop.kind hsame, congrArg Mop.issue hsame, congrArg Mop.row hsame, congrArg Mop.entry hsame, congrArg Mop.land hsame,
      congrArg Mop.stripSample hsame⟩

end Sys2Proof.Machine

/-! # The C slot: how an operation goes, and address registers (05 R125 to R133) -/

namespace Sys2Proof.Machine

open Claims (arOrdered SetsAr)

/-! ### What a C-slot operation does, whichever way it goes (05 R125, R128, R151) -/

section
variable {s s1 : State} {i : Issue} {c : Ctx} {slot k : Nat} {bits : List (Nat × Bool)} {checks : State → Ctx → List (Nat × Bool)}
  {eff skip : State → Ctx → State}

theorem runSlot_checkIllegal (h : Issues s i slot c s1) (hb : firstCause bits = none) (hc : firstCause (checks s1 c) = some k) :
    runSlot s i slot false bits checks eff skip = illegal s1 c k := by
  obtain ⟨s0, ho, rfl, hp⟩ := h
  simp [runSlot, ho, hb, hp, hc]

/-- A C-slot operation that issues whatever its predicate is, and that no check stops, has its effect and no more. -/
theorem runSlot_controlAlways (h : IssuesAlways s i 1 c s1) (hc : firstCause (checks s1 c) = none) :
    runSlot s i 1 true [] checks eff skip = eff s1 c := by
  have hslot := (openIssue_context h).1
  rw [runSlot_issuesAlways h rfl hc]
  simp [State.countSlot, hslot]

theorem runSlot_alwaysIllegal (h : IssuesAlways s i slot c s1) (hc : firstCause (checks s1 c) = some k) :
    runSlot s i slot true [] checks eff skip = illegal s1 c k := by
  unfold IssuesAlways at h
  simp [runSlot, h, firstCause, hc]

/-- An operation whose predicate is 0 in its cycle (05 R128). -/
theorem runSlot_suppressed (ho : openIssue s i slot = (s1, some c)) (hp : predOn (hazPred s1 c c.t) c = false)
    (hb : firstCause bits = none) : runSlot s i slot false bits checks eff skip = skip (hazPred s1 c c.t) c := by
  simp [runSlot, ho, hb, hp]

end

/-! ### Address registers (05 R129, R133) -/

@[simp] theorem arOf_zero (r : FMap (BitVec 32)) : arOf r 0 = 0 := rfl

theorem arOf_arPut_self (r : FMap (BitVec 32)) {d : BitVec 4} (v : BitVec 32) (hd : d ≠ 0) : arOf (arPut r d v) d = v := by
  unfold arOf arPut
  rw [if_neg hd, if_neg hd, fmGetD, fmGet_fmSet_self]
  rfl

theorem arOf_arPut_ne (r : FMap (BitVec 32)) {d k : BitVec 4} (v : BitVec 32) (hk : k ≠ d) : arOf (arPut r d v) k = arOf r k := by
  have hne : k.toNat ≠ d.toNat := fun h => hk (BitVec.eq_of_toNat_eq h)
  unfold arOf arPut
  split
  · rfl
  · split
    · rfl
    · simp [fmGetD, fmGet_fmSet_ne _ _ hne]

/-- A replay that has reached cycle t. -/
def ArReplay.upTo (st : ArReplay) (t : Nat) : ArReplay := if t = st.cyc then st else ⟨t, st.cur, st.cur, []⟩

/-- A replay that meets one more operation of its cycle. -/
def ArReplay.meet (st : ArReplay) : ArEff → ArReplay
  | .incr d k => if st.byC.contains d then st else { st with cur := arPut st.cur d (arOf st.cur d + k) }
  | eff => { st with
      cur := arPut st.cur (arEffValue st.start eff).1 (arEffValue st.start eff).2, byC := (arEffValue st.start eff).1 :: st.byC }

theorem arReplay1_eq (st : ArReplay) (e : ArEv) : arReplay1 st e = (st.upTo e.cycle).meet e.eff := by
  cases e with | mk cycle pred done eff => cases eff <;> rfl

theorem meet_keeps (st : ArReplay) (eff : ArEff) : (st.meet eff).cyc = st.cyc ∧ (st.meet eff).start = st.start := by
  cases eff with
  | incr d k =>
    simp only [ArReplay.meet]
    refine ⟨?_, ?_⟩ <;> split <;> rfl
  | _ => exact ⟨rfl, rfl⟩

section
variable (st : ArReplay) {t : Nat}

theorem upTo_cyc (t : Nat) : (st.upTo t).cyc = t := by
  unfold ArReplay.upTo
  split
  · exact Eq.symm ‹_›
  · rfl

theorem upTo_cur (t : Nat) : (st.upTo t).cur = st.cur := by
  unfold ArReplay.upTo
  split <;> rfl

theorem upTo_self (h : st.cyc = t) : st.upTo t = st := if_pos h.symm

theorem upTo_start_of_ne (h : st.cyc ≠ t) : (st.upTo t).start = st.cur := by
  rw [ArReplay.upTo, if_neg (Ne.symm h)]

theorem arReplay1_cyc (e : ArEv) : (arReplay1 st e).cyc = e.cycle := by
  rw [arReplay1_eq, (meet_keeps ..).1, upTo_cyc]

/-- The registers at the start of a cycle stay while its operations are met. -/
theorem upTo_start_arReplay1 {e : ArEv} (he : e.cycle = t) : ((arReplay1 st e).upTo t).start = (st.upTo t).start := by
  rw [upTo_self _ ((arReplay1_cyc st e).trans he), arReplay1_eq, (meet_keeps ..).2, he]

theorem upTo_start_foldl {l : List ArEv} (hl : ∀ e ∈ l, e.cycle = t) : ((l.foldl arReplay1 st).upTo t).start = (st.upTo t).start :=
  List.foldlRecOn l arReplay1 (motive := fun u => (u.upTo t).start = (st.upTo t).start) rfl
    fun u hu e he => (upTo_start_arReplay1 u (hl e he)).trans hu

/-- A replay in the order of cycles starts cycle t with the registers that the operations before it leave. -/
theorem upTo_start_replay {l : List ArEv} (hl : l.Pairwise fun x y => x.cycle ≤ y.cycle) (hst : (st.upTo t).start = st.cur) :
    (((l.filter fun e => decide (e.cycle < t + 1)).foldl arReplay1 st).upTo t).start =
      ((l.filter fun e => decide (e.cycle < t)).foldl arReplay1 st).cur := by
  induction l generalizing st with
  | nil => exact hst
  | cons e rest ih =>
    obtain ⟨hfirst, hrest⟩ := List.pairwise_cons.1 hl
    rcases Nat.lt_trichotomy e.cycle t with hlt | heq | hgt
    · rw [List.filter_cons_of_pos (by simpa using Nat.lt_succ_of_lt hlt), List.filter_cons_of_pos (by simpa using hlt)]
      exact ih (arReplay1 st e) hrest (upTo_start_of_ne _ (by rw [arReplay1_cyc]; exact hlt.ne))
    · have hlate : (e :: rest).filter (fun x => decide (x.cycle < t)) = [] := by
        simpa [heq] using fun x hx => heq ▸ hfirst x hx
      have hnow : ∀ x ∈ (e :: rest).filter (fun x => decide (x.cycle < t + 1)), x.cycle = t := by
        have hge : ∀ x ∈ e :: rest, t ≤ x.cycle := List.forall_mem_cons.2 ⟨heq.ge, fun x hx => heq ▸ hfirst x hx⟩
        exact fun x hx => Nat.le_antisymm (Nat.le_of_lt_succ (by simpa using (List.mem_filter.1 hx).2)) (hge x (List.mem_filter.1 hx).1)
      rw [hlate, upTo_start_foldl st hnow]
      exact hst
    · rw [List.filter_cons_of_neg (by simpa using hgt), List.filter_cons_of_neg (by simpa using hgt.le)]
      exact ih st hrest hst

end

/-- A register operation of the C slot shows from the next cycle on, computed from the registers at the start of its own. -/
theorem arNow_putAr {b : Block} (hord : arOrdered b) (t : Nat) (pred : BitVec 3) {eff : ArEff} (heff : ∀ d k, eff ≠ .incr d k) :
    arNow (b.putAr t pred true eff) (t + 1) =
      arPut (arNow b (t + 1)) (arEffValue (arNow b t) eff).1 (arEffValue (arNow b t) eff).2 := by
  let init : ArReplay := ⟨0, b.arBase, b.arBase, []⟩
  have hinit : (init.upTo t).start = init.cur := by
    unfold ArReplay.upTo
    split <;> rfl
  have hstart := upTo_start_replay (t := t) init (hord.filter (·.done)) hinit
  simp only [List.filter_filter] at hstart
  have hmeet (st : ArReplay) : (st.meet eff).cur = arPut st.cur (arEffValue st.start eff).1 (arEffValue st.start eff).2 := by
    cases eff with
    | incr d k => exact absurd rfl (heff d k)
    | _ => rfl
  have hlog : (b.putAr t pred true eff).arLog.filter (fun e => decide (e.cycle < t + 1) && e.done) =
      b.arLog.filter (fun e => decide (e.cycle < t + 1) && e.done) ++ [⟨t, pred, true, eff⟩] := by
    simp [Block.putAr, List.filter_append]
  unfold arNow arAt
  rw [hlog, List.foldl_concat, arReplay1_eq, hmeet, upTo_cur]
  exact congrArg (fun r => arPut _ (arEffValue r eff).1 (arEffValue r eff).2) hstart

/-- A suppressed register operation leaves every register as it was. -/
theorem arNow_putAr_suppressed (b : Block) (t u : Nat) (pred : BitVec 3) (eff : ArEff) :
    arNow (b.putAr u pred false eff) t = arNow b t := by
  simp [arNow, arAt, Block.putAr, List.filter_append]

theorem setsAr_of_effect {ins : Issue → Instr} {eff : ArEff} {d : BitVec 4} {val : (BitVec 4 → BitVec 32) → BitVec 32}
    (hexec : ∀ i s, exec (ins i) s = .next (runAr s i eff)) (heff : ∀ d k, eff ≠ .incr d k)
    (hval : ∀ r, arEffValue r eff = (d, val (arOf r))) : SetsAr ins d val := by
  intro s s1 i c hissue hord
  refine ⟨_, (hexec i s).trans (congrArg Host.Outcome.next (runSlot_control hissue rfl)), updBlock_own s1 c _ fun _ => rfl, ?_⟩
  simp only [State.updBlock_block_self, Claims.ar, arNow_putAr hord c.t c.pred heff, hval]
  exact ⟨fun hd => arOf_arPut_self _ _ hd, fun k hk => arOf_arPut_ne _ _ hk, arOf_zero _⟩

theorem low_half (x : BitVec 32) (imm : BitVec 16) : x &&& 0xFFFF0000#32 ||| imm.setWidth 32 = x.extractLsb' 16 16 ++ imm := by
  have hmask : 0xFFFF0000#32 = BitVec.allOnes 16 ++ 0#16 := by decide
  refine BitVec.eq_of_getLsbD_eq fun i hi => ?_
  rw [hmask]
  simp only [BitVec.getLsbD_or, BitVec.getLsbD_and, BitVec.getLsbD_append, BitVec.getLsbD_setWidth, BitVec.getLsbD_extractLsb',
    BitVec.getLsbD_allOnes]
  by_cases hlow : i < 16
  · simp [hlow, hi]
  · have hhigh : imm.getLsbD i = false := BitVec.getLsbD_of_ge imm i (Nat.le_of_not_lt hlow)
    have hsub : i - 16 < 16 := by omega
    have hadd : 16 + (i - 16) = i := by omega
    simp [hlow, hhigh, hsub, hadd]

theorem high_half (x : BitVec 32) (imm : BitVec 16) :
    (imm.setWidth 32) <<< 16 ||| x &&& 0x0000FFFF#32 = imm ++ x.extractLsb' 0 16 := by
  have hmask : 0x0000FFFF#32 = 0#16 ++ BitVec.allOnes 16 := by decide
  refine BitVec.eq_of_getLsbD_eq fun i hi => ?_
  rw [hmask]
  simp only [BitVec.getLsbD_or, BitVec.getLsbD_and, BitVec.getLsbD_append, BitVec.getLsbD_setWidth, BitVec.getLsbD_extractLsb',
    BitVec.getLsbD_shiftLeft, BitVec.getLsbD_allOnes]
  by_cases hlow : i < 16
  · simp [hlow]
  · have hsub : i - 16 < 32 := by omega
    simp [hlow, hi, hsub]

/-- Settles O11: the operation is replayed on the registers at the start of its cycle. -/
theorem addressRegisters : Obligations.AddressRegisters := by
  unfold Obligations.AddressRegisters
  intro d a b imm
  refine ⟨setsAr_of_effect (eff := .setLo d imm) (fun _ _ => rfl) (fun _ _ => nofun) fun r => ?_,
    setsAr_of_effect (eff := .setHi d imm) (fun _ _ => rfl) (fun _ _ => nofun) fun r => ?_,
    setsAr_of_effect (eff := .addi d a imm) (fun _ _ => rfl) (fun _ _ => nofun) fun _ => rfl,
    setsAr_of_effect (eff := .add d a b) (fun _ _ => rfl) (fun _ _ => nofun) fun _ => rfl⟩
  · rw [arEffValue, low_half]
  · rw [arEffValue, high_half]

end Sys2Proof.Machine

/-! # The C slot: predicates (05 R128, R137) -/

namespace Sys2Proof.Machine

open Claims (slotBits loopAt psetTruth)

/-! ### The value and the reserved bits of a PSET (05 R137) -/

theorem slotBits_eq_bits (ops : BitVec 18) (hi lo : Nat) (hlo : 14 ≤ lo) (hhi : lo ≤ hi) :
    slotBits ops hi lo = bits ops.toNat (hi - 14) (lo - 14) := by
  have hwidth : hi + 1 - lo = hi - 14 + 1 - (lo - 14) := by omega
  rw [slotBits, hwidth]
  rfl

theorem bit_eq_slotBits (ops : BitVec 18) (n : Nat) : bit ops.toNat n = decide (slotBits ops (n + 14) (n + 14) = 1) := by
  rw [bit, Nat.testBit_eq_decide_div_mod_eq, slotBits, Nat.add_sub_cancel, Nat.add_sub_cancel_left, Nat.pow_one]

theorem bit_eq_false (ops : BitVec 18) (n : Nat) : bit ops.toNat n = false ↔ slotBits ops (n + 14) (n + 14) = 0 := by
  have hlt : slotBits ops (n + 14) (n + 14) < 2 := by
    rw [slotBits, Nat.add_sub_cancel_left]
    exact Nat.mod_lt _ (by decide)
  rw [bit_eq_slotBits, decide_eq_false_iff_not]
  omega

theorem loopIndex_eq (b : Block) (k : Nat) : loopIndex b k = loopAt b k := by
  unfold loopIndex loopAt
  by_cases hk : k < b.loops.length
  · have hk' : k < b.loops.reverse.length := by simpa using hk
    rw [if_pos hk, List.getElem?_eq_getElem hk', List.getD_eq_getElem _ _ (by simpa using hk), List.getElem_map]
  · rw [if_neg hk, List.getElem?_eq_none (by simpa using hk)]

/-- What R137 asks of the operand bits of a PSET. -/
def psetAllowed (fn : BitVec 3) (ops : BitVec 18) : Prop :=
  fn.toNat < 4 ∧ (fn = 0 → slotBits ops 31 15 = 0) ∧ (fn = 1 → slotBits ops 14 14 = 0 ∧ slotBits ops 31 29 = 0) ∧
    (fn = 2 → slotBits ops 31 22 = 0) ∧ (fn = 3 → slotBits ops 18 14 ≤ 13)

theorem pset_functions {P : BitVec 3 → Prop} (h0 : P 0) (h1 : P 1) (h2 : P 2) (h3 : P 3)
    (hreserved : ∀ fn : BitVec 3, 4 ≤ fn.toNat → P fn) :
    ∀ fn, P fn := by
  intro fn
  rcases Nat.lt_or_ge fn.toNat 4 with hlt | hge
  · have hfn : fn = 0 ∨ fn = 1 ∨ fn = 2 ∨ fn = 3 := by
      revert fn
      decide
    rcases hfn with rfl | rfl | rfl | rfl
    · exact h0
    · exact h1
    · exact h2
    · exact h3
  · exact hreserved fn hge

theorem psetReserved_iff (fn : BitVec 3) (ops : BitVec 18) : psetReserved fn ops = false ↔ psetAllowed fn ops := by
  revert fn
  refine pset_functions ?_ ?_ ?_ ?_ fun fn hge => ?_
  · have hbits := slotBits_eq_bits ops 31 15 (by decide) (by decide)
    simp [psetReserved, psetAllowed, hbits]
  · have hbits := slotBits_eq_bits ops 31 29 (by decide) (by decide)
    simp [psetReserved, psetAllowed, hbits, bit_eq_false]
  · have hbits := slotBits_eq_bits ops 31 22 (by decide) (by decide)
    simp [psetReserved, psetAllowed, hbits]
  · have hbits := slotBits_eq_bits ops 18 14 (by decide) (by decide)
    simp [psetReserved, psetAllowed, hbits]
  · refine iff_of_false ?_ fun h => Nat.not_lt.2 hge h.1
    obtain ⟨n, hn⟩ : ∃ n, fn.toNat = n + 4 := ⟨_, (Nat.sub_add_cancel hge).symm⟩
    simp [psetReserved, hn]

theorem psetValue_iff (b : Block) (t : Nat) (exposure : BitVec 64) {fn : BitVec 3} (ops : BitVec 18) (hfn : fn.toNat < 4) :
    psetValue b t exposure fn ops = true ↔ psetTruth b t exposure fn.toNat ops := by
  have hall : ∀ fn : BitVec 3, fn.toNat < 4 → (psetValue b t exposure fn ops = true ↔ psetTruth b t exposure fn.toNat ops) := by
    refine pset_functions (fun _ => ?_) (fun _ => ?_) (fun _ => ?_) (fun _ => ?_) fun fn hge hlt => absurd hlt (Nat.not_lt.2 hge)
    · simp [psetValue, psetTruth, bit_eq_slotBits]
    · have hdepth := slotBits_eq_bits ops 16 15 (by decide) (by decide)
      have hindex := slotBits_eq_bits ops 28 18 (by decide) (by decide)
      cases hless : bit ops.toNat 3 with
      | false => simp [psetValue, psetTruth, hless, (bit_eq_false ops 3).1 hless, loopIndex_eq, hdepth, hindex]
      | true =>
        have hne : slotBits ops 17 17 ≠ 0 := fun h => by simp [(bit_eq_false ops 3).2 h] at hless
        simp [psetValue, psetTruth, hless, hne, loopIndex_eq, hdepth, hindex]
    · have hx := slotBits_eq_bits ops 16 14 (by decide) (by decide)
      have hy := slotBits_eq_bits ops 19 17 (by decide) (by decide)
      have hop : slotBits ops 21 20 = bits ops.toNat 7 6 := slotBits_eq_bits ops 21 20 (by decide) (by decide)
      simp only [psetValue, psetTruth, hx, hy, hop]
      generalize bits ops.toNat 7 6 = op
      match op with
      | 0 => simp
      | 1 => simp
      | 2 => simp
      | n + 3 => simp
    · have hm := slotBits_eq_bits ops 18 14 (by decide) (by decide)
      have hk := slotBits_eq_bits ops 31 19 (by decide) (by decide)
      simp [psetValue, psetTruth, hm, hk]
  exact hall fn hfn

/-! ### Predicates (05 R128, R137) -/

/-- The write of a predicate seen so far that is due latest, and its value. -/
def predSeen (p : BitVec 3) (t : Nat) (acc : Nat × Bool) (e : PredEv) : Nat × Bool :=
  if e.pd = p ∧ e.due ≤ t ∧ acc.1 ≤ e.due then (e.due, e.val) else acc

theorem predAt_eq (b : Block) (t : Nat) {p : BitVec 3} (hp : p ≠ 0) :
    predAt b t p = (b.predLog.foldl (predSeen p t) (0, b.predBase.getLsbD p.toNat)).2 := if_neg hp

theorem predSeen_le {p : BitVec 3} {t : Nat} {acc : Nat × Bool} (h : acc.1 ≤ t) (e : PredEv) : (predSeen p t acc e).1 ≤ t := by
  unfold predSeen
  split
  · rename_i hseen
    exact hseen.2.1
  · exact h

section
variable {b : Block} {d : BitVec 3} (hd : d ≠ 0) (due issue : Nat) (v : Bool) (writer : Nat)
include hd

theorem putPred_eq : b.putPred due issue d v writer = { b with predLog := b.predLog ++ [⟨due, issue, d, v, writer⟩] } := if_neg hd

/-- From the cycle in which it is due on, the write that is issued last is seen. -/
theorem predAt_putPred_due : predAt (b.putPred due issue d v writer) due d = v := by
  have hle : (b.predLog.foldl (predSeen d due) (0, b.predBase.getLsbD d.toNat)).1 ≤ due :=
    List.foldlRecOn b.predLog (predSeen d due) (motive := fun acc => acc.1 ≤ due) (Nat.zero_le _) fun _ h e _ => predSeen_le h e
  rw [predAt_eq _ _ hd, putPred_eq hd, List.foldl_concat, predSeen, if_pos ⟨rfl, Nat.le_refl _, hle⟩]

theorem predAt_putPred_early {t : Nat} (ht : t < due) : predAt (b.putPred due issue d v writer) t d = predAt b t d := by
  rw [predAt_eq _ _ hd, predAt_eq _ _ hd, putPred_eq hd, List.foldl_concat, predSeen,
    if_neg fun h => Nat.not_lt.2 h.2.1 ht]

theorem predAt_putPred_ne {q : BitVec 3} (hq : q ≠ d) (t : Nat) : predAt (b.putPred due issue d v writer) t q = predAt b t q := by
  by_cases h0 : q = 0
  · subst h0
    rfl
  · rw [predAt_eq _ _ h0, predAt_eq _ _ h0, putPred_eq hd, List.foldl_concat, predSeen, if_neg fun h => hq h.1.symm]

end

section
variable {s s1 : State} {i : Issue} {c : Ctx} {d fn : BitVec 3} {ops : BitVec 18}

theorem pset_reserved (h : Issues s i 1 c s1) (hr : psetReserved fn ops = true) : exec (.pset i d fn ops) s = .next (illegal s1 c 0x01) :=
  congrArg Host.Outcome.next (runSlot_illegal h (by rw [hr]; rfl))

theorem pset_zero (h : Issues s i 1 c s1) (hr : psetReserved fn ops = false) : exec (.pset i 0 fn ops) s = .next (illegal s1 c 0x11) :=
  congrArg Host.Outcome.next (runSlot_illegal h (by rw [hr]; rfl))

theorem exec_pset {p : Partition} (h : Issues s i 1 c s1) (hp : s1.part c.pid = some p) (hd : d ≠ 0) (hr : psetReserved fn ops = false) :
    exec (.pset i d fn ops) s = .next (s1.updBlock c.bix fun b =>
      b.putPred (c.t + 1) c.t d (psetValue b c.t p.frame.exposure fn ops) c.addr) := by
  have hbits : firstCause [(0x01, psetReserved fn ops), (0x11, d == 0)] = none := firstCause_eq_none (by simpa [hr] using hd)
  have hslot : c.slot = 1 := (openIssue_context h.choose_spec.1).1
  refine congrArg Host.Outcome.next ((runSlot_issues h hbits rfl).trans ?_)
  simp [State.countSlot, hslot, hp]

end

/-- Settles O12: the write is the last of its predicate's, due in the next cycle. -/
theorem predicateWrites : Obligations.PredicateWrites := by
  unfold Obligations.PredicateWrites
  refine ⟨fun s s1 i c d fn ops p h hp hd hfn h0 h1 h2 h3 _ => ?_, fun s s1 i c h => pset_zero h rfl, fun s s1 i c fn ops h => ?_,
    fun s s1 i c d fn ops h hbad => pset_reserved h ?_, fun _ _ => rfl⟩
  · refine ⟨_, exec_pset h hp hd ((psetReserved_iff fn ops).2 ⟨hfn, h0, h1, h2, h3⟩), updBlock_own s1 c _ fun b => ?_, ?_⟩
    · rw [putPred_eq hd]
      rfl
    · simp only [State.updBlock_block_self]
      refine ⟨?_, predAt_putPred_early hd _ _ _ _ (Nat.lt_succ_self _), fun q t hq => predAt_putPred_ne hd _ _ _ _ hq t⟩
      rw [predAt_putPred_due hd]
      exact psetValue_iff _ _ _ _ hfn
  · cases hr : psetReserved fn ops with
    | true => exact .inr (pset_reserved h hr)
    | false => exact .inl (pset_zero h hr)
  · refine Bool.eq_true_of_not_eq_false fun hr => ?_
    obtain ⟨hfn, h0, h1, h2, h3⟩ := (psetReserved_iff fn ops).1 hr
    rcases hbad with h | ⟨hf, h⟩ | ⟨hf, h⟩ | ⟨hf, h⟩ | ⟨hf, h⟩ | ⟨hf, h⟩
    · omega
    · exact Nat.not_lt.2 (h3 hf) h
    · exact h (h0 hf)
    · exact h (h1 hf).2
    · exact h (h1 hf).1
    · exact h (h2 hf)

end Sys2Proof.Machine

/-! # The C slot: loops, waits, halts, bases and suppressed operations (05 R128 to R134) -/

namespace Sys2Proof.Machine

open Claims (besidesLoop loopFits plain2)

/-! ### LOOP and LOOP.AR (05 R129, R130) -/

section
variable {s s1 : State} {i : Issue} {c : Ctx} {e : BitVec 13} {n : BitVec 11} {a : BitVec 4}

/-- A loop that ends at e would end beyond the innermost open loop. -/
def Block.endsBeyond (b : Block) (e : Nat) : Bool := match b.loops with | l :: _ => decide (l.endA < e) | [] => false

theorem endsBeyond_eq_false {b : Block} {e : Nat} : b.endsBeyond e = false ↔ ∀ l rest, b.loops = l :: rest → e ≤ l.endA := by
  unfold Block.endsBeyond
  cases b.loops <;> simp

theorem loopChecks_eq : loopChecks e s c = [(0x09, decide (4 ≤ (s.block c.bix).loops.length)),
    (0x0A, decide (e.toNat ≤ c.addr) || (s.block c.bix).endsBeyond e.toNat)] := rfl

theorem loopFits_iff {b : Block} {e a : Nat} : loopFits b e a ↔ b.loops.length < 4 ∧ (decide (e ≤ a) || b.endsBeyond e) = false := by
  simp [loopFits, endsBeyond_eq_false]

theorem loopChecks_clear (h : loopFits (s.block c.bix) e.toNat c.addr) : firstCause (loopChecks e s c) = none := by
  obtain ⟨hlen, hend⟩ := loopFits_iff.1 h
  simp [loopChecks_eq, firstCause, Nat.not_le.2 hlen, hend]

theorem loopChecks_deep (h : 4 ≤ (s.block c.bix).loops.length) : firstCause (loopChecks e s c) = some 0x09 := by
  simp [loopChecks_eq, firstCause, h]

theorem loopChecks_end (hlen : (s.block c.bix).loops.length < 4) (h : ¬loopFits (s.block c.bix) e.toNat c.addr) :
    firstCause (loopChecks e s c) = some 0x0A := by
  have hend : (decide (e.toNat ≤ c.addr) || (s.block c.bix).endsBeyond e.toNat) = true :=
    Bool.eq_true_of_not_eq_false fun hclear => h (loopFits_iff.2 ⟨hlen, hclear⟩)
  simp only [loopChecks_eq, hend, decide_eq_false (Nat.not_le.2 hlen)]
  rfl

theorem loop_opens (h : IssuesAlways s i 1 c s1) (hfit : loopFits (s1.block c.bix) e.toNat c.addr) :
    ∃ s2, exec (.loop i e n) s = .next s2 ∧ OwnFrame besidesLoop s1 s2 c ∧ (s2.block c.bix).opening = some (e.toNat, n.toNat) :=
  ⟨_, congrArg Host.Outcome.next (runSlot_controlAlways h (loopChecks_clear hfit)), updBlock_own s1 c _ fun _ => rfl,
    congrArg Block.opening (State.updBlock_block_self ..)⟩

theorem hazForecast_reports (differs : Bool) (s : State) (c : Ctx) (fc target : Nat) : Reports s (hazForecast differs s c fc target) := by
  unfold hazForecast
  split
  · exact .refl s
  · split <;> exact hazard_reports ..

theorem loopAr_opens (h : IssuesAlways s i 1 c s1) (hfit : loopFits (s1.block c.bix) e.toNat c.addr)
    (hcount : (loopArCount s1 c a).toNat ≤ 16777215) : ∃ s2, exec (.loopAr i e a) s = .next s2 ∧ OwnFrame besidesLoop s1 s2 c ∧
      (s2.block c.bix).opening = some (e.toNat, (loopArCount s1 c a).toNat) := by
  have hchecks : firstCause (loopChecks e s1 c ++ [(0x0E, decide (16777215 < (loopArCount s1 c a).toNat))]) = none := by
    rw [firstCause_append (loopChecks_clear hfit), decide_eq_false (Nat.not_lt.2 hcount)]
    rfl
  refine ⟨_, congrArg Host.Outcome.next (runSlot_controlAlways h hchecks), ?_, congrArg Block.opening (State.updBlock_block_self ..)⟩
  exact ((hazForecast_reports ..).own (fun _ => rfl) c).trans (updBlock_own _ c _ fun _ => rfl)

theorem loopAr_countIllegal (h : IssuesAlways s i 1 c s1) (hfit : loopFits (s1.block c.bix) e.toNat c.addr)
    (hcount : 16777215 < (loopArCount s1 c a).toNat) : exec (.loopAr i e a) s = .next (illegal s1 c 0x0E) := by
  have hchecks : firstCause (loopChecks e s1 c ++ [(0x0E, decide (16777215 < (loopArCount s1 c a).toNat))]) = some 0x0E := by
    rw [firstCause_append (loopChecks_clear hfit), decide_eq_true hcount]
    rfl
  exact congrArg Host.Outcome.next (runSlot_alwaysIllegal h hchecks)

end

/-! ### HALT (02 R55, 05 R132) -/

/-- A partition whose halt is requested: in the last µs of the frame, for the Shutter after the next. -/
def Partition.haltAsked (p : Partition) (tile t : Nat) : Partition :=
  { p with frame := if p.lastMicro tile t then { p.frame with reqLate := true } else { p.frame with haltReq := true } }

theorem bundleHalt_asks {s s1 : State} {i : Issue} {c : Ctx} (h : Issues s i 1 c s1) (code : BitVec 8) :
    ∃ s2, exec (.bundleHalt i code) s = .next s2 ∧
      (s2.block c.bix).haltCode = (s1.block c.bix).haltCode.or (some code) ∧ (∀ x, x ≠ c.bix → s2.block x = s1.block x) ∧
      { s2.block c.bix with haltCode := none } = { s1.block c.bix with haltCode := none } ∧
      s2.part c.pid = (s1.part c.pid).map (·.haltAsked (c.lg / 6) c.t) ∧ (∀ q, q ≠ c.pid → s2.part q = s1.part q) ∧
      { s2 with blocks := s1.blocks, parts := s1.parts } = s1 := by
  let t := s1.updBlock c.bix fun b => { b with haltCode := b.haltCode.or (some code) }
  have hblock (x : Nat) : (t.updPart c.pid (·.haltAsked (c.lg / 6) c.t)).block x = t.block x :=
    block_of_blocks (State.updPart_blocks ..) x
  refine ⟨t.updPart c.pid (·.haltAsked (c.lg / 6) c.t), congrArg Host.Outcome.next (runSlot_control h rfl), ?_, fun x hx => ?_, ?_,
    t.updPart_part_self .., fun q hq => t.updPart_part_ne _ hq, ?_⟩
  · rw [hblock, State.updBlock_block_self]
  · rw [hblock, State.updBlock_block_ne _ _ hx]
  · rw [hblock, State.updBlock_block_self]
  · exact congrArg (fun u : State => { u with blocks := s1.blocks }) (updPart_same t c.pid _)

/-- Settles O13: each operation has its effect on its block and no more, or the first check that fails gives the cause. -/
theorem sequencerControls : Obligations.SequencerControls := by
  unfold Obligations.SequencerControls
  refine ⟨fun s s1 i c e n h hfit => loop_opens h hfit, fun s s1 i c e a h hfit => loopAr_opens h hfit, fun s s1 i c n h => ?_,
    fun s s1 i c h => ?_, fun s s1 i c code h => ?_, fun s s1 i c e n h => ⟨fun hdeep => ?_, fun hlen hend => ?_⟩,
    fun s s1 i c e a h hfit => loopAr_countIllegal h hfit⟩
  · exact ⟨_, congrArg Host.Outcome.next (runSlot_controlAlways h rfl), updBlock_own s1 c _ fun _ => rfl,
      congrArg Block.wait (State.updBlock_block_self ..)⟩
  · exact ⟨_, congrArg Host.Outcome.next (runSlot_controlAlways h rfl), updBlock_own s1 c _ fun _ => rfl,
      congrArg Block.atTick (State.updBlock_block_self ..)⟩
  · obtain ⟨s2, hexec, hcode, hrest⟩ := bundleHalt_asks h code
    refine ⟨s2, hexec, hcode.trans ?_, hrest⟩
    cases (s1.block c.bix).haltCode <;> rfl
  · exact congrArg Host.Outcome.next (runSlot_alwaysIllegal h (loopChecks_deep hdeep))
  · exact congrArg Host.Outcome.next (runSlot_alwaysIllegal h (loopChecks_end hlen hend))

/-! ### TANK.BASE (03 R68, 05 R134) -/

section
variable {s s1 : State} {i : Issue} {c : Ctx} {m : BitVec 4} {base : BitVec 10}

theorem mem_maskCells {m : BitVec 4} {k : Nat} : k ∈ maskCells m ↔ k < 4 ∧ m.getLsbD k = true := by
  simp [maskCells]

theorem busyForBase_eq_true {x : Cell} {t : Nat} : x.busyForBase t = true ↔
    t < x.engFree ∨ (∃ l, x.lastLand = some l ∧ t ≤ l) ∨ ∃ q ∈ x.mops, q.land = none := by
  unfold Cell.busyForBase
  cases x.lastLand <;> simp [or_assoc]

/-- Cells changed one by one. -/
theorem foldl_updCell_cell (f : Cell → Cell) {l : List Nat} (hl : l.Nodup) (s : State) (x : Nat) :
    (l.foldl (fun s y => s.updCell y f) s).cell x = if x ∈ l then f (s.cell x) else s.cell x := by
  induction l generalizing s with
  | nil => rfl
  | cons y rest ih =>
    obtain ⟨hy, hrest⟩ := List.nodup_cons.1 hl
    rw [List.foldl_cons, ih hrest]
    by_cases hxy : x = y
    · subst hxy
      rw [if_neg hy, if_pos List.mem_cons_self, State.updCell_cell_self]
    · simp [hxy, State.updCell_cell_ne _ _ hxy]

theorem foldl_updCell_rest (f : Cell → Cell) (l : List Nat) (s : State) :
    { l.foldl (fun s y => s.updCell y f) s with cells := [] } = { s with cells := [] } := by
  refine List.foldlRecOn l _ (motive := fun t : State => { t with cells := [] } = { s with cells := [] }) rfl fun t ht y _ => ?_
  exact ht

theorem exec_tankBase (h : Issues s i 1 c s1)
    (hfree : ∀ k < 4, m.getLsbD k = true → (s1.cell (4 * c.bix + k)).busyForBase c.t = false) :
    exec (.tankBase i m base) s = .next ((c.cells m).foldl (fun s x => s.updCell x (·.setBase base)) s1) := by
  have hany : ((maskCells m).any fun k => (s1.cell (4 * c.bix + k)).busyForBase c.t) = false := by
    refine List.any_eq_false.2 fun k hk => ?_
    rw [hfree k (mem_maskCells.1 hk).1 (mem_maskCells.1 hk).2]
    exact Bool.false_ne_true
  refine congrArg Host.Outcome.next ((runSlot_control h (by rw [hany]; rfl)).trans ?_)
  exact (List.foldl_map (f := (4 * c.bix + ·)) (g := fun (s : State) x => s.updCell x (·.setBase base))).symm

theorem tankBase_busy {k : Nat} (h : Issues s i 1 c s1) (hk : k < 4) (hm : m.getLsbD k = true)
    (hbusy : (s1.cell (4 * c.bix + k)).busyForBase c.t = true) : exec (.tankBase i m base) s = .next (illegal s1 c 0x04) := by
  have hany : ((maskCells m).any fun k => (s1.cell (4 * c.bix + k)).busyForBase c.t) = true :=
    List.any_eq_true.2 ⟨k, mem_maskCells.2 ⟨hk, hm⟩, hbusy⟩
  exact congrArg Host.Outcome.next (runSlot_checkIllegal h rfl (by rw [hany]; rfl))

end

/-- Settles O17: the selected cells are set one by one, or one of them is busy. -/
theorem tankBase : Obligations.TankBase := by
  unfold Obligations.TankBase
  refine ⟨fun s s1 i c m base h hfree => ?_, fun s s1 i c m base k h hk hm hbusy => tankBase_busy h hk hm (busyForBase_eq_true.2 hbusy)⟩
  have hidle (k : Nat) (hk : k < 4) (hm : m.getLsbD k = true) : (s1.cell (4 * c.bix + k)).busyForBase c.t = false := by
    obtain ⟨heng, hland, hmops⟩ := hfree k hk hm
    refine Bool.eq_false_of_not_eq_true fun hbusy => ?_
    rcases busyForBase_eq_true.1 hbusy with hlt | ⟨l, hl, hle⟩ | ⟨q, hq, hnone⟩
    · exact Nat.not_lt.2 heng hlt
    · exact Nat.not_lt.2 hle (hland l hl)
    · exact hmops q hq hnone
  refine ⟨_, exec_tankBase h hidle, foldl_updCell_rest .., fun k hk hm => ?_, fun x hx => ?_, fun hm => ?_⟩
  · rw [foldl_updCell_cell _ (c.nodup_cells m), if_pos (Ctx.mem_cells.2 ⟨k, hk, hm, rfl⟩)]
    rfl
  · refine (foldl_updCell_cell _ (c.nodup_cells m) s1 x).trans (if_neg fun hmem => ?_)
    obtain ⟨k, hk, hm, heq⟩ := Ctx.mem_cells.1 hmem
    exact hx k hk hm heq
  · subst hm
    rfl

/-! ### Operations whose predicate is 0 (05 R128, R129) -/

theorem firstCause_vBits_int {f : VecF} (htype : f.type = 10) (h : plain2 f) : firstCause (vBits use2 allTypes f) = none :=
  firstCause_vBits (vUnused_plain2 h) (by rw [htype]; decide) (by rw [htype]; decide)

/-- Settles O18: nothing but the record of a register operation is left of an operation whose predicate is 0. -/
theorem suppressedOperations : Obligations.SuppressedOperations := by
  unfold Obligations.SuppressedOperations
  intro s s1 i c slot ho s2 hp
  have hskip {bits : List (Nat × Bool)} {checks : State → Ctx → List (Nat × Bool)} {eff skip : State → Ctx → State}
      (hb : firstCause bits = none) : (Host.Outcome.next (runSlot s i slot false bits checks eff skip) : Out) = .next (skip s2 c) :=
    congrArg Host.Outcome.next (runSlot_suppressed ho hp hb)
  refine ⟨?_, ?_, ?_, ?_, ?_, ?_⟩ <;> (intro hslot; subst hslot)
  · intro f htype hplain
    have hb := firstCause_vBits_int htype hplain
    exact ⟨hskip hb, hskip hb⟩
  · exact fun f rd => ⟨hskip rfl, hskip rfl⟩
  · exact fun m cl => ⟨hskip rfl, hskip rfl⟩
  · exact fun m base => hskip rfl
  · exact fun code => hskip rfl
  · intro d a b imm ins hins
    obtain ⟨eff, hexec⟩ : ∃ eff, exec ins s = .next (runAr s i eff) := by
      fin_cases hins
      exacts [⟨_, rfl⟩, ⟨_, rfl⟩, ⟨_, rfl⟩, ⟨_, rfl⟩]
    refine ⟨_, hexec.trans (hskip rfl), updBlock_own s2 c _ fun _ => rfl, fun t k => ?_⟩
    rw [State.updBlock_block_self, Claims.ar, arNow_putAr_suppressed]
    rfl

end Sys2Proof.Machine

/-! # The sequencer: loops take their cycles, and waits expire (05 R126, R130, R131) -/

namespace Sys2Proof.Machine

/-! ### One bundle (05 R130, R131) -/

section
variable {b : Block} {t fuel : Nat}

theorem seqTo_reached (fuel : Nat) (h : t ≤ b.cycle) : seqTo fuel b t = (b, none) := by
  cases fuel with
  | zero => rfl
  | succ fuel => simp [seqTo, h]

theorem seqTo_step (htick : b.atTick = false) (hcycle : b.cycle < t) (haddr : (seqNext b).addr ≤ 8191)
    (hstream : (seqNext b).addr < b.streamLen) : seqTo (fuel + 1) b t = seqTo fuel (seqNext b) t := by
  simp [seqTo, htick, Nat.not_le.2 hcycle, Nat.not_lt.2 haddr, Nat.not_le.2 hstream]

/-- The bundle after one that opens no loop, outside every loop. -/
theorem seqNext_plain (hopen : b.opening = none) (hloops : b.loops = []) :
    (seqNext b).addr = b.addr + 1 ∧ (seqNext b).cycle = b.cycle + 1 + b.wait ∧ (seqNext b).wait = 0 := by
  simp [seqNext, hopen, hloops, closeLoops]

/-- Loops that end beyond an address stay open there. -/
theorem closeLoops_beyond {l : List Loop} {a : Nat} (h : ∀ x ∈ l, a < x.endA) : closeLoops l a = (l, a + 1) := by
  cases l with
  | nil => rfl
  | cons x rest => exact if_neg (h x List.mem_cons_self).ne'

end

/-! ### A loop (05 R130) -/

/-- A block in the body of a loop from `start` to `e`, with `left` iterations left and the loops `outer` around it: it issues
the bundle at `addr` in cycle `cyc`. -/
structure Looping (outer : List Loop) (start e len left addr cyc : Nat) (b : Block) : Prop where
  atTick : b.atTick = false
  opening : b.opening = none
  wait : b.wait = 0
  addr : b.addr = addr
  cycle : b.cycle = cyc
  stream : b.streamLen = len
  loops : ∃ idx, b.loops = ⟨start, e, left, idx⟩ :: outer

/-- A block that has left a loop to `e` in cycle `cyc`, with the loops `outer` still open. -/
structure LoopLeft (outer : List Loop) (e cyc : Nat) (b : Block) : Prop where
  addr : b.addr = e + 1
  cycle : b.cycle = cyc
  loops : b.loops = outer
  opening : b.opening = none

section
variable {outer : List Loop} {start e len left addr cyc t : Nat} {b : Block}

/-- The bundle after one that opens no loop and asks for no wait. -/
theorem Looping.seqNext_eq (h : Looping outer start e len left addr cyc b) {l : List Loop} {a : Nat}
    (hclose : closeLoops b.loops addr = (l, a)) : (seqNext b).atTick = false ∧ (seqNext b).opening = none ∧ (seqNext b).wait = 0 ∧
      (seqNext b).addr = a ∧ (seqNext b).cycle = cyc + 1 ∧ (seqNext b).streamLen = len ∧ (seqNext b).loops = l := by
  have hr : closeLoops b.loops b.addr = (l, a) := h.addr ▸ hclose
  refine ⟨h.atTick, rfl, rfl, ?_, ?_, h.stream, ?_⟩
  · simp only [seqNext, h.opening, hr]
  · simp only [seqNext, h.wait, h.cycle]
  · simp only [seqNext, h.opening, hr]

theorem Looping.inBody (h : Looping outer start e len left addr cyc b) (haddr : addr < e) :
    Looping outer start e len left (addr + 1) (cyc + 1) (seqNext b) := by
  obtain ⟨idx, hloops⟩ := h.loops
  have hclose : closeLoops b.loops addr = (⟨start, e, left, idx⟩ :: outer, addr + 1) := by
    rw [hloops]
    exact if_neg haddr.ne'
  obtain ⟨h1, h2, h3, h4, h5, h6, h7⟩ := h.seqNext_eq hclose
  exact ⟨h1, h2, h3, h4, h5, h6, idx, h7⟩

theorem Looping.again (h : Looping outer start e len (left + 2) e cyc b) :
    Looping outer start e len (left + 1) start (cyc + 1) (seqNext b) := by
  obtain ⟨idx, hloops⟩ := h.loops
  have hclose : closeLoops b.loops e = (⟨start, e, left + 1, idx + 1⟩ :: outer, start) := by
    rw [hloops]
    simp [closeLoops]
  obtain ⟨h1, h2, h3, h4, h5, h6, h7⟩ := h.seqNext_eq hclose
  exact ⟨h1, h2, h3, h4, h5, h6, _, h7⟩

theorem Looping.leaves (h : Looping outer start e len 1 e cyc b) (houter : ∀ l ∈ outer, e < l.endA) :
    LoopLeft outer e (cyc + 1) (seqNext b) := by
  obtain ⟨idx, hloops⟩ := h.loops
  have hclose : closeLoops b.loops e = (outer, e + 1) := by
    rw [hloops, ← closeLoops_beyond houter]
    simp [closeLoops]
  obtain ⟨-, h2, -, h4, h5, -, h7⟩ := h.seqNext_eq hclose
  exact ⟨h4, h5, h7, h2⟩

/-- The rest of a loop: what is left of this iteration, and the iterations after it. -/
theorem Looping.seqTo (hstart : start ≤ e) (he : e < 8191) (hlen : e + 1 < len) (houter : ∀ l ∈ outer, e < l.endA) (fuel : Nat)
    (h : Looping outer start e len (left + 1) addr cyc b) (haddr : addr ≤ e) (ht : t = cyc + left * (e + 1 - start) + (e + 1 - addr))
    (hfuel : t - cyc < fuel) : (seqTo fuel b t).2 = none ∧ LoopLeft outer e t (seqTo fuel b t).1 := by
  induction fuel generalizing b left addr cyc with
  | zero => exact absurd hfuel (Nat.not_lt_zero _)
  | succ fuel ih =>
    have hlt : cyc < t := by omega
    have hgo (haddr' : (seqNext b).addr ≤ e + 1) : Machine.seqTo (fuel + 1) b t = Machine.seqTo fuel (seqNext b) t :=
      seqTo_step h.atTick (h.cycle ▸ hlt) (by omega) (by rw [h.stream]; omega)
    rcases Nat.lt_or_eq_of_le haddr with hbody | rfl
    · have hnext := h.inBody hbody
      rw [hgo (by rw [hnext.addr]; omega)]
      exact ih hnext hbody (by omega) (by omega)
    · cases left with
      | zero =>
        have hnext := h.leaves houter
        have hend : t = cyc + 1 := by omega
        rw [hgo hnext.addr.le, seqTo_reached fuel (by rw [hnext.cycle, hend])]
        exact ⟨rfl, hend ▸ hnext⟩
      | succ left =>
        have hnext := h.again
        rw [hgo (by rw [hnext.addr]; omega)]
        refine ih hnext hstart ?_ (by omega)
        rw [ht, Nat.succ_mul]
        omega

end

/-- The bundle after one that opens a loop of at least one iteration. -/
theorem looping_of_opening {b : Block} {e n : Nat} (htick : b.atTick = false) (hopen : b.opening = some (e, n + 1)) (hwait : b.wait = 0) :
    Looping b.loops (b.addr + 1) e b.streamLen (n + 1) (b.addr + 1) (b.cycle + 1) (seqNext b) where
  atTick := htick
  opening := rfl
  wait := rfl
  addr := by simp [seqNext, hopen]
  cycle := by simp [seqNext, hwait]
  stream := rfl
  loops := ⟨0, by simp [seqNext, hopen]⟩

/-- Settles O14: the sequencer goes through the body once for each iteration, a bundle in each cycle. -/
theorem loopsTakeTheirCycles : Obligations.LoopsTakeTheirCycles := by
  unfold Obligations.LoopsTakeTheirCycles
  refine ⟨fun b e n htick hopen hwait hn hlt he hlen houter => ?_, fun b e hopen hwait houter => ?_, fun b hopen hloops => ?_⟩
  · obtain ⟨n, rfl⟩ := Nat.exists_eq_add_of_le' hn
    have hnext := looping_of_opening htick hopen hwait
    have ht : b.cycle + 1 + (n + 1) * (e - b.addr) = b.cycle + 1 + n * (e + 1 - (b.addr + 1)) + (e + 1 - (b.addr + 1)) := by
      rw [Nat.add_sub_add_right, Nat.succ_mul, ← Nat.add_assoc]
    intro t r
    have hr : r = seqTo (t - b.cycle) (seqNext b) t :=
      seqTo_step htick (by omega) (by rw [hnext.addr]; omega) (by rw [hnext.addr]; omega)
    obtain ⟨hnone, hleft⟩ := hnext.seqTo (Nat.succ_le_of_lt hlt) he hlen houter (t - b.cycle) (Nat.succ_le_of_lt hlt) ht (by omega)
    rw [hr]
    exact ⟨hnone, hleft.addr, hleft.cycle, hleft.loops, hleft.opening⟩
  · simp [seqNext, hopen, hwait, closeLoops_beyond houter]
  · exact seqNext_plain hopen hloops

/-! ### A wait (05 R126, R131) -/

/-- Where the cycle reached is the one after the wait, the sequencer takes one step. -/
theorem seqTo_afterWait {b : Block} {cycle : Nat} (htick : b.atTick = false) (hopen : b.opening = none) (hloops : b.loops = [])
    (hcycle : b.cycle + 1 + b.wait = cycle) (haddr : b.addr + 1 < 8192) (hstream : b.addr + 1 < b.streamLen) :
    ∃ b', seqTo (cycle - b.cycle + 1) b cycle = (b', none) ∧ b'.cycle = cycle ∧ b'.addr = b.addr + 1 ∧ b'.wait = 0 ∧ b'.atTick = false := by
  obtain ⟨hnaddr, hncycle, hnwait⟩ := seqNext_plain hopen hloops
  have hreach : (seqNext b).cycle = cycle := hncycle.trans hcycle
  have hstep : seqTo (cycle - b.cycle + 1) b cycle = seqTo (cycle - b.cycle) (seqNext b) cycle :=
    seqTo_step htick (by omega) (by omega) (by omega)
  exact ⟨_, hstep.trans (seqTo_reached _ hreach.ge), hreach, hnaddr, hnwait, htick⟩

/-- A block that is brought to a cycle, and meets no sequencer fault. -/
theorem passTo_seqTo {s : State} {pid lg cycle bix : Nat} {b b' : Block} (hrun : runningBlock s pid lg = some bix)
    (hb : ((advanceRegion s pid bix cycle).block bix).prune cycle = b) (hseq : seqTo (cycle - b.cycle + 1) b cycle = (b', none)) :
    passTo s pid lg cycle = (advanceRegion s pid bix cycle).setBlock bix b' := by
  simp only [passTo, hrun, hb, hseq]

/-- Settles O15: the block takes one step to the next bundle, whose cycle is the one reached. -/
theorem waitsExpire : Obligations.WaitsExpire := by
  unfold Obligations.WaitsExpire
  intro s pid lg cycle bix hrun
  generalize hu : advanceRegion s pid bix cycle = u
  intro b htick hopen hloops hcycle haddr hstream
  obtain ⟨b', hseq, hreach, hnaddr, hnwait, hntick⟩ := seqTo_afterWait (b := b.prune cycle) htick hopen hloops hcycle haddr hstream
  refine ⟨u.setBlock bix b', congrArg Host.Outcome.next (hu ▸ passTo_seqTo hrun (by rw [hu]) hseq), ?_⟩
  rw [State.setBlock_block_self]
  exact ⟨hreach, hnaddr, hnwait, hntick, rfl⟩

end Sys2Proof.Machine
